-- ==== Sys2Proof/Word.lean ====
section
/-! DEFINITION. The word types of the machine and their plainest arithmetic (R5, R7). -/

namespace Sys2Proof

/-- One byte. -/
abbrev Byte := BitVec 8
/-- A scalar register, a control register, a slot of a bundle (R11, R61). -/
abbrev Word := BitVec 64
/-- An FP32 or INT32 element, an accumulator element (R16, R37). -/
abbrev Word32 := BitVec 32
/-- A mask register (R12). -/
abbrev Mask := BitVec 256
/-- One 32-byte row of a vector register (R13). -/
abbrev VRow := BitVec 256
/-- A vector register: 8 rows of 32 bytes (R13). -/
abbrev VReg := Vector VRow 8
/-- A virtual address (R174). -/
abbrev VAddr := BitVec 56

/-- One bit of a word, as a one-bit field. -/
def bitOf {n : Nat} (x : BitVec n) (i : Nat) : Bool := x.getLsbD i

/-- `x<h:l>` of R7, `w = h - l + 1` bits from bit `l` up. -/
def bits {n : Nat} (x : BitVec n) (l w : Nat) : BitVec w := x.extractLsb' l w

end Sys2Proof
end

