-- ==== Sys2Proof/Machine/Crypto.lean ====
section
/-! DEFINITION. The functions of other standards that the spec names and fixes: CRC-32 (R339), AES-256-XTS
(R344) and SHAKE256 (R62, R365). Their definitions are taken from those standards (PRESUMED, log 7). -/

namespace Sys2Proof.Machine

open Sys2Proof

/-! ### CRC-32 of the IEEE 802.3 polynomial -/

/-- One bit of the reflected CRC. -/
def crcBit (c : BitVec 32) : BitVec 32 := if c.getLsbD 0 then (c >>> 1) ^^^ 0xEDB88320 else c >>> 1

/-- `n` bits of the CRC. -/
def crcBits : Nat → BitVec 32 → BitVec 32
  | 0, c => c
  | n + 1, c => crcBits n (crcBit c)

/-- CRC-32 of a list of bytes. (PRESUMED, log 7) -/
def crc32 (l : List Byte) : BitVec 32 :=
  l.foldl (fun c b => crcBits 8 (c ^^^ b.setWidth 32)) 0xFFFFFFFF ^^^ 0xFFFFFFFF

/-! ### AES-256 -/

/-- Multiplication by x in GF(2^8) of AES. -/
def xtime (a : Byte) : Byte := (a <<< 1) ^^^ (if a.getLsbD 7 then 0x1B else 0)

/-- Multiplication in GF(2^8), over the `n` low bits of `b`. -/
def gmul : Nat → Byte → Byte → Byte
  | 0, _, _ => 0
  | n + 1, a, b => (if b.getLsbD 0 then a else 0) ^^^ gmul n (xtime a) (b >>> 1)

/-- The inverse in GF(2^8), 0 for 0: the 254th power. -/
def ginv (a : Byte) : Byte :=
  let m := gmul 8
  let a2 := m a a
  let a3 := m a2 a
  let a6 := m a3 a3
  let a12 := m a6 a6
  let a15 := m a12 a3
  let a30 := m a15 a15
  let a60 := m a30 a30
  let a120 := m a60 a60
  let a126 := m a120 a6
  let a127 := m a126 a
  m a127 a127

/-- S-box and its inverse. -/
def sbox (a : Byte) : Byte :=
  let b := ginv a
  b ^^^ b.rotateLeft 1 ^^^ b.rotateLeft 2 ^^^ b.rotateLeft 3 ^^^ b.rotateLeft 4 ^^^ 0x63
def sboxInv (a : Byte) : Byte := ginv (a.rotateLeft 1 ^^^ a.rotateLeft 3 ^^^ a.rotateLeft 6 ^^^ 0x05)

/-- Bytewise exclusive or of two lists. -/
def xorBytes (a b : List Byte) : List Byte := List.zipWith (· ^^^ ·) a b

/-- The next word of the key schedule after `i` words, newest first. -/
def nextKeyWord (ws : List (List Byte)) (i : Nat) (rcon : Byte) : List Byte :=
  let prev := ws.getD 0 []
  let t :=
    if i % 8 = 0 then xorBytes ((prev.drop 1 ++ prev.take 1).map sbox) [rcon, 0, 0, 0]
    else if i % 8 = 4 then prev.map sbox
    else prev
  xorBytes (ws.getD 7 []) t

/-- The key schedule: `n` more words, newest first. -/
def expandKey : Nat → Nat → Byte → List (List Byte) → List (List Byte)
  | 0, _, _, ws => ws
  | n + 1, i, rcon, ws =>
    expandKey n (i + 1) (if i % 8 = 0 then xtime rcon else rcon) (nextKeyWord ws i rcon :: ws)

/-- The fifteen round keys of a 32-byte key. -/
def roundKeys (key : List Byte) : List (List Byte) :=
  let w := (expandKey 52 8 1 ((List.range 8).map fun i => (key.drop (4 * i)).take 4).reverse).reverse
  (List.range 15).map fun r => ((w.drop (4 * r)).take 4).flatten

/-- Row shift of the sixteen bytes, columns first. -/
def shiftRows (s : List Byte) : List Byte :=
  (List.range 16).map fun i => s.getD ((i % 4) + 4 * ((i / 4 + i % 4) % 4)) 0
def shiftRowsInv (s : List Byte) : List Byte :=
  (List.range 16).map fun i => s.getD ((i % 4) + 4 * ((i / 4 + 4 - i % 4) % 4)) 0

/-- Column mixing by the circulant of four coefficients. -/
def mixWith (k : List Byte) (s : List Byte) : List Byte :=
  (List.range 16).map fun i => (List.range 4).foldl
    (fun x j => x ^^^ gmul 8 (s.getD (4 * (i / 4) + j) 0) (k.getD ((j + 4 - i % 4) % 4) 0)) 0

/-- AES-256 on one block. (PRESUMED, log 7) -/
def aesEncrypt (key block : List Byte) : List Byte :=
  match roundKeys key with
  | [] => block
  | k0 :: ks =>
    let s := (ks.take 13).foldl (fun s k => xorBytes (mixWith [2, 3, 1, 1] (shiftRows (s.map sbox))) k)
      (xorBytes block k0)
    xorBytes (shiftRows (s.map sbox)) (ks.getD 13 [])

/-- The inverse of AES-256 on one block. -/
def aesDecrypt (key block : List Byte) : List Byte :=
  match roundKeys key with
  | [] => block
  | k0 :: ks =>
    let s := (shiftRowsInv (xorBytes block (ks.getD 13 []))).map sboxInv
    let s := (ks.take 13).reverse.foldl
      (fun s k => (shiftRowsInv (mixWith [14, 11, 13, 9] (xorBytes s k))).map sboxInv) s
    xorBytes s k0

/-! ### XTS (R344) -/

/-- A number as little-endian bytes. -/
def xtsBytes (n x : Nat) : List Byte := (List.range n).map fun i => BitVec.ofNat 8 (x / 256 ^ i)

/-- The tweak of the next block: multiplication by x in GF(2^128). -/
def xtsNext (t : List Byte) : List Byte :=
  let x := t.foldr (fun b a => b.toNat + 256 * a) 0 * 2
  xtsBytes 16 (if 2 ^ 128 ≤ x then (x % 2 ^ 128).xor 0x87 else x)

/-- The blocks of a line under their tweaks. -/
def xtsBlocks (f : List Byte → List Byte) : Nat → List Byte → List Byte → List Byte
  | 0, _, _ => []
  | n + 1, t, l => xorBytes (f (xorBytes (l.take 16) t)) t ++ xtsBlocks f n (xtsNext t) (l.drop 16)

/-- AES-256-XTS of one 64-byte line: 64-byte key, tweak. (PRESUMED, log 7) -/
def xtsEncrypt (key : List Byte) (tweak : Nat) (line : List Byte) : List Byte :=
  xtsBlocks (aesEncrypt (key.take 32)) 4 (aesEncrypt (key.drop 32) (xtsBytes 16 tweak)) line
def xtsDecrypt (key : List Byte) (tweak : Nat) (line : List Byte) : List Byte :=
  xtsBlocks (aesDecrypt (key.take 32)) 4 (aesEncrypt (key.drop 32) (xtsBytes 16 tweak)) line

/-! ### SHAKE256 -/

/-- Round constants of Keccak-f[1600]. -/
def keccakRc : List (BitVec 64) :=
  [0x0000000000000001, 0x0000000000008082, 0x800000000000808A, 0x8000000080008000,
   0x000000000000808B, 0x0000000080000001, 0x8000000080008081, 0x8000000000008009]
  ++ [0x000000000000008A, 0x0000000000000088, 0x0000000080008009, 0x000000008000000A,
   0x000000008000808B, 0x800000000000008B, 0x8000000000008089, 0x8000000000008003]
  ++ [0x8000000000008002, 0x8000000000000080, 0x000000000000800A, 0x800000008000000A,
   0x8000000080008081, 0x8000000000008080, 0x0000000080000001, 0x8000000080008008]

/-- Rotation of lane x + 5 y. -/
def keccakRot : List Nat :=
  [0, 1, 62, 28, 27, 36, 44, 6, 55, 20, 3, 10, 43] ++ [25, 39, 41, 45, 15, 21, 8, 18, 2, 61, 56, 14]

/-- One round of Keccak-f[1600] on its 25 lanes. -/
def keccakRound (a : List (BitVec 64)) (rc : BitVec 64) : List (BitVec 64) :=
  let c := (List.range 5).map fun x =>
    (List.range 5).foldl (fun v y => v ^^^ a.getD (x + 5 * y) 0) (0 : BitVec 64)
  let d := (List.range 5).map fun x => c.getD ((x + 4) % 5) 0 ^^^ (c.getD ((x + 1) % 5) 0).rotateLeft 1
  let a := a.mapIdx fun i v => (v ^^^ d.getD (i % 5) 0).rotateLeft (keccakRot.getD i 0)
  let b := (List.range 25).map fun i =>
    let x := i % 5
    let y := i / 5
    a.getD ((x + 3 * y) % 5 + 5 * x) 0
  (List.range 25).map fun i =>
    let x := i % 5
    let y := i / 5
    let v := b.getD i 0 ^^^ (~~~(b.getD ((x + 1) % 5 + 5 * y) 0) &&& b.getD ((x + 2) % 5 + 5 * y) 0)
    if i = 0 then v ^^^ rc else v

/-- Keccak-f[1600]. -/
def keccakF (a : List (BitVec 64)) : List (BitVec 64) := keccakRc.foldl keccakRound a

/-- Absorbs blocks of 136 bytes. -/
def keccakAbsorb : Nat → List Byte → List (BitVec 64) → List (BitVec 64)
  | 0, _, a => a
  | n + 1, l, a =>
    let a := a.mapIdx fun i v =>
      if i < 17 then v ^^^ BitVec.ofNat 64 (((l.drop (8 * i)).take 8).foldr (fun b x => b.toNat + 256 * x) 0) else v
    keccakAbsorb n (l.drop 136) (keccakF a)

/-- The first `n` bytes, at most 136, that Keccak[512] gives for a message whose suffix and first padding bits
are `d`. -/
def sponge (n : Nat) (d : Byte) (l : List Byte) : List Byte :=
  let z := 135 - l.length % 136
  let padded := if z = 0 then l ++ [d ||| 0x80] else l ++ [d] ++ List.replicate (z - 1) 0 ++ [0x80]
  let a := keccakAbsorb (padded.length / 136) padded (List.replicate 25 0)
  ((a.take 17).flatMap fun v => xtsBytes 8 v.toNat).take n

/-- The first 64 bytes of SHAKE256. (PRESUMED, log 7) -/
def shake256 (l : List Byte) : List Byte := sponge 64 0x1F l

/-! ### KMAC256 of NIST SP 800-185 (R345) -/

/-- The bytes of a number, the most significant first, without leading zeros but at least one. -/
def bigBytes (x : Nat) : List Byte :=
  let n := max 1 ((Nat.log2 x) / 8 + 1)
  (xtsBytes n x).reverse

/-- left_encode and right_encode. -/
def leftEncode (x : Nat) : List Byte := BitVec.ofNat 8 (bigBytes x).length :: bigBytes x
def rightEncode (x : Nat) : List Byte := bigBytes x ++ [BitVec.ofNat 8 (bigBytes x).length]

/-- encode_string. -/
def encodeString (l : List Byte) : List Byte := leftEncode (8 * l.length) ++ l

/-- bytepad to a multiple of 136. -/
def bytePad (l : List Byte) : List Byte :=
  let x := leftEncode 136 ++ l
  x ++ List.replicate ((136 - x.length % 136) % 136) 0

/-- The bytes of an ASCII string. -/
def asciiBytes (s : String) : List Byte := s.toList.map fun c => BitVec.ofNat 8 c.toNat

/-- The first 64 bytes of KMAC256 with a customisation string, for an output of `bits` bits: key, message.
(PRESUMED, log 7) -/
def kmac256 (custom : String) (bits : Nat) (key msg : List Byte) : List Byte :=
  sponge 64 0x04 (bytePad (encodeString (asciiBytes "KMAC") ++ encodeString (asciiBytes custom))
    ++ bytePad (encodeString key) ++ msg ++ rightEncode bits)

end Sys2Proof.Machine
end

