-- ==== Sys2Proof/Machine/Ed448.lean ====
section
/-! DEFINITION. Ed448 signatures (R3), as RFC 8032 defines them, over a digest as the message. (PRESUMED, log 7) -/

namespace Sys2Proof.Machine

open Sys2Proof

/-! ### The field and the curve -/

/-- The field's prime, 2^448 - 2^224 - 1. -/
def edP : Nat := 2 ^ 448 - 2 ^ 224 - 1

/-- The order of the base point. -/
def edL : Nat := 2 ^ 446 - 13818066809895115352007386748515426880336692474882178609894547503885

/-- b to the power e in the field, for an exponent of at most 448 bits. -/
def edPow (b e : Nat) : Nat :=
  (List.range 448).foldr (fun i r => if e.testBit i then r * r % edP * b % edP else r * r % edP) 1

/-- The constant d = -39081 of x² + y² = 1 + d x² y². -/
def edD : Nat := edP - 39081

/-- A point in projective coordinates. -/
structure EdPoint where
  x : Nat
  y : Nat
  z : Nat
  deriving DecidableEq, Repr

/-- The neutral point. -/
def EdPoint.zero : EdPoint := ⟨0, 1, 1⟩

/-- The sum of two points. -/
def EdPoint.add (p q : EdPoint) : EdPoint :=
  let a := p.z * q.z % edP
  let b := a * a % edP
  let c := p.x * q.x % edP
  let d := p.y * q.y % edP
  let e := edD * c % edP * d % edP
  let f := (b + edP - e) % edP
  let g := (b + e) % edP
  let h := (p.x + p.y) * (q.x + q.y) % edP
  ⟨a * f % edP * (h + 2 * edP - c - d) % edP, a * g % edP * (d + edP - c) % edP, f * g % edP⟩

/-- n times a point, for n below 2^456. -/
def EdPoint.mul (n : Nat) (p : EdPoint) : EdPoint :=
  (List.range 456).foldr (fun i r => if n.testBit i then (r.add r).add p else r.add r) EdPoint.zero

/-- Two points are the same. -/
def EdPoint.same (p q : EdPoint) : Bool := p.x * q.z % edP == q.x * p.z % edP && p.y * q.z % edP == q.y * p.z % edP

/-- The base point. -/
def edBase : EdPoint :=
  { x := 22458004029592430018760433409989603624678964163256413424612546168695 * 10 ^ 67
      + 415467406032909029192869357953282578032075146446173674602635247710
    y := 29881921007848149267601793044393067343754404015408024209592824137233 * 10 ^ 67
      + 1506189835876003536878655418784733982303233503462500531545062832660
    z := 1 }

/-! ### Encodings -/

/-- The number that little-endian bytes give. -/
def edNat (l : List Byte) : Nat := l.foldr (fun b x => b.toNat + 256 * x) 0

/-- The 57 bytes of a point: y, and the low bit of x at the top. -/
def EdPoint.encode (p : EdPoint) : List Byte :=
  let i := edPow p.z (edP - 2)
  let x := p.x * i % edP
  xtsBytes 57 (p.y * i % edP + x % 2 * 2 ^ 455)

/-- The point that 57 bytes give, if they give one. -/
def EdPoint.decode (l : List Byte) : Option EdPoint :=
  let w := edNat l
  let y := w % 2 ^ 455
  let u := (y * y + edP - 1) % edP
  let v := (edD * (y * y % edP) + edP - 1) % edP
  let u2 := u * u % edP
  let v3 := v * v % edP * v % edP
  let x := u2 * u % edP * v % edP * edPow (u2 * u2 % edP * u % edP * v3 % edP) ((edP - 3) / 4) % edP
  if l.length ≠ 57 ∨ edP ≤ y ∨ v * (x * x % edP) % edP ≠ u ∨ (x = 0 ∧ w.testBit 455) then none
  else some ⟨if (x % 2 == 1) == w.testBit 455 then x else edP - x, y, 1⟩

/-! ### Signatures -/

/-- The hash of a signature as a scalar: 114 bytes of SHAKE256 with Ed448's domain string before the rest. -/
def edHash (l : List Byte) : Nat := edNat (sponge 114 0x1F (asciiBytes "SigEd448" ++ [0, 0] ++ l)) % edL

/-- The secret scalar of a private key, and the half of its hash that goes into a signature's nonce. -/
def edSecret (key : List Byte) : Nat × List Byte :=
  let h := sponge 114 0x1F key
  (edNat (h.take 55) / 4 * 4 % 2 ^ 440 + 2 ^ 447 + (edNat ((h.drop 55).take 1) % 128) * 2 ^ 440, h.drop 57)

/-- The public key of a private key. -/
def edPublic (key : List Byte) : List Byte := (EdPoint.mul (edSecret key).1 edBase).encode

/-- The 114 bytes of a signature by a private key. -/
def edSign (key msg : List Byte) : List Byte :=
  let s := edSecret key
  let r := edHash (s.2 ++ msg)
  let big := (EdPoint.mul r edBase).encode
  big ++ xtsBytes 57 ((r + edHash (big ++ edPublic key ++ msg) * s.1) % edL)

/-- A signature verifies under a public key. -/
def edVerify (key msg sig : List Byte) : Bool :=
  match EdPoint.decode key, EdPoint.decode (sig.take 57) with
  | some a, some r =>
    let n := edNat (sig.drop 57)
    sig.length == 114 && decide (n < edL)
      && ((EdPoint.mul 4 (EdPoint.mul n edBase)).same
        (EdPoint.mul 4 (r.add (EdPoint.mul (edHash (sig.take 57 ++ key ++ msg)) a))))
  | _, _ => false

end Sys2Proof.Machine
end

