-- ==== Sys2Proof/Syntax.lean ====
section
/-! DEFINITION. The operations of the machine: one constructor of `Instr` for each row of the opcode
table. Slot operations carry the operand fields of their slot (R81 to R86, R196); the events of the
table carry nothing: what tells one occurrence from another is an `Occ` that the machine holds. -/

namespace Sys2Proof

/-- The SC slot's operand fields (R81). -/
structure ScF where
  sd : BitVec 6
  sa : BitVec 6
  sb : BitVec 6
  gk : BitVec 4
  i : Bool
  imm : BitVec 32
  deriving DecidableEq, Repr

/-- The vector slots' operand fields (R82). -/
structure VecF where
  vd : BitVec 6
  va : BitVec 6
  vb : BitVec 6
  vc : BitVec 6
  gm : BitVec 4
  ty : BitVec 3
  z : Bool
  ro : BitVec 3
  fn : BitVec 4
  imm : BitVec 16
  deriving DecidableEq, Repr

/-- The MX slot's operand fields (R83). -/
structure MxF where
  bank : BitVec 5
  row : BitVec 7
  tile : BitVec 7
  nr : BitVec 7
  fmt : BitVec 3
  scl : BitVec 6
  tile2 : BitVec 7
  tr : Bool
  kc : BitVec 8
  deriving DecidableEq, Repr

/-- The LD and ST slots' operand fields (R84). -/
structure LsF where
  rg : BitVec 6
  br : BitVec 6
  ofs : BitVec 24
  sr : BitVec 6
  ty : BitVec 3
  gm : BitVec 4
  deriving DecidableEq, Repr

/-- The CP slot's operand fields (R85); `tk3` is the selector SEL on the commands R173 marks so. -/
structure CpF where
  tko : BitVec 6
  tk1 : BitVec 6
  tk2 : BitVec 6
  tk3 : BitVec 6
  mod : BitVec 12
  ra : BitVec 6
  rb : BitVec 6
  rc : BitVec 6
  deriving DecidableEq, Repr

/-- A predicate-logic operation's masks (R71). -/
structure PlF where
  kd : BitVec 4
  ka : BitVec 4
  kb : BitVec 4
  deriving DecidableEq, Repr

/-- A barrier object: scope 1 `core` to 5 `pod`, and its index (R26, R196). -/
structure ObjName where
  scope : BitVec 3
  index : BitVec 6
  deriving DecidableEq, Repr

/-- LIVE's declaration (R196, R215). -/
structure LiveF where
  vcnt : BitVec 7
  shi : BitVec 6
  k : Bool
  t : Bool
  c : Bool
  w : Bool
  a : Bool
  spx : BitVec 5
  deriving DecidableEq, Repr

/-- What a patrol scrub finds in a line (R230, R236). -/
inductive ScrubResult where
  | clean | corrected | uncorrectable | readCorrected
  deriving DecidableEq, Repr

/-- What a router's check of a flit finds (R296): a corrected word, an uncorrectable payload word, an
uncorrectable header. -/
inductive FlitError where
  | corrected | payload | header
  deriving DecidableEq, Repr

/-- Who asks for a freeze (R329): an overrun is an event of its own. -/
inductive FreezeWhy where
  | service | nddb
  deriving DecidableEq, Repr

/-- A context image of `.data` bytes in a load request (R362, code 0x110). -/
structure DataImage where
  va : VAddr
  bytes : List Byte
  deriving DecidableEq, Repr

/-- One range of a context's export table (R347, R362). -/
structure OpenRange where
  base : Nat
  size : Nat
  writable : Bool
  deriving DecidableEq, Repr

/-- One page of a map: its virtual address and its leaf entry in the layout of R240. (DEDUCED, log 33) -/
structure MapPage where
  va : VAddr
  entry : BitVec 64
  deriving DecidableEq, Repr

/-- The payload of the open-context request (R362, code 0x110). -/
structure OpenContextReq where
  asid : BitVec 16
  nmap : BitVec 8
  home : BitVec 8
  pcid : BitVec 16
  firstModule : BitVec 16
  lastModule : BitVec 16
  ranges : List OpenRange
  maps : List (List MapPage)
  images : List DataImage
  deriving DecidableEq, Repr

/-- The payload of the load-code-object request (R362, code 0x112): address and bytes of the object. -/
structure LoadCodeReq where
  asid : BitVec 16
  va : BitVec 64
  object : List Byte
  deriving DecidableEq, Repr

/-- One rule entry (R266), its fields in the table's order. -/
structure RuleEntry where
  tmpl : BitVec 8
  fpol : BitVec 8
  lr : BitVec 32
  b1 : BitVec 32
  b2 : BitVec 32
  eps : BitVec 32
  wd : BitVec 32
  clip : BitVec 32
  fscl : BitVec 32
  deriving DecidableEq, Repr

/-- The payload of the create-and-map request (R362, code 0x114), and the context it names. -/
structure CreateQueueReq where
  asid : BitVec 16
  qrk : BitVec 8
  slice : BitVec 32
  rsz : BitVec 32
  csz : BitVec 32
  ygr : BitVec 32
  nsave : BitVec 32
  ring : VAddr
  cring : VAddr
  die : BitVec 8
  deriving DecidableEq, Repr

/-- One entry of the load-records request (R362, code 0x117). -/
structure LoadRecordReq where
  va : VAddr
  kind : BitVec 8
  rule : BitVec 8
  e : BitVec 8
  exp : BitVec 32
  nrm : BitVec 64
  ntf : BitVec 64
  deriving DecidableEq, Repr

/-- A 72-byte link unit (R339): its trailer's fields and its flit. -/
structure LinkUnit where
  fseq : BitVec 12
  aseq : BitVec 12
  lt : BitVec 4
  flit : List Byte
  crc : BitVec 32
  deriving DecidableEq, Repr

/-- A data line of a Trepin packet: byte enables, integrity tag, cipher text (R342, R344). -/
structure PacketLine where
  en : BitVec 64
  tag : BitVec 64
  data : List Byte
  deriving DecidableEq, Repr

/-- A Trepin packet as it crosses a port (R342, R343): the plaintext header fields, whether its reserved
bits are zero, the data lines, and the header's tag. -/
structure Packet where
  dmod : BitVec 12
  smod : BitVec 12
  score : BitVec 10
  type : BitVec 8
  kix : Bool
  mc : Bool
  psn : Bool
  addr : BitVec 44
  pcid : BitVec 16
  cls : BitVec 4
  scope : BitVec 3
  pid : BitVec 32
  slot : BitVec 32
  aux : BitVec 32
  opnd : BitVec 64
  fcid : BitVec 56
  resZero : Bool
  lines : List PacketLine
  htag : BitVec 64
  deriving DecidableEq, Repr

/-- What tells one occurrence of an event from another: the operation, message, record, unit or request it is
about. (DESIGN CHOICE, log 1) -/
inductive Occ where
  | none
  /-- An operation of the matrix array, a command, a message, an arrival, a report, a save image. -/
  | num (n : Nat)
  /-- The run a yield point declares (R65, R78). -/
  | run (r : BitVec 23)
  | die (d : BitVec 2)
  /-- A flit whose OP is reserved (R294): where it stands and the source that sent it. -/
  | flit (die : BitVec 2) (router : BitVec 6) (plane : BitVec 2) (src : BitVec 9)
  /-- An error in a flit in transit, found by the router it stands at (R296). -/
  | flitError (mid seq : Nat) (what : FlitError)
  /-- A retry of a UCIe module (R307): die, gateway router, lane group, unit, port of the peer. -/
  | retry (die : BitVec 2) (router : BitVec 8) (lane : BitVec 4) (unit : BitVec 12) (peer : BitVec 8)
  | scrub (line : BitVec 44) (found : ScrubResult)
  | row (stack : BitVec 3) (pc : BitVec 6) (bank row : BitVec 16)
  | frame (f : BitVec 28)
  | context (asid : BitVec 16)
  | couchFault (asid : BitVec 16) (code : BitVec 8) (va : VAddr)
  | page (asid : BitVec 16) (va : VAddr)
  /-- A doorbell write of TAIL or CHEAD (R313). -/
  | ring (q : BitVec 14) (x : BitVec 32)
  | queue (q : BitVec 14)
  | core (id : BitVec 10)
  | freeze (core : BitVec 10) (why : FreezeWhy)
  | unit (port : BitVec 4) (u : LinkUnit)
  | replay (port : BitVec 4) (first : BitVec 12)
  | port (p : BitVec 4)
  | packet (p : Packet)
  | group (g : BitVec 8) (valid : Bool) (dests : List (BitVec 12 × Nat))
  | key (peer : BitVec 12) (ix : Bool)
  | podTime (ns : BitVec 64) (err : Nat)
  /-- A host's request as it arrives: header and payload (R360). The requests below are what one comes to. -/
  | message (l : List Byte)
  /-- A host's request that waited, by its place among those that wait (R361, R368). -/
  | inbox (n : Nat)
  | openReq (r : OpenContextReq)
  | codeReq (r : LoadCodeReq)
  | rules (l : List (BitVec 6 × RuleEntry))
  | queueReq (r : CreateQueueReq)
  | keyReq (rotate : Bool) (peers : List (BitVec 12))
  | records (asid : BitVec 16) (l : List LoadRecordReq)
  | attest (asid : Option (BitVec 16)) (nonce : List Byte)
  | logRange (first : BitVec 64) (max : BitVec 32)
  | firmware (version : BitVec 64) (image : List Byte)
  | retireUnit (die : BitVec 2) (core : BitVec 8) (kind : BitVec 8)
  | drain (die dest : BitVec 2)
  | life (target : BitVec 8) (credential sig : List Byte)
  | peer (p : BitVec 12)
  deriving DecidableEq, Repr

/-- Every operation of the opcode table, in the table's order. -/
inductive Instr where
  -- SC slot (R87)
  | nop
  | add (f : ScF) | sub (f : ScF) | mul (f : ScF) | mulh (f : ScF)
  | div (f : ScF) | divu (f : ScF) | rem (f : ScF) | remu (f : ScF)
  | and (f : ScF) | or (f : ScF) | xor (f : ScF) | andn (f : ScF)
  | shl (f : ScF) | shr (f : ScF) | sar (f : ScF) | rot (f : ScF)
  | cmpeq (f : ScF) | cmplt (f : ScF) | cmpltu (f : ScF) | cmple (f : ScF)
  | sel (f : ScF) | min (f : ScF) | max (f : ScF) | lea (f : ScF)
  | movi (f : ScF) | movhi (f : ScF) | popc (f : ScF) | clz (f : ScF) | ctz (f : ScF)
  | br (f : ScF) | brc (f : ScF) | call (f : ScF) | ret (f : ScF) | jr (f : ScF) | loop (f : ScF)
  | movcr (f : ScF) | movrc (f : ScF) | movsk (f : ScF) | movks (f : ScF)
  | shape (f : ScF) | getid (f : ScF) | aalloc (f : ScF) | afree (f : ScF)
  | tlook (f : ScF) | tdef (f : ScF) | tstate (f : ScF) | tfree (f : ScF)
  -- VA and VB slots (R88)
  | vnop
  | vadd (f : VecF) | vsub (f : VecF) | vmul (f : VecF) | vfma (f : VecF) | vfms (f : VecF)
  | vmin (f : VecF) | vmax (f : VecF) | vabs (f : VecF) | vneg (f : VecF)
  | vrcp (f : VecF) | vrsq (f : VecF) | vexp2 (f : VecF) | vlog2 (f : VecF) | vtanh (f : VecF)
  | vsin (f : VecF) | vcos (f : VecF) | vcmul (f : VecF) | vcfma (f : VecF)
  | viadd (f : VecF) | visub (f : VecF) | vimul (f : VecF) | vimin (f : VecF) | vimax (f : VecF)
  | vshl (f : VecF) | vshr (f : VecF) | vsar (f : VecF)
  | vand (f : VecF) | vor (f : VecF) | vxor (f : VecF)
  | vcmpeq (f : VecF) | vcmplt (f : VecF) | vcmple (f : VecF) | vclass (f : VecF)
  | vsel (f : VecF) | vmov (f : VecF) | vbcst (f : VecF) | vmovs (f : VecF) | vmovsX (f : VecF)
  | viota (f : VecF) | vsplat (f : VecF)
  | vcvt (f : VecF) | vqnt (f : VecF) | vdq (f : VecF) | vcbld (f : VecF)
  | vredr (f : VecF) | vredc (f : VecF) | vtrn (f : VecF) | vrot (f : VecF) | vperm (f : VecF)
  | vamrd (f : VecF) | vamwr (f : VecF) | vamadd (f : VecF)
  | vscale (f : VecF) | vrnd (f : VecF) | vpopk (f : VecF) | vclamp (f : VecF)
  -- predicate logic (R71)
  | kand (f : PlF) | kor (f : PlF) | kxor (f : PlF) | kandn (f : PlF) | korn (f : PlF)
  | knot (f : PlF) | kmov (f : PlF)
  -- MX slot (R89) and its events (R163)
  | mnop
  | mldw (f : MxF) | mldwt (f : MxF) | mswap (f : MxF) | mmul (f : MxF) | mmulz (f : MxF)
  | mmult (f : MxF) | mzero (f : MxF) | mdrain (f : MxF) | mdraint (f : MxF)
  | mcbl (f : MxF) | mclr (f : MxF) | mfence (f : MxF) | mstat (f : MxF)
  | mxOperationComplete | drainComplete
  -- LD and ST slots (R89)
  | lnop
  | vld (f : LsF) | vldt (f : LsF) | sld (f : LsF) | vldg (f : LsF) | kld (f : LsF)
  | stSnop
  | vst (f : LsF) | vstt (f : LsF) | sst (f : LsF) | vsts (f : LsF) | kst (f : LsF)
  -- CP slot (R90) and the engine's events (R172, R175, R328)
  | cnop
  | copy (f : CpF) | copyt (f : CpF) | spillt (f : CpF) | gath (f : CpF) | scat (f : CpF)
  | amoAdd32 (f : CpF) | amoAdd64 (f : CpF) | amoMin (f : CpF) | amoMax (f : CpF)
  | amoMinu (f : CpF) | amoMaxu (f : CpF) | amoAnd (f : CpF) | amoOr (f : CpF)
  | amoXor (f : CpF) | amoSwap (f : CpF) | amoFxa (f : CpF)
  | cas (f : CpF) | casw (f : CpF) | dcas (f : CpF) | enq (f : CpF) | chase (f : CpF)
  | put (f : CpF) | get (f : CpF) | fenf (f : CpF) | lxfer (f : CpF) | lxred (f : CpF)
  | bvec (f : CpF) | pcon (f : CpF)
  | preadMst (f : CpF) | preadWbf (f : CpF) | preadWf8 (f : CpF) | preadMom (f : CpF)
  | pstat (f : CpF) | mapq (f : CpF) | pref (f : CpF) | mset (f : CpF)
  | tdec (f : CpF) | tdecH (f : CpF) | xlinv (f : CpF)
  | engineCommandStart | engineCommandComplete
  | engineFault | faultRestart
  -- SY slot (R91, R196)
  | sySnop
  | wait (kd : BitVec 4) (obj : ObjName) (sb : BitVec 6)
  | arrive (obj : ObjName) (sa : BitVec 6)
  | arriveHandle (h : BitVec 3) (sa : BitVec 6)
  | bari (obj : ObjName) (sa : BitVec 6) (e : Bool) (h : BitVec 3)
  | bariAtt (obj : ObjName)
  | twait (a b c : BitVec 6)
  | ttest (kd : BitVec 4) (a : BitVec 6)
  | fence (mask : BitVec 16) (scope : BitVec 3)
  | pnext (kd : BitVec 4) (rf : Bool) (r : BitVec 6) (n : BitVec 6)
  | padv (tko : BitVec 6) (rf : Bool) (r : BitVec 6) (n : BitVec 6)
  | pcancel
  | pstatq (sd : BitVec 6)
  | hset (h : BitVec 3) (sa : BitVec 6)
  | tend
  | tendComplete
  | tspawn (kd : BitVec 4) (sa sb : BitVec 6)
  | trap (code : BitVec 16)
  | brk (code : BitVec 16)
  | live (f : LiveF)
  | tslot (sa : BitVec 6)
  | notify (sa : BitVec 6)
  | svc (tko : BitVec 6) (sa : BitVec 6) (code : BitVec 10)
  -- events of the core (R69, R74, R157, R200, R321)
  | checkpoint
  | yieldPoint
  | resultVisible
  | stallUntil
  | withheldStoreRelease
  | barrierArrival
  -- events of the on-die network (R291 to R307)
  | routerCycle
  | creditReturn
  | throttleWindow
  | accessTimeout
  | netReadRequest
  | netReadResponse
  | netWrite
  | netWriteAcknowledgement
  | mergeableAtMemoryOperation
  | atMemoryResponse
  | unmergeableAtMemoryOperation
  | parameterRequest
  | parameterResponse
  | counterDecrement
  | serviceControl
  | flitUnknownOp
  | ucieMessage
  -- events of the stacks (R230 to R232)
  | patrolScrub
  | refreshManagement
  | deadFrameRefreshStop
  -- events of the couch engines (R244 to R250)
  | couchEngineFree
  | diffDone
  | passEnd
  | finalPassDone
  | transitionFault
  | cutDone
  | mirroringEnd
  -- events of the pan units (R263 to R272)
  | normReport
  | releaseFromCell
  | panUpdateStart
  | updateWritesDone
  | flip
  -- events of the scheduler (R312 to R338)
  | doorbellTail
  | doorbellChead
  | hqsConsume
  | slotTakeover
  | queueCloseComplete
  | poolOverflowEntry
  | dispatch
  | overrunFreeze
  | freezeRequest
  | freezeStop
  | handoverClose
  | trapRecord
  -- events of the links and the fabric (R339 to R356)
  | linkUnit
  | replayRequest
  | retrain
  | linkDown
  | trepinWrite
  | trepinReadRequest
  | trepinReadResponse
  | trepinWriteAck
  | trepinAtMemoryOperation
  | trepinAtMemoryResponse
  | fencePacket
  | fenceResponse
  | trepinCounterDecrement
  | podBarrierArrival
  | trepinParameter
  | scheduledBlock
  | trepinPacketDiscard
  | multicastReplication
  | multicastGroupWrite
  | fabricTimeout
  | lxredLandingTimeout
  | scheduledBlockRetry
  | fenceCountRetry
  | keySlotRelease
  | podTimeBase
  -- events of the service (R359 to R373)
  | reset
  | taskReadCapabilityList
  | attestCallingContext
  | taskReadErrorLog
  | readCapabilityList
  | openContext
  | closeContext
  | loadCodeObject
  | loadRuleTableEntries
  | createAndMapQueue
  | keyExchange
  | loadParameterRecords
  | attestModuleOrContext
  | readErrorLog
  | updateFirmwareLive
  | firmwareRevert
  | retireCoreOrPipeline
  | retireHbmFrame
  | drainDie
  | restoreDie
  | lifeCycleChange
  | clockStepDown
  | clockStepUp
  | coolantFlowLost
  | phaseLate
  | routeExistsAgain
  | releaseByNddb
  deriving DecidableEq, Repr

end Sys2Proof
end

