-- ==== Sys2Proof/WellFormed.lean ====
section
/-! DEFINITION. Which operand fields an operation accepts: every condition on an encoding that the bits
of the slot alone decide (R92, R98, R123, R144, R167, R168, R173, R196). Conditions that depend on SHAPE,
on registers or on the code object are checked at issue. -/

namespace Sys2Proof

namespace ScF

/-- Form B: B is `s[SB]` or the immediate, never both (R97, R98). -/
def formB (f : ScF) : Bool := if f.i then f.sb == 0 else f.imm == 0
/-- Form U (R98). -/
def formU (f : ScF) : Bool := f.sb == 0 && !f.i && f.imm == 0
/-- Form K: the destination is a mask (R98). -/
def formK (f : ScF) : Bool := f.formB && bits f.sd 4 2 == 0
/-- Form X with the immediate's bits from `w` up reserved (R98). -/
def formX (f : ScF) (w : Nat) : Bool := f.sb == 0 && f.i && decide (f.imm.toNat < 2 ^ w)

end ScF

/-- The fields a vector instruction uses; every other field must be 0 (R123). -/
structure VecUse where
  d : Bool := false
  a : Bool := false
  b : Bool := false
  c : Bool := false
  m : Bool := false
  z : Bool := false
  r : Bool := false
  i : Bool := false

/-- Fields not listed are 0, FN at most `fnMax`, TY listed, RO one of the codes of R47. -/
def VecF.uses (f : VecF) (u : VecUse) (fnMax : Nat) (types : List Nat) : Bool :=
  (u.d || f.vd == 0) && (u.a || f.va == 0) && (u.b || f.vb == 0) && (u.c || f.vc == 0)
    && (u.m || f.gm == 0) && (u.z || !f.z) && (u.r || f.ro == 0) && (u.i || f.imm == 0)
    && decide (f.fn.toNat ≤ fnMax) && types.contains f.ty.toNat && decide (f.ro.toNat ≤ 5)

namespace VecF

def tFp : List Nat := [0, 1]
def tFpAll : List Nat := [0, 1, 2, 3]
def tInt : List Nat := [4, 5]
def tAll : List Nat := [0, 1, 2, 3, 4, 5]

/-- The type is an integer one. -/
def isIntTy (f : VecF) : Bool := f.ty.toNat == 4 || f.ty.toNat == 5

/-- D A B M Z, with R for the rounding operations. -/
def arith3 (f : VecF) (r : Bool) (fnMax : Nat) (t : List Nat) : Bool :=
  f.uses { d := true, a := true, b := true, m := true, z := true, r := r } fnMax t
def arith2 (f : VecF) (r : Bool) (fnMax : Nat) (t : List Nat) : Bool :=
  f.uses { d := true, a := true, m := true, z := true, r := r } fnMax t
def arith4 (f : VecF) (r : Bool) (fnMax : Nat) (t : List Nat) : Bool :=
  f.uses { d := true, a := true, b := true, c := true, m := true, z := true, r := r } fnMax t

/-- The shifts (R132): FN 0 takes the amount from vb, FN 1 from IMM16<4:0>. -/
def shiftForm (f : VecF) : Bool :=
  f.uses { d := true, a := true, b := true, m := true, z := true, i := true } 1 tInt
    && (if f.fn == 0 then f.imm == 0 else f.vb == 0 && decide (f.imm.toNat < 32))

/-- The compares (R133): a mask destination, `.u` on integer types only. -/
def cmpForm (f : VecF) : Bool :=
  f.arith3 false 1 tAll && bits f.vd 4 2 == 0 && (f.fn == 0 || f.isIntTy)

/-- An element selector's reserved bits (R134). -/
def selForm (f : VecF) : Bool := bits f.imm 13 3 == 0 && bits f.imm 5 5 == 0

/-- The accumulator block's fields (R141). -/
def accForm (f : VecF) : Bool := bits f.imm 0 4 == 0 && decide ((bits f.imm 4 3).toNat ≤ 5)

end VecF

namespace MxF

/-- KC is 0 to 96 (R83). -/
def kcOk (f : MxF) : Bool := decide (f.kc.toNat ≤ 96)
/-- An odd KC does not go with BF16 (R145). -/
def kcEven (f : MxF) : Bool := !(f.fmt == 1 && f.kc.getLsbD 0)
/-- ROW + NR ≤ 127 (R145). -/
def rowsOk (f : MxF) : Bool := decide (f.row.toNat + f.nr.toNat ≤ 127)
/-- The fields MMUL and its kin leave 0, and their static conditions (R144 to R146). -/
def streamForm (f : MxF) : Bool :=
  f.tile2 == 0 && f.kcOk && f.kcEven && f.rowsOk && [1, 2, 3].contains f.fmt.toNat
/-- The fields a weight load leaves 0, and its formats (R149). -/
def loadForm (f : MxF) : Bool :=
  f.bank == 0 && f.row == 0 && f.nr == 0 && f.kcOk && f.kcEven && [1, 2, 3, 7].contains f.fmt.toNat
/-- A drain's fields and formats (R158). -/
def drainForm (f : MxF) : Bool :=
  !f.tr && f.kc == 0 && f.rowsOk && [0, 1, 2, 3, 4].contains f.fmt.toNat
/-- Every field 0. -/
def blank (f : MxF) : Bool := f == ⟨0, 0, 0, 0, 0, 0, 0, false, 0⟩

end MxF

namespace CpF

/-- The modifier field (R31, R85): absent and all 0, or present with a scope that is not reserved. -/
def modOk (f : CpF) : Bool :=
  if f.mod.getLsbD 11 then decide ((bits f.mod 4 3).toNat ≤ 5) else f.mod == 0
def noB (f : CpF) : Bool := f.rb == 0
def noC (f : CpF) : Bool := f.rc == 0
/-- AMO: SEL bits 36:33 are the sub-operation (R184). -/
def amoForm (f : CpF) (sub : Nat) : Bool := f.modOk && (bits f.tk3 2 4).toNat == sub
/-- PREAD: SEL bits 32:31 are the kind, 36:33 are 0 (R192). -/
def preadForm (f : CpF) (kind : Nat) : Bool :=
  f.modOk && (bits f.tk3 0 2).toNat == kind && (bits f.tk3 2 4) == 0

end CpF

/-- Index ranges of the objects (R26, R196). -/
def ObjName.ok (o : ObjName) : Bool :=
  match o.scope.toNat with
  | 1 => decide (o.index.toNat < 8)
  | 2 => decide (o.index.toNat < 16)
  | 3 | 4 | 5 => true
  | _ => false

/-- What the bits of a slot alone decide about an operation's encoding. -/
def Instr.wellFormed : Instr → Bool
  | .nop | .vnop | .mnop | .lnop | .stSnop | .cnop | .sySnop => true
  | .add f | .sub f | .mul f | .mulh f | .div f | .divu f | .rem f | .remu f
  | .and f | .or f | .xor f | .andn f | .shl f | .shr f | .sar f | .rot f
  | .sel f | .min f | .max f => f.formB
  | .cmpeq f | .cmplt f | .cmpltu f | .cmple f => f.formK
  | .lea f => f.i && bits f.imm 27 5 == 0
  | .movi f => f.i && f.sa == 0 && f.sb == 0
  | .movhi f => f.i && f.sb == 0
  | .popc f | .clz f | .ctz f | .tlook f => f.formU
  | .br f => f.sd == 0 && f.sa == 0 && f.sb == 0 && f.gk == 0 && f.i
  | .brc f => f.sd == 0 && f.sa == 0 && f.sb == 0 && f.i
  | .call f => f.sa == 0 && f.sb == 0 && f.gk == 0 && f.i
  | .ret f => f.sd == 0 && f.sb == 0 && f.gk == 0 && !f.i && f.imm == 0
  | .jr f => f.sb == 0 && f.gk == 0 && !f.i && f.imm == 0
  | .loop f => f.sd == 0 && f.gk == 0 && f.formX 9 && decide ((bits f.imm 6 3).toNat ≤ 5)
  | .movcr f => f.sa == 0 && f.formX 6 && decide (f.imm.toNat ≤ 0x11)
  | .movrc f => f.sd == 0 && f.formX 6 && decide (f.imm.toNat ≤ 0x11)
  | .movsk f => f.formX 2 && bits f.sa 4 2 == 0
  | .movks f => f.formX 2 && bits f.sd 4 2 == 0
  | .shape f =>
    f.sd == 0 && f.sb == 0 && (if f.i then f.sa == 0 && decide (f.imm.toNat < 2 ^ 10) else f.imm == 0)
  | .getid f => f.sa == 0 && f.formX 2
  | .aalloc f => f.sa == 0 && f.formB
  | .afree f => f.sd == 0 && f.formB
  | .tdef f => f.sd == 0 && f.formX 7
  | .tstate f => f.sa == 0 && f.formX 7 && !f.sd.getLsbD 0 && f.sd != 0
  | .tfree f => f.sd == 0 && f.sa == 0 && f.formX 7
  | .vadd f | .vsub f | .vmul f => f.arith3 true 0 VecF.tFp
  | .vfma f | .vfms f => f.arith4 true 1 VecF.tFp
  | .vmin f | .vmax f => f.arith3 false 0 VecF.tFpAll
  | .vabs f | .vneg f => f.arith2 false 0 VecF.tFpAll
  | .vrcp f | .vrsq f | .vexp2 f | .vlog2 f | .vtanh f | .vsin f | .vcos f =>
    f.arith2 true 0 VecF.tFp
  | .vcmul f => f.arith3 true 1 [0]
  | .vcfma f => f.arith4 true 3 [0]
  | .viadd f | .visub f | .vimul f => f.arith3 false 2 VecF.tInt
  | .vimin f | .vimax f => f.arith3 false 1 VecF.tInt
  | .vshl f | .vshr f | .vsar f => f.shiftForm
  | .vand f | .vor f | .vxor f => f.arith3 false 0 VecF.tAll
  | .vcmpeq f | .vcmplt f | .vcmple f => f.cmpForm
  | .vclass f =>
    f.uses { d := true, a := true, m := true, z := true, i := true } 0 VecF.tFpAll
      && bits f.vd 4 2 == 0 && decide (f.imm.toNat < 2 ^ 10)
  | .vsel f => f.uses { d := true, a := true, b := true, m := true } 0 VecF.tAll
  | .vmov f | .vtrn f => f.arith2 false 0 VecF.tAll
  | .vbcst f =>
    f.uses { d := true, a := true, m := true, z := true, i := true } 2 VecF.tAll && f.selForm
  | .vmovs f => f.arith2 false 0 VecF.tAll
  | .vmovsX f =>
    f.uses { d := true, a := true, m := true, z := true, i := true } 1 VecF.tAll
      && f.fn == 1 && f.selForm
  | .viota f => f.uses { d := true, m := true, z := true, i := true } 2 VecF.tInt
  | .vsplat f =>
    f.uses { d := true, m := true, z := true, i := true } 0 VecF.tAll
      && (!([2, 3, 4].contains f.ty.toNat) || decide (f.imm.toNat < 256))
  | .vcvt f => f.arith2 true 5 VecF.tAll
  | .vqnt f =>
    f.uses { d := true, a := true, b := true, c := true, m := true, z := true, r := true } 1
        [1, 2, 3, 4, 7]
      && (if f.ty == 7 then bits f.vb 3 3 == 0 else f.vb == 0)
  | .vdq f =>
    f.uses { d := true, a := true, b := true, c := true, m := true, z := true, r := true } 7 VecF.tFp
      && [1, 2, 3, 4, 7].contains f.fn.toNat && (if f.fn == 7 then bits f.vb 3 3 == 0 else f.vb == 0)
  | .vcbld f =>
    f.uses { d := true, a := true, i := true } 0 [1] && bits f.vd 3 3 == 0 && decide (f.imm.toNat < 8)
  | .vredr f | .vredc f =>
    f.uses { d := true, a := true, m := true, r := true } 2 [0, 1, 5]
      && (f.ro == 0 || (f.fn == 0 && f.ty != 5))
  | .vrot f =>
    f.uses { d := true, a := true, m := true, z := true, i := true } 1 VecF.tAll
      && decide (f.imm.toNat < 32)
  | .vperm f => f.arith3 false 1 VecF.tAll
  | .vamrd f => f.uses { d := true, m := true, z := true, i := true } 0 [0] && f.accForm
  | .vamwr f => f.uses { a := true, m := true, z := true, i := true } 0 [0] && f.accForm
  | .vamadd f => f.uses { a := true, m := true, r := true, i := true } 0 [0] && f.accForm
  | .vscale f =>
    f.uses { d := true, a := true, b := true, m := true, z := true, r := true, i := true } 1 VecF.tFp
      && (if f.fn == 0 then f.vb == 0 else f.imm == 0)
  | .vrnd f => f.arith2 true 0 VecF.tFp
  | .vpopk f => f.arith2 false 2 VecF.tInt && bits f.va 4 2 == 0
  | .vclamp f => f.arith4 false 1 VecF.tAll && (f.fn == 0 || f.isIntTy)
  | .kand _ | .kor _ | .kxor _ | .kandn _ | .korn _ => true
  | .knot f | .kmov f => f.kb == 0
  | .mldw f => f.loadForm && f.tile2 == 0
  | .mldwt f => f.loadForm
  | .mswap f | .mclr f | .mfence f => f.blank
  | .mmul f | .mmulz f => f.streamForm
  | .mmult f => f.streamForm && decide (f.nr.toNat ≤ 47) && decide (f.row.toNat ≤ 80)
  | .mzero f =>
    f.tile == 0 && f.fmt == 0 && f.scl == 0 && f.tile2 == 0 && !f.tr && f.kc == 0 && f.rowsOk
  | .mdrain f => f.drainForm && f.tile2 == 0
  | .mdraint f => f.drainForm
  | .mcbl f => { f with tile := 0 } == ⟨0, 0, 0, 0, 0, 0, 0, false, 0⟩ && bits f.tile 3 4 == 0
  | .mstat f =>
    f.row == 0 && f.tile == 0 && f.nr == 0 && f.fmt == 0 && f.tile2 == 0 && !f.tr && f.kc == 0
  | .vld f | .vst f => decide (f.ty.toNat ≤ 5)
  | .vldt f | .vstt f => bits f.ofs 0 23 == 0 && f.ty != 7
  | .sld f | .sst f => f.sr == 0 && f.ty != 7
  | .vldg f | .vsts f => [0, 1, 5].contains f.ty.toNat
  | .kld f | .kst f => f.sr == 0 && f.ty == 0 && bits f.rg 4 2 == 0
  | .copy f | .copyt f | .spillt f | .gath f | .scat f | .put f | .get f | .fenf f | .lxred f
  | .mapq f | .mset f | .enq f | .chase f => f.modOk
  | .amoAdd32 f => f.amoForm 0 | .amoAdd64 f => f.amoForm 1 | .amoMin f => f.amoForm 2
  | .amoMax f => f.amoForm 3 | .amoMinu f => f.amoForm 4 | .amoMaxu f => f.amoForm 5
  | .amoAnd f => f.amoForm 6 | .amoOr f => f.amoForm 7 | .amoXor f => f.amoForm 8
  | .amoSwap f => f.amoForm 9 | .amoFxa f => f.amoForm 10
  | .cas f => f.modOk && f.noC && bits f.tk3 1 1 == 0
  | .casw f => f.modOk && f.noC && bits f.tk3 0 2 == 0
  | .dcas f => f.modOk && bits f.tk3 0 2 == 0
  | .lxfer f | .pstat f | .pref f | .xlinv f => f.modOk && f.noC
  | .bvec f => f.modOk && f.noB && f.noC
  | .pcon f => f.modOk && bits f.tk3 1 5 == 0
  | .preadMst f => f.preadForm 0 | .preadWbf f => f.preadForm 1
  | .preadWf8 f => f.preadForm 2 | .preadMom f => f.preadForm 3
  | .tdec f => f.modOk && f.noC && !f.tk3.getLsbD 5 && bits f.tk3 0 2 == 0
  | .tdecH f => f.modOk && f.noC && f.ra == 0 && f.tk3.getLsbD 5 && bits f.tk3 0 2 == 0
  | .wait _ o _ | .arrive o _ | .bari o _ _ _ | .bariAtt o => o.ok
  | .fence _ sc => decide (sc.toNat ≤ 5)
  | .pnext _ rf r n | .padv _ rf r n => if rf then n == 0 else r == 0
  | .live f => decide (f.vcnt.toNat ≤ 64)
  | .arriveHandle .. | .twait .. | .ttest .. | .pcancel | .pstatq .. | .hset .. | .tend
  | .tspawn .. | .trap .. | .brk .. | .tslot .. | .notify .. | .svc .. => true
  -- events carry no encoding
  | .mxOperationComplete .. | .drainComplete .. | .engineCommandStart .. | .engineCommandComplete ..
  | .engineFault .. | .faultRestart .. | .tendComplete | .checkpoint | .yieldPoint .. | .resultVisible
  | .stallUntil | .withheldStoreRelease | .barrierArrival .. | .routerCycle .. | .creditReturn ..
  | .throttleWindow .. | .accessTimeout .. | .netReadRequest .. | .netReadResponse .. | .netWrite ..
  | .netWriteAcknowledgement .. | .mergeableAtMemoryOperation .. | .atMemoryResponse ..
  | .unmergeableAtMemoryOperation .. | .parameterRequest .. | .parameterResponse ..
  | .counterDecrement .. | .serviceControl .. | .flitUnknownOp .. | .ucieMessage .. | .patrolScrub ..
  | .refreshManagement .. | .deadFrameRefreshStop .. | .couchEngineFree .. | .diffDone .. | .passEnd ..
  | .finalPassDone .. | .transitionFault .. | .cutDone .. | .mirroringEnd .. | .normReport ..
  | .releaseFromCell .. | .panUpdateStart .. | .updateWritesDone .. | .flip .. | .doorbellTail ..
  | .doorbellChead .. | .hqsConsume .. | .slotTakeover .. | .queueCloseComplete ..
  | .poolOverflowEntry .. | .dispatch .. | .overrunFreeze | .freezeRequest .. | .freezeStop
  | .handoverClose .. | .trapRecord | .linkUnit .. | .replayRequest .. | .retrain .. | .linkDown ..
  | .trepinWrite .. | .trepinReadRequest .. | .trepinReadResponse .. | .trepinWriteAck ..
  | .trepinAtMemoryOperation .. | .trepinAtMemoryResponse .. | .fencePacket .. | .fenceResponse ..
  | .trepinCounterDecrement .. | .podBarrierArrival .. | .trepinParameter .. | .scheduledBlock ..
  | .trepinPacketDiscard .. | .multicastReplication .. | .multicastGroupWrite .. | .fabricTimeout ..
  | .lxredLandingTimeout .. | .scheduledBlockRetry .. | .fenceCountRetry .. | .keySlotRelease ..
  | .podTimeBase .. | .reset | .taskReadCapabilityList | .attestCallingContext | .taskReadErrorLog
  | .readCapabilityList | .openContext .. | .closeContext .. | .loadCodeObject ..
  | .loadRuleTableEntries .. | .createAndMapQueue .. | .keyExchange .. | .loadParameterRecords ..
  | .attestModuleOrContext .. | .readErrorLog .. | .updateFirmwareLive .. | .firmwareRevert
  | .retireCoreOrPipeline .. | .retireHbmFrame .. | .drainDie .. | .restoreDie .. | .lifeCycleChange ..
  | .clockStepDown | .clockStepUp | .coolantFlowLost | .phaseLate | .routeExistsAgain ..
  | .releaseByNddb .. => true

end Sys2Proof
end

