-- ==== Sys2Proof/Decode.lean ====
section
/-! DEFINITION. From the bits of a bundle to its operations, rejecting by name, and back (R61 to R65,
R71, R72, R81 to R92, R196). The events of the opcode table have no encoding. -/

namespace Sys2Proof

/-- The parts of a bundle that carry an operation, in issue order (R63); `pl` and `sy` share the SY slot. -/
inductive Slot where
  | sc | va | vb | mx | ld | st | cp | pl | sy
  deriving DecidableEq, Repr

/-- The slots in issue order (R63). -/
def Slot.all : List Slot := [.sc, .va, .vb, .mx, .ld, .st, .cp, .pl, .sy]

/-- The position of the 64-bit slot that holds the part (R61). -/
def Slot.position : Slot → Nat
  | .sc => 0 | .va => 1 | .vb => 2 | .mx => 3 | .ld => 4 | .st => 5 | .cp => 6 | .pl => 7 | .sy => 7

/-- Why bits do not decode: each is an illegal-encoding condition of R92. -/
inductive DecodeError where
  | undefinedOpcode | reservedBits | noOpOperands | badOperands | stopMissing | badYield
  | badPredicateLogic | badArrivalTarget | undeclaredTarget
  deriving DecidableEq, Repr

/-! ### Operand layouts -/

def ScF.pack (f : ScF) : BitVec 55 :=
  f.sd ++ f.sa ++ f.sb ++ f.gk ++ BitVec.ofBool f.i ++ f.imm
def ScF.unpack (x : BitVec 55) : ScF :=
  ⟨bits x 49 6, bits x 43 6, bits x 37 6, bits x 33 4, bitOf x 32, bits x 0 32⟩

def VecF.pack (f : VecF) : BitVec 55 :=
  f.vd ++ f.va ++ f.vb ++ f.vc ++ f.gm ++ f.ty ++ BitVec.ofBool f.z ++ f.ro ++ f.fn ++ f.imm
def VecF.unpack (x : BitVec 55) : VecF :=
  ⟨bits x 49 6, bits x 43 6, bits x 37 6, bits x 31 6, bits x 27 4, bits x 24 3, bitOf x 23,
    bits x 20 3, bits x 16 4, bits x 0 16⟩

def MxF.pack (f : MxF) : BitVec 55 :=
  f.bank ++ f.row ++ f.tile ++ f.nr ++ f.fmt ++ f.scl ++ f.tile2 ++ BitVec.ofBool f.tr ++ f.kc ++ 0#4
def MxF.unpack (x : BitVec 55) : MxF :=
  ⟨bits x 50 5, bits x 43 7, bits x 36 7, bits x 29 7, bits x 26 3, bits x 20 6, bits x 13 7,
    bitOf x 12, bits x 4 8⟩

def LsF.pack (f : LsF) : BitVec 55 := f.rg ++ f.br ++ f.ofs ++ f.sr ++ f.ty ++ f.gm ++ 0#6
def LsF.unpack (x : BitVec 55) : LsF :=
  ⟨bits x 49 6, bits x 43 6, bits x 19 24, bits x 13 6, bits x 10 3, bits x 6 4⟩

def CpF.pack (f : CpF) : BitVec 55 :=
  f.tko ++ f.tk1 ++ f.tk2 ++ f.tk3 ++ f.mod ++ f.ra ++ f.rb ++ f.rc ++ 0#1
def CpF.unpack (x : BitVec 55) : CpF :=
  ⟨bits x 49 6, bits x 43 6, bits x 37 6, bits x 31 6, bits x 19 12, bits x 13 6, bits x 7 6,
    bits x 1 6⟩

/-! ### Opcode tables, from the first opcode after the no-op (R87 to R90) -/

def scTable : List (ScF → Instr) :=
  [.add, .sub, .mul, .mulh, .div, .divu, .rem, .remu, .and, .or, .xor, .andn, .shl, .shr, .sar, .rot,
   .cmpeq, .cmplt, .cmpltu, .cmple, .sel, .min, .max, .lea, .movi, .movhi, .popc, .clz, .ctz,
   .br, .brc, .call, .ret, .jr, .loop, .movcr, .movrc, .movsk, .movks, .shape, .getid,
   .aalloc, .afree, .tlook, .tdef, .tstate, .tfree]

/-- Opcode 0x25 is VMOVS or, with FN 1, its extracting form (R134). -/
def vecTable : List (VecF → Instr) :=
  [.vadd, .vsub, .vmul, .vfma, .vfms, .vmin, .vmax, .vabs, .vneg,
   .vrcp, .vrsq, .vexp2, .vlog2, .vtanh, .vsin, .vcos, .vcmul, .vcfma,
   .viadd, .visub, .vimul, .vimin, .vimax, .vshl, .vshr, .vsar, .vand, .vor, .vxor,
   .vcmpeq, .vcmplt, .vcmple, .vclass, .vsel, .vmov, .vbcst,
   fun f => if f.fn == 1 then .vmovsX f else .vmovs f, .viota, .vsplat,
   .vcvt, .vqnt, .vdq, .vcbld, .vredr, .vredc, .vtrn, .vrot, .vperm, .vamrd, .vamwr, .vamadd,
   .vscale, .vrnd, .vpopk, .vclamp]

def mxTable : List (MxF → Instr) :=
  [.mldw, .mldwt, .mswap, .mmul, .mmulz, .mmult, .mzero, .mdrain, .mdraint, .mcbl, .mclr, .mfence,
   .mstat]

def ldTable : List (LsF → Instr) := [.vld, .vldt, .sld, .vldg, .kld]

def stTable : List (LsF → Instr) := [.vst, .vstt, .sst, .vsts, .kst]

/-- AMO's sub-operations, by SEL bits 36:33 (R184). -/
def amoTable : List (CpF → Instr) :=
  [.amoAdd32, .amoAdd64, .amoMin, .amoMax, .amoMinu, .amoMaxu, .amoAnd, .amoOr, .amoXor, .amoSwap,
   .amoFxa]

/-- PREAD's kinds, by SEL bits 32:31 (R192). -/
def preadTable : List (CpF → Instr) := [.preadMst, .preadWbf, .preadWf8, .preadMom]

/-- Opcodes that SEL splits: AMO 0x06 (R184), PREAD 0x13 (R192), TDEC 0x18 (R194). -/
def cpTable : List (CpF → Option Instr) :=
  [(some <| .copy ·), (some <| .copyt ·), (some <| .spillt ·), (some <| .gath ·), (some <| .scat ·),
   fun f => (amoTable[(bits f.tk3 2 4).toNat]?).map (· f),
   (some <| .cas ·), (some <| .casw ·), (some <| .dcas ·), (some <| .enq ·), (some <| .chase ·),
   (some <| .put ·), (some <| .get ·), (some <| .fenf ·), (some <| .lxfer ·), (some <| .lxred ·),
   (some <| .bvec ·), (some <| .pcon ·),
   fun f => (preadTable[(bits f.tk3 0 2).toNat]?).map (· f),
   (some <| .pstat ·), (some <| .mapq ·), (some <| .pref ·), (some <| .mset ·),
   fun f => if f.tk3.getLsbD 5 then some (.tdecH f) else some (.tdec f),
   (some <| .xlinv ·)]

/-- Accepts a decoded operation whose operand fields pass `Instr.wellFormed`. -/
def checked (i : Instr) : Except DecodeError Instr :=
  if i.wellFormed then .ok i else .error .badOperands

/-- A slot with opcode 0 is the no-op, with no operand bit set (R63, R92). -/
def decodeTable {F : Type} (none0 : Instr) (table : List (F → Instr)) (unpack : BitVec 55 → F)
    (opc : Nat) (ops : BitVec 55) : Except DecodeError Instr :=
  if opc = 0 then (if ops = 0 then .ok none0 else .error .noOpOperands)
  else match table[opc - 1]? with
    | some c => checked (c (unpack ops))
    | none => .error .undefinedOpcode

/-- An 8-bit arrival target code that R72 accepts. -/
def arrCodeOk (c : BitVec 8) : Bool :=
  let n := (bits c 0 5).toNat
  match (bits c 5 3).toNat with
  | 0 => n == 0
  | 1 => decide (n < 8)
  | 2 => decide (n < 16)
  | 3 | 4 | 5 => true
  | 7 => decide (n < 8)
  | _ => false

/-- Predicate logic of the SY slot's bits 60:45 (R71). -/
def decodePl (w : Word) : Except DecodeError Instr :=
  let f : PlF := ⟨bits w 53 4, bits w 49 4, bits w 45 4⟩
  match (bits w 57 4).toNat with
  | 0 => if f = ⟨0, 0, 0⟩ then .ok .sySnop else .error .badPredicateLogic
  | 1 => .ok (.kand f) | 2 => .ok (.kor f) | 3 => .ok (.kxor f) | 4 => .ok (.kandn f)
  | 5 => .ok (.korn f)
  | 6 => if f.kb = 0 then .ok (.knot f) else .error .badPredicateLogic
  | 7 => if f.kb = 0 then .ok (.kmov f) else .error .badPredicateLogic
  | _ => .error .badPredicateLogic

/-- The SY instruction of SOPC and SOPS (R91, R196), or the reason there is none. -/
def decodeSyOp (sopc : Nat) (x : BitVec 23) : Except DecodeError Instr :=
  let res (b : Bool) (i : Instr) : Except DecodeError Instr :=
    if b then checked i else .error .reservedBits
  match sopc with
  | 0x00 => if x = 0 then .ok .sySnop else .error .noOpOperands
  | 0x01 => res (bits x 0 4 == 0) (.wait (bits x 19 4) ⟨bits x 16 3, bits x 10 6⟩ (bits x 4 6))
  | 0x02 =>
    res (bits x 0 8 == 0)
      (if bits x 20 3 == 7 then .arriveHandle (bits x 14 3) (bits x 8 6)
       else .arrive ⟨bits x 20 3, bits x 14 6⟩ (bits x 8 6))
      |>.bind fun i => if bits x 20 3 == 7 && bits x 17 3 != 0 then .error .badOperands else .ok i
  | 0x03 =>
    let o : ObjName := ⟨bits x 20 3, bits x 14 6⟩
    if bitOf x 13 then res (bits x 0 13 == 0) (.bariAtt o)
    else
      res (bits x 0 3 == 0) (.bari o (bits x 7 6) (bitOf x 6) (bits x 3 3))
  | 0x04 => res (bits x 0 5 == 0) (.twait (bits x 17 6) (bits x 11 6) (bits x 5 6))
  | 0x05 => res (bits x 0 13 == 0) (.ttest (bits x 19 4) (bits x 13 6))
  | 0x06 => res (bits x 0 4 == 0) (.fence (bits x 7 16) (bits x 4 3))
  | 0x07 => res (bits x 6 6 == 0) (.pnext (bits x 19 4) (bitOf x 18) (bits x 12 6) (bits x 0 6))
  | 0x08 => res (bits x 6 4 == 0) (.padv (bits x 17 6) (bitOf x 16) (bits x 10 6) (bits x 0 6))
  | 0x09 => res (x == 0) .pcancel
  | 0x0A => res (bits x 0 17 == 0) (.pstatq (bits x 17 6))
  | 0x0B => res (bits x 0 14 == 0) (.hset (bits x 20 3) (bits x 14 6))
  | 0x0C => res (x == 0) .tend
  | 0x0D => res (bits x 0 7 == 0) (.tspawn (bits x 19 4) (bits x 13 6) (bits x 7 6))
  | 0x0E => res (bits x 16 7 == 0) (.trap (bits x 0 16))
  | 0x0F => res (bits x 16 7 == 0) (.brk (bits x 0 16))
  | 0x10 =>
    res true (.live ⟨bits x 16 7, bits x 10 6, bitOf x 9, bitOf x 8, bitOf x 7, bitOf x 6, bitOf x 5,
      bits x 0 5⟩)
  | 0x11 => res (bits x 0 17 == 0) (.tslot (bits x 17 6))
  | 0x12 => res (bits x 0 17 == 0) (.notify (bits x 17 6))
  | 0x13 => res (bitOf x 0 == false) (.svc (bits x 17 6) (bits x 11 6) (bits x 1 10))
  | _ => .error .undefinedOpcode

/-- The SY slot: CKPT and YLD need STOP, a yield has SOPC 0 and a run that is not 0 (R65, R78, R92). -/
def decodeSy (w : Word) : Except DecodeError Instr :=
  if !bitOf w 63 && (bitOf w 62 || bitOf w 61) then .error .stopMissing
  else if !(arrCodeOk (bits w 37 8) && arrCodeOk (bits w 29 8)) then .error .badArrivalTarget
  else if bitOf w 61 then
    if bits w 23 6 == 0 && bits w 0 23 != 0 then .ok .sySnop else .error .badYield
  else
    match decodeSyOp (bits w 23 6).toNat (bits w 0 23) with
    | .ok .tend => if bitOf w 63 then .ok .tend else .error .stopMissing
    | r => r

/-- The operation a part of a bundle holds, of the 64-bit slot at its position (R64, R87 to R92). -/
def decodeSlot (k : Slot) (w : Word) : Except DecodeError Instr :=
  let opc := (bits w 55 7).toNat
  let ops : BitVec 55 := bits w 0 55
  match k with
  | .sc => decodeTable .nop scTable ScF.unpack opc ops
  | .va | .vb => decodeTable .vnop vecTable VecF.unpack opc ops
  | .mx => if bits ops 0 4 == 0 then decodeTable .mnop mxTable MxF.unpack opc ops else .error .reservedBits
  | .ld => if bits ops 0 6 == 0 then decodeTable .lnop ldTable LsF.unpack opc ops else .error .reservedBits
  | .st =>
    if bits ops 0 6 == 0 then decodeTable .stSnop stTable LsF.unpack opc ops else .error .reservedBits
  | .cp =>
    if opc = 0 then (if ops = 0 then .ok .cnop else .error .noOpOperands)
    else if bits ops 0 1 != 0 then .error .reservedBits
    else match cpTable[opc - 1]? with
      | none => .error .undefinedOpcode
      | some c =>
        match c (CpF.unpack ops) with
        | some i => checked i
        | none => .error .badOperands
  | .pl => decodePl w
  | .sy => decodeSy w

/-- The arrive-on-retire select of a slot; the SY slot has none (R64, R65). -/
def slotArs (k : Slot) (w : Word) : BitVec 2 :=
  match k with
  | .pl | .sy => 0
  | _ => bits w 62 2

/-- A bundle: its eight slots (R61). -/
abbrev Bundle := Vector Word 8

/-- The 64-bit slot that holds a part. -/
def Bundle.word (b : Bundle) (k : Slot) : Word := b.toList.getD k.position 0

namespace Bundle
def sy (b : Bundle) : Word := b.word .sy
def stop (b : Bundle) : Bool := bitOf b.sy 63
def ckpt (b : Bundle) : Bool := bitOf b.sy 62
def yld (b : Bundle) : Bool := bitOf b.sy 61
def run (b : Bundle) : BitVec 23 := bits b.sy 0 23
def arr1 (b : Bundle) : BitVec 8 := bits b.sy 37 8
def arr2 (b : Bundle) : BitVec 8 := bits b.sy 29 8
end Bundle

/-- The operation of one part of a bundle, with the check that each selected target is declared (R72). -/
def Bundle.decode (b : Bundle) (k : Slot) : Except DecodeError Instr :=
  let ars := slotArs k (b.word k)
  if (ars.getLsbD 0 && b.arr1 == 0) || (ars.getLsbD 1 && b.arr2 == 0) then .error .undeclaredTarget
  else decodeSlot k (b.word k)

/-! ### The encoder -/

/-- Opcode and operands of a slot word with no arrival select (R64). -/
def slotWord (opc : Nat) (ops : BitVec 55) : Word := 0#2 ++ BitVec.ofNat 7 opc ++ ops

/-- SOPC and SOPS in their place (R65). -/
def syWord (sopc : Nat) (x : BitVec 23) : Word := 0#35 ++ BitVec.ofNat 6 sopc ++ x

/-- Predicate logic in its place in the SY slot (R65, R71). -/
def plWord (op : Nat) (f : PlF) : Word := 0#3 ++ BitVec.ofNat 4 op ++ f.kd ++ f.ka ++ f.kb ++ 0#45

/-- The part of a bundle an operation stands in, VA for the vector ones; none for an event. -/
def Instr.slot : Instr → Option Slot
  | .nop | .add _ | .sub _ | .mul _ | .mulh _ | .div _ | .divu _ | .rem _ | .remu _ | .and _ | .or _
  | .xor _ | .andn _ | .shl _ | .shr _ | .sar _ | .rot _ | .cmpeq _ | .cmplt _ | .cmpltu _ | .cmple _
  | .sel _ | .min _ | .max _ | .lea _ | .movi _ | .movhi _ | .popc _ | .clz _ | .ctz _ | .br _ | .brc _
  | .call _ | .ret _ | .jr _ | .loop _ | .movcr _ | .movrc _ | .movsk _ | .movks _ | .shape _
  | .getid _ | .aalloc _ | .afree _ | .tlook _ | .tdef _ | .tstate _ | .tfree _ => some .sc
  | .vnop | .vadd _ | .vsub _ | .vmul _ | .vfma _ | .vfms _ | .vmin _ | .vmax _ | .vabs _ | .vneg _
  | .vrcp _ | .vrsq _ | .vexp2 _ | .vlog2 _ | .vtanh _ | .vsin _ | .vcos _ | .vcmul _ | .vcfma _
  | .viadd _ | .visub _ | .vimul _ | .vimin _ | .vimax _ | .vshl _ | .vshr _ | .vsar _ | .vand _
  | .vor _ | .vxor _ | .vcmpeq _ | .vcmplt _ | .vcmple _ | .vclass _ | .vsel _ | .vmov _ | .vbcst _
  | .vmovs _ | .vmovsX _ | .viota _ | .vsplat _ | .vcvt _ | .vqnt _ | .vdq _ | .vcbld _ | .vredr _
  | .vredc _ | .vtrn _ | .vrot _ | .vperm _ | .vamrd _ | .vamwr _ | .vamadd _ | .vscale _ | .vrnd _
  | .vpopk _ | .vclamp _ => some .va
  | .mnop | .mldw _ | .mldwt _ | .mswap _ | .mmul _ | .mmulz _ | .mmult _ | .mzero _ | .mdrain _
  | .mdraint _ | .mcbl _ | .mclr _ | .mfence _ | .mstat _ => some .mx
  | .lnop | .vld _ | .vldt _ | .sld _ | .vldg _ | .kld _ => some .ld
  | .stSnop | .vst _ | .vstt _ | .sst _ | .vsts _ | .kst _ => some .st
  | .cnop | .copy _ | .copyt _ | .spillt _ | .gath _ | .scat _ | .amoAdd32 _ | .amoAdd64 _ | .amoMin _
  | .amoMax _ | .amoMinu _ | .amoMaxu _ | .amoAnd _ | .amoOr _ | .amoXor _ | .amoSwap _ | .amoFxa _
  | .cas _ | .casw _ | .dcas _ | .enq _ | .chase _ | .put _ | .get _ | .fenf _ | .lxfer _ | .lxred _
  | .bvec _ | .pcon _ | .preadMst _ | .preadWbf _ | .preadWf8 _ | .preadMom _ | .pstat _ | .mapq _
  | .pref _ | .mset _ | .tdec _ | .tdecH _ | .xlinv _ => some .cp
  | .kand _ | .kor _ | .kxor _ | .kandn _ | .korn _ | .knot _ | .kmov _ => some .pl
  | .sySnop | .wait .. | .arrive .. | .arriveHandle .. | .bari .. | .bariAtt .. | .twait .. | .ttest ..
  | .fence .. | .pnext .. | .padv .. | .pcancel | .pstatq .. | .hset .. | .tend | .tspawn .. | .trap ..
  | .brk .. | .live .. | .tslot .. | .notify .. | .svc .. => some .sy
  | _ => none

/-- The slot word of a slot operation; 0 for an event, which has no encoding. -/
def encode : Instr → Word
  | .nop | .vnop | .mnop | .lnop | .stSnop | .cnop | .sySnop => 0
  | .add f => slotWord 0x01 f.pack | .sub f => slotWord 0x02 f.pack | .mul f => slotWord 0x03 f.pack
  | .mulh f => slotWord 0x04 f.pack | .div f => slotWord 0x05 f.pack | .divu f => slotWord 0x06 f.pack
  | .rem f => slotWord 0x07 f.pack | .remu f => slotWord 0x08 f.pack | .and f => slotWord 0x09 f.pack
  | .or f => slotWord 0x0A f.pack | .xor f => slotWord 0x0B f.pack | .andn f => slotWord 0x0C f.pack
  | .shl f => slotWord 0x0D f.pack | .shr f => slotWord 0x0E f.pack | .sar f => slotWord 0x0F f.pack
  | .rot f => slotWord 0x10 f.pack | .cmpeq f => slotWord 0x11 f.pack | .cmplt f => slotWord 0x12 f.pack
  | .cmpltu f => slotWord 0x13 f.pack | .cmple f => slotWord 0x14 f.pack | .sel f => slotWord 0x15 f.pack
  | .min f => slotWord 0x16 f.pack | .max f => slotWord 0x17 f.pack | .lea f => slotWord 0x18 f.pack
  | .movi f => slotWord 0x19 f.pack | .movhi f => slotWord 0x1A f.pack | .popc f => slotWord 0x1B f.pack
  | .clz f => slotWord 0x1C f.pack | .ctz f => slotWord 0x1D f.pack | .br f => slotWord 0x1E f.pack
  | .brc f => slotWord 0x1F f.pack | .call f => slotWord 0x20 f.pack | .ret f => slotWord 0x21 f.pack
  | .jr f => slotWord 0x22 f.pack | .loop f => slotWord 0x23 f.pack | .movcr f => slotWord 0x24 f.pack
  | .movrc f => slotWord 0x25 f.pack | .movsk f => slotWord 0x26 f.pack | .movks f => slotWord 0x27 f.pack
  | .shape f => slotWord 0x28 f.pack | .getid f => slotWord 0x29 f.pack | .aalloc f => slotWord 0x2A f.pack
  | .afree f => slotWord 0x2B f.pack | .tlook f => slotWord 0x2C f.pack | .tdef f => slotWord 0x2D f.pack
  | .tstate f => slotWord 0x2E f.pack | .tfree f => slotWord 0x2F f.pack
  | .vadd f => slotWord 0x01 f.pack | .vsub f => slotWord 0x02 f.pack | .vmul f => slotWord 0x03 f.pack
  | .vfma f => slotWord 0x04 f.pack | .vfms f => slotWord 0x05 f.pack | .vmin f => slotWord 0x06 f.pack
  | .vmax f => slotWord 0x07 f.pack | .vabs f => slotWord 0x08 f.pack | .vneg f => slotWord 0x09 f.pack
  | .vrcp f => slotWord 0x0A f.pack | .vrsq f => slotWord 0x0B f.pack | .vexp2 f => slotWord 0x0C f.pack
  | .vlog2 f => slotWord 0x0D f.pack | .vtanh f => slotWord 0x0E f.pack | .vsin f => slotWord 0x0F f.pack
  | .vcos f => slotWord 0x10 f.pack | .vcmul f => slotWord 0x11 f.pack | .vcfma f => slotWord 0x12 f.pack
  | .viadd f => slotWord 0x13 f.pack | .visub f => slotWord 0x14 f.pack | .vimul f => slotWord 0x15 f.pack
  | .vimin f => slotWord 0x16 f.pack | .vimax f => slotWord 0x17 f.pack | .vshl f => slotWord 0x18 f.pack
  | .vshr f => slotWord 0x19 f.pack | .vsar f => slotWord 0x1A f.pack | .vand f => slotWord 0x1B f.pack
  | .vor f => slotWord 0x1C f.pack | .vxor f => slotWord 0x1D f.pack | .vcmpeq f => slotWord 0x1E f.pack
  | .vcmplt f => slotWord 0x1F f.pack | .vcmple f => slotWord 0x20 f.pack | .vclass f => slotWord 0x21 f.pack
  | .vsel f => slotWord 0x22 f.pack | .vmov f => slotWord 0x23 f.pack | .vbcst f => slotWord 0x24 f.pack
  | .vmovs f | .vmovsX f => slotWord 0x25 f.pack
  | .viota f => slotWord 0x26 f.pack | .vsplat f => slotWord 0x27 f.pack | .vcvt f => slotWord 0x28 f.pack
  | .vqnt f => slotWord 0x29 f.pack | .vdq f => slotWord 0x2A f.pack | .vcbld f => slotWord 0x2B f.pack
  | .vredr f => slotWord 0x2C f.pack | .vredc f => slotWord 0x2D f.pack | .vtrn f => slotWord 0x2E f.pack
  | .vrot f => slotWord 0x2F f.pack | .vperm f => slotWord 0x30 f.pack | .vamrd f => slotWord 0x31 f.pack
  | .vamwr f => slotWord 0x32 f.pack | .vamadd f => slotWord 0x33 f.pack | .vscale f => slotWord 0x34 f.pack
  | .vrnd f => slotWord 0x35 f.pack | .vpopk f => slotWord 0x36 f.pack | .vclamp f => slotWord 0x37 f.pack
  | .mldw f => slotWord 0x01 f.pack | .mldwt f => slotWord 0x02 f.pack | .mswap f => slotWord 0x03 f.pack
  | .mmul f => slotWord 0x04 f.pack | .mmulz f => slotWord 0x05 f.pack | .mmult f => slotWord 0x06 f.pack
  | .mzero f => slotWord 0x07 f.pack | .mdrain f => slotWord 0x08 f.pack | .mdraint f => slotWord 0x09 f.pack
  | .mcbl f => slotWord 0x0A f.pack | .mclr f => slotWord 0x0B f.pack | .mfence f => slotWord 0x0C f.pack
  | .mstat f => slotWord 0x0D f.pack
  | .vld f => slotWord 0x01 f.pack | .vldt f => slotWord 0x02 f.pack | .sld f => slotWord 0x03 f.pack
  | .vldg f => slotWord 0x04 f.pack | .kld f => slotWord 0x05 f.pack
  | .vst f => slotWord 0x01 f.pack | .vstt f => slotWord 0x02 f.pack | .sst f => slotWord 0x03 f.pack
  | .vsts f => slotWord 0x04 f.pack | .kst f => slotWord 0x05 f.pack
  | .copy f => slotWord 0x01 f.pack | .copyt f => slotWord 0x02 f.pack | .spillt f => slotWord 0x03 f.pack
  | .gath f => slotWord 0x04 f.pack | .scat f => slotWord 0x05 f.pack
  | .amoAdd32 f | .amoAdd64 f | .amoMin f | .amoMax f | .amoMinu f | .amoMaxu f | .amoAnd f | .amoOr f
  | .amoXor f | .amoSwap f | .amoFxa f => slotWord 0x06 f.pack
  | .cas f => slotWord 0x07 f.pack | .casw f => slotWord 0x08 f.pack | .dcas f => slotWord 0x09 f.pack
  | .enq f => slotWord 0x0A f.pack | .chase f => slotWord 0x0B f.pack | .put f => slotWord 0x0C f.pack
  | .get f => slotWord 0x0D f.pack | .fenf f => slotWord 0x0E f.pack | .lxfer f => slotWord 0x0F f.pack
  | .lxred f => slotWord 0x10 f.pack | .bvec f => slotWord 0x11 f.pack | .pcon f => slotWord 0x12 f.pack
  | .preadMst f | .preadWbf f | .preadWf8 f | .preadMom f => slotWord 0x13 f.pack
  | .pstat f => slotWord 0x14 f.pack | .mapq f => slotWord 0x15 f.pack | .pref f => slotWord 0x16 f.pack
  | .mset f => slotWord 0x17 f.pack | .tdec f | .tdecH f => slotWord 0x18 f.pack
  | .xlinv f => slotWord 0x19 f.pack
  | .kand f => plWord 1 f | .kor f => plWord 2 f | .kxor f => plWord 3 f | .kandn f => plWord 4 f
  | .korn f => plWord 5 f | .knot f => plWord 6 f | .kmov f => plWord 7 f
  | .wait kd o sb => syWord 0x01 (kd ++ o.scope ++ o.index ++ sb ++ 0#4)
  | .arrive o sa => syWord 0x02 (o.scope ++ o.index ++ sa ++ 0#8)
  | .arriveHandle h sa => syWord 0x02 (7#3 ++ 0#3 ++ h ++ sa ++ 0#8)
  | .bari o sa e h => syWord 0x03 (o.scope ++ o.index ++ 0#1 ++ sa ++ BitVec.ofBool e ++ h ++ 0#3)
  | .bariAtt o => syWord 0x03 (o.scope ++ o.index ++ 1#1 ++ 0#13)
  | .twait a b c => syWord 0x04 (a ++ b ++ c ++ 0#5)
  | .ttest kd a => syWord 0x05 (kd ++ a ++ 0#13)
  | .fence m sc => syWord 0x06 (m ++ sc ++ 0#4)
  | .pnext kd rf r n => syWord 0x07 (kd ++ BitVec.ofBool rf ++ r ++ 0#6 ++ n)
  | .padv tko rf r n => syWord 0x08 (tko ++ BitVec.ofBool rf ++ r ++ 0#4 ++ n)
  | .pcancel => syWord 0x09 0
  | .pstatq sd => syWord 0x0A (sd ++ 0#17)
  | .hset h sa => syWord 0x0B (h ++ sa ++ 0#14)
  | .tend => syWord 0x0C 0
  | .tspawn kd sa sb => syWord 0x0D (kd ++ sa ++ sb ++ 0#7)
  | .trap c => syWord 0x0E (0#7 ++ c)
  | .brk c => syWord 0x0F (0#7 ++ c)
  | .live f =>
    syWord 0x10 (f.vcnt ++ f.shi ++ BitVec.ofBool f.k ++ BitVec.ofBool f.t ++ BitVec.ofBool f.c
      ++ BitVec.ofBool f.w ++ BitVec.ofBool f.a ++ f.spx)
  | .tslot sa => syWord 0x11 (sa ++ 0#17)
  | .notify sa => syWord 0x12 (sa ++ 0#17)
  | .svc tko sa c => syWord 0x13 (tko ++ sa ++ c ++ 0#1)
  | _ => 0

/-- The bundle that holds an operation alone and ends its group (R61, R65). -/
def encodeBundle (i : Instr) : Bundle :=
  let w := encode i
  let stop : Word := 0x8000000000000000
  match i.slot with
  | some .sc => #v[w, 0, 0, 0, 0, 0, 0, stop] | some .va => #v[0, w, 0, 0, 0, 0, 0, stop]
  | some .vb => #v[0, 0, w, 0, 0, 0, 0, stop] | some .mx => #v[0, 0, 0, w, 0, 0, 0, stop]
  | some .ld => #v[0, 0, 0, 0, w, 0, 0, stop] | some .st => #v[0, 0, 0, 0, 0, w, 0, stop]
  | some .cp => #v[0, 0, 0, 0, 0, 0, w, stop]
  | some .pl | some .sy => #v[0, 0, 0, 0, 0, 0, 0, stop ||| w]
  | none => #v[0, 0, 0, 0, 0, 0, 0, stop]

/-- Whether an operation is a slot's no-op. -/
def Instr.isNop : Instr → Bool
  | .nop | .vnop | .mnop | .lnop | .stSnop | .cnop | .sySnop => true
  | _ => false

/-- The first part of a bundle, in issue order, whose operation is not a no-op. -/
def Bundle.firstSlot (b : Bundle) : Slot :=
  match Slot.all.find? (fun k => match b.decode k with
      | .ok i => !i.isNop
      | .error _ => true) with
  | some k => k
  | none => .sc

/-- The bundle whose 512 bits are `w`, slot 0 lowest (R61). (DESIGN CHOICE, log 12) -/
def bundleOfNat (w : Nat) : Bundle := Vector.ofFn fun k : Fin 8 => BitVec.ofNat 64 (w / 2 ^ (64 * k.val))

/-- The operation the decoder reads from a bundle whose low `nbits` bits are `w` and whose others are 0: its
first operation that is not a no-op; none when any part of the bundle does not decode.
(DESIGN CHOICE, log 12) -/
def decodeTableWord (nbits w : Nat) : Option Instr :=
  let b := bundleOfNat (w % 2 ^ nbits)
  if Slot.all.all (fun k => (b.decode k).toBool) then (b.decode b.firstSlot).toOption else none

end Sys2Proof
end

