-- ==== Sys2Proof/Config.lean ====
section
/-! DEFINITION. What an implementation fixes and the free values: constants with no body, so that no
proof can lean on a value the spec leaves open. Each is named in the assumption log. -/

namespace Sys2Proof.Config

/-- Cycles a step takes; the spec gives bounds, not times (DESIGN CHOICE, log 4). -/
opaque stepCycles : Nat → Nat
/-- Nanoseconds of pod time a step takes (DESIGN CHOICE, log 4). -/
opaque stepNanoseconds : Nat → Nat
/-- Which agent moves after a step, from the step counter (DESIGN CHOICE, log 5). -/
opaque schedule : Nat → Nat
/-- A transcendental result whose rounding the model's deepest precision does not settle (DESIGN CHOICE, log 6):
function number, argument code. -/
opaque transcendental : Nat → BitVec 64 → BitVec 64 × BitVec 5
/-- Meloz's public key, and a module's private identity keys by number, each 57 bytes as a number: the keys are not
given (R3, R359, R364; DESIGN CHOICE, log 51). -/
opaque melozKey : Nat
opaque identityKey : Nat → Nat
/-- The output length in bits that KMAC256 also takes and R345 does not give (DESIGN CHOICE, log 7). -/
opaque kmacBits : Nat
/-- The keys two services agree for a slot: source module, destination module, slot index, rotation count; the 64
bytes of the XTS key and the 32 of the MAC key, as numbers (R346, R362; PRESUMED, log 7). -/
opaque agreedKeys : BitVec 12 → BitVec 12 → Bool → Nat → Nat × Nat
/-- The bank and row of a granule of a stack; a number from which the first granule of a row comes; whether an access,
by its granule and the step counter, activates its row; and the refresh window of a stack at a step: R227 and R231
leave them to the base die (DESIGN CHOICE, log 3). -/
opaque bankRow : Nat → BitVec 16 × BitVec 16
opaque rowLine : BitVec 6 → BitVec 16 → BitVec 16 → Nat
opaque opensRow : Nat → Nat → Bool
opaque refreshWindow : BitVec 3 → Nat → Nat
/-- The port at the other end of a Trepin link, and the lane group of an event at a unit (R367; DESIGN CHOICE, log 3).
-/
opaque linkPeer : BitVec 4 → BitVec 8
opaque laneGroup : BitVec 4 → BitVec 12 → BitVec 4
/-- Another module's service answers whether an address there holds a norm cell: module, address, the counter
`State.free` (R260; DESIGN CHOICE, log 80). -/
opaque remoteCell : BitVec 12 → Nat → Nat → Bool
/-- Where the service puts what the spec places in memory it reserves: save areas, spare frames,
doorbell lines (R312, R331, R368; DESIGN CHOICE, log 8). -/
opaque reservedFrame : Nat → BitVec 28
/-- The port a packet leaves by, among its route's ports: the hash of R341 is not given (DESIGN CHOICE, log 9). -/
opaque portHash : BitVec 12 → Nat → BitVec 32 → Nat
/-- The ports that reach a module, as the service loads them (R341; DESIGN CHOICE, log 9). -/
opaque peerPorts : BitVec 12 → List (BitVec 4)
/-- Which of a die's two service cores serves a context (R291; DESIGN CHOICE, log 43). -/
opaque serviceSecond : BitVec 16 → Bool
/-- The SEC-DED check bits of a flit header, and the check byte of a payload word: the codes are not given
(R293; DESIGN CHOICE, log 77). -/
opaque headerCheck : BitVec 56 → BitVec 8
opaque wordCheck : BitVec 64 → BitVec 8
/-- Which of its two modules a UCIe gateway sends a message by (R307; DESIGN CHOICE, log 43). -/
opaque ucieModule : Nat → Bool
/-- The bytes a capability entry's body holds, from its number and what it lists: the layout is not given
(R363; DESIGN CHOICE, log 10). -/
opaque capabilityBody : Nat → List Byte → List Byte
/-- The bytes an attestation's digest covers, from the items of R365: their layout is not given (DESIGN CHOICE, log
10). -/
opaque attestedBytes : List Byte → List Byte
/-- Identity words of the capability list that the spec names and gives no value: part and serial,
image versions (R363; DESIGN CHOICE, log 10). -/
opaque identity : Nat → BitVec 64
/-- The barrier network's binding of a die, package or pod name to a physical object always succeeds
or not at an open (R26; DESIGN CHOICE, log 11). -/
opaque bindSucceeds : Nat → Bool
/-- The root module that a service chooses for a pod object: pod context id, index (R309; DESIGN CHOICE, log 13). -/
opaque podRoot : BitVec 16 → BitVec 6 → BitVec 12
/-- The bytes of a region of a save slot whose inner layout R331 does not give, from what the region holds: offset
of the region, its contents (DESIGN CHOICE, log 32). -/
opaque imageRegion : Nat → List Byte → List Byte
/-- Whether a step of the boot sequence succeeds: the counter `State.free`, the step (R359; DESIGN CHOICE, log 51). -/
opaque bootStepOk : Nat → Nat → Bool
/-- A value the spec leaves unspecified, by kind and by the counter `State.free` (DESIGN CHOICE, log 3). -/
opaque freeValue : Nat → Nat → BitVec 64

end Sys2Proof.Config
end

