-- ==== Sys2Proof/Machine/Fp.lean ====
section
/-! DEFINITION. Number formats, exact values, rounding and conversions (R37 to R52). Every arithmetic
result is formed as an exact value and rounded once. -/

namespace Sys2Proof.Machine

/-- Format codes 0x0 to 0x9 (R37). -/
inductive Fmt where
  | f32 | bf16 | e4m3 | e5m2 | i8 | i32 | i64 | c4 | cf32 | fx64
  deriving DecidableEq, Repr

/-- The format a code names; codes 0xA to 0xF are reserved (R37). -/
def Fmt.ofCode (c : Nat) : Option Fmt :=
  match c with
  | 0 => some .f32 | 1 => some .bf16 | 2 => some .e4m3 | 3 => some .e5m2 | 4 => some .i8
  | 5 => some .i32 | 6 => some .i64 | 7 => some .c4 | 8 => some .cf32 | 9 => some .fx64
  | _ => none

/-- Element size in bits (R37). -/
def Fmt.width : Fmt → Nat
  | .f32 => 32 | .bf16 => 16 | .e4m3 => 8 | .e5m2 => 8 | .i8 => 8 | .i32 => 32 | .i64 => 64
  | .c4 => 4 | .cf32 => 64 | .fx64 => 64

/-- The "Scaled" column of R37. -/
def Fmt.scaled : Fmt → Bool
  | .bf16 | .e4m3 | .e5m2 | .i8 | .c4 => true
  | _ => false

/-- The four floating-point formats (R39). -/
def Fmt.isFp : Fmt → Bool
  | .f32 | .bf16 | .e4m3 | .e5m2 => true
  | _ => false

/-- The integer formats (R42). -/
def Fmt.isInt : Fmt → Bool
  | .i8 | .i32 | .i64 => true
  | _ => false

/-- Trailing mantissa bits (R39). -/
def Fmt.mbits : Fmt → Nat
  | .f32 => 23 | .bf16 => 7 | .e4m3 => 3 | .e5m2 => 2 | _ => 0

/-- Exponent bits (R39). -/
def Fmt.ebits : Fmt → Nat
  | .f32 => 8 | .bf16 => 8 | .e4m3 => 4 | .e5m2 => 5 | _ => 0

/-- Exponent bias (R39). -/
def Fmt.bias : Fmt → Int
  | .f32 => 127 | .bf16 => 127 | .e4m3 => 7 | .e5m2 => 15 | _ => 0

/-- The code of the largest finite value (R40). -/
def Fmt.maxCode : Fmt → Nat
  | .f32 => 0x7F7FFFFF | .bf16 => 0x7F7F | .e4m3 => 0x7E | .e5m2 => 0x7B | _ => 0

/-- The code of +∞; E4M3 has none (R40). -/
def Fmt.infCode : Fmt → Nat
  | .f32 => 0x7F800000 | .bf16 => 0x7F80 | .e5m2 => 0x7C | _ => 0x7F

/-- The canonical NaN (R40). -/
def Fmt.nanCode : Fmt → Nat
  | .f32 => 0x7FC00000 | .bf16 => 0x7FC0 | .e4m3 => 0x7F | .e5m2 => 0x7E | _ => 0

/-- An element code of any format, in the low bits. -/
abbrev Code := BitVec 64

/-- Sticky flags in the order of FPC<12:8>: bit 0 NV, 1 OF, 2 UF, 3 NX, 4 DZ (R30). -/
abbrev Flags := BitVec 5

namespace Flags
def none : Flags := 0
def nv : Flags := 1
def ovf : Flags := 2
def unf : Flags := 4
def nx : Flags := 8
def dz : Flags := 16
end Flags

/-- Rounding modes (R47). -/
inductive RMode where
  | rne | rtz | rdn | rup | rna
  deriving DecidableEq, Repr

/-- FPC.RM (R30); 0b101 to 0b111 cannot be written. -/
def RMode.ofRM (c : Nat) : RMode :=
  match c with
  | 1 => .rtz | 2 => .rdn | 3 => .rup | 4 => .rna | _ => .rne

/-- The code of a mode in FPC.RM (R30). -/
def RMode.code : RMode → Nat
  | .rne => 0 | .rtz => 1 | .rdn => 2 | .rup => 3 | .rna => 4

/-- The mode an override selects over FPC.RM (R47). -/
def RMode.ofOverride (ro rm : Nat) : RMode :=
  if ro = 0 then RMode.ofRM rm else RMode.ofRM (ro - 1)

/-- The control values an operation captures (R53). -/
structure FpEnv where
  mode : RMode
  f8sat : Bool
  fzi : Bool
  fzo : Bool
  deriving DecidableEq, Repr

/-- An exact value: a NaN (and whether making it raises NV), an infinity, or a finite real whose sign
matters when it is zero. -/
inductive XR where
  | nan (nv : Bool)
  | inf (neg : Bool)
  | fin (q : ℚ) (neg : Bool)
  deriving DecidableEq, Repr

/-- 2^e for a signed exponent. -/
def pow2 (e : Int) : ℚ := if 0 ≤ e then ((2 ^ e.toNat : Nat) : ℚ) else 1 / ((2 ^ (-e).toNat : Nat) : ℚ)

/-- A finite value with the sign its real has; zero takes the given sign. -/
def XR.ofRat (q : ℚ) (zneg : Bool) : XR := .fin q (if q = 0 then zneg else decide (q < 0))

def XR.isNeg : XR → Bool
  | .nan _ => false
  | .inf n => n
  | .fin _ n => n

def XR.neg : XR → XR
  | .nan v => .nan v
  | .inf n => .inf (!n)
  | .fin q n => .fin (-q) (!n)

/-- Product: 0 × ∞ is invalid (R41). -/
def XR.mul : XR → XR → XR
  | .nan a, .nan b => .nan (a || b)
  | .nan a, _ => .nan a
  | _, .nan b => .nan b
  | .inf a, .inf b => .inf (a != b)
  | .inf a, .fin q b => if q = 0 then .nan true else .inf (a != b)
  | .fin q a, .inf b => if q = 0 then .nan true else .inf (a != b)
  | .fin p a, .fin q b => .fin (p * q) (a != b)

/-- Sum: infinities of opposite sign are invalid (R41); the sign of an exact zero sum of non-zero or
unlike terms is + except under RDN (R128). -/
def XR.add (m : RMode) : XR → XR → XR
  | .nan a, .nan b => .nan (a || b)
  | .nan a, _ => .nan a
  | _, .nan b => .nan b
  | .inf a, .inf b => if a = b then .inf a else .nan true
  | .inf a, _ => .inf a
  | _, .inf b => .inf b
  | .fin p a, .fin q b =>
    if p + q = 0 then .fin 0 (if a = b then a else decide (m = .rdn)) else .fin (p + q) (decide (p + q < 0))

/-- Quotient by a finite non-zero real, such as a valid scale (R46). -/
def XR.divQ (x : XR) (s : ℚ) : XR :=
  match x with
  | .nan v => .nan v
  | .inf n => .inf n
  | .fin q n => .fin (q / s) n

/-- A product with a finite non-zero real. -/
def XR.mulQ (x : XR) (s : ℚ) : XR :=
  match x with
  | .nan v => .nan v
  | .inf n => .inf n
  | .fin q n => .fin (q * s) n

/-- The value a floating-point code encodes (R39, R40). Signalling NaNs raise NV when used. -/
def decodeFp (f : Fmt) (c : Code) : XR :=
  let n := c.toNat % 2 ^ f.width
  let neg : Bool := decide (2 ^ (f.width - 1) ≤ n)
  let mag := n % 2 ^ (f.width - 1)
  let e := mag / 2 ^ f.mbits
  let m := mag % 2 ^ f.mbits
  let top := 2 ^ f.ebits - 1
  let sgn (q : ℚ) : XR := .fin (if neg then -q else q) neg
  if f = .e4m3 then
    if mag = 0x7F then .nan false
    else if e = 0 then sgn ((m : ℚ) * pow2 (1 - f.bias - f.mbits))
    else sgn (((2 ^ f.mbits + m : Nat) : ℚ) * pow2 (e - f.bias - f.mbits))
  else if e = top then
    if m = 0 then .inf neg else .nan (decide (m < 2 ^ (f.mbits - 1)))
  else if e = 0 then sgn ((m : ℚ) * pow2 (1 - f.bias - f.mbits))
  else sgn (((2 ^ f.mbits + m : Nat) : ℚ) * pow2 (e - f.bias - f.mbits))

/-- A subnormal code: biased exponent 0, mantissa not 0. -/
def isSubnormal (f : Fmt) (c : Code) : Bool :=
  let mag := c.toNat % 2 ^ (f.width - 1)
  decide (mag / 2 ^ f.mbits = 0) && decide (mag % 2 ^ f.mbits ≠ 0)

/-- A source operand under FZI: FP32 and BF16 subnormals read as zero with their sign (R48). -/
def decodeOperand (env : FpEnv) (f : Fmt) (c : Code) : XR :=
  if env.fzi && (f = .f32 || f = .bf16) && isSubnormal f c then
    .fin 0 (decide (2 ^ (f.width - 1) ≤ c.toNat % 2 ^ f.width))
  else decodeFp f c

/-- The value of a two's-complement code of width `w`. -/
def intOf (w : Nat) (c : Code) : Int := (c.setWidth w).toInt

/-- floor(log2 q) for q > 0. -/
def log2Floor (q : ℚ) : Int :=
  let e : Int := (Nat.log2 q.num.natAbs : Int) - (Nat.log2 q.den : Int)
  if q < pow2 e then e - 1 else e

/-- A non-negative real rounded to an integer; `neg` is the sign of the value it is the magnitude of. -/
def roundNat (m : RMode) (neg : Bool) (q : ℚ) : Nat :=
  let n := q.num.natAbs
  let d := q.den
  let fl := n / d
  let r := n % d
  if r = 0 then fl
  else match m with
    | .rne => if 2 * r < d then fl else if d < 2 * r then fl + 1 else fl + fl % 2
    | .rna => if 2 * r < d then fl else fl + 1
    | .rtz => fl
    | .rdn => if neg then fl + 1 else fl
    | .rup => if neg then fl else fl + 1

/-- An exact real rounded to an integer under a mode. -/
def roundInt (m : RMode) (q : ℚ) : Int :=
  if q < 0 then -((roundNat m true (-q) : Nat) : Int) else ((roundNat m false q : Nat) : Int)

/-- The largest finite value of a format (R40). -/
def maxFinite (f : Fmt) : ℚ :=
  let m := f.maxCode % 2 ^ f.mbits
  let e := f.maxCode / 2 ^ f.mbits
  ((2 ^ f.mbits + m : Nat) : ℚ) * pow2 (e - f.bias - f.mbits)

/-- A code with its sign bit. -/
def signed (f : Fmt) (neg : Bool) (mag : Nat) : Code :=
  BitVec.ofNat 64 (if neg then mag + 2 ^ (f.width - 1) else mag)

/-- What an overflowing result stores (R49). -/
def overflowCode (env : FpEnv) (f : Fmt) (neg : Bool) : Code :=
  let toInf := match env.mode with
    | .rne | .rna => true
    | .rtz => false
    | .rup => !neg
    | .rdn => neg
  if (f = .e4m3 || f = .e5m2) && env.f8sat then signed f neg f.maxCode
  else if toInf then (if f = .e4m3 then BitVec.ofNat 64 f.nanCode else signed f neg f.infCode)
  else signed f neg f.maxCode

/-- `round_fp` (R8, R47 to R50): an exact value rounded to a floating-point format, with its flags. -/
def roundFp (env : FpEnv) (f : Fmt) (x : XR) : Code × Flags :=
  match x with
  | .nan nv => (BitVec.ofNat 64 f.nanCode, if nv then Flags.nv else 0)
  | .inf neg =>
    if f = .e4m3 then
      if env.f8sat then (signed f neg f.maxCode, Flags.ovf ||| Flags.nx)
      else (BitVec.ofNat 64 f.nanCode, Flags.nv)
    else (signed f neg f.infCode, 0)
  | .fin q neg =>
    if q = 0 then (signed f neg 0, 0)
    else
      let a := |q|
      let e := log2Floor a
      let emin : Int := 1 - f.bias
      -- rounding with an unbounded exponent
      let um := roundNat env.mode neg (a / pow2 (e - f.mbits))
      let uv : ℚ := (um : ℚ) * pow2 (e - f.mbits)
      let tiny := decide (uv < pow2 emin)
      if maxFinite f < uv then (overflowCode env f neg, Flags.ovf ||| Flags.nx)
      else
        let ee := if e < emin then emin else e
        let m := roundNat env.mode neg (a / pow2 (ee - f.mbits))
        let v : ℚ := (m : ℚ) * pow2 (ee - f.mbits)
        let inexact := decide (v ≠ a)
        let mag := if m < 2 ^ f.mbits then m
          else ((ee + f.bias).toNat - 1) * 2 ^ f.mbits + m
        if env.fzo && (f = .f32 || f = .bf16) && decide (mag ≠ 0) && decide (mag < 2 ^ f.mbits) then
          (signed f neg 0, Flags.unf ||| Flags.nx)
        else
          (signed f neg mag,
            (if inexact then Flags.nx else 0) ||| (if tiny && inexact then Flags.unf else 0))

/-- `saturate` of R8. -/
def saturate (x lo hi : Int) : Int := if x < lo then lo else if hi < x then hi else x

/-- The range of a two's-complement format of width `w`, lowest and highest. -/
def intLo (w : Nat) : Int := -(2 ^ (w - 1) : Nat)
def intHi (w : Nat) : Int := (2 ^ (w - 1) : Nat) - 1

/-- A floating-point value into an integer format (R51). -/
def toIntFmt (m : RMode) (w : Nat) (x : XR) : Code × Flags :=
  match x with
  | .nan _ => (0, Flags.nv)
  | .inf neg => (BitVec.ofInt 64 (if neg then intLo w else intHi w), Flags.nv)
  | .fin q _ =>
    let i := roundInt m q
    let s := saturate i (intLo w) (intHi w)
    if s ≠ i then (BitVec.ofInt 64 s, Flags.nv)
    else (BitVec.ofInt 64 i, if ((i : ℚ) = q) then 0 else Flags.nx)

/-- `to_fx64` (R8, R45): nearest-even at weight 2^e, saturated; the Bools say saturation and NaN. -/
def toFx64 (x : XR) (e : Int) : BitVec 64 × Bool × Bool :=
  match x with
  | .nan _ => (0, false, true)
  | .inf neg => (BitVec.ofInt 64 (if neg then intLo 64 else intHi 64), true, false)
  | .fin q _ =>
    let i := roundInt .rne (q / pow2 e)
    let s := saturate i (intLo 64) (intHi 64)
    (BitVec.ofInt 64 s, decide (s ≠ i), false)

/-- `from_fx64` (R8). -/
def fromFx64 (q : BitVec 64) (e : Int) : ℚ := (q.toInt : ℚ) * pow2 e

/-- The exact value of an element of a floating-point or integer format. -/
def exactOf (f : Fmt) (c : Code) : XR :=
  if f.isFp then decodeFp f c else XR.ofRat (intOf f.width c : ℚ) false

/-- A scale is usable when it is a positive normal finite FP32 value (R46). -/
def scaleOk (s : Word32) : Bool :=
  match decodeFp .f32 (s.setWidth 64) with
  | .fin q _ => decide (0 < q) && !(isSubnormal .f32 (s.setWidth 64))
  | _ => false

/-- The real a usable scale stands for. -/
def scaleVal (s : Word32) : ℚ :=
  match decodeFp .f32 (s.setWidth 64) with
  | .fin q _ => q
  | _ => 1

/-- An exact value into a floating-point or integer format under a mode (R51). -/
def convertExact (env : FpEnv) (dst : Fmt) (x : XR) : Code × Flags :=
  if dst.isFp then roundFp env dst x else toIntFmt env.mode dst.width x

/-- The conversions of R51 between floating-point and integer formats, codes read unscaled. -/
def convert (env : FpEnv) (dst src : Fmt) (c : Code) : Code × Flags :=
  if src.isInt && dst.isInt then
    (BitVec.ofInt 64 (saturate (intOf src.width c) (intLo dst.width) (intHi dst.width)), 0)
  else convertExact env dst (exactOf src c)

/-- The result of an operation whose scale breaks R46: canonical NaN, or 0, and NV (R46, R136). -/
def badScale (dst : Fmt) : Code × Flags := (BitVec.ofNat 64 dst.nanCode, Flags.nv)

/-- Entry `i` of a codebook: bits 16i+15 : 16i (R18). -/
def cbEntry (cb : BitVec 256) (i : Nat) : Code := (cb.extractLsb' (16 * i) 16).setWidth 64

/-- The exact distance test of R52 over the entries that are not NaN: `best` so far is kept on ties. -/
def c4Nearest (cb : BitVec 256) (y : ℚ) : Nat × Option ℚ :=
  (List.range 16).foldl (fun (b : Nat × Option ℚ) i =>
    match decodeFp .bf16 (cbEntry cb i) with
    | .fin q _ =>
      match b.2 with
      | none => (i, some (|q - y|))
      | some d => if |q - y| < d then (i, some (|q - y|)) else b
    | _ => b) (0, none)

/-- The index of the greatest (or least) entry that is not a NaN, lowest index on ties (R52). -/
def c4Extreme (cb : BitVec 256) (least : Bool) : Option Nat :=
  let key (i : Nat) : Option (Int × ℚ) :=
    match decodeFp .bf16 (cbEntry cb i) with
    | .nan _ => none
    | .inf n => some (if n then -1 else 1, 0)
    | .fin q _ => some (0, q)
  let lt (a b : Int × ℚ) : Bool := decide (a.1 < b.1) || (decide (a.1 = b.1) && decide (a.2 < b.2))
  ((List.range 16).foldl (fun (b : Option (Nat × (Int × ℚ))) i =>
    match key i with
    | none => b
    | some k =>
      match b with
      | none => some (i, k)
      | some (_, k0) => if (if least then lt k k0 else lt k0 k) then some (i, k) else b)
    none).map (·.1)

/-- Quantisation to C4 of the exact y (R52). (DEDUCED, log 34) -/
def quantC4 (cb : BitVec 256) (y : XR) : Code × Flags :=
  match y with
  | .nan _ => (0, Flags.nv)
  | .inf neg =>
    match c4Extreme cb neg with
    | none => (0, Flags.nv)
    | some i => (BitVec.ofNat 64 i, if decodeFp .bf16 (cbEntry cb i) = .inf neg then 0 else Flags.nx)
  | .fin q _ =>
    match c4Nearest cb q with
    | (i, some d) => (BitVec.ofNat 64 i, if d = 0 then 0 else Flags.nx)
    | (_, none) =>
      -- every entry that is not a NaN is infinite: infinite distance, lowest index
      match (List.range 16).find? (fun i => match decodeFp .bf16 (cbEntry cb i) with
          | .nan _ => false | _ => true) with
      | none => (0, Flags.nv)
      | some i => (BitVec.ofNat 64 i, Flags.nx)

/-- A rational that rounds as √q does: √q when it is one, else a point strictly between the two
neighbours of √q on a grid finer than every rounding boundary. -/
def sqrtProxy (q : ℚ) : ℚ :=
  let k := 256
  let n := q.num.natAbs * q.den
  let s := Nat.sqrt (n * 4 ^ k)
  let v : ℚ := (s : ℚ) / ((q.den * 2 ^ k : Nat) : ℚ)
  if s * s = n * 4 ^ k then v else ((2 * s + 1 : Nat) : ℚ) / ((2 * q.den * 2 ^ k : Nat) : ℚ)

/-- The smaller of two codes by R129: −0 counts below +0, one NaN gives the other operand. -/
def fpLess (a b : XR) : Bool :=
  match a, b with
  | .nan _, _ => false
  | _, .nan _ => false
  | .inf n, .inf m => n && !m
  | .inf n, .fin _ _ => n
  | .fin _ _, .inf m => !m
  | .fin p n, .fin q m => decide (p < q) || (decide (p = q) && n && !m)

/-- VMIN and VMAX on codes (R129). -/
def fpMinMax (f : Fmt) (max : Bool) (a b : Code) : Code × Flags :=
  let x := decodeFp f a
  let y := decodeFp f b
  let fl : Flags := (if x = .nan true then Flags.nv else 0) ||| (if y = .nan true then Flags.nv else 0)
  match x, y with
  | .nan _, .nan _ => (BitVec.ofNat 64 f.nanCode, fl)
  | .nan _, _ => (b, fl)
  | _, .nan _ => (a, fl)
  | _, _ => (if fpLess y x != max then b else a, fl)

end Sys2Proof.Machine
end

