-- ==== Sys2Proof/Machine/Sparse.lean ====
section
/-! DEFINITION. Sparse maps from addresses to values, in one canonical form: keys strictly rising, and
no entry equal to what an unlisted key reads as. Memory, accumulator banks and weight images are such
maps. -/

namespace Sys2Proof.Machine

/-- A sparse map: entries by rising key. -/
abbrev Sparse (α : Type) := List (Nat × α)

/-- What key `i` reads as; an unlisted key reads as `d`. -/
def Sparse.get {α : Type} (d : α) : Sparse α → Nat → α
  | [], _ => d
  | (k, v) :: r, i => if i = k then v else Sparse.get d r i

/-- Writes key `i`; writing the value an unlisted key reads as removes the entry. -/
def Sparse.set {α : Type} [DecidableEq α] (d : α) : Sparse α → Nat → α → Sparse α
  | [], i, x => if x = d then [] else [(i, x)]
  | (k, v) :: r, i, x =>
    if i < k then (if x = d then (k, v) :: r else (i, x) :: (k, v) :: r)
    else if i = k then (if x = d then r else (i, x) :: r)
    else (k, v) :: Sparse.set d r i x

/-- Writes a list of cells, the first one first. -/
def Sparse.setAll {α : Type} [DecidableEq α] (d : α) (m : Sparse α) (l : List (Nat × α)) : Sparse α :=
  l.foldl (fun m c => Sparse.set d m c.1 c.2) m

/-- Removes every entry whose key satisfies `p`: those keys then read as unlisted. -/
def Sparse.clear {α : Type} (p : Nat → Bool) (m : Sparse α) : Sparse α := m.filter (fun c => !p c.1)

/-- The canonical form: keys strictly rising, no entry equal to `d`. -/
def Sparse.wf {α : Type} [DecidableEq α] (d : α) (m : Sparse α) : Bool :=
  decide (m.Pairwise (fun a b => a.1 < b.1)) && m.all (fun c => decide (c.2 ≠ d))

/-- The canonical form of the module's memory: a byte that nothing has written reads as 0 (R359). -/
abbrev Memory.wf (m : Sparse Byte) : Prop := Sparse.wf (0 : Byte) m = true

end Sys2Proof.Machine
end

