-- ==== Sys2Proof/Machine/State.lean ====
section
/-! DEFINITION. The state of the machine: one module, with the compute core that moves in `core` and
the other cores in `parked`. Every field is plain data. -/

namespace Sys2Proof.Machine

open Sys2Proof

/-- Why the machine stops with a fault. No meaning of this model raises one: every condition the spec describes
is a trap, a faulted token or a logged event, and those are next states. (DESIGN CHOICE, log 58) -/
inductive Fault where
  /-- The module is held in reset (R359, R369) and has nothing to run. Raised by `step` alone. Safe. -/
  | heldInReset
  deriving DecidableEq, Repr

/-- Why an operation has no meaning here. -/
inductive Refusal where
  /-- An arm of `exec` not yet written. Safe. -/
  | notModelled (mnemonic : String)
  deriving DecidableEq, Repr

/-- Trap causes (R325). -/
inductive Cause where
  | illegalEncoding | illegalGroup | featureAbsent | privilegedOperation | tileEmpty | tileBounds
  | scratchpadBounds | accumulatorNotOwned | weightsAbsent | handleInvalid | tokenFaulted
  | phaseLate | phaseFault | memoryError | softwareTrap | breakpoint
  deriving DecidableEq, Repr

/-- The code of a cause (R325). -/
def Cause.code : Cause → BitVec 16
  | .illegalEncoding => 0x0001 | .illegalGroup => 0x0002 | .featureAbsent => 0x0003
  | .privilegedOperation => 0x0004 | .tileEmpty => 0x0005 | .tileBounds => 0x0006
  | .scratchpadBounds => 0x0007 | .accumulatorNotOwned => 0x0008 | .weightsAbsent => 0x0009
  | .handleInvalid => 0x000A | .tokenFaulted => 0x000B | .phaseLate => 0x000C
  | .phaseFault => 0x000D | .memoryError => 0x000E | .softwareTrap => 0x000F | .breakpoint => 0x0010

/-- A trap condition of one slot: its cause and what INFO holds (R325). -/
structure TrapCond where
  cause : Cause
  info : BitVec 64
  deriving DecidableEq, Repr

/-- The registers of the illegal-group rule (R67). -/
inductive RegName where
  | s (i : BitVec 6) | k (i : BitVec 4) | v (i : BitVec 6) | cb (i : BitVec 3)
  | tile (i : BitVec 7) | handle (i : BitVec 3) | cr (i : BitVec 6)
  deriving DecidableEq, Repr

/-- What a result in flight writes when it becomes visible (R69): a mask or vector result writes the
bits of `en` alone. -/
inductive ResVal where
  | none
  | s (i : BitVec 6) (x : Word)
  | k (i : BitVec 4) (x en : Mask)
  | v (i : BitVec 6) (x en : VReg)
  | cb (i : BitVec 3) (x : BitVec 256)
  | cr (i : BitVec 6) (x : Word)
  | h (i : BitVec 3) (x : Word)
  deriving DecidableEq, Repr

/-- A result in flight (R69, R330): group starts still to pass, flags for FPC, bits for STAT. -/
structure Result where
  val : ResVal
  rem : Nat
  flags : Flags
  stat : BitVec 5
  seq : Nat
  deriving DecidableEq, Repr

/-- Where an arrival goes: a barrier object, or the counter a handle held at issue (R72, R200). -/
inductive ArrTarget where
  | obj (o : ObjName)
  | counter (a : VAddr)
  deriving DecidableEq, Repr

/-- What retires the instruction that makes an arrival (R73). -/
inductive RetireOn where
  | groups (n : Nat)
  | groupEnd
  | store (id : Nat)
  | mx (id : Nat)
  | cmd (id : Nat)
  deriving DecidableEq, Repr

/-- An arrival not yet made: `held` until a checkpoint commits at or after its group (R73). `mark` is the count of
group starts it had left at the last checkpoint, which a rollback returns to (R77); commands with a smaller id than
`before` were issued earlier. -/
structure PendArr where
  target : ArrTarget
  on : RetireOn
  held : Bool
  mark : Nat
  before : Nat
  deriving DecidableEq, Repr

/-- A withheld write: scratchpad bytes by offset, or accumulator elements by key, with the flags that
its release raises (R28, R142). -/
structure StoreEntry where
  id : Nat
  bytes : List (Nat × Byte)
  elems : List (Nat × Word32)
  flags : Flags
  deriving DecidableEq, Repr

/-- A weight latch (R17): codes by key 48 k + j for k < `kel`, an absent code being 0; lanes at or past
`kel` are exact zeros (R149). -/
structure Latch where
  valid : Bool
  kel : Nat
  fmt : BitVec 3
  scale : Word32
  cb : BitVec 256
  w : Sparse (BitVec 16)
  deriving DecidableEq, Repr

/-- The latch state MCLR leaves and a task starts with (R151). (DESIGN CHOICE, log 2) -/
def Latch.cleared : Latch := ⟨false, 0, 0, 0x3F800000, 0, []⟩

/-- The kinds of MX operation the scoreboard tells apart (R156). -/
inductive MxKind where
  | latch | accWrite | drain
  deriving DecidableEq, Repr

/-- A block of a bank's accumulator words, by rows and columns. -/
structure AccBlock where
  row : Nat
  rows : Nat
  col : Nat
  cols : Nat
  deriving DecidableEq, Repr

/-- An MX operation in flight (R156, R163): what its busy bits cover, the tile bytes it writes when it completes, and
the accumulator words it reads (R236). -/
structure MxOp where
  id : Nat
  kind : MxKind
  bank : BitVec 5
  bandLo : Nat
  bandHi : Nat
  aligned : Bool
  reads : List (BitVec 7)
  writes : List (BitVec 7)
  drains : List (BitVec 7)
  bytes : List (Nat × Byte)
  flags : Flags
  sums : AccBlock
  deriving DecidableEq, Repr

/-- Where an element of an engine command lies, by bit address: the core's own scratchpad, this
module's physical memory, another module, a dead page, or a place that faults with a code. -/
inductive Loc where
  | spad (bit : Nat)
  | phys (bit : Nat)
  | remote (m : BitVec 12) (bit : Nat)
  | dead
  | bad (code : BitVec 8)
  deriving DecidableEq, Repr

/-- Where a piece of a command stands; `parked` is a nibble that waits for the other one of its byte. -/
inductive Stage where
  | waiting | reading | parked | writing | done
  deriving DecidableEq, Repr

/-- One element of an engine command (R179): its place in the visiting order, source and destination, and the
bytes it is to write while their write cannot be sent. -/
structure Piece where
  idx : Nat
  src : Loc
  dst : Loc
  stage : Stage
  out : Option (List Byte)
  deriving DecidableEq, Repr

/-- What a command's fault comes from (R328, R373): its own translation, its home's answer, a request that a flit
error kept from its home, a response lost or in error, a tag its home refused, a packet lost, a block that has not
landed, or a consumed token whose command was retired. -/
inductive FaultWhy where
  | translation | home | unperformed | response | tag | packet | landing | inherited
  deriving DecidableEq, Repr

/-- A captured engine command (R172): its operation, the register values, modifier and control values it
captured, the 64 bytes of its record or descriptor, how far it has come, of a fault the restart point, the element
that failed and its cause (R175), and whether it has read a dead page (R24, R174). -/
structure Cmd where
  id : Nat
  op : Instr
  f : CpF
  ra : Word
  rb : Word
  rc : Word
  mod : BitVec 11
  env : FpEnv
  nest : Vector Word 8
  asid : BitVec 16
  map : BitVec 6
  released : Bool
  tileTaken : Bool
  restart : Nat
  faultAt : Nat
  pieces : List Piece
  status : BitVec 8
  faults : List (Nat × BitVec 8 × FaultWhy)
  why : FaultWhy
  stopped : Bool
  deadRead : Bool
  deriving DecidableEq, Repr

/-- A fence in force (R206): it holds commands of its classes issued after `after`, and is discarded by a
rollback until a checkpoint commits it. -/
structure Fence where
  after : Nat
  mask : BitVec 16
  scope : BitVec 3
  committed : Bool
  deriving DecidableEq, Repr

/-- The active loop nest (R110, R111): body, counts and indices, innermost first. -/
structure LoopState where
  first : Nat
  len : Nat
  counts : List Nat
  idx : List Nat
  deriving DecidableEq, Repr

/-- A branch's delay (R79): delay bundles still to issue, and the target when taken. -/
structure Delay where
  left : Nat
  target : Option Nat
  deriving DecidableEq, Repr

/-- The shadow set and the checkpoint record (R27, R74). -/
structure Shadow where
  s : Vector Word 64
  k : Vector Mask 16
  v : Vector VReg 64
  cb : Vector (BitVec 256) 8
  tiles : Vector (BitVec 128) 128
  tokens : Vector (BitVec 16) 63
  fpc : BitVec 13
  shape : BitVec 10
  mdef : BitVec 11
  stat : BitVec 5
  plim : BitVec 32
  pc : Nat
  loop : Option LoopState
  delay : Option Delay
  jumped : Bool
  landed : Bool
  flagsDue : Flags
  inflight : List Result
  deriving DecidableEq, Repr

/-- A NOTIFY post (R218): its value, the commands it waits for (those with a smaller id), and whether a
checkpoint has committed it. -/
structure Post where
  value : Word
  before : Nat
  committed : Bool
  deriving DecidableEq, Repr

/-- One entry of the store-count table (R348). -/
structure StoreCount where
  dmod : BitVec 12
  cls : BitVec 4
  count : BitVec 32
  deriving DecidableEq, Repr

/-- What the core does: nothing, run a task, wait for the service's answer to a trap, finish a task after
TEND, or complete the work of a task that a yield switches out (R213, R321, R327). -/
inductive CoreMode where
  | idle | running | trapped | ending | switching
  deriving DecidableEq, Repr

/-- The trap record handed to the service (R326). -/
structure TrapRec where
  cause : Cause
  slot : Nat
  rept : Nat
  bidx : Nat
  ckidx : Nat
  grpc : Word
  ptb : Word
  info : Word
  deriving DecidableEq, Repr

/-- The task a core runs (R310): context, record address, queue, gang place and rank held. -/
structure TaskInfo where
  asid : BitVec 16
  recVa : VAddr
  queue : BitVec 14
  gang : BitVec 3
  gidx : BitVec 3
  rank : BitVec 4
  deriving DecidableEq, Repr

/-- A member of a gang, wherever it runs or is saved: context, task record, place in the gang. -/
structure Member where
  asid : BitVec 16
  recVa : VAddr
  gidx : BitVec 3
  deriving DecidableEq, Repr

/-- A barrier object (R26, R198). -/
structure Barrier where
  exp : BitVec 24
  cnt : BitVec 24
  phase : BitVec 16
  init : Bool
  handle : Option VAddr
  deriving DecidableEq, Repr

/-- An uninitialised barrier object. -/
def Barrier.fresh : Barrier := ⟨0, 0, 0, false, none⟩

/-- How the wait of a stalled PADV has ended before its core moved: not at all, CUR became its target, or the
transition it waited on faulted (R252). -/
inductive PadvEnd where
  | none | met | faulted (code : BitVec 8)
  deriving DecidableEq, Repr

/-- A question of the focused group to the root of a pod object, by bundle: the packet's id, and the answer,
whether the object is initialised (R198, R309; DESIGN CHOICE, log 13). -/
structure PodAsk where
  pc : Nat
  pid : BitVec 32
  ok : Option Bool
  deriving DecidableEq, Repr

/-- A ready task: context, record, queue, readying time, save slot of a switched or frozen one. -/
structure PoolEntry where
  asid : BitVec 16
  recVa : VAddr
  queue : BitVec 14
  rank : BitVec 4
  rdy : BitVec 32
  since : Nat
  save : Option Nat
  deriving DecidableEq, Repr

/-- A code object on its way to a core's instruction store from another module's memory (R225): the bytes it takes, as
far as known, and those that have come. -/
structure CodeFetch where
  need : Nat
  got : List Byte
  deriving DecidableEq, Repr

/-- A compute core and everything its task sees (R10). -/
structure Core where
  id : BitVec 10
  feat : BitVec 9
  s : Vector Word 64
  k : Vector Mask 16
  v : Vector VReg 64
  acc : Sparse Word32
  own : BitVec 32
  wb0 : Latch
  wb1 : Latch
  cb : Vector (BitVec 256) 8
  tiles : Vector (BitVec 128) 128
  tokens : Vector (BitVec 16) 63
  handles : Vector Word 8
  bars : Vector Barrier 8
  usable : List ObjName
  fpc : BitVec 13
  shape : BitVec 10
  mdef : BitVec 11
  stat : BitVec 5
  plim : BitVec 32
  ckptc : BitVec 32
  grpc : Word
  ygrace : BitVec 32
  -- sequencing
  mode : CoreMode
  code : List (Vector Word 8)
  codeVa : VAddr
  pc : Nat
  slot : Nat
  gpos : Nat
  gws : List RegName
  grpIrrev : Bool
  passed : Bool
  jumped : Bool
  landed : Bool
  flagsDue : Flags
  ars : BitVec 2
  arr1 : BitVec 8
  arr2 : BitVec 8
  delay : Option Delay
  loop : Option LoopState
  inflight : List Result
  seq : Nat
  arrs : List PendArr
  stores : List StoreEntry
  releasing : List StoreEntry
  posts : List Post
  shadow : Shadow
  -- engine and matrix array
  queue : List Cmd
  running : List Cmd
  fences : List Fence
  mx : List MxOp
  counts : List StoreCount
  nextId : Nat
  -- scheduling
  task : Option TaskInfo
  lastAsid : Option (BitVec 16)
  live : Option LiveF
  declared : Nat
  sinceYield : Nat
  slice : Nat
  grpcStart : Word
  padvWait : Option Nat
  padvFor : Nat
  padvTgt : BitVec 6
  padvEnd : PadvEnd
  phasesMade : Nat
  succSent : Bool
  podAsk : List PodAsk
  freeze : Option FreezeWhy
  overrun : Bool
  trap : Option TrapRec
  lastTrap : Option (Cause × Nat × Nat)
  skipBrk : Option Nat
  incoming : Option PoolEntry
  rstc : Nat
  needFeat : BitVec 9
  frozenSince : Bool
  narrowSince : Bool
  poisonedBanks : BitVec 32
  poisonedWords : List Nat
  fetch : Option CodeFetch
  deriving DecidableEq, Repr

/-- A context image in a save slot (R331), held as the core it restores. (DESIGN CHOICE, log 32) -/
structure SaveImage where
  queue : BitVec 14
  slot : Nat
  freeze : Bool
  midg : Bool
  core : Core
  spad : List (Nat × Byte)
  handover : Bool
  lost : Bool
  nddb : Bool
  cost : Nat
  stopped : Nat
  deriving DecidableEq, Repr

/-- Message operations of the on-die network (R294). -/
inductive NetOp where
  | readReq | readResp | write | writeAck | merge | atResp | atomic | paramReq | paramResp
  | counter | control
  deriving DecidableEq, Repr

/-- OP of a flit (R294). -/
def NetOp.code : NetOp → BitVec 6
  | .readReq => 0x01 | .readResp => 0x02 | .write => 0x03 | .writeAck => 0x04 | .merge => 0x05
  | .atResp => 0x06 | .atomic => 0x07 | .paramReq => 0x08 | .paramResp => 0x09 | .counter => 0x0A
  | .control => 0x0B

/-- A port of the network: die, router, port (R291, R293). -/
structure Port where
  die : BitVec 2
  router : BitVec 6
  port : BitVec 3
  deriving DecidableEq, Repr

/-- One source entry of an at-memory flit (R301), and the message it serves. -/
structure AmoEntry where
  msg : Nat
  operand : Word
  order : BitVec 2
  src : BitVec 9
  mid : BitVec 8
  deriving DecidableEq, Repr

/-- A message in flight (R303): whose command it serves and which element, where it goes, what it carries, whether a
couch engine or another unit made it or nothing waits for it, when its access was sent (R296, R350), its message id on
the leg it travels, once its source port has one free (R293), and whether every flit of it has arrived. One that goes
over the fabric carries its sealed packet to a gateway, and is `away` once the packet has left; a multicast write
waits for the answers of its replicas (R341, R344, R351). -/
structure Msg where
  id : Nat
  op : NetOp
  core : BitVec 10
  cmd : Nat
  idx : Nat
  loc : Loc
  width : Nat
  data : List Byte
  sub : Nat
  entries : List AmoEntry
  status : BitVec 8
  cls : BitVec 4
  scope : BitVec 3
  asid : BitVec 16
  map : BitVec 6
  pid : Option (BitVec 32)
  couch : Bool
  since : Word
  psn : Bool
  src : Port
  dst : Port
  final : Port
  flits : Nat
  arrived : Bool
  mid : Option (BitVec 8)
  bare : Bool
  unit : Bool
  away : Bool
  packet : Option Packet
  replicas : Nat
  acks : Nat
  why : FaultWhy
  deriving DecidableEq, Repr

/-- A flit on a plane (R293): `here` is the router it stands at, `mid` the model's number of its message, `hmid` the
message id of its header. Before injection `inj` holds. -/
structure Flit where
  plane : BitVec 2
  here : BitVec 6
  src : Port
  dst : Port
  mid : Nat
  hmid : BitVec 8
  seq : Nat
  len : Nat
  age : BitVec 10
  op : NetOp
  sub : Nat
  loc : Loc
  mcnt : BitVec 2
  psn : Bool
  msgs : List Nat
  entries : List AmoEntry
  inj : Bool
  deriving DecidableEq, Repr

/-- A router's throttle state (R299): level, deflections and refusals of the window, cycles. -/
structure RouterState where
  level : BitVec 3
  count : Nat
  deriving DecidableEq, Repr

/-- An entry of a port's reassembly table (R304): source id and die, message id, LEN, the SEQ values received. -/
structure Reasm where
  port : Port
  src : Port
  mid : BitVec 8
  len : Nat
  seen : BitVec 32
  deriving DecidableEq, Repr

/-- The on-die networks and the messages they carry (R291 to R307), the reassembly tables, and the flits that wait
in ejection stores for an entry. -/
structure Net where
  msgs : List Msg
  flits : List Flit
  reasm : List Reasm
  store : List Flit
  credits : List (BitVec 2 × BitVec 2 × BitVec 6)
  routers : Vector (Vector RouterState 64) 4
  lastInj : List ((Port × BitVec 2) × Nat)
  cycle : Vector Nat 4
  nextMsg : Nat
  deriving DecidableEq, Repr

/-- Couch engine states (R211, R248). -/
inductive Couch where
  | idle | diffing | copying | finalPass | complete | cutting | faulted
  deriving DecidableEq, Repr

/-- The code of a couch engine state (R211). -/
def Couch.code : Couch → BitVec 3
  | .idle => 0 | .diffing => 1 | .copying => 2 | .finalPass => 3 | .complete => 4 | .cutting => 5
  | .faulted => 6

/-- A page whose data moves (R244 to R246): frames, bytes, sub-blocks its pass has still to copy, dirty
sub-blocks, mirrored or not, written or not. -/
structure PageMove where
  va : VAddr
  src : Loc
  dst : Loc
  size : Nat
  todo : List Nat
  dirty : List Nat
  mirrored : Bool
  written : Bool
  deriving DecidableEq, Repr

/-- What the final pass held and has let go: an element of a member's command, a packet at its gateway, a pan unit's
update of a record (R247). -/
inductive Held where
  | piece (who : Member) (cmd idx : Nat)
  | packet (p : Packet)
  | update (pa : Nat)
  deriving DecidableEq, Repr

/-- A code object as loaded (R62, R365). -/
structure CodeObj where
  va : VAddr
  bytes : List Byte
  deriving DecidableEq, Repr

/-- A table of a context's maps (R239): its map and level, the entries of the levels above that lead to it, and its
physical address. -/
structure MapTable where
  map : Nat
  level : Nat
  top : Nat
  mid : Nat
  base : Nat
  deriving DecidableEq, Repr

/-- A context (R238): its maps as lists of leaf pages, with the places of the tables that hold them and the maps as they
were loaded (R239, R365), its transition and how many there have been, the writes the cut still waits for, its barrier
names, its peers, the data images it was opened with. (DEDUCED, log 33) -/
structure Context where
  asid : BitVec 16
  nmap : Nat
  home : BitVec 2
  cur : BitVec 6
  eng : Couch
  pass : Nat
  trans : Nat
  flt : Bool
  tip : Bool
  tgt : BitVec 6
  fcode : BitVec 8
  prem : Nat
  fltva : VAddr
  hasEngine : Bool
  moves : List PageMove
  mirrors : List PageMove
  padvs : List (Member × BitVec 6)
  heldBack : List Held
  maps : List (List MapPage)
  loaded : List (List MapPage)
  tables : List MapTable
  pcid : BitVec 16
  modLo : BitVec 12
  modHi : BitVec 12
  ranges : List OpenRange
  codes : List CodeObj
  images : List DataImage
  objs : List (ObjName × Barrier)
  deriving DecidableEq, Repr

/-- Queue states (R312). -/
inductive QState where
  | closed | unbound | pending | bound
  deriving DecidableEq, Repr

/-- A ring entry that a TSPAWN reserved (R214, R313): its place, who made it, the record's address, and the id below
which commands were issued earlier. -/
structure Reserved where
  place : BitVec 32
  who : Member
  recVa : VAddr
  before : Nat
  deriving DecidableEq, Repr

/-- A user queue's descriptor (R312), the posts and reserved entries that wait (R313), and of its status whether a
ready task of it finds no core of its die that covers its feature word (R320). -/
structure Queue where
  qid : BitVec 14
  die : BitVec 2
  qst : QState
  qrk : BitVec 4
  slot : BitVec 6
  asid : BitVec 16
  ring : VAddr
  rsz : Nat
  head : BitVec 32
  tail : BitVec 32
  slice : Nat
  cring : VAddr
  csz : Nat
  ctail : BitVec 32
  ygr : BitVec 32
  nsave : Nat
  save : Nat
  dbell : Nat
  chead : BitVec 32
  nflr : BitVec 32
  nfrz : BitVec 32
  ndrop : BitVec 32
  closing : Bool
  refuse : Bool
  stamp : Nat
  waiting : List (Word × VAddr)
  reserved : List Reserved
  uncovered : Bool
  deriving DecidableEq, Repr

/-- Queues, pools, chains and save slots (R312 to R338). -/
structure Sched where
  queues : List Queue
  pools : Vector (List PoolEntry) 4
  chains : Vector (List PoolEntry) 4
  waiting : List (BitVec 16 × VAddr × BitVec 14)
  images : List SaveImage
  nextStamp : Nat
  deriving DecidableEq, Repr

/-- A record or norm cell the service has loaded (R257, R260): where it lies, what it captured when it
fired (R267), its norm, the writes of the update that runs, and of a cell the records gated on it. -/
structure RecInfo where
  pa : Nat
  asid : BitVec 16
  va : VAddr
  cell : Bool
  rule : Option RuleEntry
  norm : Word32
  poisoned : Bool
  active : Bool
  wrote : List (Nat × Byte)
  chain : List (BitVec 12 × Nat)
  deriving DecidableEq, Repr

/-- A report on its way to a norm cell of this module (R265): the tile's exact sum of squares as an
integer at weight 2^(2 e), the step, the record with its module, and the packet that brought a report of another
module, to be answered when the cell has performed it. -/
structure Report where
  cell : Nat
  sum : Nat
  e : Int
  step : BitVec 32
  home : BitVec 12
  recPa : Nat
  recVa : VAddr
  asked : Option Packet
  deriving DecidableEq, Repr

/-- Parameter records and pan units (R257 to R273). -/
structure Pan where
  recs : List RecInfo
  rules : Vector RuleEntry 64
  reports : List Report
  releases : List (Nat × BitVec 12 × Nat × Word32)
  firing : List Nat
  deriving DecidableEq, Repr

/-- A link direction pair of one port (R339, R340): the next FSEQ to send and to accept, the last received
in order, the units not yet covered by ASEQ, the flits that wait for room among them, the units that have left,
the flits of a packet not yet whole, replay requests in a row made and taken, and what the latter name. -/
structure LinkState where
  up : Bool
  next : BitVec 12
  expect : BitVec 12
  acked : BitVec 12
  window : List LinkUnit
  waiting : List (List Byte)
  out : List LinkUnit
  rx : List (List Byte)
  retries : Nat
  asked : Nat
  askedFor : BitVec 12
  deriving DecidableEq, Repr

/-- A key slot (R346). -/
structure KeySlot where
  peer : BitVec 12
  send : Bool
  ix : Bool
  xts : List Byte
  mac : List Byte
  deriving DecidableEq, Repr

/-- A peer module: current key indexes, rotations, units received by port under the current index, pod time of the
last packet under the other one, and how far a rotation has come: 1 with the receiving slot loaded, 2 with the sending
slot too (R346). -/
structure Peer where
  id : BitVec 12
  sendIx : Bool
  recvIx : Bool
  rotations : Nat
  seen : List (BitVec 4 × Nat)
  lastOld : Word
  rotating : Nat
  deriving DecidableEq, Repr

/-- A packet a receiver refused for a full table (R348, R354): its message, its id and destination, whether
the landing table was full, and when. -/
structure Refused where
  mid : Nat
  pid : BitVec 32
  dmod : BitVec 12
  addr : BitVec 44
  landing : Bool
  when' : Word
  deriving DecidableEq, Repr

/-- A receiver's store count (R348). -/
structure RecvCount where
  smod : BitVec 12
  pcid : BitVec 16
  fcid : BitVec 56
  cls : BitVec 4
  count : BitVec 32
  deriving DecidableEq, Repr

/-- A landing-table entry (R354). -/
structure Landing where
  smod : BitVec 12
  slot : BitVec 32
  bytes : Nat
  total : Nat
  place : List (Nat × Byte)
  deriving DecidableEq, Repr

/-- An answer to an access that waits for the second copies of what it wrote (R246): the message that will carry it, and
the messages awaited. -/
structure Owed where
  msg : Msg
  waits : List Nat
  deriving DecidableEq, Repr

/-- A multicast group entry (R351). -/
structure McGroup where
  g : BitVec 8
  valid : Bool
  dests : List (BitVec 12 × Nat)
  deriving DecidableEq, Repr

/-- A packet at the gateway of the port it came in by, or turned back at (R340, R358). -/
structure Inbound where
  port : BitVec 4
  packet : Packet
  deriving DecidableEq, Repr

/-- The Trepin fabric as this module holds it (R339 to R356); `arrived` holds the packets that stand at the module's
gateways and are not yet taken, `writes` the service's writes of multicast groups that wait (R352). -/
structure Fabric where
  links : Vector LinkState 16
  routes : List (BitVec 12 × List (BitVec 4))
  keys : List KeySlot
  peers : List Peer
  recv : List RecvCount
  landing : List Landing
  groups : List McGroup
  arrived : List Inbound
  writes : List McGroup
  refused : List Refused
  owed : List Owed
  nextPid : BitVec 32
  deriving DecidableEq, Repr

/-- A record of the error log (R366). -/
structure LogRec where
  seq : BitVec 64
  ptb : Word
  kind : BitVec 16
  sev : BitVec 8
  loc : BitVec 32
  detail : Word
  deriving DecidableEq, Repr

/-- Life-cycle states (R364). -/
inductive Life where
  | blank | provisioned | deployed | returned
  deriving DecidableEq, Repr

/-- A response to a host request (R360): code, status, the host's tag, context handle, payload. -/
structure HostResp where
  code : BitVec 16
  status : BitVec 16
  rtag : Word
  ctx : BitVec 32
  payload : List Byte
  deriving DecidableEq, Repr

/-- Who asked: the tag and the context handle of a request's header, which its response carries (R360). -/
structure Asker where
  tag : Word
  ctx : BitVec 32
  deriving DecidableEq, Repr

/-- A host's request that waits (R361, R365, R368): its place in the order of arrival, its code, the context whose
request it is, itself, and who asked. -/
structure HostReq where
  stamp : Nat
  code : BitVec 16
  asid : Option (BitVec 16)
  occ : Occ
  asker : Asker
  deriving DecidableEq, Repr

/-- The response to a load request whose writes to other modules are on their way (R365): the context, the messages
awaited, and the response. -/
structure LoadAnswer where
  asid : BitVec 16
  waits : List Nat
  resp : HostResp
  deriving DecidableEq, Repr

/-- A firmware update whose image stands in the inactive slot (R368): its place in the order of arrival, who asked. -/
structure Update where
  stamp : Nat
  asker : Asker
  deriving DecidableEq, Repr

/-- A request a task passed with SVC (R219), the task: record and gang place, and its place in the order of arrival. -/
structure SvcReq where
  core : BitVec 10
  recVa : VAddr
  gidx : BitVec 3
  tok : BitVec 6
  code : BitVec 10
  arg : Word
  asid : BitVec 16
  stamp : Nat
  deriving DecidableEq, Repr

/-- The resident service and the life cycle (R359 to R373): the log, the fused state, the number of the identity key
and the operator's credential, the versions and bytes of the two images, what is retired or drained or about to be,
with who asks for it, the clock in MHz, the requests of tasks and of hosts that wait, the responses, who asked for what
is now served, and where retired frames went: base, bytes, new base. -/
structure Service where
  log : List LogRec
  nextSeq : BitVec 64
  life : Life
  imageA : BitVec 64
  imageB : BitVec 64
  bytesA : List Byte
  bytesB : List Byte
  activeB : Bool
  bootOk : Bool
  identity : Option Nat
  credential : List Byte
  lastSwitch : Option (BitVec 64)
  retiredCores : List (BitVec 10)
  retiredFrames : List (BitVec 28)
  drained : List (BitVec 2)
  retiring : List (BitVec 10 × Bool × Asker)
  retiringFrames : List (BitVec 28 × Asker)
  draining : List (BitVec 2 × BitVec 2 × Asker)
  rotation : Asker
  update : Option Update
  clock : Nat
  coolantLost : Bool
  holdReset : Bool
  requests : List SvcReq
  inbox : List HostReq
  nextStamp : Nat
  loads : List LoadAnswer
  responses : List HostResp
  asker : Asker
  spare : Nat
  forward : List (Nat × Nat × Nat)
  unreachable : List (BitVec 12)
  deriving DecidableEq, Repr

/-- An arrival on its way to its object, or a decrement on its way to its counter (R200); it waits for
the released stores of its task with ids below `stores` (R202), and a decrement for the commands issued before
`before` (R194, R200) and for those of the other members named in `after` (R8). -/
structure Arrival where
  core : BitVec 10
  who : Member
  target : ArrTarget
  amount : BitVec 32
  stores : Nat
  before : Nat
  after : List (Member × Nat)
  deriving DecidableEq, Repr

/-- Which agent moves next: an event of the module, an event of one core, or a core's sequencer.
(DESIGN CHOICE, log 1) -/
inductive Act where
  | event (i : Instr) (o : Occ)
  | core (id : BitVec 10) (i : Instr) (o : Occ)
  | run (core : BitVec 10)
  deriving DecidableEq, Repr

/-- Who translates: the engine of a core, or the couch engine of a context (R233). A gateway's packets name physical
addresses (R342), so that its cache takes nothing. -/
inductive Translator where
  | engine (core : BitVec 10)
  | couch (asid : BitVec 16)
  deriving DecidableEq, Repr

/-- An entry of a translation cache, tagged by ASID and phase index (R233). -/
structure Cached where
  unit : Translator
  asid : BitVec 16
  phase : Nat
  page : MapPage
  deriving DecidableEq, Repr

/-- A row of a stack: stack, pseudo-channel, bank, row. -/
structure Row where
  stack : BitVec 3
  pc : BitVec 6
  bank : BitVec 16
  row : BitVec 16
  deriving DecidableEq, Repr

/-- Activations of a row counted in a refresh window since it was last refreshed, and whether it has been refreshed in
that window (R231). -/
structure RowCount where
  row : Row
  count : Nat
  refreshed : Bool
  window : Nat
  deriving DecidableEq, Repr

/-- The module. `podSent` holds the arrivals of its cores at pod objects of other modules whose phase has not advanced
since (R200, R309), `held` the bytes that the service and the dispatchers are to write to held places, `caches` the
translation caches, newest entry first. (DESIGN CHOICE, log 3) -/
structure State where
  core : Core
  parked : List Core
  agenda : List Act
  occ : Occ
  mem : Sparse Byte
  held : List (Nat × Byte)
  caches : List Cached
  poisoned : List Nat
  modid : BitVec 12
  cyc : Word
  ptb : Word
  quadBars : List ((BitVec 16 × VAddr × BitVec 4) × Barrier)
  arrivals : List Arrival
  podSent : List Arrival
  contexts : List Context
  unrefreshed : List (BitVec 28)
  activations : List RowCount
  net : Net
  sched : Sched
  pan : Pan
  fab : Fabric
  svc : Service
  tick : Nat
  free : Nat
  deriving DecidableEq, Repr

/-- FEAT of a core: position 3 of a quad is the V-core (R29, R32). -/
def featOf (id : BitVec 10) : BitVec 9 := if id.toNat % 4 = 3 then 0x0FE else 0x0FF

/-- The zero vector register. -/
def VReg.zero : VReg := Vector.replicate 8 0

/-- The masks at reset: `k0` reads as all ones (R12). -/
def masksReset : Vector Mask 16 := (Vector.replicate 16 (0 : Mask)).set 0 (BitVec.allOnes 256)

/-- The shadow set of a core that has run nothing. -/
def Shadow.reset : Shadow where
  s := Vector.replicate 64 0
  k := masksReset
  v := Vector.replicate 64 VReg.zero
  cb := Vector.replicate 8 0
  tiles := Vector.replicate 128 0
  tokens := Vector.replicate 63 0
  fpc := 0x0020
  shape := 0x0F7
  mdef := 0x050
  stat := 0
  plim := 0x00010000
  pc := 0
  loop := none
  delay := none
  jumped := false
  landed := false
  flagsDue := 0
  inflight := []

/-- A core at reset: idle, every register at its task-start value, `s1` at 0 (R10; DESIGN CHOICE, log 2). -/
def Core.reset (id : BitVec 10) : Core where
  id := id
  feat := featOf id
  s := Vector.replicate 64 0
  k := masksReset
  v := Vector.replicate 64 VReg.zero
  acc := []
  own := 0
  wb0 := Latch.cleared
  wb1 := Latch.cleared
  cb := Vector.replicate 8 0
  tiles := Vector.replicate 128 0
  tokens := Vector.replicate 63 0
  handles := Vector.replicate 8 0
  bars := Vector.replicate 8 Barrier.fresh
  usable := []
  fpc := 0x0020
  shape := 0x0F7
  mdef := 0x050
  stat := 0
  plim := 0x00010000
  ckptc := 0
  grpc := 0
  ygrace := 4096
  mode := .idle
  code := []
  codeVa := 0
  pc := 0
  slot := 0
  gpos := 0
  gws := []
  grpIrrev := false
  passed := false
  jumped := false
  landed := false
  flagsDue := 0
  ars := 0
  arr1 := 0
  arr2 := 0
  delay := none
  loop := none
  inflight := []
  seq := 0
  arrs := []
  stores := []
  releasing := []
  posts := []
  shadow := Shadow.reset
  queue := []
  running := []
  fences := []
  mx := []
  counts := []
  nextId := 0
  task := none
  lastAsid := none
  live := none
  declared := 0
  sinceYield := 0
  slice := 0
  grpcStart := 0
  padvWait := none
  padvFor := 0
  padvTgt := 0
  padvEnd := .none
  phasesMade := 0
  succSent := false
  podAsk := []
  freeze := none
  overrun := false
  trap := none
  lastTrap := none
  skipBrk := none
  incoming := none
  rstc := 0
  needFeat := 0
  frozenSince := false
  narrowSince := false
  poisonedBanks := 0
  poisonedWords := []
  fetch := none

/-- An empty rule entry (R266). -/
def RuleEntry.empty : RuleEntry := ⟨0, 0, 0, 0, 0, 0, 0, 0, 0⟩

/-- A link after training: the next unit is 0, nothing received (R339). -/
def LinkState.reset : LinkState := ⟨true, 0, 0, 0xFFF, [], [], [], [], 0, 0, 0⟩

/-- The networks at reset: empty, throttle level 0 (R299). (DESIGN CHOICE, log 2) -/
def Net.reset : Net where
  msgs := []
  flits := []
  reasm := []
  store := []
  credits := []
  routers := Vector.replicate 4 (Vector.replicate 64 ⟨0, 0⟩)
  lastInj := []
  cycle := Vector.replicate 4 0
  nextMsg := 0

/-- The scheduler at reset: no queue survives (R359). -/
def Sched.reset : Sched where
  queues := []
  pools := Vector.replicate 4 []
  chains := Vector.replicate 4 []
  waiting := []
  images := []
  nextStamp := 0

/-- The pan units at reset: no rule table survives (R359). -/
def Pan.reset : Pan := ⟨[], Vector.replicate 64 RuleEntry.empty, [], [], []⟩

/-- The fabric at reset: no key survives (R359). (DESIGN CHOICE, log 2) -/
def Fabric.reset : Fabric where
  links := Vector.replicate 16 LinkState.reset
  routes := []
  keys := []
  peers := []
  recv := []
  landing := []
  groups := []
  arrived := []
  writes := []
  refused := []
  owed := []
  nextPid := 0

/-- The service at reset; the fuses and image slots are named in log 2. (DEDUCED, log 52) -/
def Service.reset : Service where
  log := []
  nextSeq := 0
  life := .deployed
  imageA := 0
  imageB := 0
  bytesA := []
  bytesB := []
  activeB := false
  bootOk := true
  identity := some 0
  credential := []
  lastSwitch := none
  retiredCores := []
  retiredFrames := []
  drained := []
  retiring := []
  retiringFrames := []
  draining := []
  rotation := ⟨0, 0⟩
  update := none
  clock := 2250
  coolantLost := false
  holdReset := false
  requests := []
  inbox := []
  nextStamp := 0
  loads := []
  responses := []
  asker := ⟨0, 0⟩
  spare := 0
  forward := []
  unreachable := []

/-- The module right after reset (R359): memory wiped to zero, every core idle, no context, queue, rule table or
key. (DESIGN CHOICE, log 2) -/
def State.reset : State where
  core := Core.reset 0
  parked := []
  agenda := []
  occ := .none
  mem := []
  held := []
  caches := []
  poisoned := []
  modid := 0
  cyc := 0
  ptb := 0
  quadBars := []
  arrivals := []
  podSent := []
  contexts := []
  unrefreshed := []
  activations := []
  net := Net.reset
  sched := Sched.reset
  pan := Pan.reset
  fab := Fabric.reset
  svc := Service.reset
  tick := 0
  free := 0

end Sys2Proof.Machine
end

