-- ==== Sys2Proof/Machine/Operands.lean ====
section
/-! DEFINITION. Operand forms: registers, the element grid of a vector register, effective addresses,
tile entries and their views, nest records, and the bytes that words are made of. -/

namespace Sys2Proof.Machine

open Sys2Proof

/-! ### Bytes and words (R38) -/

/-- The number little-endian bytes hold. -/
def natOfBytes : List Byte → Nat
  | [] => 0
  | b :: r => b.toNat + 256 * natOfBytes r

/-- The low `n` bytes of a number, little-endian. -/
def bytesOfNat : Nat → Nat → List Byte
  | 0, _ => []
  | n + 1, x => BitVec.ofNat 8 x :: bytesOfNat n (x / 256)

/-- The consecutive cells from an address. -/
def cellsFrom (a : Nat) (l : List Byte) : List (Nat × Byte) := l.mapIdx fun i b => (a + i, b)

/-! ### Scalar, mask and vector registers (R11 to R13) -/

namespace Core

/-- `s[i]`; `s0` reads as zero (R11). -/
def rs (c : Core) (i : BitVec 6) : Word := if i = 0 then 0 else c.s[i.toNat]'(i.isLt)
/-- `k[i]`; `k0` reads as all ones (R12). -/
def rk (c : Core) (i : BitVec 4) : Mask := if i = 0 then BitVec.allOnes 256 else c.k[i.toNat]'(i.isLt)
/-- `v[i]` (R13). -/
def rv (c : Core) (i : BitVec 6) : VReg := c.v[i.toNat]'(i.isLt)
/-- `cb[i]` (R18). -/
def rcb (c : Core) (i : BitVec 3) : BitVec 256 := c.cb[i.toNat]'(i.isLt)
/-- Tile table entry (R19). -/
def tile (c : Core) (i : BitVec 7) : BitVec 128 := c.tiles[i.toNat]'(i.isLt)
/-- Arrival handle (R25). -/
def handle (c : Core) (i : BitVec 3) : Word := c.handles[i.toNat]'(i.isLt)
/-- A token; field 63 is no token and reads as idle (R22). -/
def token (c : Core) (i : BitVec 6) : BitVec 16 := c.tokens.toList.getD i.toNat 0

/-- Writes a scalar register; a write to `s0` is discarded (R11). -/
def writeS (c : Core) (i : BitVec 6) (x : Word) : Core :=
  if i = 0 then c else { c with s := c.s.set i.toNat x i.isLt }
/-- Writes the bits `en` of a mask; a write to `k0` is discarded (R12). -/
def writeK (c : Core) (i : BitVec 4) (x en : Mask) : Core :=
  if i = 0 then c
  else { c with k := c.k.set i.toNat ((c.rk i &&& ~~~en) ||| (x &&& en)) i.isLt }
/-- Writes the bits `en` of a vector register. -/
def writeV (c : Core) (i : BitVec 6) (x en : VReg) : Core :=
  let old := c.rv i
  let new : VReg := Vector.ofFn fun r : Fin 8 => (old[r] &&& ~~~en[r]) ||| (x[r] &&& en[r])
  { c with v := c.v.set i.toNat new i.isLt }
def writeCb (c : Core) (i : BitVec 3) (x : BitVec 256) : Core :=
  { c with cb := c.cb.set i.toNat x i.isLt }
def writeTile (c : Core) (i : BitVec 7) (x : BitVec 128) : Core :=
  { c with tiles := c.tiles.set i.toNat x i.isLt }
def writeHandle (c : Core) (i : BitVec 3) (x : Word) : Core :=
  { c with handles := c.handles.set i.toNat x i.isLt }
/-- Sets a token; field 63 names none (R22). -/
def setToken (c : Core) (i : BitVec 6) (x : BitVec 16) : Core :=
  if h : i.toNat < 63 then { c with tokens := c.tokens.set i.toNat x h } else c

end Core

/-- Token states (R22). -/
def tokIdle : BitVec 16 := 0x0000
def tokBusy : BitVec 16 := 0x4000
def tokDone (code : BitVec 8) : BitVec 16 := 0x8000 ||| code.setWidth 16
def tokFaulted (code : BitVec 8) : BitVec 16 := 0xC000 ||| code.setWidth 16
def tokIsBusy (t : BitVec 16) : Bool := bits t 14 2 == 1
def tokIsFaulted (t : BitVec 16) : Bool := bits t 14 2 == 3
/-- Idle or done: what a consumer does not wait on (R23). -/
def tokReady (t : BitVec 16) : Bool := !tokIsBusy t && !tokIsFaulted t
def tokCode (t : BitVec 16) : BitVec 8 := bits t 0 8

/-! ### The second operand and the guard of an SC instruction (R97) -/

/-- Operand B: the sign-extended immediate when I = 1, else `s[SB]` (R97). -/
def scB (f : ScF) (c : Core) : Word := if f.i then f.imm.signExtend 64 else c.rs f.sb

/-- `mask_bit` (R8): bit i of a mask, always 1 for `k0`. -/
def maskBit (c : Core) (k : BitVec 4) (i : Nat) : Bool := (c.rk k).getLsbD i

/-! ### SHAPE and the element grid (R14, R15, R124) -/

/-- Rows, columns and element width of a grid. -/
structure Grid where
  rows : Nat
  cols : Nat
  w : Nat
  deriving DecidableEq, Repr

/-- The grid SHAPE describes (R14). -/
def gridOf (shape : BitVec 10) : Grid :=
  ⟨(bits shape 0 3).toNat + 1, (bits shape 5 5).toNat + 1, 8 * 2 ^ (bits shape 3 2).toNat⟩

/-- A value SHAPE accepts (R15). -/
def shapeOk (x : Word) : Bool :=
  bits x 10 54 == 0 && bits x 3 2 != 3
    && decide ((bits x 5 5).toNat < 32 / 2 ^ (bits x 3 2).toNat)

/-- A value FPC accepts (R30). -/
def fpcOk (x : Word) : Bool := bits x 13 51 == 0 && bits x 6 2 == 0 && decide ((bits x 0 3).toNat ≤ 4)

/-- A value MDEF accepts (R31). -/
def mdefOk (x : Word) : Bool := bits x 11 53 == 0 && decide ((bits x 4 3).toNat ≤ 5)

/-- A row of a vector register. -/
def vrow (v : VReg) (r : Nat) : VRow := v.toList.getD r 0
/-- The w-bit element at (row, col) (R13); with w = 4 the nibble of R135. -/
def velem (v : VReg) (w r c : Nat) : Code := BitVec.ofNat 64 ((vrow v r).toNat / 2 ^ (c * w) % 2 ^ w)
/-- A register from its rows. -/
def vofRows (l : List VRow) : VReg := Vector.ofFn fun r : Fin 8 => l.getD r.val 0
/-- The 256 bytes of a register, byte 32 r + i of row r. -/
def vbyte (v : VReg) (i : Nat) : Byte := BitVec.ofNat 8 ((vrow v (i / 32)).toNat / 2 ^ (8 * (i % 32)))
/-- A register from 256 bytes. -/
def vofBytes (l : List Byte) : VReg :=
  vofRows ((List.range 8).map fun r => BitVec.ofNat 256 (natOfBytes ((l.drop (32 * r)).take 32)))
def vtoBytes (v : VReg) : List Byte := v.toList.flatMap fun r => bytesOfNat 32 r.toNat

/-- What an instruction does to one element of its grid: nothing, or a code with flags. -/
abbrev CellW := Option (Code × Flags)

/-- The elements of a grid, row by row. -/
def gridCells (g : Grid) (f : Nat → Nat → CellW) : List (List CellW) :=
  (List.range g.rows).map fun r => (List.range g.cols).map (f r)

/-- A row's written bits and their enables at width `w`. -/
def packRow (w : Nat) (l : List CellW) : VRow × VRow :=
  let r := l.foldr (fun (e : CellW) (a : Nat × Nat) =>
    let s := 2 ^ w
    match e with
    | none => (a.1 * s, a.2 * s)
    | some (x, _) => (a.1 * s + x.toNat % s, a.2 * s + (s - 1))) (0, 0)
  (BitVec.ofNat 256 r.1, BitVec.ofNat 256 r.2)

/-- The value and the enables of a grid result. -/
def packGrid (w : Nat) (cells : List (List CellW)) : VReg × VReg :=
  let l := cells.map (packRow w)
  (vofRows (l.map (·.1)), vofRows (l.map (·.2)))

/-- The flags of a grid result. -/
def cellFlags (cells : List (List CellW)) : Flags :=
  cells.foldl (fun a l => l.foldl (fun a e => match e with
    | none => a
    | some (_, f) => a ||| f) a) 0

/-- A mask result: bits and enables of grid elements at row × 32 + col (R133). -/
def packMask (cells : List (List (Option Bool))) : Mask × Mask :=
  let row (l : List (Option Bool)) : Nat × Nat := l.foldr (fun e a => match e with
    | none => (a.1 * 2, a.2 * 2)
    | some b => (a.1 * 2 + b.toNat, a.2 * 2 + 1)) (0, 0)
  let r := cells.foldr (fun l (a : Nat × Nat) =>
    let x := row l
    (a.1 * 2 ^ 32 + x.1, a.2 * 2 ^ 32 + x.2)) (0, 0)
  (BitVec.ofNat 256 r.1, BitVec.ofNat 256 r.2)

/-- Guard and zeroing (R125): a guarded element takes the result, a masked-off one 0 when Z = 1. -/
def guarded (m : Mask) (z : Bool) (f : Nat → Nat → Code × Flags) (r c : Nat) : CellW :=
  if m.getLsbD (r * 32 + c) then some (f r c) else if z then some (0, 0) else none

/-! ### Scratchpads (R165, R177) -/

/-- Scratchpad size of a core: 1.5 MiB on an M-core, 3 MiB on a V-core (R165). -/
def spadSizeOf (id : BitVec 10) : Nat := if id.toNat % 4 = 3 then 0x300000 else 0x180000

/-- The physical address of a core's scratchpad (R226). -/
def spadBase (id : BitVec 10) : Nat :=
  0x10000000000 + (id.toNat / 256) * 0x40000000 + (id.toNat % 256) * 0x400000

/-- `n` bytes from an offset lie in the scratchpad. -/
def Core.inSpad (c : Core) (off n : Nat) : Bool := decide (off + n ≤ spadSizeOf c.id)

/-- Effective address of an LD or ST instruction (R165). -/
def lsEa (f : LsF) (c : Core) : Nat := (c.rs f.br + f.ofs.signExtend 64).toNat

/-- Stride of a vector form: `s[SR]`, or consecutive rows for `s0` (R166). -/
def lsStride (f : LsF) (c : Core) (g : Grid) : Int :=
  if f.sr = 0 then (g.cols * g.w / 8 : Nat) else (c.rs f.sr).toInt

/-- Address of grid element (r, c) of a strided form, modulo 2^64 (R166). -/
def lsElemAddr (f : LsF) (c : Core) (g : Grid) (r col : Nat) : Nat :=
  (BitVec.ofInt 64 ((lsEa f c : Int) + r * lsStride f c g + (col * g.w / 8 : Nat))).toNat

/-- Address of grid element (r, c) of an indexed form (R170). -/
def lsIndexAddr (f : LsF) (c : Core) (g : Grid) (r col : Nat) : Nat :=
  let x := (velem (c.rv f.sr) 16 r col).toNat
  (BitVec.ofNat 64 (lsEa f c + x * g.w / 8)).toNat

/-- The tile index of VLDT and VSTT (R169). -/
def lsTile (f : LsF) : BitVec 7 := bits f.ofs 23 1 ++ f.rg

/-! ### Tile table entries and their views (R19, R20, R147, R148) -/

namespace TileE

def tag (e : BitVec 128) : BitVec 32 := bits e 96 32
def ofs (e : BitVec 128) : Nat := (bits e 74 22).toNat
def rows (e : BitVec 128) : Nat := (bits e 66 8).toNat + 1
def rbyt (e : BitVec 128) : Nat := (bits e 54 12).toNat
def layT (e : BitVec 128) : Bool := bitOf e 53
def layZ (e : BitVec 128) : Bool := bitOf e 52
def pitchField (e : BitVec 128) : Nat := (bits e 38 12).toNat
def fmtCode (e : BitVec 128) : Nat := (bits e 34 4).toNat
def state (e : BitVec 128) : BitVec 2 := bits e 32 2
def ptok (e : BitVec 128) : BitVec 6 := bits e 26 6

/-- Row pitch in bytes; field 0 means RBYT (R19). -/
def pitch (e : BitVec 128) : Nat := if pitchField e = 0 then rbyt e else 8 * pitchField e
/-- One past the last byte of the extent (R20). -/
def extentEnd (e : BitVec 128) : Nat := ofs e + rows e * pitch e
/-- The element format. -/
def fmt (e : BitVec 128) : Fmt := (Fmt.ofCode (fmtCode e)).getD .f32
/-- Element size in bits. -/
def width (e : BitVec 128) : Nat := (fmt e).width
/-- Stored columns (R147). -/
def cols (e : BitVec 128) : Nat := rbyt e * 8 / width e

/-- What TDEF accepts (R20); STATE and PTOK of an image are ignored. -/
def ok (size : Nat) (e : BitVec 128) : Bool :=
  bits e 0 26 == 0 && bits e 50 2 == 0 && decide (ofs e % 64 = 0) && decide (rbyt e % 8 = 0)
    && decide (8 ≤ rbyt e) && decide (fmtCode e < 10) && decide (extentEnd e ≤ size)

/-- The entry with another STATE and PTOK (R19). -/
def withState (e : BitVec 128) (st : BitVec 2) (p : BitVec 6) : BitVec 128 :=
  bits e 34 94 ++ st ++ p ++ bits e 0 26

/-- States (R19). -/
def empty : BitVec 2 := 0
def filling : BitVec 2 := 1
def ready : BitVec 2 := 2
def draining : BitVec 2 := 3
def busy (e : BitVec 128) : Bool := state e == filling || state e == draining

/-- A Z-order tile that breaks R148's conditions. -/
def zBad (e : BitVec 128) : Bool :=
  layZ e && (decide (rows e % 16 ≠ 0) || decide (cols e % 16 ≠ 0) || decide (pitchField e ≠ 0))

/-- The transpose in effect (R147). -/
def transposed (e : BitVec 128) (tr : Bool) : Bool := layT e != tr
/-- The view exists: a transposed view needs LAY.Z = 1 (R147, R148). (DEDUCED, log 74) -/
def viewOk (e : BitVec 128) (tr : Bool) : Bool := !(zBad e) && (!(transposed e tr) || layZ e)
/-- Rows and columns of the logical grid (R147). -/
def lrows (e : BitVec 128) (tr : Bool) : Nat := if transposed e tr then cols e else rows e
def lcols (e : BitVec 128) (tr : Bool) : Nat := if transposed e tr then rows e else cols e

/-- Scratchpad bit address of logical element (r, c) (R147, R148). -/
def bitAddr (e : BitVec 128) (tr : Bool) (r c : Nat) : Nat :=
  let sr := if transposed e tr then c else r
  let sc := if transposed e tr then r else c
  if layZ e then
    let i := sr % 16 / 4
    let j := sc % 16 / 4
    let leaf := 8 * (i / 2) + 4 * (j / 2) + 2 * (i % 2) + j % 2
    let idx := ((sr / 16 * (cols e / 16) + sc / 16) * 16 + leaf) * 16 + sr % 4 * 4 + sc % 4
    8 * ofs e + idx * width e
  else 8 * (ofs e + sr * pitch e) + sc * width e

/-- The scratchpad bytes of the extent meet a byte. -/
def covers (e : BitVec 128) (a : Nat) : Bool := decide (ofs e ≤ a) && decide (a < extentEnd e)

end TileE

/-! ### Nest records (R177 to R179) -/

/-- A field of a 64-byte record held as eight words: `n` bytes at byte offset `o`, within one word. -/
def recField (r : Vector Word 8) (o n : Nat) : Nat :=
  (r.toList.getD (o / 8) 0).toNat / 2 ^ (8 * (o % 8)) % 2 ^ (8 * n)

/-- The eight words of 64 bytes. -/
def recOfBytes (l : List Byte) : Vector Word 8 :=
  Vector.ofFn fun i : Fin 8 => BitVec.ofNat 64 (natOfBytes ((l.drop (8 * i.val)).take 8))

namespace Nest

/-- Base address of a side: bits 55:0 of its word (R177). -/
def base (r : Vector Word 8) (dst : Bool) : Nat := recField r (if dst then 8 else 0) 7
/-- Control byte of a side (R178). -/
def ctl (r : Vector Word 8) (dst : Bool) : Nat := recField r (if dst then 15 else 7) 1
def fmtCode (r : Vector Word 8) (dst : Bool) : Nat := ctl r dst / 16
def spc (r : Vector Word 8) (dst : Bool) : Nat := ctl r dst / 4 % 4
/-- Stride unit in bytes (R178, R179). -/
def unit (r : Vector Word 8) (dst : Bool) : Nat :=
  match ctl r dst % 4 with
  | 0 => 1 | 1 => 64 | 2 => 4096 | _ => 65536
/-- Count of level l, 0 to 5 (R177). -/
def cnt (r : Vector Word 8) (l : Nat) : Nat := recField r (16 + 4 * l) 4
def scale (r : Vector Word 8) : Word32 := BitVec.ofNat 32 (recField r 40 4)
/-- Stride of level l, 1 to 5, in bytes (R177, R179). -/
def stride (r : Vector Word 8) (dst : Bool) (l : Nat) : Int :=
  (BitVec.ofNat 16 (recField r (44 + 4 * (l - 1) + (if dst then 2 else 0)) 2)).toInt * unit r dst

/-- Total number of index tuples. -/
def total (r : Vector Word 8) : Nat := (List.range 6).foldl (fun a l => a * cnt r l) 1

/-- The index tuple of the n-th element visited, level 0 first (R179). -/
def tuple (r : Vector Word 8) (n : Nat) : List Nat :=
  ((List.range 6).foldl (fun (a : List Nat × Nat) l =>
    let c := cnt r l
    if c = 0 then (a.1 ++ [0], a.2) else (a.1 ++ [a.2 % c], a.2 / c)) ([], n)).1

/-- Displacement in bits of the n-th element on one side, element width `w` (R179). -/
def disp (r : Vector Word 8) (dst : Bool) (w n : Nat) : Int :=
  let t := tuple r n
  (t.getD 0 0 * w : Nat) + ((List.range 5).foldl (fun (a : Int) l =>
    a + (t.getD (l + 1) 0 : Int) * stride r dst (l + 1)) 0) * 8

end Nest

end Sys2Proof.Machine
end

