-- ==== Sys2Proof/Machine/Flags.lean ====
section
/-! DEFINITION. Rounding and flag settings captured from FPC, sticky flags, and the status masks of the
SY results (R30, R47, R48, R54, R197). -/

namespace Sys2Proof.Machine

open Sys2Proof

/-- The settings a vector instruction captures: mode, F8SAT, FZI, FZO (R47, R48, R53). -/
def envOf (fpc : BitVec 13) (ro : BitVec 3) : FpEnv :=
  ⟨RMode.ofOverride ro.toNat (bits fpc 0 3).toNat, bitOf fpc 5, bitOf fpc 3, bitOf fpc 4⟩

/-- The settings of drains and engine conversions: FPC.RM and F8SAT, no flushing (R48, R158, R180). -/
def envNoFlush (fpc : BitVec 13) : FpEnv :=
  ⟨RMode.ofRM (bits fpc 0 3).toNat, bitOf fpc 5, false, false⟩

/-- Round to nearest even with no flushing: matrix streams, BVEC, LXRED and pan units (R57, R58, R60). -/
def envRne (f8sat : Bool) : FpEnv := ⟨.rne, f8sat, false, false⟩

/-- Sticky flags ORed into FPC<12:8> (R8, R30). (DEDUCED, log 21) -/
def orFpc (fpc : BitVec 13) (f : Flags) : BitVec 13 := fpc ||| (f ++ 0#8)

/-- STAT bits (R33). -/
def statAmu : BitVec 5 := 1
def statSfl : BitVec 5 := 2
def statFrz : BitVec 5 := 4
def statFck : BitVec 5 := 8
def statNwr : BitVec 5 := 16

/-- A status mask: bits 127:0 take the first status bit, bits 255:128 the second (R197). -/
def statusMask (first second : Bool) : Mask :=
  (if second then BitVec.allOnes 128 else 0) ++ (if first then BitVec.allOnes 128 else 0)

/-- A scalar compare writes its bit to all 256 bits (R12, R102). -/
def boolMask (b : Bool) : Mask := if b then BitVec.allOnes 256 else 0

/-- Flags of an exact value rounded to an integer in an integer or floating-point format. -/
def nvIf (b : Bool) : Flags := if b then Flags.nv else 0

end Sys2Proof.Machine
end

