-- ==== Sys2Proof/Machine/Mem.lean ====
section
/-! DEFINITION. The module's memory: cores and their scratchpads, the physical map, the error log, pages
and translation under a context's maps (R221, R226, R236, R239 to R246, R366, R367). -/

namespace Sys2Proof.Machine

open Sys2Proof

/-- Pads bytes with zeros. -/
def padTo (n : Nat) (l : List Byte) : List Byte := l ++ List.replicate (n - l.length) 0

/-! ### Cores and contexts -/

namespace State

/-- A core by its number in the module; an unlisted core is as after reset. -/
def findCore (s : State) (id : BitVec 10) : Core :=
  if s.core.id = id then s.core else (s.parked.find? (fun c => c.id == id)).getD (Core.reset id)

/-- Changes one core. -/
def updCore (s : State) (id : BitVec 10) (f : Core → Core) : State :=
  if s.core.id = id then { s with core := f s.core }
  else { s with parked := f (s.findCore id) :: s.parked.filter (fun c => c.id != id) }

/-- Makes a core the one that moves. -/
def focus (s : State) (id : BitVec 10) : State :=
  if s.core.id = id then s
  else { s with core := s.findCore id, parked := s.core :: s.parked.filter (fun c => c.id != id) }

/-- Changes the focused core. -/
def onCore (s : State) (f : Core → Core) : State := { s with core := f s.core }

/-- An open context by its ASID (R238). -/
def context? (s : State) (asid : BitVec 16) : Option Context := s.contexts.find? (fun x => x.asid == asid)

/-- Changes a context. -/
def updContext (s : State) (asid : BitVec 16) (f : Context → Context) : State :=
  { s with contexts := s.contexts.map fun x => if x.asid = asid then f x else x }

/-- A user queue by its number (R312). -/
def queue? (s : State) (q : BitVec 14) : Option Queue := s.sched.queues.find? (fun x => x.qid == q)

/-- Changes a queue. -/
def updQueue (s : State) (q : BitVec 14) (f : Queue → Queue) : State :=
  { s with sched := { s.sched with queues := s.sched.queues.map fun x => if x.qid = q then f x else x } }

end State

/-- The ASID of the task a core runs; 0 when it runs none. -/
def Core.asid (c : Core) : BitVec 16 := (c.task.map (·.asid)).getD 0

/-- The die of a core (R29). -/
def coreDie (id : BitVec 10) : BitVec 2 := bits id 8 2

/-! ### Members of gangs and their tokens (R23, R318) -/

/-- The task member a core runs. -/
def Core.who (c : Core) : Member :=
  match c.task with
  | some t => ⟨t.asid, t.recVa, t.gidx⟩
  | none => ⟨0, 0, 0⟩

/-- The core, or the saved image, that holds a member's state (R329). -/
def State.member? (s : State) (w : Member) : Option Core :=
  match (s.core :: s.parked).find? fun c => c.who == w with
  | some c => some c
  | none => (s.sched.images.find? fun m => m.core.who == w).map (·.core)

/-- Changes every core that runs something. -/
def State.mapCores (s : State) (f : Core → Core) : State :=
  { s with core := f s.core, parked := s.parked.map f }

/-- Changes a member's state where it runs or is saved. -/
def State.updMember (s : State) (w : Member) (f : Core → Core) : State :=
  match (s.core :: s.parked).find? fun c => c.who == w with
  | some c => s.updCore c.id f
  | none => { s with sched := { s.sched with
      images := s.sched.images.map fun m => if m.core.who = w then { m with core := f m.core } else m } }

/-- A completion's effect on a token, which a rollback does not undo (R23, R77). (DEDUCED, log 23) -/
def Core.completeToken (c : Core) (i : BitVec 6) (x : BitVec 16) : Core :=
  let c := c.setToken i x
  if h : i.toNat < 63 then
    { c with shadow := { c.shadow with tokens := c.shadow.tokens.set i.toNat x h } }
  else c

/-! ### The error log (R366, R367) -/

/-- Severity of an event (R367). -/
def logSev (kind : Nat) (code : BitVec 8) : BitVec 8 :=
  match kind, code.toNat with
  | 1, 1 | 1, 3 | 1, 7 | 3, 1 => 0
  | 1, 2 | 1, 4 | 1, 8 | 3, 2 | 3, 3 | 6, 1 | 7, 1 => 1
  | _, _ => 2

/-- Room for one record: the oldest of severity 0 or 2 goes, else the oldest (R366). -/
def logRoom (l : List LogRec) : List LogRec :=
  if l.length < 2 ^ 20 then l
  else match l.findIdx? (fun r => r.sev != 1) with
    | some i => l.eraseIdx i
    | none => l.drop 1

/-- Enters an event in the log: kind, event code, location in die and core, stack or port, detail. -/
def State.addLog (s : State) (kind : Nat) (code : BitVec 8) (die : BitVec 2) (where' : BitVec 8)
    (detail : Nat) : State :=
  let r : LogRec := {
    seq := s.svc.nextSeq
    ptb := s.ptb
    kind := BitVec.ofNat 16 kind
    sev := logSev kind code
    loc := 0#8 ++ s.modid ++ 0#2 ++ die ++ where'
    detail := code ++ BitVec.ofNat 56 detail }
  { s with svc := { s.svc with log := logRoom s.svc.log ++ [r], nextSeq := s.svc.nextSeq + 1 } }

/-! ### The physical map (R226) -/

/-- Bytes of a stack that are memory (R226). -/
def stackSize : Nat := 0x12A05F2000

/-- What a physical address is: memory of a stack, a core's scratchpad, a hole, or the service's range. -/
inductive Place where
  | stack (i : Nat) | spad (core : BitVec 10) | hole | service
  deriving DecidableEq, Repr

/-- The physical map (R226). -/
def placeOf (pa : Nat) : Place :=
  if pa < 0x10000000000 then
    (if pa % 0x2000000000 < stackSize then .stack (pa / 0x2000000000) else .hole)
  else if pa < 0x10100000000 then
    let o := pa - 0x10000000000
    let id := BitVec.ofNat 10 (o / 0x40000000 * 256 + o % 0x40000000 / 0x400000)
    if o % 0x400000 < spadSizeOf id then .spad id else .hole
  else .service

/-- The die and the stack or core that a physical address belongs to, as the log names them (R366); 0 for none. -/
def placeUnit (pa : Nat) : BitVec 2 × BitVec 8 :=
  match placeOf pa with
  | .stack i => (BitVec.ofNat 2 (i / 2), BitVec.ofNat 8 i)
  | .spad c => (coreDie c, bits c 0 8)
  | _ => (0, 0)

/-- The pseudo-channel of a stack address (R227). -/
def pseudoChannel (pa : Nat) : Nat := (pa / 2 ^ 9 % 64).xor (pa / 2 ^ 15 % 64)

/-- What a row's count stands at in a refresh window: nothing is left of an earlier window's (R231). -/
def rowIn (r : Row) (window : Nat) (l : List RowCount) : RowCount :=
  (l.find? fun x => x.row == r && x.window == window).getD ⟨r, 0, false, window⟩

/-- The count of a row that is activated once more in a refresh window (R231). -/
def bumpRow (r : Row) (window : Nat) (l : List RowCount) : List RowCount :=
  let x := rowIn r window l
  { x with count := x.count + 1 } :: l.filter fun y => y.row != r

/-- The row of a granule of a stack: the pseudo-channel is the address's, bank and row are the base die's own (R227;
DESIGN CHOICE, log 3). -/
def rowAt (a : Nat) : Row :=
  let g := a / 512 * 512
  ⟨BitVec.ofNat 3 (a / 0x2000000000), BitVec.ofNat 6 (pseudoChannel a), (Config.bankRow g).1, (Config.bankRow g).2⟩

/-- An access at its home to one granule: the base die counts the row it activates, when it lies in a stack (R231).
Whether it activates it is the stack's (DESIGN CHOICE, log 3). -/
def State.touch (s : State) (a : Nat) : State :=
  { s with activations :=
      if decide (a < 0x10000000000) && Config.opensRow (a / 512) s.tick then
        bumpRow (rowAt a) (Config.refreshWindow (rowAt a).stack s.tick) s.activations
      else s.activations }

/-- An access to `n` bytes: each granule's row counts (R227, R231). -/
def State.touchAll (s : State) (a n : Nat) : State :=
  (List.range ((a + max 1 n - 1) / 512 - a / 512 + 1)).foldl (fun (s : State) i => s.touch (512 * (a / 512 + i))) s

/-- The unit an uncorrectable error poisons: a stack line, or a scratchpad word (R236). (DEDUCED, log 59) -/
def poisonUnit (pa : Nat) : Nat := if pa < 0x10000000000 then pa / 64 * 64 else pa / 8 * 8

/-- Bytes of a poison unit. (DEDUCED, log 59) -/
def poisonSize (u : Nat) : Nat := if u < 0x10000000000 then 64 else 8

namespace State

/-- A byte of physical memory. -/
def peek (s : State) (pa : Nat) : Byte := Sparse.get 0 s.mem pa

/-- `n` bytes of physical memory. -/
def peekBytes (s : State) (pa n : Nat) : List Byte := (List.range n).map fun i => s.peek (pa + i)

/-- Whether any of `n` bytes lies in a poisoned unit (R236). -/
def isPoisoned (s : State) (pa n : Nat) : Bool :=
  s.poisoned.any fun u => decide (u < pa + n) && decide (pa < u + poisonSize u)

/-- Enters an uncorrectable error of a stack line or a scratchpad word in the log (R236, R366, R367). -/
def logUnit (s : State) (u : Nat) (stackCode sramCode : BitVec 8) : State :=
  match placeOf u with
  | .stack i => s.addLog 1 stackCode (BitVec.ofNat 2 (i / 2)) (BitVec.ofNat 8 i) (u / 64 * 64)
  | .spad core => s.addLog 1 sramCode (coreDie core) (bits core 0 8) ((u - spadBase core) % 2 ^ 22)
  | _ => s

/-- A read of `n` bytes: every poisoned unit it meets is logged (R236, R367). (DEDUCED, log 55) -/
def logPoison (s : State) (pa n : Nat) : State :=
  (s.poisoned.filter fun u => decide (u < pa + n) && decide (pa < u + poisonSize u)).foldl
    (fun (s : State) u => s.logUnit u 0x02 0x08) s

/-- Writes cells; a write of a whole poisoned unit clears the poison (R236). -/
def poke (s : State) (cells : List (Nat × Byte)) : State :=
  { s with
    mem := Sparse.setAll 0 s.mem cells
    poisoned := s.poisoned.filter fun u =>
      !(List.range (poisonSize u)).all fun i => cells.any fun c => c.1 == u + i }

end State

/-! ### Pages in transition (R244) -/

/-- The byte of a page a place of its source frame falls on, wherever the frame lies. -/
def PageMove.offsetOf (m : PageMove) (l : Loc) : Option Nat :=
  match m.src, l with
  | .phys b, .phys a => if b / 8 ≤ a / 8 ∧ a / 8 < b / 8 + m.size then some (a / 8 - b / 8) else none
  | .remote d b, .remote e a =>
    if d = e ∧ b / 8 ≤ a / 8 ∧ a / 8 < b / 8 + m.size then some (a / 8 - b / 8) else none
  | _, _ => none

/-- The byte of a page a physical byte address of this module falls on. -/
def PageMove.offset? (m : PageMove) (a : Nat) : Option Nat := m.offsetOf (.phys (8 * a))

/-! ### Scratchpads and accumulators with withheld writes (R28) -/

/-- The withheld writes of a core, oldest first: those a checkpoint has released come first. -/
def Core.withheld (c : Core) : List StoreEntry := c.releasing ++ c.stores

/-- The youngest value of a key in a list of writes. -/
def lastOf {α : Type} (l : List (Nat × α)) (a : Nat) : Option α :=
  (l.reverse.find? (fun c => c.1 == a)).map (·.2)

namespace State

/-- A byte of the focused core's scratchpad as its own loads see it (R28). -/
def spadByte (s : State) (off : Nat) : Byte :=
  match s.core.withheld.reverse.findSome? (fun e => lastOf e.bytes off) with
  | some b => b
  | none => s.peek (spadBase s.core.id + off)

/-- `n` bytes of the focused core's scratchpad as its own loads see them. -/
def spadBytes (s : State) (off n : Nat) : List Byte := (List.range n).map fun i => s.spadByte (off + i)

/-- Bits of the scratchpad from a bit address, as loads see them: one element of width `w`. -/
def spadElem (s : State) (bit w : Nat) : Code :=
  BitVec.ofNat 64 (natOfBytes (s.spadBytes (bit / 8) ((w + 7) / 8)) / 2 ^ (bit % 8) % 2 ^ w)

/-- The same of the scratchpad's bytes themselves: what engine, array and other agents see (R223). -/
def rawElem (s : State) (core : BitVec 10) (bit w : Nat) : Code :=
  BitVec.ofNat 64
    (natOfBytes (s.peekBytes (spadBase core + bit / 8) ((w + 7) / 8)) / 2 ^ (bit % 8) % 2 ^ w)

end State

/-- Key of an accumulator element (R16). -/
def accKey (bank : BitVec 5) (row col : Nat) : Nat := bank.toNat * 6144 + row * 48 + col

/-- A block of a bank holds an accumulator word. -/
def AccBlock.holds (b : AccBlock) (bank : BitVec 5) (key : Nat) : Bool :=
  key / 6144 == bank.toNat && decide (b.row ≤ key % 6144 / 48) && decide (key % 6144 / 48 < b.row + b.rows)
    && decide (b.col ≤ key % 48) && decide (key % 48 < b.col + b.cols)

/-- An accumulator element without withheld writes. -/
def Core.accRaw (c : Core) (key : Nat) : Word32 := Sparse.get 0 c.acc key

/-- Accumulator elements are written, and the words written hold no error any more (R16, R236). -/
def Core.setAcc (c : Core) (l : List (Nat × Word32)) : Core :=
  { c with
    acc := Sparse.setAll 0 c.acc l
    poisonedWords := c.poisonedWords.filter fun k => !(l.any fun p => p.1 == k) }

/-- An accumulator element with the core's own withheld writes (R28, R142). -/
def Core.accElem (c : Core) (key : Nat) : Word32 :=
  match c.withheld.reverse.findSome? (fun e => lastOf e.elems key) with
  | some x => x
  | none => c.accRaw key

/-- The bank is owned by the task (R16). -/
def Core.owns (c : Core) (bank : BitVec 5) : Bool := c.own.getLsbD bank.toNat

/-! ### Map entries and translation (R239 to R243) -/

namespace MapE
def kind (e : BitVec 64) : BitVec 2 := bits e 62 2
def sz (e : BitVec 64) : BitVec 2 := bits e 60 2
def back (e : BitVec 64) : BitVec 3 := bits e 57 3
def cry (e : BitVec 64) : Bool := bitOf e 56
def w (e : BitVec 64) : Bool := bitOf e 55
def par (e : BitVec 64) : Bool := bitOf e 54
def mod (e : BitVec 64) : BitVec 12 := bits e 40 12
def frame (e : BitVec 64) : BitVec 28 := bits e 12 28
/-- Page size in bytes (R240). -/
def size (e : BitVec 64) : Nat :=
  match (sz e).toNat with
  | 0 => 0x10000 | 1 => 0x200000 | 2 => 0x40000000 | _ => 0x200000000
/-- Physical base of the frame. -/
def pa (e : BitVec 64) : Nat := (frame e).toNat * 0x10000
end MapE

/-- The page of a map that holds a virtual address, an absent or invalid one included. (DEDUCED, log 33) -/
def findPage (pages : List MapPage) (a : Nat) : Option MapPage :=
  pages.find? fun p => decide (p.va.toNat ≤ a) && decide (a < p.va.toNat + MapE.size p.entry)

/-- A physical address after its stretch has moved. -/
def movedAddr (a base size to' : Nat) : Nat := if base ≤ a ∧ a < base + size then a - base + to' else a

/-- Where an address that another module names stands now, its frame retired or not (R368, R370). -/
def State.forwarded (s : State) (a : Nat) : Nat := s.svc.forward.foldl (fun a r => movedAddr a r.1 r.2.1 r.2.2) a

/-- The stretches where `n` bytes that another module names stand now: a retired frame ends at a multiple of 64 KiB. -/
def State.forwardRuns (s : State) (a n : Nat) : List (Nat × Nat) :=
  if s.svc.forward.isEmpty then [(a, n)]
  else
    let k := min n (0x10000 - a % 0x10000)
    (s.forwarded a, k) :: if k < n then [(s.forwarded (a + k), n - k)] else []

/-- A context's current map (R243). -/
def Context.map (x : Context) : List MapPage := x.maps.getD x.cur.toNat []

/-- What an access through an entry meets (R241). -/
inductive Access where
  | ok (l : Loc)
  | dead
  | bad (code : BitVec 8)
  deriving DecidableEq, Repr

/-- A scratchpad holds the data of a context (R222). -/
def State.holds (s : State) (core : BitVec 10) (asid : BitVec 16) : Bool :=
  let c := s.findCore core
  match c.task with
  | some t => t.asid == asid
  | none => c.lastAsid == some asid

/-- Translates one access by the pages given: parameter space or not, write or read (R174, R241). -/
def State.accessBy (s : State) (pages : List MapPage) (asid : BitVec 16) (va : Nat) (par write : Bool) :
    Access :=
  match findPage pages va with
  | none => .bad 0x05
  | some p =>
    let e := p.entry
    if MapE.kind e != 2 || MapE.back e == 0 || decide (5 < (MapE.back e).toNat) then .bad 0x05
    else if MapE.par e != par then .bad 0x06
    else if MapE.back e == 5 then (if write || par then .bad 0x05 else .dead)
    else if write && !MapE.w e then .bad 0x06
    else
      let a := MapE.pa e + (va - p.va.toNat)
      if MapE.back e == 4 then .ok (.remote (MapE.mod e) (8 * a))
      else match placeOf a with
        | .spad c => if s.holds c asid then .ok (.phys (8 * a)) else .bad 0x06
        | .stack _ => .ok (.phys (8 * a))
        | .hole => .bad 0x05
        | .service => .bad 0x06

/-- Translates one access under the context's current map (R243). -/
def State.access (s : State) (asid : BitVec 16) (va : Nat) (par write : Bool) : Access :=
  match s.context? asid with
  | none => .bad 0x05
  | some x => s.accessBy x.map asid va par write

/-- Translates one access of a command under the map that was current when it started (R234, R243). -/
def State.accessUnder (s : State) (asid : BitVec 16) (map : BitVec 6) (va : Nat) (par write : Bool) : Access :=
  match s.context? asid with
  | none => .bad 0x05
  | some x => s.accessBy (x.maps.getD map.toNat []) asid va par write

/-- Reads bytes of a context's memory on this module; none when any byte cannot be read. -/
def State.readVa (s : State) (asid : BitVec 16) (va n : Nat) : Option (List Byte) :=
  (List.range n).mapM fun i =>
    match s.access asid (va + i) false false with
    | .ok (.phys b) => if s.isPoisoned (b / 8) 1 then none else some (s.peek (b / 8))
    | .dead => some 0
    | _ => none

/-- A field of a record in a context's memory, little-endian, as the service and the dispatchers know it: with what they
have written to a place that is held (R247). -/
def State.fieldVa (s : State) (asid : BitVec 16) (va n : Nat) : Option Nat :=
  if s.held.isEmpty then (s.readVa asid va n).map natOfBytes
  else (State.readVa { s with mem := Sparse.setAll 0 s.mem s.held } asid va n).map natOfBytes

end Sys2Proof.Machine
end

