-- ==== Sys2Proof/Machine/NetSend.lean ====
section
/-! DEFINITION. Messages of the on-die network: their ports, their ids and flits, and how they are sent
(R227, R291 to R294, R303, R307). -/

namespace Sys2Proof.Machine

open Sys2Proof

/-! ### Ports (R227, R291) -/

/-- The port of a core (R291). -/
def corePort (id : BitVec 10) : Port := ⟨coreDie id, bits id 2 6, (bits id 0 2).setWidth 3⟩

/-- The port of a service core (R291). -/
def servicePort (die : BitVec 2) (second : Bool) : Port := ⟨die, if second then 55 else 47, 4⟩

/-- The port of the unit that owns a physical address: a stack's edge unit, or a core (R226, R291). -/
def homePort (pa : Nat) : Port :=
  match placeOf pa with
  | .stack i =>
    ⟨BitVec.ofNat 2 (i / 2), BitVec.ofNat 6 (pseudoChannel pa / 8 + if i % 2 = 0 then 0 else 56), 4⟩
  | .spad c => corePort c
  | _ => servicePort 0 false

/-- The gateway of a Trepin port: ports 4 d to 4 d + 3 are die d's, at its routers 15, 23, 31 and 39 (R291).
(DEDUCED, log 43) -/
def trepinPort (p : BitVec 4) : Port := ⟨bits p 2 2, BitVec.ofNat 6 (15 + 8 * (bits p 0 2).toNat), 4⟩

/-- The port is a Trepin gateway's (R291). -/
def Port.isTrepin (p : Port) : Bool := p.port == 4 && [15, 23, 31, 39].contains p.router.toNat

/-- The router of a die's UCIe gateway toward another die, the first or second of the pair (R291).
(DEDUCED, log 43) -/
def gatewayRouter (die peer : BitVec 2) (second : Bool) : BitVec 6 :=
  let first : Nat := match (peer - die).toNat with
    | 1 => 8 | 2 => 24 | _ => 40
  BitVec.ofNat 6 (if second then first + 8 else first)

/-- Where a message goes on the die it stands on: its end, or the gateway toward its end's die, the second of the
two for an odd router (R307). (DEDUCED, log 43) -/
def legPort (here final : Port) : Port :=
  if here.die = final.die then final
  else ⟨here.die, gatewayRouter here.die final.die (final.router.getLsbD 0), 4⟩

/-- Source id of a flit (R293). -/
def sourceId (p : Port) : BitVec 9 := p.router ++ p.port

/-! ### Messages (R294, R303) -/

/-- Flits of a message (R294): one for a request or response without data, and the data's lines. -/
def flitCount (op : NetOp) (bytes : Nat) : Nat :=
  let l := (bytes + 63) / 64
  match op with
  | .write | .paramReq | .control => min 32 (1 + l)
  | .readResp | .paramResp => min 32 (max 1 l)
  | _ => 1

/-- The data lines a message carries: those of its packet as they stand there, in cipher text, or its own bytes (R294,
R344). -/
def Msg.lines (m : Msg) : List (List Byte) :=
  match m.packet with
  | some p => p.lines.map (·.data)
  | none => (List.range ((m.data.length + 63) / 64)).map fun i => padTo 64 ((m.data.drop (64 * i)).take 64)

/-- The message travels: not yet whole at its end, nor beyond a gateway. -/
def Msg.travels (m : Msg) : Bool := !m.arrived && !m.away

/-- Messages in flight of a source port (R293). -/
def State.inFlight (s : State) (p : Port) : List Msg := s.net.msgs.filter fun m => m.src == p && m.travels

/-- The lowest message id that no message in flight of a source port has (R293). -/
def State.freeMid (s : State) (p : Port) : Option (BitVec 8) :=
  ((List.range 256).map fun n => BitVec.ofNat 8 n).find? fun i => !((s.inFlight p).any fun m => m.mid == some i)

/-- The flits of a message, all still at their source. -/
def flitsOf (m : Msg) : List Flit :=
  (List.range m.flits).map fun i => {
    plane := 0, here := m.src.router, src := m.src, dst := m.dst, mid := m.id, hmid := m.mid.getD 0, seq := i
    len := m.flits - 1, age := 0, op := m.op, sub := m.sub, loc := m.loc
    mcnt := BitVec.ofNat 2 (m.entries.length - 1), psn := m.psn, msgs := [m.id], entries := m.entries, inj := true }

/-- Changes a message. -/
def State.updMsg (s : State) (n : Nat) (f : Msg → Msg) : State :=
  { s with net := { s.net with msgs := s.net.msgs.map fun (x : Msg) => if x.id = n then f x else x } }

/-- A source entry as its source port sends it (R301). -/
def AmoEntry.from' (e : AmoEntry) (m : Msg) (i : BitVec 8) : AmoEntry :=
  if e.msg = m.id then { e with src := sourceId m.src, mid := i } else e

/-- A message takes a free id of its source port, and its flits wait there to be injected; with none free it waits
(R293). -/
def State.launch (s : State) (m : Msg) : State :=
  match s.freeMid m.src with
  | some i =>
    let m' : Msg := { m with mid := some i, entries := m.entries.map fun e => e.from' m i }
    let s := s.updMsg m.id fun _ => m'
    { s with net := { s.net with flits := s.net.flits ++ flitsOf m' } }
  | none => s

/-- A source port with a free id launches the message that has waited longest for one (R293). -/
def State.relaunch (s : State) (p : Port) : State :=
  match s.net.msgs.find? fun m => m.src == p && m.travels && m.mid.isNone with
  | some m => s.launch m
  | none => s

/-- A message with nothing of its own yet. -/
def Msg.bare' (op : NetOp) (core : BitVec 10) (src final : Port) : Msg where
  id := 0
  op := op
  core := core
  cmd := 0
  idx := 0
  loc := .dead
  width := 0
  data := []
  sub := 0
  entries := []
  status := 0
  cls := 0
  scope := 5
  asid := 0
  map := 0
  pid := none
  couch := false
  since := 0
  psn := false
  src := src
  dst := src
  final := final
  flits := 1
  arrived := false
  mid := none
  bare := true
  unit := false
  away := false
  packet := none
  replicas := 0
  acks := 0
  why := .home

/-- The message answers a request (R294). -/
def NetOp.answers : NetOp → Bool
  | .readResp | .writeAck | .atResp | .paramResp => true
  | _ => false

/-- Sends a message over the network from its source toward its end (R291, R303, R307). -/
def State.sendMsg (s : State) (m : Msg) : State :=
  let m : Msg := { m with
    id := s.net.nextMsg, dst := legPort m.src m.final, flits := flitCount m.op (64 * m.lines.length), mid := none
    arrived := false, away := false, psn := false, since := if m.op.answers then m.since else s.ptb
    entries := m.entries.map fun e => { e with msg := s.net.nextMsg } }
  State.launch { s with net := { s.net with msgs := s.net.msgs ++ [m], nextMsg := s.net.nextMsg + 1 } } m

/-- A message by its number. -/
def State.msg? (s : State) (n : Nat) : Option Msg := s.net.msgs.find? fun m => m.id == n

/-- A flit without the part a message has in it; none when nothing is left (R300). -/
def Flit.without (f : Flit) (n : Nat) : Option Flit :=
  match f.msgs.filter (· != n) with
  | [] => none
  | m :: r => some { f with msgs := m :: r, mid := m, entries := f.entries.filter fun e => e.msg != n }

/-! ### Reassembly (R303, R304) -/

/-- The entry holds the message of a flit. -/
def Reasm.isFor (e : Reasm) (f : Flit) : Bool := e.port == f.dst && e.src == f.src && e.mid == f.hmid

/-- An entry with one more flit of its message. -/
def Reasm.add (e : Reasm) (f : Flit) : Reasm := { e with seen := e.seen ||| BitVec.ofNat 32 (2 ^ f.seq) }

/-- Every flit of the message has arrived (R303). -/
def Reasm.whole (e : Reasm) : Bool := e.seen.toNat + 1 == 2 ^ (e.len + 1)

/-- A flit finds its message's entry in the table of its port, or takes a free one; none when all 64 are taken by
other messages. The entry is freed with the message's last flit (R304). -/
def Net.enter (n : Net) (f : Flit) : Option (Net × Bool) :=
  let put (e : Reasm) : Net × Bool :=
    let rest := n.reasm.filter fun x => !(x.isFor f)
    if e.whole then ({ n with reasm := rest }, true) else ({ n with reasm := rest ++ [e] }, false)
  match n.reasm.find? fun e => e.isFor f with
  | some e => some (put (e.add f))
  | none =>
    if (n.reasm.filter fun e => e.port == f.dst).length < 64 then
      some (put (Reasm.add ⟨f.dst, f.src, f.hmid, f.len, 0⟩ f))
    else none

/-- A whole message stands at its end, behind those that came before it; one that was merged brings the entries of
all its sources, and the other sources' messages wait for their answers (R302). -/
def State.arrive (s : State) (f : Flit) : State :=
  match s.msg? f.mid with
  | none => s
  | some m =>
    let m' : Msg := { m with arrived := true, entries := if f.op = .merge then f.entries else m.entries }
    let others := (s.net.msgs.filter fun x => x.id != f.mid).map fun (x : Msg) =>
      if f.msgs.contains x.id then { x with away := true } else x
    State.relaunch { s with net := { s.net with msgs := others ++ [m'] } } f.src

/-- SEQ 0 of the message says where the data of its other flits goes (R294). -/
def NetOp.leads : NetOp → Bool
  | .write | .paramReq | .control => true
  | _ => false

/-- A flit of the message has been received. -/
def Net.received (n : Net) (f : Flit) (seq : Nat) : Bool := n.reasm.any fun e => e.isFor f && e.seen.getLsbD seq

/-- The ejection store after a flit has been received: data that came before its SEQ 0 is held there, and leaves it
with SEQ 0 (R304, R308). The store never refuses a flit: R304 has it that 256 slots of a plane suffice
(DEDUCED, log 43). -/
def Net.stored (n : Net) (f : Flit) : List Flit :=
  if !f.op.leads then n.store
  else if f.seq = 0 then n.store.filter fun g => !(g.dst == f.dst && g.src == f.src && g.hmid == f.hmid && n.received g g.seq)
  else if n.received f 0 then n.store else n.store ++ [f]

/-- A flit goes into its port's reassembly table, or into the ejection store while that is full; whether its message
is whole. -/
def State.takeFlit (s : State) (f : Flit) : State × Bool :=
  match s.net.enter f with
  | some r =>
    let t := { s with net := { r.1 with store := s.net.stored f } }
    (if r.2 then t.arrive f else t, r.2)
  | none => ({ s with net := { s.net with store := s.net.store ++ [f] } }, false)

/-- Flits of a port go on from the ejection store, the oldest first, as far as the table takes them; the number
bounds the flits. -/
def State.drainStore : Nat → State → Port → State
  | 0, s, _ => s
  | n + 1, s, p =>
    match s.net.store.find? fun f => f.dst == p && !(s.net.received f f.seq) && (s.net.enter f).isSome with
    | some f => State.drainStore n (State.takeFlit { s with net := { s.net with store := s.net.store.erase f } } f).1 p
    | none => s

/-- Removes a message, what is left of its flits, and its place in a reassembly table, which lets flits go on from the
ejection store (R304). -/
def State.dropMsg (s : State) (n : Nat) : State :=
  match s.msg? n with
  | none => s
  | some m =>
    let s := State.relaunch { s with net := { s.net with
      msgs := s.net.msgs.filter fun m => m.id != n
      flits := s.net.flits.filterMap fun f => f.without n
      store := s.net.store.filterMap fun f => f.without n
      reasm := s.net.reasm.filter fun e => m.arrived || !(e.src == m.src && some e.mid == m.mid) } } m.src
    if m.travels then State.drainStore s.net.store.length s m.dst else s

/-- The answer of a message's end to its requester, carrying data, a status and its cause (R294). -/
def Msg.answer (m : Msg) (op : NetOp) (data : List Byte) (status : BitVec 8) (why : FaultWhy) : Msg :=
  { m with
    op := op, data := data, status := status, src := m.final, final := corePort m.core, entries := []
    packet := none, why := why }

/-- Answers a request: it is removed and its answer is sent. -/
def State.reply (s : State) (m : Msg) (op : NetOp) (data : List Byte) (code : BitVec 8)
    (why : FaultWhy := .home) : State :=
  if m.bare then s.dropMsg m.id else (s.dropMsg m.id).sendMsg (m.answer op data code why)

/-! ### Second copies (R246) -/

/-- What an access of a couch engine over the fabric is for: the second copy of a write, a copy or zero write of a
pass, a line read to be written again as a second copy, or an image the service loads. -/
def couchSecond : Nat := 0
def couchCopy : Nat := 1
def couchLine : Nat := 2
def couchImage : Nat := 3
def couchCode : Nat := 4

/-- An answer leaves when the second copies of what was written, sent since the message numbered `since`, have been
performed (R246). -/
def State.sendLater (s : State) (since : Nat) (m : Msg) : State :=
  let w := (s.net.msgs.filter fun m => m.couch && m.idx == couchSecond && decide (since ≤ m.id)).map (·.id)
  if w.isEmpty then s.sendMsg m else { s with fab := { s.fab with owed := s.fab.owed ++ [⟨m, w⟩] } }

/-- A second copy has been performed, or has failed: answers that waited for it alone leave (R246). -/
def State.settleOwed (s : State) (n : Nat) : State :=
  let l := s.fab.owed.map fun (o : Owed) => { o with waits := o.waits.filter (· != n) }
  (l.filter fun o => o.waits.isEmpty).foldl (fun (s : State) o => s.sendMsg o.msg)
    { s with fab := { s.fab with owed := l.filter fun o => !o.waits.isEmpty } }

/-- Answers a request that wrote: its answer waits for the second copies sent since the message numbered `since`
(R246). -/
def State.replyLater (s : State) (since : Nat) (m : Msg) (op : NetOp) (data : List Byte) (code : BitVec 8)
    (why : FaultWhy := .home) : State :=
  if m.bare then s.dropMsg m.id else (s.dropMsg m.id).sendLater since (m.answer op data code why)

end Sys2Proof.Machine
end

