-- ==== Sys2Proof/Machine/FabBase.lean ====
section
/-! DEFINITION. Building and sealing Trepin packets, and their way to a port (R339 to R348). -/

namespace Sys2Proof.Machine

open Sys2Proof

/-! ### Headers and tags (R342, R344, R345) -/

/-- Bytes 0 to 55 of a header (R342). -/
def headerBytes (p : Packet) : List Byte :=
  bytesOfNat 2 p.dmod.toNat ++ bytesOfNat 2 p.smod.toNat ++ bytesOfNat 2 p.score.toNat
    ++ bytesOfNat 1 p.type.toNat ++ bytesOfNat 1 (p.kix.toNat + 2 * p.mc.toNat + 4 * p.psn.toNat)
    ++ bytesOfNat 8 p.addr.toNat ++ bytesOfNat 2 p.pcid.toNat
    ++ bytesOfNat 1 (p.cls.toNat + 16 * p.scope.toNat) ++ bytesOfNat 1 p.lines.length
    ++ bytesOfNat 4 p.pid.toNat ++ bytesOfNat 4 p.slot.toNat ++ bytesOfNat 4 p.aux.toNat
    ++ bytesOfNat 8 p.opnd.toNat ++ bytesOfNat 7 p.fcid.toNat ++ bytesOfNat 9 0

/-- The tweak of a line: HM × 2^38 + A<43:6> (R344). -/
def lineTweak (home : BitVec 12) (line : Nat) : Nat := home.toNat * 2 ^ 38 + line % 2 ^ 38

/-- The header fields a line's tag covers (R345). -/
def tagFields (p : Packet) : List Byte :=
  bytesOfNat 2 p.dmod.toNat ++ bytesOfNat 2 p.smod.toNat ++ bytesOfNat 1 p.type.toNat
    ++ bytesOfNat 1 p.kix.toNat ++ bytesOfNat 2 p.pcid.toNat ++ bytesOfNat 1 p.cls.toNat
    ++ bytesOfNat 7 p.fcid.toNat

/-- A tag: the first 8 bytes of KMAC256 under a slot's MAC key (R345). -/
def tagOf (k : KeySlot) (l : List Byte) : BitVec 64 :=
  BitVec.ofNat 64 (natOfBytes ((kmac256 "Trepin" Config.kmacBits k.mac l).take 8))

/-- The tag of a line of cipher text. -/
def lineTag (k : KeySlot) (p : Packet) (tweak : Nat) (en : BitVec 64) (cipher : List Byte) : BitVec 64 :=
  tagOf k (bytesOfNat 16 tweak ++ tagFields p ++ bytesOfNat 8 en.toNat ++ cipher)

/-- The header's tag. -/
def headerTag (k : KeySlot) (p : Packet) : BitVec 64 := tagOf k (headerBytes p)

/-- A key slot toward a peer or from it. -/
def State.keySlot (s : State) (peer : BitVec 12) (send ix : Bool) : Option KeySlot :=
  s.fab.keys.find? fun k => k.peer == peer && k.send == send && k.ix == ix

/-- The sender's current index toward a peer (R346). -/
def State.sendIx (s : State) (peer : BitVec 12) : Bool :=
  ((s.fab.peers.find? fun p => p.id == peer).map (·.sendIx)).getD false

/-- A line sealed under a key: bytes not enabled are encrypted as zero (R344, R345). -/
def sealLine (k : KeySlot) (p : Packet) (home : BitVec 12) (line : Nat) (en : BitVec 64)
    (plain : List Byte) : PacketLine :=
  let t := lineTweak home line
  let x := xtsEncrypt k.xts t (plain.mapIdx fun i b => if en.getLsbD i then b else 0)
  ⟨en, lineTag k p t en x, x⟩

/-- A packet without lines, to be sealed. -/
def Packet.bare : Packet where
  dmod := 0
  smod := 0
  score := 0x3FF
  type := 0
  kix := false
  mc := false
  psn := false
  addr := 0
  pcid := 0
  cls := 0
  scope := 5
  pid := 0
  slot := 0
  aux := 0
  opnd := 0
  fcid := 0
  resZero := true
  lines := []
  htag := 0

/-! ### Flits and links (R339 to R342) -/

/-- The 64 bytes of a header flit. -/
def headerFlit (p : Packet) : List Byte := headerBytes p ++ bytesOfNat 8 p.htag.toNat

/-- The tag flits of a packet: four 16-byte entries each (R342). -/
def tagFlits : Nat → List PacketLine → List (List Byte)
  | 0, _ => []
  | _, [] => []
  | n + 1, l =>
    let e := (l.take 4).flatMap fun x => bytesOfNat 8 x.en.toNat ++ bytesOfNat 8 x.tag.toNat
    (e ++ List.replicate (64 - e.length) 0) :: tagFlits n (l.drop 4)

/-- The flits of a packet: header, data, tags. -/
def packetFlits (p : Packet) : List (List Byte) :=
  headerFlit p :: (p.lines.map (·.data) ++ tagFlits 8 p.lines)

/-- The CRC of a unit, over its flit and trailer bits 63:32 (R339). -/
def unitCrc (u : LinkUnit) : BitVec 32 :=
  crc32 (u.flit ++ bytesOfNat 4 (u.fseq.toNat * 2 ^ 20 + u.aseq.toNat * 2 ^ 8 + u.lt.toNat * 16))

/-- A unit with its CRC. -/
def linkUnit (fseq aseq : BitVec 12) (lt : BitVec 4) (flit : List Byte) : LinkUnit :=
  let u : LinkUnit := ⟨fseq, aseq, lt, flit, 0⟩
  { u with crc := unitCrc u }

/-- A unit leaves by a link: it takes the next sequence number and stays in the replay window (R339, R340). -/
def LinkState.sendUnit (l : LinkState) (lt : BitVec 4) (flit : List Byte) : LinkState :=
  let u := linkUnit l.next l.acked lt flit
  { l with next := l.next + 1, window := l.window ++ [u], out := l.out ++ [u] }

/-- Units sent and not yet covered (R340). -/
def replayWindow : Nat := 256

/-- A flit leaves by a link; with a full replay window it waits (R340). -/
def LinkState.sendFlit (l : LinkState) (flit : List Byte) : LinkState :=
  if l.window.length < replayWindow then l.sendUnit 1 flit else { l with waiting := l.waiting ++ [flit] }

/-- Changes one link. -/
def State.updLink (s : State) (port : BitVec 4) (f : LinkState → LinkState) : State :=
  { s with fab := { s.fab with links := s.fab.links.set port.toNat (f (s.fab.links[port.toNat]'(port.isLt))) port.isLt } }

/-- The up ports of a destination's route table (R341). (DESIGN CHOICE, log 9) -/
def State.routePorts (s : State) (m : BitVec 12) : List (BitVec 4) :=
  (((s.fab.routes.find? fun r => r.1 == m).map (·.2)).getD []).filter fun p =>
    (s.fab.links[p.toNat]'(p.isLt)).up

/-- The port a packet of a die leaves by, of those that reach its module; one to this module turns back inside a gateway
of that die (R341, R358). (DESIGN CHOICE, log 9) -/
def State.portOf (s : State) (die : BitVec 2) (p : Packet) : Option (BitVec 4) :=
  let n := Config.portHash p.dmod (p.addr.toNat / 4096) p.pid
  if p.dmod = s.modid then some (die ++ BitVec.ofNat 2 n)
  else
    let l := s.routePorts p.dmod
    l[n % l.length]?

/-- Changes a peer's entry. -/
def State.updPeer (s : State) (m : BitVec 12) (f : Peer → Peer) : State :=
  { s with fab := { s.fab with peers := s.fab.peers.map fun (p : Peer) => if p.id = m then f p else p } }

/-- A packet stands at the gateway of a port, where it came in or turns back; one under an old key index is noted as it
comes (R340, R346, R358). -/
def State.inbound (s : State) (port : BitVec 4) (p : Packet) : State :=
  State.updPeer { s with fab := { s.fab with arrived := s.fab.arrived ++ [⟨port, p⟩] } } p.smod fun q =>
    if p.kix = q.recvIx then q else { q with lastOld := s.ptb }

/-- A packet leaves by a port; one to this module turns back inside the gateway, and by a port that is down it is
lost (R340, R341, R358). -/
def State.emitBy (s : State) (port : BitVec 4) (p : Packet) : State :=
  if p.dmod = s.modid then s.inbound port p
  else if (s.fab.links[port.toNat]'(port.isLt)).up then
    s.updLink port fun k => (packetFlits p).foldl LinkState.sendFlit k
  else s

/-- A packet of the barrier networks leaves by its port without crossing the planes; with no port it is lost (R291,
R309). -/
def State.emit (s : State) (p : Packet) : State :=
  match s.portOf 0 p with
  | some port => s.emitBy port p
  | none => s

/-- The message that takes a packet over the die network and UCIe to the gateway of the port it leaves by; none when no
port reaches its module (R307, R341). -/
def State.carrier (s : State) (src : Port) (op : NetOp) (p : Packet) : Option Msg :=
  (s.portOf src.die p).map fun port => { Msg.bare' op p.score src (trepinPort port) with packet := some p, unit := true }

/-- A packet travels to its gateway; with no port it is lost (R307, R341). -/
def State.carry (s : State) (src : Port) (op : NetOp) (p : Packet) : State :=
  match s.carrier src op p with
  | some m => s.sendMsg m
  | none => s

/-- A packet under the packet id it carries, sealed with lines by address and plain bytes, owned by `home`; none
without a key (R342 to R346). -/
def State.sealed (s : State) (p : Packet) (home : BitVec 12) (lines : List (Nat × BitVec 64 × List Byte)) :
    Option Packet :=
  let ix := s.sendIx p.dmod
  let p := { p with smod := s.modid, kix := ix }
  (s.keySlot p.dmod true ix).map fun k =>
    let p := { p with lines := lines.map fun (x : Nat × BitVec 64 × List Byte) => sealLine k p home x.1 x.2.1 x.2.2 }
    { p with htag := headerTag k p }

/-- Seals a packet under the packet id it carries and sends it from a port of this module. -/
def State.sendAs (s : State) (src : Port) (op : NetOp) (p : Packet) (home : BitVec 12)
    (lines : List (Nat × BitVec 64 × List Byte)) : State :=
  match s.sealed p home lines with
  | some p => s.carry src op p
  | none => s

/-- A fresh packet id (R342). -/
def State.takePid (s : State) : State := { s with fab := { s.fab with nextPid := s.fab.nextPid + 1 } }

/-- The message stays noted for an answer that may come; nothing of it travels. -/
def State.noteAway (s : State) (m : Msg) : State :=
  { s with net := { s.net with
      msgs := s.net.msgs ++ [{ m with id := s.net.nextMsg, away := true, since := s.ptb }]
      nextMsg := s.net.nextMsg + 1 } }

/-- Seals a packet of a core under a fresh packet id and sends it, as a message, over the die network and UCIe to the
gateway of the port it will leave by (R341, R344); without key or port nothing leaves. No router merges it (R343). -/
def State.sendVia (s : State) (m : Msg) (p : Packet) (home : BitVec 12)
    (lines : List (Nat × BitVec 64 × List Byte)) : State :=
  let p := { p with pid := s.fab.nextPid }
  let m : Msg := { m with pid := some p.pid, op := if m.op = .merge then .atomic else m.op }
  match s.sealed p home lines, s.portOf m.src.die p with
  | some p, some port => s.takePid.sendMsg { m with packet := some p, final := trepinPort port }
  | _, _ => s.takePid.noteAway m

/-- Seals a packet under a fresh packet id and sends it from a port of this module (R341, R342). -/
def State.sendPacket (s : State) (src : Port) (op : NetOp) (p : Packet) (home : BitVec 12)
    (lines : List (Nat × BitVec 64 × List Byte)) : State :=
  s.takePid.sendAs src op { p with pid := s.fab.nextPid } home lines

/-- A packet of the barrier networks leaves (R309). -/
def State.sendBarrier (s : State) (p : Packet) : State :=
  match s.sealed { p with pid := s.fab.nextPid } p.dmod [] with
  | some p => s.takePid.emit p
  | none => s.takePid

/-! ### Received lines (R344, R345) -/

/-- The packet's own key slot at this module. -/
def State.recvKey (s : State) (p : Packet) : Option KeySlot := s.keySlot p.smod false p.kix

/-- The tags of a packet's lines verify; the lines belong to `home` from the packet's address on (R344). -/
def linesOk (k : KeySlot) (p : Packet) (home : BitVec 12) : Bool :=
  (p.lines.zipIdx).all fun (x : PacketLine × Nat) =>
    lineTag k p (lineTweak home (p.addr.toNat / 64 + x.2)) x.1.en x.1.data == x.1.tag

/-- The enabled bytes of a packet's lines, decrypted, by address. -/
def plainCells (k : KeySlot) (p : Packet) (home : BitVec 12) : List (Nat × Byte) :=
  (p.lines.zipIdx).flatMap fun (x : PacketLine × Nat) =>
    let line := p.addr.toNat / 64 + x.2
    let d := xtsDecrypt k.xts (lineTweak home line) x.1.data
    (List.range 64).filterMap fun i => if x.1.en.getLsbD i then some (64 * line + i, d.getD i 0) else none

/-- The operation block of a packet: its one line, decrypted. -/
def packetBlock (k : KeySlot) (p : Packet) (home : BitVec 12) : List Byte := (plainCells k p home).map (·.2)

/-! ### Lines (R187, R344) -/

/-- A run of bytes as lines: line number, enables, 64 plain bytes. -/
def linesOf (a : Nat) (l : List Byte) : List (Nat × BitVec 64 × List Byte) :=
  if l.isEmpty then []
  else
    let first := a / 64
    let last := (a + l.length - 1) / 64
    (List.range (last - first + 1)).map fun i =>
      let base := 64 * (first + i)
      let at' (j : Nat) : Option Byte := if a ≤ base + j then l[base + j - a]? else none
      (first + i,
        BitVec.ofNat 64 ((List.range 64).foldl (fun m j => m + (if (at' j).isSome then 2 ^ j else 0)) 0),
        (List.range 64).map fun j => (at' j).getD 0)

/-- The pod context id and fence-count id of a core's task (R342, R348). -/
def State.pcidOf (s : State) (asid : BitVec 16) : BitVec 16 := ((s.context? asid).map (·.pcid)).getD 0

/-- A module lies in the context's peer set (R346). -/
def State.isPeer (s : State) (asid : BitVec 16) (m : BitVec 12) : Bool :=
  match s.context? asid with
  | some x => decide (x.modLo.toNat ≤ m.toNat) && decide (m.toNat ≤ x.modHi.toNat)
  | none => false

/-- A decrement that no token waits for, as a message: the amount, the address to be logged when it is dropped, and the
record when a pan unit makes it, else 0 (R200, R270). -/
def counterMsg (core : BitVec 10) (src final : Port) (loc : Loc) (asid : BitVec 16) (n : BitVec 32) (va : VAddr)
    (rec : Nat) : Msg :=
  { Msg.bare' .counter core src final with
    loc := loc, width := 32, asid := asid, cmd := rec, unit := decide (0 < rec), data := bytesOfNat 4 n.toNat ++ bytesOfNat 8 va.toNat }

/-- The address a dropped decrement is logged with (R200, R367). -/
def Msg.counterVa (m : Msg) : VAddr := BitVec.ofNat 56 (natOfBytes ((m.data.drop 4).take 8))

/-- A decrement that no token waits for is sent to another module, and noted until it is answered (R343). -/
def State.sendDecrement (s : State) (src : Port) (core : BitVec 10) (asid : BitVec 16) (fcid : BitVec 56) (m : BitVec 12)
    (pa : Nat) (n : BitVec 32) (va : VAddr) (rec : Nat) : State :=
  s.sendVia (counterMsg core src src (.remote m (8 * pa)) asid n va rec) { Packet.bare with
    dmod := m, score := core, type := 0x09, addr := BitVec.ofNat 44 pa, pcid := s.pcidOf asid
    opnd := n.setWidth 64, fcid := fcid } m []

/-! ### Answers (R342, R343; DESIGN CHOICE, log 14) -/

/-- The answer to a packet, without lines: its type, what AUX and OPND hold. -/
def answerTo (p : Packet) (type : BitVec 8) (aux : BitVec 32) (opnd : Word) : Packet :=
  { Packet.bare with
    dmod := p.smod, type := type, addr := p.addr, pcid := p.pcid, cls := p.cls, scope := p.scope
    pid := p.pid, aux := aux, opnd := opnd }

/-- The operation of the message that takes an answer packet to its gateway (R294, R343). -/
def answerOp (type : BitVec 8) : NetOp :=
  match type.toNat with
  | 0x03 => .readResp | 0x06 => .atResp | 0x0B => .paramResp | _ => .writeAck

/-- Answers a packet from a port of this module, with lines from the packet's address on (R307, R344). (DESIGN CHOICE,
log 14) (DEDUCED, log 45) -/
def State.answerFrom (s : State) (src : Port) (p : Packet) (type : BitVec 8) (aux : BitVec 32) (opnd : Word)
    (data : List Byte) : State :=
  s.sendAs src (answerOp type) (answerTo p type aux opnd) s.modid (linesOf p.addr.toNat data)

/-- Answers a packet from the home unit of its address. -/
def State.answerPacket (s : State) (p : Packet) (type : BitVec 8) (aux : BitVec 32) (opnd : Word)
    (data : List Byte) : State := s.answerFrom (homePort (s.forwarded p.addr.toNat)) p type aux opnd data

/-- A home unit's answer to a packet that wrote: it leaves when the second copies of what was written, sent since the
message numbered `since`, have been performed (R246). -/
def State.answerLater (s : State) (since : Nat) (p : Packet) (q : Packet)
    (lines : List (Nat × BitVec 64 × List Byte)) : State :=
  match (s.sealed q s.modid lines).bind (s.carrier (homePort (s.forwarded p.addr.toNat)) (answerOp q.type)) with
  | some m => s.sendLater since m
  | none => s

/-- A write acknowledgement with a code. -/
def State.ackPacket (s : State) (p : Packet) (code : BitVec 8) : State :=
  s.answerPacket p 0x04 (code.setWidth 32) 0 []

/-- The type that answers a type (R343). -/
def answerType (type : BitVec 8) : Option (BitVec 8) :=
  match type.toNat with
  | 0x01 | 0x0C | 0x09 => some 0x04
  | 0x02 => some 0x03
  | 0x05 => some 0x06
  | 0x07 => some 0x08
  | 0x0B => some 0x0B
  | _ => none

/-- A gateway refuses a packet of a module outside every peer set, or of a PCID not bound, with 0x06 (R346). With no key
to seal it the refusal goes out with an empty HTAG, and with no port loaded for that module it goes back by the port the
packet came in by (DESIGN CHOICE, log 45). -/
def State.refusePacket (s : State) (port : BitVec 4) (p : Packet) : State :=
  match answerType p.type with
  | some t =>
    let q := answerTo p t (if t = 0x0B then 0x608 else 0x06) 0
    let q := (s.sealed q s.modid []).getD { q with smod := s.modid }
    (match s.portOf (bits port 2 2) q with
     | some _ => s.carry (trepinPort port) (answerOp t) q
     | none => s.emitBy port q)
  | none => s

end Sys2Proof.Machine
end

