-- ==== Sys2Proof/Machine/Tables.lean ====
section
/-! DEFINITION. The descriptors of contexts and queues (R238, R312), the three-level tables of a context's maps, as the
service keeps them (R238 to R240), and the checks of a page. The machine translates by the list of a map's leaf pages
(DEDUCED, log 33); descriptors and tables are what that list and the state come to in the layout of the manual. -/

namespace Sys2Proof.Machine

open Sys2Proof

/-! ### The descriptor (R238) -/

/-- The descriptor's ENGST byte. -/
def Context.engst (x : Context) : BitVec 8 :=
  0#1 ++ BitVec.ofBool x.tip ++ BitVec.ofBool x.flt ++ BitVec.ofNat 2 x.pass ++ x.eng.code

/-- The physical address of a table of a context (R239). -/
def Context.tableAt (x : Context) (m level i j : Nat) : Nat :=
  ((x.tables.find? fun t => t.map == m && t.level == level && t.top == i && t.mid == j).map (·.base)).getD 0

/-- Where a context's descriptor and its dirty-filter area stand in the service's range (R226, R238; DESIGN CHOICE,
log 8). -/
def descriptorAt (asid : BitVec 16) : Nat := 0x10100000000 + 640 * asid.toNat
def filterAt (asid : BitVec 16) : Nat := 0x10200000000 + 2 ^ 28 * asid.toNat

/-- The 640 bytes of a descriptor (R238). -/
def Context.descriptor (x : Context) : List Byte :=
  bytesOfNat 2 x.asid.toNat ++ bytesOfNat 1 x.nmap ++ bytesOfNat 1 x.home.toNat ++ bytesOfNat 1 x.cur.toNat
    ++ bytesOfNat 1 x.engst.toNat ++ bytesOfNat 1 x.tgt.toNat ++ bytesOfNat 1 x.fcode.toNat
    ++ bytesOfNat 4 (x.prem % 2 ^ 24) ++ bytesOfNat 4 0 ++ bytesOfNat 8 x.fltva.toNat ++ bytesOfNat 8 (filterAt x.asid)
    ++ bytesOfNat 96 0
    ++ (List.range 64).flatMap fun m => bytesOfNat 8 (if m < x.nmap then x.tableAt m 0 0 0 else 0)

/-- QST of a queue (R312). -/
def QState.code : QState → Nat
  | .closed => 0 | .unbound => 1 | .pending => 2 | .bound => 3

/-- The 128 bytes of a queue's descriptor (R312). -/
def Queue.descriptor (q : Queue) : List Byte :=
  bytesOfNat 2 q.qid.toNat ++ bytesOfNat 1 q.die.toNat ++ bytesOfNat 1 q.qst.code ++ bytesOfNat 1 q.qrk.toNat
    ++ bytesOfNat 1 q.slot.toNat ++ bytesOfNat 2 q.asid.toNat ++ bytesOfNat 8 q.ring.toNat ++ bytesOfNat 4 q.rsz
    ++ bytesOfNat 4 q.head.toNat ++ bytesOfNat 4 q.tail.toNat ++ bytesOfNat 4 q.slice ++ bytesOfNat 8 q.cring.toNat
    ++ bytesOfNat 4 q.csz ++ bytesOfNat 4 q.ctail.toNat ++ bytesOfNat 4 q.ygr.toNat ++ bytesOfNat 4 q.nsave
    ++ bytesOfNat 8 q.save ++ bytesOfNat 8 q.dbell ++ bytesOfNat 4 q.chead.toNat ++ bytesOfNat 4 q.nflr.toNat
    ++ bytesOfNat 4 q.nfrz.toNat ++ bytesOfNat 4 q.ndrop.toNat ++ bytesOfNat 40 0

/-! ### The tables of a map (R239, R240) -/

/-- A table entry: KIND and FRAME alone (R240). -/
def tableEntry (frame : BitVec 28) : BitVec 64 := 1#2 ++ 0#22 ++ frame ++ 0#12

/-- Two stretches meet. -/
def stretchesMeet (a n b m : Nat) : Bool := decide (a < b + m) && decide (b < a + n)

/-- A page of the list touches a stretch of virtual addresses. -/
def pageUnder (l : List MapPage) (a n : Nat) : Bool :=
  l.any fun p => stretchesMeet p.va.toNat (MapE.size p.entry) a n

/-- The frame of a table. -/
def Context.tableFrame (x : Context) (m level i j : Nat) : BitVec 28 := BitVec.ofNat 28 (x.tableAt m level i j / 0x10000)

/-- Entry i of a map's top-level table. -/
def topEntry (x : Context) (m : Nat) (l : List MapPage) (i : Nat) : BitVec 64 :=
  if pageUnder l (i * 2 ^ 42) (2 ^ 42) then tableEntry (x.tableFrame m 1 i 0) else 0

/-- Entry j of the middle table under top entry i: a leaf of a 1 GiB or 8 GiB page, or a table. -/
def midEntry (x : Context) (m : Nat) (l : List MapPage) (i j : Nat) : BitVec 64 :=
  let a := i * 2 ^ 42 + j * 2 ^ 30
  match findPage l a with
  | some p =>
    if 2 ≤ (MapE.sz p.entry).toNat then p.entry else tableEntry (x.tableFrame m 2 i j)
  | none => if pageUnder l a (2 ^ 30) then tableEntry (x.tableFrame m 2 i j) else 0

/-- Entry k of the bottom table under entries i and j: a leaf of a 64 KiB or 2 MiB page. -/
def botEntry (l : List MapPage) (i j k : Nat) : BitVec 64 :=
  ((findPage l (i * 2 ^ 42 + j * 2 ^ 30 + k * 2 ^ 16)).map (·.entry)).getD 0

/-- The walk of a map's tables for a virtual address: the leaf entry it ends at; none at an invalid entry (R239). -/
def walk (x : Context) (m : Nat) (l : List MapPage) (va : Nat) : Option (BitVec 64) :=
  let i := va / 2 ^ 42
  let j := va / 2 ^ 30 % 4096
  let k := va / 2 ^ 16 % 16384
  let leaf (e : BitVec 64) : Option (BitVec 64) := if MapE.kind e = 2 then some e else none
  if MapE.kind (topEntry x m l i) ≠ 1 then none
  else if MapE.kind (midEntry x m l i j) = 1 then leaf (botEntry l i j k)
  else leaf (midEntry x m l i j)

/-! ### Where the tables stand (R226, R239) -/

/-- The tables that a context's maps need. -/
def tableNeeds (maps : List (List MapPage)) : List MapTable :=
  (maps.zipIdx.flatMap fun (x : List MapPage × Nat) =>
    let m := x.2
    let tops := (x.1.map fun p => p.va.toNat / 2 ^ 42).dedup
    let low := (x.1.filter fun p => decide ((MapE.sz p.entry).toNat < 2)).map fun p => p.va.toNat / 2 ^ 30
    ⟨m, 0, 0, 0, 0⟩ :: (tops.map fun i => ⟨m, 1, i, 0, 0⟩) ++ low.dedup.map fun k => ⟨m, 2, k / 4096, k % 4096, 0⟩)

/-- Bytes given to each table: 128 KiB, aligned to them. -/
def tableRoom : Nat := 0x20000

/-- Places for `n` tables in a stack, from its end down, that meet none of the stretches in use; the first number bounds
the places tried. -/
def freePlaces (used : List (Nat × Nat)) (stack : Nat) : Nat → Nat → Nat → List Nat
  | 0, _, _ => []
  | _, _, 0 => []
  | f + 1, k, n + 1 =>
    let a := stack * 0x2000000000 + (stackSize / tableRoom - 1 - k) * tableRoom
    if used.any fun u => stretchesMeet u.1 u.2 a tableRoom then freePlaces used stack f (k + 1) (n + 1)
    else a :: freePlaces used stack f (k + 1) n

/-- The frames of this module that the pages of a context use, and the places of its tables. -/
def Context.frames (x : Context) : List (Nat × Nat) :=
  (x.maps.flatten.filter fun p => MapE.back p.entry != 0 && MapE.back p.entry != 4).map fun p =>
    (MapE.pa p.entry, MapE.size p.entry)
def Context.tablePlaces (x : Context) : List (Nat × Nat) := x.tables.map fun t => (t.base, tableRoom)

/-- A context with its tables placed in the near stack of its home die (R239; DESIGN CHOICE, log 8). -/
def Context.place (x : Context) (used : List (Nat × Nat)) : Context :=
  let l := tableNeeds x.maps
  let at' := freePlaces used (2 * x.home.toNat) (stackSize / tableRoom) 0 l.length
  { x with tables := (l.zip at').map fun t => { t.1 with base := t.2 } }

/-- Every context's tables are placed anew, one after another, where no page, no other table and no stretch that is
not to be used is. -/
def placeTables (bad : List (Nat × Nat)) (l : List Context) : List Context :=
  (l.foldl (fun (a : List Context × List (Nat × Nat)) x =>
    let y := x.place a.2
    (a.1 ++ [y], a.2 ++ y.tablePlaces)) ([], bad ++ l.flatMap Context.frames)).1

/-- The bytes of a table from an offset in it. -/
def Context.tableByte (x : Context) (t : MapTable) (o : Nat) : Byte :=
  let l := x.maps.getD t.map []
  let e : BitVec 64 := match t.level with
    | 0 => topEntry x t.map l (o / 8)
    | 1 => midEntry x t.map l t.top (o / 8)
    | _ => botEntry l t.top t.mid (o / 8)
  BitVec.ofNat 8 (e.toNat / 2 ^ (8 * (o % 8)))

/-- What stands at a physical address: descriptors in the service's range and tables in stack memory, which the contexts
give, and elsewhere the memory's bytes (R226, R238, R239). -/
def State.standsAt (s : State) (a : Nat) : Byte :=
  match s.contexts.find? fun x => decide (descriptorAt x.asid ≤ a) && decide (a < descriptorAt x.asid + 640) with
  | some x => x.descriptor.getD (a - descriptorAt x.asid) 0
  | none =>
    match s.contexts.findSome? fun x => (x.tables.find? fun t => decide (t.base ≤ a) && decide (a < t.base + tableRoom)).map
      fun t => (x, t) with
    | some (x, t) => x.tableByte t (a - t.base)
    | none => s.peek a

/-! ### Pages (R233, R239 to R242) -/

/-- Every 64 KiB of a stretch of physical addresses satisfies a test. -/
def allFrames (base size : Nat) (f : Place → Bool) : Bool :=
  (List.range ((size + 0xFFFF) / 0x10000)).all fun i =>
    f (placeOf (base + 0x10000 * i)) && f (placeOf (min (base + size - 1) (base + 0x10000 * i + 0xFFFF)))

/-- The reserved bits of a leaf entry are zero. -/
def entryClean (e : BitVec 64) : Bool := bits e 0 12 == 0 && bits e 52 2 == 0

/-- A leaf agrees with its backing, for a home die (R241, R242). -/
def backingOk (home : Nat) (e : BitVec 64) : Bool :=
  let near (i : Nat) : Bool := i / 2 == home
  let stack (ok : Nat → Bool) : Bool := allFrames (MapE.pa e) (MapE.size e) fun p => match p with
    | .stack i => ok i
    | _ => false
  let noMod := MapE.mod e == 0
  match (MapE.back e).toNat with
  | 0 => noMod && MapE.frame e == 0
  | 1 => noMod && stack near
  | 2 => noMod && stack fun i => !near i
  | 3 => noMod && MapE.sz e == 0 && allFrames (MapE.pa e) (MapE.size e) fun p => match p with
      | .spad _ => true
      | _ => false
  | 4 => allFrames (MapE.pa e) (MapE.size e) fun p => p != .hole
  | 5 => noMod && stack fun _ => true
  | _ => false

/-- A page is a clean leaf, aligned to its size in virtual and physical memory (R233, R239, R240). -/
def pageOk (home : Nat) (p : MapPage) : Bool :=
  MapE.kind p.entry == 2 && entryClean p.entry && p.va.toNat % MapE.size p.entry == 0
    && MapE.pa p.entry % MapE.size p.entry == 0
    && decide (p.va.toNat + MapE.size p.entry ≤ 2 ^ 56) && backingOk home p.entry

/-- The pages of one map do not overlap. -/
def mapDisjoint : List MapPage → Bool
  | [] => true
  | p :: r => (r.all fun q =>
      !(stretchesMeet p.va.toNat (MapE.size p.entry) q.va.toNat (MapE.size q.entry))) && mapDisjoint r

/-- The module a page's data frame lies on. -/
def frameModule (own : BitVec 12) (e : BitVec 64) : BitVec 12 := if MapE.back e = 4 then MapE.mod e else own

/-- Two pages share no data frame, or are the same page in every respect R242 asks for. -/
def framesOk (own : BitVec 12) (p q : MapPage) : Bool :=
  MapE.back p.entry == 0 || MapE.back q.entry == 0
    || frameModule own p.entry != frameModule own q.entry
    || !(stretchesMeet (MapE.pa p.entry) (MapE.size p.entry) (MapE.pa q.entry) (MapE.size q.entry))
    || (p.va == q.va && MapE.sz p.entry == MapE.sz q.entry && MapE.frame p.entry == MapE.frame q.entry)

end Sys2Proof.Machine
end

