-- ==== Sys2Proof/Machine/Store.lean ====
section
/-! DEFINITION. The one operation that writes the module's memory: to the frame, and to the second frame of
a mirrored page, marking what a copy must take again (R245, R246). -/

namespace Sys2Proof.Machine

open Sys2Proof

/-- Bytes of a save slot, and the place of one (R331). -/
def saveSlotSize : Nat := 0x440000
def Queue.slotBase (q : Queue) (slot : Nat) : Nat := q.save + slot * saveSlotSize

/-- The stretches of memory that the service uses in whole: save areas, doorbell lines, the tables of maps (R226, R239,
R312, R331; DESIGN CHOICE, log 8). -/
def State.serviceStretches (s : State) : List (Nat × Nat) :=
  (s.sched.queues.flatMap fun q => [(q.save, q.nsave * saveSlotSize), (q.dbell, 0x10000)])
    ++ s.contexts.flatMap Context.tablePlaces

/-- A stretch holds a frame of 64 KiB. -/
def stretchHas (f : BitVec 28) (r : Nat × Nat) : Bool :=
  decide (r.1 ≤ f.toNat * 0x10000) && decide (f.toNat * 0x10000 < r.1 + r.2)

/-- The frame that moves when a 64 KiB frame is retired: that of the page that uses it, else the service's stretch that
holds it, else it alone; base and bytes (R368). -/
def State.frameRegion (s : State) (f : BitVec 28) : Nat × Nat :=
  match (s.contexts.flatMap fun x => x.maps.flatten).find? fun p =>
      MapE.kind p.entry == 2 && (MapE.back p.entry == 1 || MapE.back p.entry == 2 || MapE.back p.entry == 5)
        && decide ((MapE.frame p.entry).toNat ≤ f.toNat)
        && decide (f.toNat < (MapE.frame p.entry).toNat + MapE.size p.entry / 0x10000) with
  | some p => (MapE.pa p.entry, MapE.size p.entry)
  | none => (s.serviceStretches.find? (stretchHas f)).getD (f.toNat * 0x10000, 0x10000)

/-- The pages of a context whose writes reach a second frame (R246). -/
def Context.mirrored (x : Context) : List PageMove := (x.moves.filter (·.mirrored)) ++ x.mirrors

/-- A physical byte a context may read or write: stack memory, or a scratchpad that holds its data (R222, R250). -/
def State.mayWrite (s : State) (asid : BitVec 16) (a : Nat) : Bool :=
  match placeOf a with
  | .stack _ => true
  | .spad core => s.holds core asid
  | _ => false

/-- The second copies, on this module, of writes to mirrored pages. -/
def mirrorCells (s : State) (cells : List (Nat × Byte)) : List (Nat × Byte) :=
  s.contexts.flatMap fun x =>
    x.mirrored.flatMap fun m =>
      cells.filterMap fun c =>
        match m.offset? c.1, m.dst with
        | some o, .phys b => if s.mayWrite x.asid (b / 8 + o) then some (b / 8 + o, c.2) else none
        | _, _ => none

/-- Writes with all the second copies on this module they lead to: a second copy is itself a write to a frame that may
be mirrored; the number bounds the frames in a row (R246). -/
def mirrorAll (s : State) : Nat → List (Nat × Byte) → List (Nat × Byte)
  | 0, cells => cells
  | n + 1, cells =>
    match mirrorCells s cells with
    | [] => cells
    | l => cells ++ mirrorAll s n l

/-- Sets the dirty bits of the sub-blocks written (R245): those the pass has still to copy need none. -/
def markDirty (x : Context) (cells : List (Nat × Byte)) : Context :=
  { x with moves := x.moves.map fun m =>
      let hit := (cells.filterMap fun c => m.offset? c.1).map (· / 4096)
      if hit.isEmpty then m
      else { m with
        written := true
        dirty := if m.mirrored then m.dirty else (m.dirty ++ hit.filter fun b => !(m.todo.contains b)).dedup } }

/-- A transition has faulted: every PADV that is stalled on it has its end (R252). -/
def Core.faultMet (c : Core) (asid : BitVec 16) (n : BitVec 6) (k : Nat) (code : BitVec 8) : Core :=
  if c.padvWait.isSome && c.asid == asid && c.padvTgt == n && c.padvFor == k && c.padvEnd == .none then
    { c with padvEnd := .faulted code }
  else c

/-- A transition faults: held writes and mirroring end, its couch engine is freed, and the service logs it
(R248, R250). A second copy that fails while the cut waits faults it too: the cut is not made, and its PADVs' tokens
fault with the code (R246; DESIGN CHOICE, log 79). -/
def State.faultTransition (s : State) (asid : BitVec 16) (code : BitVec 8) (va : VAddr) : State :=
  match s.context? asid with
  | none => s
  | some x =>
    if x.eng = .idle ∨ x.eng = .faulted then s
    else
      let s := s.updContext asid fun x => { x with
        eng := .faulted, flt := true, fcode := code, fltva := va, hasEngine := false, moves := [], padvs := []
        heldBack := [] }
      let s := s.mapCores fun c => c.faultMet asid x.tgt x.trans code
      (x.padvs.foldl (fun (s : State) p => s.updMember p.1 fun c => c.completeToken p.2 (tokFaulted code)) s).addLog
        5 code x.home 0 va.toNat

/-- Cells as lines: number, enables, bytes. -/
def cellLines (cells : List (Nat × Byte)) : List (Nat × BitVec 64 × List Byte) :=
  ((cells.map fun (c : Nat × Byte) => c.1 / 64).dedup).map fun l =>
    (l, BitVec.ofNat 64 ((List.range 64).foldl (fun m j =>
        m + (if (lastOf cells (64 * l + j)).isSome then 2 ^ j else 0)) 0),
      (List.range 64).map fun j => (lastOf cells (64 * l + j)).getD 0)

/-- The port of a context's couch engine: a service core of the home die (R291, R294). (DEDUCED, log 43) -/
def State.couchPort (s : State) (asid : BitVec 16) : Port :=
  servicePort (((s.context? asid).map (·.home)).getD 0) (Config.serviceSecond asid)

/-- Whom an access of a couch engine is for: what for, the number of the transition it belongs to, 0 for a page still
mirrored after its cut, the virtual address of the page or sub-block, and the bytes of a line that were written. -/
structure CouchTag where
  idx : Nat
  trans : Nat
  va : Nat
  bytes : BitVec 64

/-- The number of the transition that a mirrored page belongs to; 0 after the cut (R246). -/
def Context.transOf (x : Context) (m : PageMove) : Nat :=
  if x.moves.any fun p => p.va == m.va && p.src == m.src && p.dst == m.dst then x.trans else 0

/-- The number of the transition that a context has under way. -/
def State.transNow (s : State) (asid : BitVec 16) : Nat := ((s.context? asid).map (·.trans)).getD 0

/-- Notes an access of a context's couch engine over the fabric. -/
def State.noteCouch (s : State) (asid : BitVec 16) (op : NetOp) (loc : Loc) (t : CouchTag) : State :=
  let p : Port := s.couchPort asid
  s.noteAway { Msg.bare' op 0x3FF p p with
    cmd := t.trans, idx := t.idx, loc := loc, asid := asid, sub := t.va, data := bytesOfNat 8 t.bytes.toNat
    pid := some s.fab.nextPid, couch := true, unit := true, bare := false, flits := 0 }

/-- A write of the couch engine to a frame of another module, one packet a line (R342). -/
def State.couchWrite (s : State) (asid : BitVec 16) (m : BitVec 12) (cells : List (Nat × Byte)) (t : CouchTag) :
    State :=
  (cellLines cells).foldl (fun (s : State) l =>
    (s.noteCouch asid .write (.remote m (512 * l.1)) t).sendPacket (s.couchPort asid) .control { Packet.bare with
      dmod := m, type := 0x01, addr := BitVec.ofNat 44 (64 * l.1), pcid := s.pcidOf asid } m [l]) s

/-- A read of the couch engine from a frame of another module (R342). -/
def State.couchRead (s : State) (asid : BitVec 16) (m : BitVec 12) (a n : Nat) (t : CouchTag) : State :=
  (s.noteCouch asid .readReq (.remote m (8 * a)) t).sendPacket (s.couchPort asid) .control { Packet.bare with
    dmod := m, type := 0x02, addr := BitVec.ofNat 44 a, pcid := s.pcidOf asid, aux := BitVec.ofNat 32 n } m []

/-- The codes a transition faults with; a couch engine's access that fails with another one counts as lost (R248, R367;
DESIGN CHOICE, log 79). -/
def couchCodeOf (code : BitVec 8) : BitVec 8 := if 5 ≤ code.toNat ∧ code.toNat ≤ 8 then code else 0x08

/-- The second copy of a write cannot be performed: the transition its page belongs to faults. After the page's cut
there is no transition to fault, and the write completes on its frame alone (R246; DESIGN CHOICE, log 79). -/
def State.secondFails (s : State) (asid : BitVec 16) (trans : Nat) (code : BitVec 8) (va : VAddr) : State :=
  if 0 < trans ∧ trans = s.transNow asid then s.faultTransition asid (couchCodeOf code) va else s

/-- The second copy of writes to a mirrored page, by their offsets in it (R246). -/
def State.secondCopy (s : State) (asid : BitVec 16) (trans : Nat) (m : PageMove) (cells : List (Nat × Byte)) : State :=
  match m.dst with
  | .phys b =>
    if cells.all fun c => s.mayWrite asid (b / 8 + c.1) then s else s.secondFails asid trans 0x06 m.va
  | .remote d b => s.couchWrite asid d (cells.map fun c => (b / 8 + c.1, c.2)) ⟨couchSecond, trans, m.va.toNat, 0⟩
  | _ => s

/-- The second copy of a mirrored page's writes where it leaves the module, or cannot be made.
(DEDUCED, log 46) -/
def State.mirrorOut (s : State) (asid : BitVec 16) (trans : Nat) (m : PageMove) (cells : List (Nat × Byte)) : State :=
  let hit := cells.filterMap fun c => (m.offset? c.1).map fun o => (o, c.2)
  if hit.isEmpty then s else s.secondCopy asid trans m hit

/-- Pages whose writes reach a second frame. -/
def State.mirroredPages (s : State) : Nat := (s.contexts.map fun x => x.mirrored.length).sum

/-- A write through a page: to its frame, and to every mirrored frame it leads to, marking what is dirty. -/
def State.store (s : State) (cells : List (Nat × Byte)) : State :=
  let all := mirrorAll s s.mirroredPages cells
  let t := s.poke all
  let t := { t with contexts := t.contexts.map fun x => markDirty x all }
  s.contexts.foldl (fun (t : State) x =>
    x.mirrored.foldl (fun (t : State) m => t.mirrorOut x.asid (x.transOf m) m all) t) t

/-! ### Holds of a transition (R247, R249, R368) -/

/-- A cut holds the start of every new command of its context (R249). -/
def State.cutHolds (s : State) (asid : BitVec 16) : Bool :=
  ((s.context? asid).map fun x => x.eng == .cutting).getD false

/-- A place whose new writes are held: its page stands in the final pass, or its frame is about to be retired
(R247, R368). -/
def State.placeHeld (s : State) (l : Loc) : Bool :=
  (s.contexts.any fun x => x.eng == .finalPass && x.moves.any fun m => !m.mirrored && (m.offsetOf l).isSome)
    || match l with
       | .phys b => s.svc.retiringFrames.any fun (f, _) =>
           decide ((s.frameRegion f).1 ≤ b / 8) && decide (b / 8 < (s.frameRegion f).1 + (s.frameRegion f).2)
       | _ => false

/-- Bytes that the service, a dispatcher or a core writes of its own to a context's memory: those of a held place wait,
the youngest of an address alone (R247, R368). -/
def State.writeOrHold (s : State) (cells : List (Nat × Byte)) : State :=
  let held (c : Nat × Byte) : Bool := s.placeHeld (.phys (8 * c.1))
  let now := cells.filter fun c => !(held c)
  let wait := cells.filter held
  let s := if now.isEmpty then s else s.store now
  if wait.isEmpty then s
  else { s with held := (s.held.filter fun c => !(wait.any fun w => w.1 == c.1)) ++ wait }

/-- The bytes whose places are no longer held are written (R247, R254). -/
def State.releaseHeld (s : State) : State :=
  let free := s.held.filter fun c => !(s.placeHeld (.phys (8 * c.1)))
  if free.isEmpty then s
  else State.store { s with held := s.held.filter fun c => s.placeHeld (.phys (8 * c.1)) } free

/-- Writes bytes of a context's memory on this module; none when any byte cannot be written. -/
def State.writeVa (s : State) (asid : BitVec 16) (va : Nat) (l : List Byte) : Option State :=
  match (l.mapIdx fun i b => (va + i, b)).mapM (fun c => match s.access asid c.1 false true with
      | .ok (.phys b) => some (b / 8, c.2)
      | _ => none) with
  | some cells => some (s.writeOrHold cells)
  | none => none

end Sys2Proof.Machine
end

