-- ==== Sys2Proof/Machine/Ops.lean ====
section
/-! DEFINITION. The shared operations of a core: control registers, results and their landing, the store
buffer, checkpoints, rollback and taking a trap, holds, arrivals, posts, and the groups' boundaries. -/

namespace Sys2Proof.Machine

open Sys2Proof

/-! ### Control registers (R29 to R34) -/

/-- PHASE of a context (R34): CUR, TIP and TGT. (DEDUCED, log 56) -/
def phaseWord (x : Option Context) : Word :=
  match x with
  | none => 0
  | some x => 0#51 ++ x.tgt ++ BitVec.ofBool x.tip ++ x.cur

/-- NTHR: the throttle level of the core's quad router (R29, R299). -/
def State.nthr (s : State) (core : BitVec 10) : BitVec 3 :=
  let q := core.toNat % 256 / 4
  (((s.net.routers.toList.getD (core.toNat / 256) (Vector.replicate 64 ⟨0, 0⟩)).toList.getD q ⟨0, 0⟩)).level

/-- The record address of the running task; 0 when the core runs none. -/
def Core.recVa (c : Core) : VAddr := match c.task with
  | some t => t.recVa
  | none => 0

/-- A control register by its index, zero-extended (R29); none for an index the table does not list. -/
def State.readCr (s : State) (i : Nat) : Option Word :=
  let c := s.core
  match i with
  | 0x00 => some (c.fpc.setWidth 64)
  | 0x01 => some (c.shape.setWidth 64)
  | 0x02 => some (c.mdef.setWidth 64)
  | 0x03 => some (c.feat.setWidth 64)
  | 0x04 => some (c.stat.setWidth 64)
  | 0x05 => some (c.ckptc.setWidth 64)
  | 0x06 => some ((s.nthr c.id).setWidth 64)
  | 0x07 => some (phaseWord (s.context? c.asid))
  | 0x08 => some (c.plim.setWidth 64)
  | 0x09 => some ((c.recVa).setWidth 64)
  | 0x0A => some ((bits c.id 0 8).setWidth 64)
  | 0x0B => some ((bits c.id 2 6).setWidth 64)
  | 0x0C => some ((coreDie c.id).setWidth 64)
  | 0x0D => some (s.modid.setWidth 64)
  | 0x0E => some c.grpc
  | 0x0F => some s.cyc
  | 0x10 => some s.ptb
  | 0x11 => some (c.ygrace.setWidth 64)
  | _ => none

/-- FPC, SHAPE, MDEF, STAT and PLIM are writable (R29). -/
def crWritable (i : Nat) : Bool := [0, 1, 2, 4, 8].contains i

/-- Writes a writable control register with a value its checks have passed. -/
def Core.writeCr (c : Core) (i : Nat) (x : Word) : Core :=
  match i with
  | 0x00 => { c with fpc := x.setWidth 13 }
  | 0x01 => { c with shape := x.setWidth 10 }
  | 0x02 => { c with mdef := x.setWidth 11 }
  | 0x04 => { c with stat := x.setWidth 5 }
  | 0x08 => { c with plim := x.setWidth 32 }
  | _ => c

/-! ### Results in flight (R69) -/

/-- Adds a result of the given latency, with the flags and STAT bits it carries. -/
def Core.addResult (c : Core) (val : ResVal) (lat : Nat) (flags : Flags := 0) (stat : BitVec 5 := 0) :
    Core :=
  { c with inflight := c.inflight ++ [⟨val, lat, flags, stat, c.seq⟩], seq := c.seq + 1 }

/-- A result becomes visible: its register is written. -/
def Core.landVal (c : Core) : ResVal → Core
  | .none => c
  | .s i x => c.writeS i x
  | .k i x en => c.writeK i x en
  | .v i x en => c.writeV i x en
  | .cb i x => c.writeCb i x
  | .cr i x => c.writeCr i.toNat x
  | .h i x => c.writeHandle i x

/-- A group start: each result in flight counts down, those that reach it land in issue order, their STAT bits
are set after the writes, and their flags are kept for the end of the group (R16, R35, R54, R69).
(DEDUCED, log 21) -/
def Core.land (c : Core) : Core :=
  let due := c.inflight.filter fun r => decide (r.rem ≤ 1)
  let rest := (c.inflight.filter fun r => decide (1 < r.rem)).map fun r => { r with rem := r.rem - 1 }
  let c := due.foldl (fun c r => c.landVal r.val) { c with inflight := rest }
  { c with
    flagsDue := due.foldl (fun a r => a ||| r.flags) c.flagsDue
    stat := due.foldl (fun a r => a ||| r.stat) c.stat }

/-- The index values of an iteration, written at its start (R11, R111, R112). -/
def Core.loopIndices (c : Core) : Core :=
  match c.loop with
  | some l =>
    if c.pc = l.first then
      (l.idx.zipIdx).foldl (fun c p => c.writeS (BitVec.ofNat 6 (58 + p.2)) (BitVec.ofNat 64 p.1)) c
    else c
  | none => c

/-! ### Arrivals (R72, R73, R200) -/

/-- The target a code names: a barrier object, or the counter of a handle as it stands (R72).
(DEDUCED, log 26) -/
def Core.arrTarget (c : Core) (code : BitVec 8) : ArrTarget :=
  if bits code 5 3 == 7 then .counter ((c.handle (bits code 0 3)).setWidth 56)
  else .obj ⟨bits code 5 3, 0#1 ++ bits code 0 5⟩

/-- Arrivals whose instruction has retired and that no checkpoint withholds. -/
def PendArr.due (p : PendArr) : Bool := p.on == .groups 0 && !p.held

/-- Makes the due arrivals of the focused core: they go on their way to their objects (R73). -/
def State.makeArrivals (s : State) : State :=
  let c := s.core
  let due := c.arrs.filter PendArr.due
  { s with
    core := { c with arrs := c.arrs.filter fun p => !p.due }
    arrivals := s.arrivals ++ due.map fun p => ⟨c.id, c.who, p.target, 1, c.nextId, p.before, []⟩ }

/-- An explicit arrival of amount `n` (R201); 0 makes none. -/
def State.arriveNow (s : State) (t : ArrTarget) (n : BitVec 32) : State :=
  if n = 0 then s
  else { s with arrivals := s.arrivals ++ [⟨s.core.id, s.core.who, t, n, s.core.nextId, s.core.nextId, []⟩] }

/-- The instruction an event names has retired: its arrivals become due unless withheld. -/
def Core.retire (c : Core) (on : RetireOn) : Core :=
  { c with arrs := c.arrs.map fun p => if p.on == on then { p with on := .groups 0 } else p }

/-- One group start passes for arrivals that wait for one (R73). -/
def Core.countArrs (c : Core) : Core :=
  { c with arrs := c.arrs.map fun p =>
      match p.on with
      | .groups n => { p with on := .groups (n - 1) }
      | _ => p }

/-! ### Completion entries (R312, R313) -/

/-- Bytes of a completion entry: value, TASKID, wrap parity (R312). -/
def completionBytes (q : Queue) (value : Word) (recVa : VAddr) : List Byte :=
  bytesOfNat 8 value.toNat
    ++ bytesOfNat 8 (recVa.toNat + (q.ctail.toNat / q.csz % 2) * 2 ^ 63)

/-- Puts one entry in a completion ring with room. -/
def State.postNow (s : State) (q : Queue) (value : Word) (recVa : VAddr) : State :=
  let t := (s.writeVa q.asid (q.cring.toNat + 16 * (q.ctail.toNat % q.csz))
    (completionBytes q value recVa)).getD s
  t.updQueue q.qid fun q => { q with ctail := q.ctail + 1 }

/-- The ring has no room: CTAIL − CHEAD = CSZ (R313). -/
def Queue.ringFull (q : Queue) : Bool := decide (q.csz ≤ (q.ctail - q.chead).toNat)

/-- Posts to a queue's completion ring, or joins the wait behind it; a 65th waiting post is dropped. -/
def State.post (s : State) (qid : BitVec 14) (value : Word) (recVa : VAddr) : State :=
  match s.queue? qid with
  | none => s
  | some q =>
    if q.waiting.isEmpty && !q.ringFull then s.postNow q value recVa
    else if q.waiting.length < 64 then
      s.updQueue qid fun q => { q with waiting := q.waiting ++ [(value, recVa)] }
    else
      (s.updQueue qid fun q => { q with ndrop := q.ndrop + 1 }).addLog 7 0x02 q.die 0 qid.toNat

/-! ### The engine queue's view from the core -/

/-- A command of the core that has not completed and was issued before `id`. -/
def Core.outstandingBefore (c : Core) (id : Nat) : Bool :=
  (c.queue ++ c.running).any fun q => decide (q.id < id)

/-- Posts the committed NOTIFY values whose earlier commands have completed, in order (R218). -/
def State.flushPosts (s : State) : State :=
  let c := s.core
  let ready := c.posts.takeWhile fun p => p.committed && !c.outstandingBefore p.before
  let s := { s with core := { c with posts := c.posts.drop ready.length } }
  match c.task with
  | none => s
  | some t => ready.foldl (fun s p => s.post t.queue p.value t.recVa) s

/-- A tile's state, in the table and in its shadow (R21). (DEDUCED, log 23) -/
def Core.setTile (c : Core) (i : BitVec 7) (st : BitVec 2) (p : BitVec 6) : Core :=
  let c := c.writeTile i (TileE.withState (c.tile i) st p)
  { c with shadow := { c.shadow with
      tiles := c.shadow.tiles.set i.toNat
        (TileE.withState (c.shadow.tiles[i.toNat]'(i.isLt)) st p) i.isLt } }


/-- The tile a COPYT or SPILLT names, and whether it fills it. -/
def Cmd.tile? (q : Cmd) : Option (BitVec 7 × Bool) :=
  match q.op with
  | .copyt _ => some (q.rb.setWidth 7, true)
  | .spillt _ => some (q.rb.setWidth 7, false)
  | _ => none

/-- The scoreboard's tile read and write bits (R156). -/
def Core.tileReadBit (c : Core) (t : BitVec 7) : Bool := c.mx.any fun o => o.reads.contains t
def Core.tileWriteBit (c : Core) (t : BitVec 7) : Bool := c.mx.any fun o => o.writes.contains t

/-- Takes the release rows of R21 for the released COPYTs and SPILLTs, in issue order: each takes its
tile unless the tile is filling or draining or its read or write bit is set (R157). R21 has no row for a SPILLT whose
turn comes when the tile is empty: it takes the tile too (DESIGN CHOICE, log 81). -/
def Core.takeTiles (c : Core) : Core :=
  c.queue.foldl (fun c q =>
    match q.tile? with
    | some (t, fill) =>
      if q.released && !q.tileTaken && !TileE.busy (c.tile t) && !c.tileReadBit t && !c.tileWriteBit t then
        let c := c.setTile t (if fill then TileE.filling else TileE.draining) q.f.tko
        { c with queue := c.queue.map fun p => if p.id = q.id then { p with tileTaken := true } else p }
      else c
    | none => c) c

/-! ### The store buffer (R28, R157) -/

/-- A withheld store may not be released yet: it falls in a tile whose busy bits are set (R157). -/
def Core.storeBlocked (c : Core) (e : StoreEntry) : Bool :=
  c.mx.any fun o => (o.reads ++ o.writes).any fun t => e.bytes.any fun b => TileE.covers (c.tile t) b.1

/-- Performs one released store. -/
def State.performStore (s : State) (e : StoreEntry) : State :=
  let c : Core := s.core.setAcc e.elems
  State.store { s with core := c.retire (.store e.id) }
    (e.bytes.map fun (b : Nat × Byte) => (spadBase c.id + b.1, b.2))

/-- The accumulator elements of released entries are written at once, in program order: no tile bit holds them, and
the operations of the array find them (R118, R142, R157). -/
def Core.applyAcc (c : Core) (l : List StoreEntry) : Core :=
  { c.setAcc (l.flatMap (·.elems)) with
    releasing := l.map fun (e : StoreEntry) => { e with elems := [] } }

/-- Performs released stores in program order up to the first that must wait (R28, R157). A VAM write of AFREE's own
group reaches the bank that AFREE has freed and zeroed, or that a later AALLOC has taken (R118; DESIGN CHOICE, log
62). -/
def State.releaseFrom : List StoreEntry → State → State
  | [], s => { s with core := { s.core with releasing := [] } }
  | e :: r, s =>
    if s.core.storeBlocked e then { s with core := s.core.applyAcc (e :: r) }
    else State.releaseFrom r (s.performStore e)

def State.releaseStores (s : State) : State := State.releaseFrom s.core.releasing s

/-! ### Checkpoint and rollback (R27, R74, R77) -/

/-- What the shadow set copies, with the next group, the loop position and the results in flight. -/
def Core.snapshot (c : Core) : Shadow where
  s := c.s
  k := c.k
  v := c.v
  cb := c.cb
  tiles := c.tiles
  tokens := c.tokens
  fpc := c.fpc
  shape := c.shape
  mdef := c.mdef
  stat := c.stat
  plim := c.plim
  pc := c.pc
  loop := c.loop
  delay := c.delay
  jumped := c.jumped
  landed := c.landed
  flagsDue := c.flagsDue
  inflight := c.inflight

/-- A checkpoint no longer withholds an arrival, and notes the group starts it has left (R73, R77). -/
def PendArr.release (p : PendArr) : PendArr :=
  { p with held := false, mark := match p.on with
      | .groups n => n
      | _ => p.mark }

/-- After a rollback an arrival that waits for a result waits as at the checkpoint, for the result lands again
(R73, R77). -/
def PendArr.back (p : PendArr) : PendArr :=
  match p.on with
  | .groups _ => { p with on := .groups p.mark }
  | _ => p

/-- What a checkpoint changes in the core before its stores are written: VAMADD's flags, the store buffer
handed to release, commands, arrivals, posts and fences committed, tiles taken, the shadow set. -/
def Core.commit (c : Core) : Core :=
  let c : Core := { c with
    fpc := c.stores.foldl (fun f (e : StoreEntry) => orFpc f e.flags) c.fpc
    releasing := c.releasing ++ c.stores
    stores := []
    frozenSince := false
    narrowSince := false
    queue := c.queue.map fun (q : Cmd) => { q with released := true }
    arrs := c.arrs.map PendArr.release
    posts := c.posts.map fun (p : Post) => { p with committed := true }
    fences := (c.fences.filter fun (f : Fence) => c.outstandingBefore f.after).map fun (f : Fence) =>
      { f with committed := true } }
  let c := c.takeTiles
  { c with shadow := c.snapshot }

/-- Commits a checkpoint (R74). -/
def State.checkpoint (s : State) : State :=
  (({ s with core := s.core.commit }).releaseStores.makeArrivals).flushPosts

/-- A forced checkpoint: CKPTC counts it and STAT.FCK is set (R28, R172). -/
def State.forcedCheckpoint (s : State) : State :=
  State.checkpoint
    { s with core := { s.core with ckptc := s.core.ckptc + 1, stat := s.core.stat ||| statFck } }

/-- Rolls the core back to its last checkpoint (R77). (DEDUCED, log 57) -/
def Core.rollback (c : Core) : Core :=
  let h := c.shadow
  { c with
    s := h.s, k := h.k, v := h.v, cb := h.cb, tiles := h.tiles, tokens := h.tokens
    fpc := h.fpc, shape := h.shape, mdef := h.mdef, stat := h.stat, plim := h.plim
    pc := h.pc, loop := h.loop, delay := h.delay, jumped := h.jumped, landed := h.landed
    inflight := h.inflight
    slot := 0, gpos := 0, gws := [], grpIrrev := false, passed := false, flagsDue := h.flagsDue
    stores := []
    queue := c.queue.filter (·.released)
    arrs := (c.arrs.filter fun p => !p.held).map PendArr.back
    posts := c.posts.filter (·.committed)
    fences := c.fences.filter (·.committed)
    padvWait := none, phasesMade := 0, podAsk := [] }

/-! ### Traps and holds (R8, R325, R326) -/

/-- The slot position that issues (R326). -/
def Core.slotPos (c : Core) : Nat := (Slot.all.getD c.slot .sy).position

/-- Takes a trap: the core rolls back to its last checkpoint, hands a trap record to its die's service and idles
until the service answers (R8, R326, R327). (DEDUCED, log 70) -/
def State.takeTrap (s : State) (t : TrapCond) (slot : Nat) : State :=
  let c := s.core
  let n := match c.lastTrap with
    | some (k, b, n) => if k = t.cause ∧ b = c.pc then n + 1 else 1
    | none => 1
  let r : TrapRec := {
    cause := t.cause, slot := slot, rept := n, bidx := c.pc, ckidx := c.shadow.pc, grpc := c.grpc
    ptb := s.ptb, info := t.info }
  { s with core := { c.rollback with
      mode := .trapped, trap := some r, lastTrap := some (t.cause, c.pc, n) } }

/-- One cycle in which the issuing group is held by a stall: GRPC and CYC count it (R8, R29).
(DEDUCED, log 37) -/
def State.hold (s : State) : State :=
  { s with core := { s.core with grpc := s.core.grpc + 1 }, cyc := s.cyc + 1 }

/-- The service's resume answer: the task runs on from its checkpoint (R327). -/
def Core.resume (c : Core) : Core := { c with mode := .running, trap := none }

/-! ### Groups and the sequencer (R61, R66, R79, R111) -/

/-- The bundle at an index of the running code object. -/
def Core.bundle? (c : Core) (i : Nat) : Option Bundle := c.code[i]?

/-- The bundle that issues; past the end of the code object, one of no-ops. (DEDUCED, log 66) -/
def Core.bundle (c : Core) : Bundle := (c.bundle? c.pc).getD (Vector.replicate 8 0)

/-- The slot's operation has issued: the sequencer moves to the next slot. -/
def Core.advance (c : Core) : Core := { c with slot := c.slot + 1 }

/-- The next index tuple, innermost first; none after the last (R111). -/
def nextTuple : List Nat → List Nat → Option (List Nat)
  | i :: is, n :: ns =>
    if i + 1 < n then some ((i + 1) :: is) else (nextTuple is ns).map fun t => 0 :: t
  | _, _ => none

/-- Where the sequencer goes after the bundle at `pc`: the end of a branch's delay, the loop's next iteration or
exit, or the next bundle (R79, R111). (DEDUCED, log 38) -/
def Core.nextBundle (c : Core) : Core :=
  match c.delay with
  | some d =>
    if d.left ≤ 1 then
      match d.target with
      | some t => { c with delay := none, pc := t, jumped := true }
      | none => { c with delay := none, pc := c.pc + 1, jumped := false }
    else { c with delay := some { d with left := d.left - 1 }, pc := c.pc + 1, jumped := false }
  | none =>
    match c.loop with
    | some l =>
      if c.pc + 1 = l.first + l.len then
        match nextTuple l.idx l.counts with
        | some t => { c with loop := some { l with idx := t }, pc := l.first, jumped := false }
        | none => { c with loop := none, pc := l.first + l.len, jumped := false }
      else { c with pc := c.pc + 1, jumped := false }
    | none => { c with pc := c.pc + 1, jumped := false }

/-- The operations that retire at their group's end have retired (R73, R108, R161). -/
def Core.retireGroup (c : Core) : Core := c.retire .groupEnd

/-- The end of a group: the flags of its landings reach FPC (R54), and what retires there has retired (R73).
(DEDUCED, log 21) -/
def Core.endGroup (c : Core) : Core :=
  { c.retireGroup with
    fpc := orFpc c.fpc c.flagsDue, flagsDue := 0
    gpos := 0, gws := [], podAsk := [], phasesMade := 0, grpIrrev := false, landed := false, sinceYield := c.sinceYield + 1 }

/-- The start of a group: results land, index registers are written, arrivals are made (R69, R73). -/
def State.groupStart (s : State) : State :=
  State.makeArrivals { s with core := { (s.core.land.loopIndices).countArrs with landed := true } }

end Sys2Proof.Machine
end

