-- ==== Sys2Proof/Machine/EngineForm.lean ====
section
/-! DEFINITION. What an engine command's encoding and captured record say: modifiers, spaces, formats,
descriptors and scratchpad extents (R31, R171 to R194). -/

namespace Sys2Proof.Machine

open Sys2Proof

/-- The modifier in force: the field when its present flag is set, else MDEF (R31, R85). -/
def effMod (f : CpF) (mdef : BitVec 11) : BitVec 11 := if f.mod.getLsbD 11 then f.mod.setWidth 11 else mdef

def modCls (m : BitVec 11) : BitVec 4 := bits m 7 4
def modScp (m : BitVec 11) : BitVec 3 := bits m 4 3
def modSpc (m : BitVec 11) : BitVec 2 := bits m 2 2

/-- Spaces (R31). -/
def spcGlobal : BitVec 2 := 0
def spcWindow : BitVec 2 := 1
def spcParam : BitVec 2 := 2
def spcFabric : BitVec 2 := 3

/-- R180 allows the pair: the same format, or neither C4, CF32 nor FX64. -/
def pairOk (a b : Nat) : Bool :=
  a == b || !([7, 8, 9].contains a || [7, 8, 9].contains b)

/-- The 64-byte record a command names, read with the core's withheld stores (R172, R177). -/
def State.nestAt (s : State) (a : Nat) : Vector Word 8 := recOfBytes (s.spadBytes a 64)

/-- A 64-byte record's address: 64-byte aligned, its bytes in the scratchpad (R177). -/
def Core.recordOk (c : Core) (a : Nat) : Bool := decide (a % 64 = 0) && c.inSpad a 64

/-- The command is nest-driven: its RA names a nest record (R173). -/
def nestForm : Instr → Option CpF
  | .copy f | .copyt f | .spillt f | .gath f | .scat f | .lxfer f | .lxred f => some f
  | _ => none

/-- The CP operand fields of a command. -/
def cpOf : Instr → Option CpF
  | .copy f | .copyt f | .spillt f | .gath f | .scat f
  | .amoAdd32 f | .amoAdd64 f | .amoMin f | .amoMax f | .amoMinu f | .amoMaxu f | .amoAnd f | .amoOr f
  | .amoXor f | .amoSwap f | .amoFxa f | .cas f | .casw f | .dcas f | .enq f | .chase f
  | .put f | .get f | .fenf f | .lxfer f | .lxred f | .bvec f | .pcon f
  | .preadMst f | .preadWbf f | .preadWf8 f | .preadMom f | .pstat f | .mapq f | .pref f | .mset f
  | .tdec f | .tdecH f | .xlinv f => some f
  | _ => none

/-- TK3 carries a selector, not a token (R173). (DEDUCED, log 29) -/
def usesSel : Instr → Bool
  | .amoAdd32 _ | .amoAdd64 _ | .amoMin _ | .amoMax _ | .amoMinu _ | .amoMaxu _ | .amoAnd _ | .amoOr _
  | .amoXor _ | .amoSwap _ | .amoFxa _ | .cas _ | .casw _ | .dcas _ | .chase _ | .pcon _
  | .preadMst _ | .preadWbf _ | .preadWf8 _ | .preadMom _ | .tdec _ | .tdecH _ => true
  | _ => false

/-- Sides whose SPC field a nest-driven command uses: source, destination. COPYT and SPILLT ignore one (R178,
R181). -/
def nestSides : Instr → Bool × Bool
  | .copyt _ => (true, false)
  | .spillt _ => (false, true)
  | _ => (true, true)

/-- A nest record the command refuses as an encoding (R178, R180, R182, R189). -/
def nestBad (i : Instr) (r : Vector Word 8) : Bool :=
  let u := nestSides i
  decide (10 ≤ Nest.fmtCode r false) || decide (10 ≤ Nest.fmtCode r true)
    || !(pairOk (Nest.fmtCode r false) (Nest.fmtCode r true))
    || (u.1 && Nest.spc r false == 2) || (u.2 && Nest.spc r true == 2)
    || (match i with
        | .gath _ | .scat _ => (List.range 4).any fun l => Nest.cnt r (l + 2) != 1
        | .lxred _ => !([0, 1, 2, 3].contains (Nest.fmtCode r true))
        | _ => false)

/-- The command reaches fabric space (R92, R173). -/
def usesFabric (i : Instr) (m : BitVec 11) (r : Vector Word 8) : Bool :=
  match i with
  | .put _ | .get _ | .fenf _ | .lxfer _ | .lxred _ => true
  | .copy _ | .gath _ | .scat _ => Nest.spc r false == 3 || Nest.spc r true == 3
  | .copyt _ => Nest.spc r false == 3
  | .spillt _ => Nest.spc r true == 3
  | .amoAdd32 _ | .amoAdd64 _ | .amoMin _ | .amoMax _ | .amoMinu _ | .amoMaxu _ | .amoAnd _ | .amoOr _
  | .amoXor _ | .amoSwap _ | .amoFxa _ | .cas _ | .casw _ | .dcas _ | .mset _ | .tdec _ | .tdecH _ =>
    modSpc m == spcFabric
  | _ => false

/-- A space the command's Space column excludes (R173). -/
def spaceBad (i : Instr) (m : BitVec 11) : Bool :=
  match i with
  | .amoAdd32 _ | .amoAdd64 _ | .amoMin _ | .amoMax _ | .amoMinu _ | .amoMaxu _ | .amoAnd _ | .amoOr _
  | .amoXor _ | .amoSwap _ | .amoFxa _ | .cas _ | .casw _ | .dcas _ | .mset _ => modSpc m == spcParam
  | .pref _ => modSpc m == spcParam || modSpc m == spcFabric
  | .tdec _ | .tdecH _ => modSpc m == spcParam || modSpc m == spcWindow
  | _ => false

/-! ### The BVEC descriptor (R190) -/

namespace Bvec
def bw (r : Vector Word 8) : Nat := recField r 0 7
def bfmt (r : Vector Word 8) : Nat := recField r 7 1 / 16
def bstr (r : Vector Word 8) : Int := (BitVec.ofNat 64 (recField r 8 8)).toInt
def k (r : Vector Word 8) : Nat := recField r 16 4
def n (r : Vector Word 8) : Nat := recField r 20 4
def sa (r : Vector Word 8) : Word32 := BitVec.ofNat 32 (recField r 24 4)
def sb (r : Vector Word 8) : Word32 := BitVec.ofNat 32 (recField r 28 4)
def aadr (r : Vector Word 8) : Nat := recField r 32 4
def dadr (r : Vector Word 8) : Nat := recField r 36 4
def m (r : Vector Word 8) : Nat := recField r 40 1
def afmt (r : Vector Word 8) : Nat := recField r 41 1 % 16
def apitch (r : Vector Word 8) : Nat := recField r 44 4
def dpitch (r : Vector Word 8) : Nat := recField r 48 4

/-- The allowed format pairs (R190). -/
def fmtsOk (r : Vector Word 8) : Bool :=
  (afmt r == 1 && bfmt r == 1) || (afmt r == 4 && bfmt r == 4)
    || ([2, 3].contains (afmt r) && [2, 3].contains (bfmt r))

/-- Formats, ranges and reserved bits (R190). -/
def bad (r : Vector Word 8) : Bool :=
  !(fmtsOk r) || recField r 7 1 % 16 != 0 || recField r 41 1 / 16 != 0 || recField r 42 2 != 0
    || recField r 52 4 != 0 || recField r 56 8 != 0
    || !(decide (1 ≤ k r) && decide (k r ≤ 65536)) || !(decide (1 ≤ n r) && decide (n r ≤ 4096))
    || !(decide (1 ≤ m r) && decide (m r ≤ 8))

/-- Element bytes of A (and of B). -/
def esize (r : Vector Word 8) : Nat := if afmt r = 1 then 2 else 1

/-- The A and output extents: offset and size (R190). -/
def extents (r : Vector Word 8) : List (Nat × Nat) :=
  [(aadr r, (m r - 1) * apitch r + k r * esize r), (dadr r, (m r - 1) * dpitch r + 4 * n r)]
end Bvec

/-- Hops of CHASE: min(s[RB], 256) (R186). -/
def chaseHops (rb : Word) : Nat := min rb.toNat 256

/-- Bytes PREAD writes, trailer included (R192). -/
def preadSize (i : Instr) : Nat :=
  match i with
  | .preadMst _ => 1032 | .preadWbf _ => 520 | .preadWf8 _ => 264 | _ => 2056

/-- Scratchpad extents a command names by its registers, checked at issue (R173): offset, size.
(DEDUCED, log 73) -/
def cpExtents (i : Instr) (c : Core) (r : Vector Word 8) : List (Nat × Nat) :=
  let rb (f : CpF) := (c.rs f.rb).toNat
  let rc (f : CpF) := (c.rs f.rc).toNat
  match i with
  | .gath f | .scat f => [(rb f, 4 * Nest.cnt r 1)]
  | .amoAdd32 f => if f.rc = 0 then [] else [(rc f, 4)]
  | .amoAdd64 f | .amoMin f | .amoMax f | .amoMinu f | .amoMaxu f | .amoAnd f | .amoOr f | .amoXor f
  | .amoSwap f | .amoFxa f => if f.rc = 0 then [] else [(rc f, 8)]
  | .cas f => [(rb f, 32)]
  | .casw f | .dcas f => [(rb f, 64)]
  | .enq f => if f.rc = 0 then [] else [(rc f, 8)]
  | .chase f => [(rc f, 8 + 8 * chaseHops (c.rs f.rb))]
  | .put f | .get f => if rc f = 0 then [] else [((c.rs f.ra).toNat, rc f)]
  | .bvec _ => if Bvec.bad r then [] else Bvec.extents r
  | .pcon f => [(rb f, if f.tk3.getLsbD 0 then 512 else 1024)]
  | .preadMst f | .preadWbf f | .preadWf8 f | .preadMom f => [(rb f, preadSize i)]
  | .pstat f => [(rb f, 128)]
  | .mapq f => [(rb f, 16)]
  | _ => []

/-- The tile of a COPYT or SPILLT and the side its format names (R181). -/
def tileForm : Instr → Option (CpF × Bool)
  | .copyt f => some (f, true)
  | .spillt f => some (f, false)
  | _ => none

/-- The tile-bounds conditions of COPYT and SPILLT (R181). (DEDUCED, log 74) -/
def copytBad (rb : Word) (e : BitVec 128) (dst : Bool) (r : Vector Word 8) : Bool :=
  bits rb 7 57 != 0 || Nest.fmtCode r dst != TileE.fmtCode e || !(TileE.viewOk e false)
    || decide (TileE.lrows e false * TileE.lcols e false < Nest.total r)

end Sys2Proof.Machine
end

