-- ==== Sys2Proof/Machine/Cache.lean ====
section
/-! DEFINITION. The translation caches of the engines and couch engines: what a miss reads, and what is invalidated
(R233, R234). A cached entry is what the map's tables hold, for every change of them invalidates it. -/

namespace Sys2Proof.Machine

open Sys2Proof

/-- Entries of a translation cache (R233). -/
def cacheSize : Nat := 512

/-- The newest entries of a translator stay (R233; which leaves is not given: DESIGN CHOICE, log 78). -/
def trimCache (u : Translator) : Nat → List Cached → List Cached
  | _, [] => []
  | n, c :: r =>
    if c.unit = u then (match n with
      | 0 => trimCache u 0 r
      | n + 1 => c :: trimCache u n r)
    else c :: trimCache u n r

/-- The entries of a map's tables that the translation of an address reads (R233, R239). -/
def Context.walkReads (x : Context) (m va : Nat) : List Nat :=
  [x.tableAt m 0 0 0 + 8 * (va / 2 ^ 42), x.tableAt m 1 (va / 2 ^ 42) 0 + 8 * (va / 2 ^ 30 % 4096),
    x.tableAt m 2 (va / 2 ^ 42) (va / 2 ^ 30 % 4096) + 8 * (va / 2 ^ 16 % 16384)]

/-- A translator needs a page of a map: a hit, or a miss, which reads the map from its near stack (R233). -/
def State.cachePage (s : State) (u : Translator) (x : Context) (m : Nat) (p : MapPage) : State :=
  if s.caches.any fun c => c.unit == u && c.asid == x.asid && c.phase == m && c.page.va == p.va then s
  else
    let t := (x.walkReads m p.va.toNat).foldl State.touch s
    match walk x m (x.maps.getD m []) p.va.toNat with
    | some e => { t with caches := trimCache u cacheSize (⟨u, x.asid, m, ⟨p.va, e⟩⟩ :: t.caches) }
    | none => t

/-- A place lies in a page's data frame. -/
def pageHolds (p : MapPage) (me : BitVec 12) (l : Loc) : Bool :=
  let in' (a : Nat) : Bool := decide (MapE.pa p.entry ≤ a) && decide (a < MapE.pa p.entry + MapE.size p.entry)
  match l with
  | .phys b => MapE.back p.entry != 4 && in' (b / 8)
  | .remote m b => MapE.back p.entry == 4 && MapE.mod p.entry == m && m != me && in' (b / 8)
  | _ => false

/-- A command's engine translates the places of its elements (R233, R234). -/
def State.cachePlaces (s : State) (core : BitVec 10) (q : Cmd) (l : List Loc) : State :=
  match s.context? q.asid with
  | none => s
  | some x =>
    ((x.maps.getD q.map.toNat []).filter fun p => l.any (pageHolds p s.modid)).foldl (fun (s : State) p =>
      s.cachePage (.engine core) x q.map.toNat p) s

/-- Drops entries of a context whose pages meet a stretch of addresses, in the translators chosen (R234). -/
def State.invalidate (s : State) (asid : BitVec 16) (a n : Nat) (f : Translator → Bool) : State :=
  { s with caches := s.caches.filter fun c =>
      !(c.asid == asid && f c.unit && stretchesMeet c.page.va.toNat (MapE.size c.page.entry) a n) }

/-- A core lies in the scope of another (R31). -/
def inScope (scp : BitVec 3) (a b : BitVec 10) : Bool :=
  match scp.toNat with
  | 0 => a == b
  | 1 => a / 4 == b / 4
  | 2 => coreDie a == coreDie b
  | _ => true

/-- XLINV of a core's command: its range, or all, in the engines of its scope (R194). -/
def State.xlinv (s : State) (core : BitVec 10) (q : Cmd) : State :=
  let all := q.f.rb = 0
  s.invalidate q.asid (if all then 0 else q.ra.toNat % 2 ^ 56) (if all then 2 ^ 56 else q.rb.toNat) fun u => match u with
    | .engine c => inScope (modScp q.mod) core c
    | .couch _ => false

end Sys2Proof.Machine
end

