-- ==== Sys2Proof/Machine/Diff.lean ====
section
/-! DEFINITION. The diff of two phase maps: which stretches change their backing, and what a transition does for
each (R244). -/

namespace Sys2Proof.Machine

open Sys2Proof

/-! ### The diff (R244) -/

/-- A stretch of addresses with its entries in the current and the target map; 0 where a map has none. -/
structure DiffPiece where
  va : Nat
  size : Nat
  src : BitVec 64
  srcOff : Nat
  dst : BitVec 64
  dstOff : Nat
  deriving DecidableEq, Repr

/-- 64 KiB stretches of a page. -/
def chunksOf (p : MapPage) : List Nat :=
  (List.range (MapE.size p.entry / 0x10000)).map fun i => p.va.toNat + 0x10000 * i

/-- The entry of a map at an address, with the offset into its page. -/
def entryAt (l : List MapPage) (a : Nat) : BitVec 64 × Nat :=
  match findPage l a with
  | some p => (p.entry, a - p.va.toNat)
  | none => (0, 0)

/-- Stretches of one map's page against the other map: the whole page when both have it, else by 64 KiB. -/
def pieceOf (cur tgt : List MapPage) (p : MapPage) : List DiffPiece :=
  match tgt.find? fun q => q.va == p.va && MapE.sz q.entry == MapE.sz p.entry with
  | some q => [⟨p.va.toNat, MapE.size p.entry, p.entry, 0, q.entry, 0⟩]
  | none => (chunksOf p).map fun a =>
    let x := entryAt cur a
    let y := entryAt tgt a
    ⟨a, 0x10000, x.1, x.2, y.1, y.2⟩

/-- The stretches of the target map's pages where the current map has nothing. (DEDUCED, log 46) -/
def newPieces (cur : List MapPage) (q : MapPage) : List DiffPiece :=
  ((chunksOf q).filter fun a => (findPage cur a).isNone).map fun a =>
    ⟨a, 0x10000, 0, 0, q.entry, a - q.va.toNat⟩

/-- All stretches of the two maps (R244). -/
def diffPieces (cur tgt : List MapPage) : List DiffPiece :=
  cur.flatMap (pieceOf cur tgt) ++ tgt.flatMap (newPieces cur)

/-- An entry names a frame: near, far, window or remote. -/
def hasFrame (e : BitVec 64) : Bool :=
  MapE.kind e == 2 && decide (1 ≤ (MapE.back e).toNat) && decide ((MapE.back e).toNat ≤ 4)

/-- The page changes backing: BACK, FRAME, MOD or SZ differ. -/
def DiffPiece.changed (d : DiffPiece) : Bool :=
  MapE.back d.src != MapE.back d.dst || MapE.mod d.src != MapE.mod d.dst || MapE.sz d.src != MapE.sz d.dst
    || MapE.frame d.src != MapE.frame d.dst

/-- What the transition does for a changed stretch: zeros, a fault, a carried page, nothing (R244). -/
inductive DiffWork where
  | zero | fault | carry | none
  deriving DecidableEq, Repr

def DiffPiece.work (d : DiffPiece) : DiffWork :=
  if !d.changed then .none
  else if !(MapE.cry d.dst) then
    (if hasFrame d.dst && MapE.back d.dst != 3 then .zero else .none)
  else if hasFrame d.src then (if hasFrame d.dst then .carry else .fault)
  else if hasFrame d.dst then .zero
  else .none

/-- Where an entry's frame lies. -/
def frameLoc (e : BitVec 64) (off : Nat) : Loc :=
  if MapE.back e = 4 then .remote (MapE.mod e) (8 * (MapE.pa e + off)) else .phys (8 * (MapE.pa e + off))

/-- A carried stretch as the couch engine moves it. -/
def DiffPiece.move (d : DiffPiece) : PageMove where
  va := BitVec.ofNat 56 d.va
  src := frameLoc d.src d.srcOff
  dst := frameLoc d.dst d.dstOff
  size := d.size
  todo := List.range (d.size / 4096)
  dirty := []
  mirrored := false
  written := false

/-- The stretches a transition of a context toward its target carries (R244, R245). -/
def Context.carried (x : Context) : List DiffPiece :=
  (diffPieces x.map (x.maps.getD x.tgt.toNat [])).filter fun d => d.work == .carry

end Sys2Proof.Machine
end

