-- ==== Sys2Proof/Machine/Meta.lean ====
section
/-! DEFINITION. What the manual says of each operation apart from its effect: latency, irrevocability,
guard, registers read and written, retirement (R35, R67, R68, R73, R76, R97). -/

namespace Sys2Proof.Machine

open Sys2Proof

/-- Latency in groups; 0 for an operation that writes no register (R68). -/
def latency : Instr → Nat
  | .mul _ | .mulh _ => 3
  | .div _ | .divu _ | .rem _ | .remu _ => 12
  | .add _ | .sub _ | .and _ | .or _ | .xor _ | .andn _ | .shl _ | .shr _ | .sar _ | .rot _
  | .cmpeq _ | .cmplt _ | .cmpltu _ | .cmple _ | .sel _ | .min _ | .max _ | .lea _ | .movi _ | .movhi _
  | .popc _ | .clz _ | .ctz _ | .call _ | .movcr _ | .movrc _ | .movsk _ | .movks _ | .shape _
  | .getid _ | .aalloc _ | .tlook _ | .tstate _ => 1
  | .jr f => if f.sd = 0 then 0 else 1
  | .vmul _ | .vfma _ | .vfms _ | .vcmul _ | .vcfma _ => 4
  | .vadd _ | .vsub _ | .vmin _ | .vmax _ | .vabs _ | .vneg _
  | .viadd _ | .visub _ | .vimul _ | .vimin _ | .vimax _ | .vshl _ | .vshr _ | .vsar _ | .vand _
  | .vor _ | .vxor _ | .vsel _ | .vmov _ | .vbcst _ | .vmovs _ | .vmovsX _ | .viota _ | .vsplat _
  | .vtrn _ | .vrot _ | .vperm _ | .vscale _ | .vrnd _ | .vpopk _ | .vclamp _
  | .vcvt _ | .vqnt _ | .vdq _ | .vcbld _ => 2
  | .vcmpeq _ | .vcmplt _ | .vcmple _ | .vclass _ => 1
  | .vredr _ | .vredc _ => 4
  | .vrcp _ | .vrsq _ | .vexp2 _ | .vlog2 _ | .vtanh _ | .vsin _ | .vcos _ => 8
  | .vamrd _ => 6
  | .kand _ | .kor _ | .kxor _ | .kandn _ | .korn _ | .knot _ | .kmov _ => 1
  | .mstat _ => 3
  | .vld _ | .vldt _ | .sld _ | .kld _ => 5
  | .vldg _ => 7
  | .wait .. | .ttest .. | .pnext .. | .pstatq .. | .hset .. | .tspawn .. => 1
  | _ => 0

/-- The irrevocable operations (R76). -/
def irrevocable : Instr → Bool
  | .mldw _ | .mldwt _ | .mswap _ | .mmul _ | .mmulz _ | .mmult _ | .mzero _ | .mdrain _ | .mdraint _
  | .mcbl _ | .mclr _ | .mfence _ | .mstat _
  | .padv .. | .pnext .. | .pcancel | .arrive .. | .arriveHandle .. | .tend | .tspawn .. | .svc ..
  | .aalloc _ | .afree _ | .tdef _ | .tfree _ | .bari .. | .bariAtt .. | .hset .. => true
  | _ => false

/-- The branches of R109. -/
def isBranch : Instr → Bool
  | .br _ | .brc _ | .call _ | .ret _ | .jr _ => true
  | _ => false

/-- Branches and LOOP. -/
def isControl : Instr → Bool
  | .loop _ => true
  | i => isBranch i

/-- The guard of bit 0 is off: the operation makes no change (R97, R167, R168). SEL and BRC read GK as a
condition, and vector operations guard each element. -/
def guardOff (i : Instr) (c : Core) : Bool :=
  let g (k : BitVec 4) : Bool := !(maskBit c k 0)
  match i with
  | .add f | .sub f | .mul f | .mulh f | .div f | .divu f | .rem f | .remu f | .and f | .or f | .xor f
  | .andn f | .shl f | .shr f | .sar f | .rot f | .cmpeq f | .cmplt f | .cmpltu f | .cmple f | .min f
  | .max f | .lea f | .movi f | .movhi f | .popc f | .clz f | .ctz f | .movcr f | .movrc f | .movsk f
  | .movks f | .shape f | .getid f | .aalloc f | .afree f | .tlook f | .tdef f | .tstate f
  | .tfree f => g f.gk
  | .sld f | .kld f | .sst f | .kst f => g f.gm
  | _ => false

/-- The store takes a store-buffer entry (R28, R168). -/
def takesEntry (i : Instr) (c : Core) : Bool :=
  match i with
  | .vst _ | .vstt _ | .vsts _ | .vamwr _ | .vamadd _ => true
  | .sst _ | .kst _ => !(guardOff i c)
  | _ => false

/-! ### Registers read and written (R35, R67) -/

def rFpc : RegName := .cr 0
def rShape : RegName := .cr 1
def rMdef : RegName := .cr 2

/-- Registers of a form with B (R97). -/
def scB? (f : ScF) : List RegName := [.s f.sa, .k f.gk] ++ (if f.i then [] else [.s f.sb])

/-- Registers of a vector form: sources, guard, SHAPE, and FPC when it rounds. -/
def vecR (f : VecF) (a b c fpc : Bool) : List RegName :=
  [.k f.gm, rShape] ++ (if a then [.v f.va] else []) ++ (if b then [.v f.vb] else [])
    ++ (if c then [.v f.vc] else []) ++ (if fpc then [rFpc] else [])

/-- What an operation reads, implicit reads included (R35, R67, R114, R119, R121). An operation that R35 names a
reader of FPC reads it whatever its formats, also where they make no use of it (DESIGN CHOICE, log 88). -/
def regReads (i : Instr) (c : Core) : List RegName :=
  match i with
  | .add f | .sub f | .mul f | .mulh f | .div f | .divu f | .rem f | .remu f | .and f | .or f | .xor f
  | .andn f | .shl f | .shr f | .sar f | .rot f | .cmpeq f | .cmplt f | .cmpltu f | .cmple f | .sel f
  | .min f | .max f | .afree f => scB? f
  | .aalloc f => [.k f.gk] ++ (if f.i then [] else [.s f.sb])
  | .lea f => [.s f.sa, .s f.sb, .k f.gk]
  | .movi f | .getid f => [.k f.gk]
  | .movhi f | .popc f | .clz f | .ctz f => [.s f.sa, .k f.gk]
  | .brc f => [.k f.gk]
  | .ret f | .jr f | .loop f => [.s f.sa]
  | .movcr f => [.cr (f.imm.setWidth 6), .k f.gk]
  | .movrc f => [.s f.sa, .k f.gk]
  | .movsk f => [.k (f.sa.setWidth 4), .k f.gk]
  | .movks f => [.s f.sa, .k (f.sd.setWidth 4), .k f.gk]
  | .shape f => [.k f.gk] ++ (if f.i then [] else [.s f.sa])
  | .tlook f => [.s f.sa, .k f.gk] ++ (List.range 128).map fun n => .tile (BitVec.ofNat 7 n)
  | .tdef f => [.s f.sa, .k f.gk]
  | .tstate f => [.tile (f.imm.setWidth 7), .k f.gk]
  | .tfree f => [.k f.gk]
  | .vadd f | .vsub f | .vmul f | .vcmul f => vecR f true true false true
  | .vfma f | .vfms f | .vcfma f => vecR f true true true true
  | .vmin f | .vmax f | .viadd f | .visub f | .vimul f | .vimin f | .vimax f | .vand f | .vor f
  | .vxor f | .vcmpeq f | .vcmplt f | .vcmple f | .vsel f | .vperm f => vecR f true true false false
  | .vshl f | .vshr f | .vsar f => vecR f true (f.fn == 0) false false
  | .vabs f | .vneg f | .vclass f | .vmov f | .vbcst f | .vmovsX f | .vtrn f | .vrot f =>
    vecR f true false false false
  | .vrcp f | .vrsq f | .vexp2 f | .vlog2 f | .vtanh f | .vsin f | .vcos f | .vcvt f | .vrnd f =>
    vecR f true false false true
  | .vmovs f => [.s f.va] ++ vecR f false false false false
  | .viota f | .vsplat f => vecR f false false false false
  | .vqnt f =>
    [.s f.vc] ++ vecR f true false false true ++ (if f.ty == 7 then [.cb (f.vb.setWidth 3)] else [])
  | .vdq f =>
    [.s f.vc] ++ vecR f true false false true ++ (if f.fn == 7 then [.cb (f.vb.setWidth 3)] else [])
  | .vcbld f => [.v f.va]
  | .vredr f | .vredc f => vecR f true false false (f.fn == 0 && f.ty != 5)
  | .vscale f => vecR f true (f.fn == 1) false true
  | .vpopk f => [.k (f.va.setWidth 4)] ++ vecR f false false false false
  | .vclamp f => vecR f true true true false
  | .vamrd f => [.k f.gm]
  | .vamwr f => [.v f.va, .k f.gm]
  | .vamadd f => [.v f.va, .k f.gm, rFpc]
  | .kand f | .kor f | .kxor f | .kandn f | .korn f => [.k f.ka, .k f.kb]
  | .knot f | .kmov f => [.k f.ka]
  | .mldw f | .mmul f | .mmulz f | .mmult f => [.s f.scl, .tile f.tile]
  | .mldwt f => [.s f.scl, .tile f.tile, .tile f.tile2]
  | .mdrain f => [.s f.scl, .tile f.tile, rFpc]
  | .mdraint f => [.s f.scl, .tile f.tile, .tile f.tile2, rFpc]
  | .mcbl f => [.cb (f.tile.setWidth 3)]
  | .vld f => [.s f.br, .s f.sr, .k f.gm, rShape]
  | .vldt f => [.s f.br, .k f.gm, rShape, .tile (lsTile f)]
  | .sld f | .kld f => [.s f.br, .k f.gm]
  | .vldg f => [.s f.br, .v f.sr, .k f.gm, rShape]
  | .vst f => [.s f.br, .s f.sr, .v f.rg, .k f.gm, rShape]
  | .vstt f => [.s f.br, .v f.sr, .k f.gm, rShape, .tile (lsTile f)]
  | .sst f => [.s f.br, .s f.rg, .k f.gm]
  | .vsts f => [.s f.br, .v f.sr, .v f.rg, .k f.gm, rShape]
  | .kst f => [.s f.br, .k (f.rg.setWidth 4), .k f.gm]
  | .copyt f | .spillt f =>
    [.s f.ra, .s f.rb, .s f.rc, .tile ((c.rs f.rb).setWidth 7), rFpc]
      ++ (if f.mod.getLsbD 11 then [] else [rMdef])
  | .copy f | .gath f | .scat f | .lxfer f | .lxred f =>
    [.s f.ra, .s f.rb, .s f.rc, rFpc] ++ (if f.mod.getLsbD 11 then [] else [rMdef])
  | .tdecH f => [.s f.rb, .handle (bits f.tk3 2 3)] ++ (if f.mod.getLsbD 11 then [] else [rMdef])
  | .wait _ _ sb => [.s sb]
  | .arrive _ sa => [.s sa]
  | .arriveHandle h sa => [.handle h, .s sa]
  | .bari _ sa e h => [.s sa] ++ (if e then [.handle h] else [])
  | .pnext _ rf r _ | .padv _ rf r _ => if rf then [.s r] else []
  | .hset _ sa | .tslot sa | .notify sa | .svc _ sa _ => [.s sa]
  | .tspawn _ sa sb => [.s sa, .s sb]
  | i =>
    match cpOf i with
    | some f => [.s f.ra, .s f.rb, .s f.rc] ++ (if f.mod.getLsbD 11 then [] else [rMdef])
    | none => []

/-- What an operation writes; writes to `s0` and `k0` count as none (R67). -/
def regWrites (i : Instr) : List RegName :=
  let l : List RegName :=
    match i with
    | .add f | .sub f | .mul f | .mulh f | .div f | .divu f | .rem f | .remu f | .and f | .or f | .xor f
    | .andn f | .shl f | .shr f | .sar f | .rot f | .sel f | .min f | .max f | .lea f | .movi f
    | .movhi f | .popc f | .clz f | .ctz f | .call f | .jr f | .movcr f | .movsk f | .getid f
    | .aalloc f | .tlook f => [.s f.sd]
    | .cmpeq f | .cmplt f | .cmpltu f | .cmple f | .movks f => [.k (f.sd.setWidth 4)]
    | .movrc f => [.cr (f.imm.setWidth 6)]
    | .shape _ => [rShape]
    | .tdef f | .tfree f => [.tile (f.imm.setWidth 7)]
    | .tstate f => [.s f.sd, .s (f.sd + 1)]
    | .vadd f | .vsub f | .vmul f | .vfma f | .vfms f | .vmin f | .vmax f | .vabs f | .vneg f | .vrcp f
    | .vrsq f | .vexp2 f | .vlog2 f | .vtanh f | .vsin f | .vcos f | .vcmul f | .vcfma f | .viadd f
    | .visub f | .vimul f | .vimin f | .vimax f | .vshl f | .vshr f | .vsar f | .vand f | .vor f
    | .vxor f | .vsel f | .vmov f | .vbcst f | .vmovs f | .viota f | .vsplat f | .vcvt f | .vqnt f
    | .vdq f | .vredr f | .vredc f | .vtrn f | .vrot f | .vperm f | .vamrd f | .vscale f | .vrnd f
    | .vpopk f | .vclamp f => [.v f.vd]
    | .vcmpeq f | .vcmplt f | .vcmple f | .vclass f => [.k (f.vd.setWidth 4)]
    | .vmovsX f => [.s f.vd]
    | .vcbld f => [.cb (f.vd.setWidth 3)]
    | .kand f | .kor f | .kxor f | .kandn f | .korn f | .knot f | .kmov f => [.k f.kd]
    | .mstat f => [.s f.scl]
    | .vld f | .vldg f => [.v f.rg]
    | .vldt f => [.v f.sr]
    | .sld f => [.s f.rg]
    | .kld f => [.k (f.rg.setWidth 4)]
    | .wait kd _ _ | .ttest kd _ | .pnext kd _ _ _ | .tspawn kd _ _ => [.k kd]
    | .pstatq sd => [.s sd]
    | .hset h _ => [.handle h]
    | _ => []
  l.filter fun r => r != .s 0 && r != .k 0

/-- What retires an operation, by the kinds of R73; `id` is the number the operation takes. A branch retires at the end
of its group, also one that writes a link register (R108). (DEDUCED, log 31) -/
def retireOn (i : Instr) (c : Core) (id : Nat) : RetireOn :=
  if isBranch i then .groupEnd
  else if 0 < latency i then .groups (latency i)
  else match i with
    | .vst _ | .vstt _ | .vsts _ | .sst _ | .kst _ => if takesEntry i c then .store id else .groupEnd
    | .mldw _ | .mldwt _ | .mswap _ | .mmul _ | .mmulz _ | .mmult _ | .mzero _ | .mdrain _ | .mdraint _
    | .mcbl _ | .mclr _ => .mx id
    | i => if (cpOf i).isSome then .cmd id else .groupEnd

end Sys2Proof.Machine
end

