-- ==== Sys2Proof/Machine/Checks.lean ====
section
/-! DEFINITION. The checks an operation passes before it issues: encoding conditions that depend on state,
missing features, the group rule, stalls, and operand traps with their order (R21, R67, R92, R93, R157,
R165, R325). -/

namespace Sys2Proof.Machine

open Sys2Proof

/-! ### Barrier objects (R26, R198) -/

/-- A barrier object as a member of a task names it: a core object is the member's, a quad object its gang's
(R26, R309), the others its context's. (DEDUCED, log 30) -/
def State.objAt (s : State) (w : Member) (o : ObjName) : Barrier :=
  match o.scope.toNat with
  | 1 => ((s.member? w).map fun c => c.bars.toList.getD o.index.toNat Barrier.fresh).getD Barrier.fresh
  | 2 =>
    ((s.quadBars.find? fun p => p.1 == (w.asid, w.recVa, o.index.setWidth 4)).map (·.2)).getD Barrier.fresh
  | _ =>
    match s.context? w.asid with
    | some x => ((x.objs.find? fun p => p.1 == o).map (·.2)).getD Barrier.fresh
    | none => Barrier.fresh

/-- Writes a barrier object. -/
def State.setObj (s : State) (w : Member) (o : ObjName) (b : Barrier) : State :=
  match o.scope.toNat with
  | 1 => s.updMember w fun c =>
      if h : o.index.toNat < 8 then { c with bars := c.bars.set o.index.toNat b h } else c
  | 2 =>
    let k := (w.asid, w.recVa, o.index.setWidth 4)
    { s with quadBars := (k, b) :: s.quadBars.filter fun p => p.1 != k }
  | _ => s.updContext w.asid fun x => { x with objs := (o, b) :: x.objs.filter fun p => p.1 != o }

/-- The objects of a gang that starts: none is initialised (R198). -/
def State.clearQuad (s : State) (asid : BitVec 16) (recVa : VAddr) : State :=
  { s with quadBars := s.quadBars.filter fun p => p.1.1 != asid || p.1.2.1 != recVa }

/-- The module that holds a pod object of a context: the root its service chose, this module when the
root is outside the peer set (R309; DESIGN CHOICE, log 13). -/
def State.podRoot (s : State) (asid : BitVec 16) (o : ObjName) : BitVec 12 :=
  let m := Config.podRoot (s.pcidOf asid) o.index
  if o.scope = 5 && s.isPeer asid m then m else s.modid

/-- The object as the running task names it. -/
def State.obj (s : State) (o : ObjName) : Barrier := s.objAt s.core.who o

/-! ### Encoding conditions that depend on state (R92) -/

/-- The width of a type code of the vector, LD and ST slots. -/
def tyWidth (t : BitVec 3) : Nat := ((Fmt.ofCode t.toNat).map Fmt.width).getD 64

/-- The element grid of the focused core. -/
def Core.grid (c : Core) : Grid := gridOf c.shape

/-- The type's width equals SHAPE.WID (R124). -/
def widthBad (c : Core) (t : BitVec 3) : Bool := tyWidth t != c.grid.w

/-- Width and columns of a conversion: C4 counts as 8 in the destination and 4 in the source (R135). -/
def convBad (c : Core) (dst src : BitVec 3) : Bool :=
  (if dst == 7 then 8 else tyWidth dst) != c.grid.w || decide (256 / tyWidth src < c.grid.cols)

/-- A selected row and column lie in the grid (R134); only the selectors the form uses are asked.
(DEDUCED, log 29) -/
def selBad (c : Core) (imm : BitVec 16) (row col : Bool) : Bool :=
  (row && decide (c.grid.rows ≤ (bits imm 10 3).toNat)) || (col && decide (c.grid.cols ≤ (bits imm 0 5).toNat))

/-- The bundle that issues is a delay bundle of a branch, or stands in an active loop body (R79, R80). -/
def controlBad (c : Core) : Bool := !c.bundle.stop || c.delay.isSome || c.loop.isSome

/-- A branch target: below the bundle count and not below 0 (R108). -/
def targetBad (c : Core) (t : Int) : Bool := decide (t < 0) || decide ((c.code.length : Int) ≤ t)

/-- The target of BR, BRC and CALL (R108). -/
def relTarget (f : ScF) (c : Core) : Int := (c.pc : Int) + f.imm.toInt

/-- LOOP's body: bundles, dimensions (R110). -/
def loopBody (f : ScF) : Nat := (bits f.imm 0 6).toNat + 1
def loopDims (f : ScF) : Nat := (bits f.imm 6 3).toNat + 1

/-- The value a MOVRC would write breaks its register's rule (R113). -/
def movrcBad (i : Nat) (x : Word) : Bool :=
  match i with
  | 0 => !(fpcOk x) | 1 => !(shapeOk x) | 2 => !(mdefOk x)
  | 4 => bits x 5 59 != 0 | 8 => bits x 32 32 != 0 | _ => false

/-- The phase target of PNEXT and PADV: the immediate, or s[r] (R207). -/
def phaseTarget (rf : Bool) (r n : BitVec 6) (c : Core) : BitVec 6 := if rf then bits (c.rs r) 0 6 else n

/-- The object is one the task has initialised or attached (R199). -/
def Core.usableObj (c : Core) (o : ObjName) : Bool := c.usable.contains o

/-- A selected arrival target that raises illegal-encoding: undeclared, badly coded, or an object the
task has not prepared (R72, R199). -/
def arrCodeBad (c : Core) (code : BitVec 8) : Bool :=
  code == 0 || !(arrCodeOk code)
    || (match c.arrTarget code with
        | .obj o => !(c.usableObj o)
        | .counter _ => false)

/-- The arrival targets the slot selects (R64, R73). -/
def Core.selected (c : Core) : List (BitVec 8) :=
  (if c.ars.getLsbD 0 then [c.arr1] else []) ++ (if c.ars.getLsbD 1 then [c.arr2] else [])

/-- The group issues as a unit: it has been checked whole, so that what the memory holds is not asked again (R76).
(DEDUCED, log 61) -/
def Core.whole (c : Core) : Bool := c.grpIrrev && c.passed

/-- The record RA names when it can be read, for the commands that capture one. -/
def cpRecord (i : Instr) (s : State) : Option (Vector Word 8) :=
  if s.core.whole then none
  else match i, nestForm i with
  | _, some f => if s.core.recordOk (s.core.rs f.ra).toNat then some (s.nestAt (s.core.rs f.ra).toNat) else none
  | .bvec f, none =>
    if s.core.recordOk (s.core.rs f.ra).toNat then some (s.nestAt (s.core.rs f.ra).toNat) else none
  | _, none => none

/-- A command's encoding conditions at issue (R172 to R191). -/
def cpBad (i : Instr) (f : CpF) (s : State) : Bool :=
  spaceBad i (effMod f s.core.mdef)
    || (match cpRecord i s with
        | some r => (match i with
            | .bvec _ => Bvec.bad r
            | i => nestBad i r)
        | none => false)

/-- The conditions of an operation's own entry that raise illegal-encoding and depend on state.
(DEDUCED, log 28) -/
def entryBad (i : Instr) (s : State) : Bool :=
  let c := s.core
  match i with
  | .br f | .brc f | .call f => controlBad c || targetBad c (relTarget f c)
  | .ret f | .jr f => controlBad c || targetBad c ((c.rs f.sa).toNat : Int) || bits (c.rs f.sa) 11 53 != 0
  | .loop f =>
    controlBad c || decide (c.code.length < c.pc + 1 + loopBody f)
      || !((c.bundle? (c.pc + loopBody f)).map Bundle.stop).getD false
  | .movrc f => !(guardOff i c) && movrcBad f.imm.toNat (c.rs f.sa)
  | .shape f =>
    if f.i then !(shapeOk (f.imm.setWidth 64)) else !(guardOff i c) && !(shapeOk (c.rs f.sa))
  | .vadd f | .vsub f | .vmul f | .vfma f | .vfms f | .vmin f | .vmax f | .vabs f | .vneg f | .vrcp f
  | .vrsq f | .vexp2 f | .vlog2 f | .vtanh f | .vsin f | .vcos f | .vcmul f | .vcfma f | .viadd f
  | .visub f | .vimul f | .vimin f | .vimax f | .vshl f | .vshr f | .vsar f | .vand f | .vor f
  | .vxor f | .vcmpeq f | .vcmplt f | .vcmple f | .vclass f | .vsel f | .vmov f | .vmovs f
  | .viota f | .vsplat f | .vredr f | .vredc f | .vrot f | .vperm f | .vscale f | .vrnd f
  | .vpopk f | .vclamp f => widthBad c f.ty
  | .vbcst f => widthBad c f.ty || selBad c f.imm (f.fn != 2) (f.fn != 1)
  | .vmovsX f => widthBad c f.ty || selBad c f.imm true true
  | .vtrn f => widthBad c f.ty || c.grid.rows != c.grid.cols
  | .vcvt f | .vqnt f | .vdq f => convBad c f.ty (f.fn.setWidth 3)
  | .vld f | .vst f | .vldt f | .vstt f | .vldg f | .vsts f => widthBad c f.ty
  | .arrive o _ | .wait _ o _ => !(c.usableObj o)
  | .bari o sa e _ => bits (c.rs sa) 0 24 == 0 || (e && decide (o.scope.toNat ≤ 2))
  | .bariAtt o => o.scope == 1
    || (decide (3 ≤ o.scope.toNat) && s.podRoot c.asid o == s.modid && !(s.obj o).init)
  | .pnext _ rf r _ | .padv _ rf r _ => rf && bits (c.rs r) 6 58 != 0
  | .tspawn _ sa sb => bits (c.rs sa) 14 50 != 0 || bits (c.rs sb) 0 7 != 0 || bits (c.rs sb) 56 8 != 0
  | i =>
    match cpOf i with
    | some f => cpBad i f s
    | none => false

/-- Illegal-encoding (R92): the bits alone, the arrival targets, or the entry's own conditions.
(DEDUCED, log 28) -/
def encodingBad (i : Instr) (s : State) : Bool :=
  !i.wellFormed || (s.core.selected.any (arrCodeBad s.core)) || entryBad i s

/-! ### Missing features (R10, R32, R92) -/

/-- The FEAT bit an operation needs, as its number. -/
def needsFeature (i : Instr) (s : State) : Option Nat :=
  match i with
  | .mldw _ | .mldwt _ | .mswap _ | .mmul _ | .mmulz _ | .mmult _ | .mzero _ | .mdrain _ | .mdraint _
  | .mcbl _ | .mclr _ | .mfence _ | .mstat _ | .aalloc _ | .afree _ | .vamrd _ | .vamwr _
  | .vamadd _ => some 0
  | .vcmul _ | .vcfma _ => some 2
  | .amoFxa f =>
    if !s.core.feat.getLsbD 3 then some 3
    else if modSpc (effMod f s.core.mdef) == spcFabric then some 6 else none
  | .pnext .. | .padv .. | .pcancel | .pstatq _ | .mapq _ => some 4
  | .pcon _ | .preadMst _ | .preadWbf _ | .preadWf8 _ | .preadMom _ | .pstat _ => some 5
  | .bvec _ => some 7
  | i =>
    match cpOf i with
    | some f =>
      if usesFabric i (effMod f s.core.mdef) ((cpRecord i s).getD (Vector.replicate 8 0)) then some 6
      else none
    | none => none

/-- The missing FEAT bit, one-hot; a VB-slot operation also needs FEAT.VB (R123). -/
def featureMissing (i : Instr) (s : State) : Option (BitVec 9) :=
  let c := s.core
  if Slot.all.getD c.slot .sy == .vb && i != .vnop && !c.feat.getLsbD 1 then some 2
  else match needsFeature i s with
    | some b => if c.feat.getLsbD b then none else some (BitVec.ofNat 9 (2 ^ b))
    | none => none

/-! ### The group rule (R67) -/

/-- The operation reads a register that an earlier operation of its group writes; an arrival through a handle
reads the handle. (DEDUCED, log 60) -/
def groupBad (i : Instr) (c : Core) : Bool :=
  (regReads i c ++ (c.selected.filter fun x => bits x 5 3 == 7).map fun x => RegName.handle (bits x 0 3)).any
    fun r => c.gws.contains r

/-! ### Stalls (R21, R152, R156, R157, R160) -/

/-- The bands rows ROW to ROW + n − 1 touch: first and last (R16). -/
def bandOf (row n : Nat) : Nat × Nat := (row / 8, (row + n - 1) / 8)

/-- A band's write bit: an accumulator write in flight touches it (R156). -/
def Core.bandWriteBit (c : Core) (bank : BitVec 5) (lo hi : Nat) : Bool :=
  c.mx.any fun o => o.kind == .accWrite && o.bank == bank && decide (o.bandLo ≤ hi) && decide (lo ≤ o.bandHi)

/-- A band's read bit: a drain in flight reads it (R156). -/
def Core.bandReadBit (c : Core) (bank : BitVec 5) (lo hi : Nat) : Bool :=
  c.mx.any fun o => o.kind == .drain && o.bank == bank && decide (o.bandLo ≤ hi) && decide (lo ≤ o.bandHi)

/-- A latch operation is in flight (R152). -/
def Core.latchBusy (c : Core) : Bool := c.mx.any fun o => o.kind == .latch

/-- Rows of an MX form. -/
def mxRows (f : MxF) : Nat := f.nr.toNat + 1

/-- A drain must wait (R160). -/
def drainWaits (f : MxF) (c : Core) : Bool :=
  let b := bandOf f.row.toNat (mxRows f)
  let aligned := f.row.toNat % 8 == 0 && mxRows f % 8 == 0
  let mine := c.mx.filter fun o => o.kind == .drain && o.bank == f.bank
  let all := c.mx.filter fun o => o.kind == .drain
  if aligned then
    c.bandReadBit f.bank b.1 b.2 || mine.any (fun o => !o.aligned) || decide (4 ≤ mine.length)
      || decide (8 ≤ all.length)
  else !mine.isEmpty || decide (8 ≤ all.length)

/-- An instruction that names a tile waits while it is filling or draining, and on its write bit. -/
def tileWaits (c : Core) (t : BitVec 7) : Bool := TileE.busy (c.tile t) || c.tileWriteBit t

/-- A drain, TDEF, TFREE or VSTT also waits on the tile's read bit (R157). -/
def tileWaitsAll (c : Core) (t : BitVec 7) : Bool := tileWaits c t || c.tileReadBit t

/-- The token has passed the object's phase p: first passed, then stale (R203). -/
def tokenPassed (p t : BitVec 16) : Bool × Bool :=
  let d := (p - t).toNat
  (decide (1 ≤ d) && decide (d < 2 ^ 15), decide (2 ≤ d) && decide (d < 2 ^ 15))

/-- Operations whose stalls also wait on earlier operations of their own group (R142, R152, R161, R248).
(DEDUCED, log 62) -/
def waitsInGroup : Instr → Bool
  | .mldw _ | .mldwt _ | .mswap _ | .mmul _ | .mmulz _ | .mmult _ | .mzero _ | .mdrain _ | .mdraint _
  | .mcbl _ | .mclr _ | .mfence _ | .afree _ | .vamrd _ | .vamwr _ | .vamadd _
  | .tdef _ | .tfree _ | .vldt _ | .vstt _ | .padv .. | .pcancel => true
  | _ => false

/-- A COPYT or SPILLT names a tile that is filling or draining (R21). -/
def fillStalls (i : Instr) (c : Core) : Bool :=
  match tileForm i with
  | some (f, _) => TileE.busy (c.tile ((c.rs f.rb).setWidth 7))
  | none => false

/-- Bundle words of an accumulator block: bank, band, column group (R141). -/
def accBank (f : VecF) : BitVec 5 := bits f.imm 11 5
def accBand (f : VecF) : Nat := (bits f.imm 7 4).toNat
def accGroup (f : VecF) : Nat := (bits f.imm 4 3).toNat

/-- The lowest base of `n` contiguous free banks. -/
def freeRun (own : BitVec 32) (n : Nat) : Option Nat :=
  (List.range (33 - n)).find? fun b => (List.range n).all fun i => !(own.getLsbD (b + i))

/-- The base AALLOC of `n` banks takes: none when n is out of range or no run is free (R117). -/
def allocRun (n : Nat) (own : BitVec 32) : Option Nat :=
  if 1 ≤ n ∧ n ≤ 32 then freeRun own n else none

/-- A set of `n` banks from a base. -/
def bankSet (base n : Nat) : BitVec 32 := BitVec.ofNat 32 ((2 ^ n - 1) * 2 ^ base)

/-- The bank of an AFREE lies in its range (R118). -/
def afreeHas (f : ScF) (c : Core) (b : Nat) : Bool :=
  decide ((c.rs f.sa).toNat ≤ b) && decide (b < (c.rs f.sa).toNat + (scB f c).toNat)

/-- A context is cutting: PADV and PCANCEL are held until the cut is done (R209, R210, R248). -/
def State.cutting (s : State) (asid : BitVec 16) : Bool := ((s.context? asid).map fun x => x.eng == .cutting).getD false

/-- PADV and PCANCEL are held: the cut of their context is under way, or PADV's output token is busy (R209, R210). -/
def phaseHeld (i : Instr) (s : State) : Bool :=
  match i with
  | .padv tko _ _ _ =>
    s.core.padvWait.isNone && ((tko != 63 && tokIsBusy (s.core.token tko)) || s.cutting s.core.asid)
  | .pcancel => s.cutting s.core.asid
  | _ => false

/-- The operation's own stall condition. PADV's wait on a transition is `padvStage`'s. -/
def stallCond (i : Instr) (s : State) : Bool :=
  let c := s.core
  let tokBusy (t : BitVec 6) : Bool := t != 63 && tokIsBusy (c.token t)
  match i with
  | .afree f => !(guardOff i c) && c.mx.any fun o => o.kind != .latch && afreeHas f c o.bank.toNat
  | .tdef f | .tfree f => !(guardOff i c) && tileWaitsAll c (f.imm.setWidth 7)
  | .vamrd f => c.bandWriteBit (accBank f) (accBand f) (accBand f)
  | .vamwr f | .vamadd f =>
    c.bandWriteBit (accBank f) (accBand f) (accBand f) || c.bandReadBit (accBank f) (accBand f) (accBand f)
  | .mldw f => c.latchBusy || tileWaits c f.tile
  | .mldwt f => c.latchBusy || tileWaits c f.tile || tileWaits c f.tile2
  | .mswap _ | .mcbl _ | .mclr _ => c.latchBusy
  | .mmul f | .mmulz f =>
    let b := bandOf f.row.toNat (mxRows f)
    c.latchBusy || tileWaits c f.tile || c.bandReadBit f.bank b.1 b.2
  | .mmult f =>
    let b := bandOf f.row.toNat 48
    c.latchBusy || tileWaits c f.tile || c.bandReadBit f.bank b.1 b.2
  | .mzero f =>
    let b := bandOf f.row.toNat (mxRows f)
    c.bandReadBit f.bank b.1 b.2
  | .mdrain f =>
    let b := bandOf f.row.toNat (mxRows f)
    drainWaits f c || c.bandWriteBit f.bank b.1 b.2 || tileWaitsAll c f.tile
  | .mdraint f =>
    let b := bandOf f.row.toNat (mxRows f)
    drainWaits f c || c.bandWriteBit f.bank b.1 b.2 || tileWaitsAll c f.tile || tileWaitsAll c f.tile2
  | .mfence _ => !c.mx.isEmpty
  | .vldt f => tileWaits c (lsTile f)
  | .vstt f => tileWaitsAll c (lsTile f)
  | .wait _ o sb => decide (o.scope.toNat ≤ 2) && !(tokenPassed (s.obj o).phase ((c.rs sb).setWidth 16)).1
  | .bariAtt o => o.scope == 2 && !(s.obj o).init
  | .twait a b d => tokBusy a || tokBusy b || tokBusy d
  | .padv .. | .pcancel => c.phasesMade == 0 && phaseHeld i s
  | .tslot sa => decide (s.ptb.toNat < 256 * (c.rs sa).toNat)
  | .svc tko _ _ => tokBusy tko
  | i =>
    match cpOf i with
    | some f =>
      tokBusy f.tko || (decide (32 ≤ c.queue.length) && c.queue.all (·.released)) || fillStalls i c
    | none => false

/-- The operation must wait: once its bundle's stalls have cleared, only an operation that the group itself
sequences can still wait (R76, R152). (DEDUCED, log 62, log 63) -/
def stalled (i : Instr) (s : State) : Bool :=
  (stallCond i s && (!s.core.passed || waitsInGroup i)) || fillStalls i s.core

/-- A 49th store-buffer entry or a 33rd queue entry: a forced checkpoint comes first (R28, R172). -/
def needsForced (i : Instr) (c : Core) : Bool :=
  (takesEntry i c && decide (48 ≤ c.stores.length))
    || ((cpOf i).isSome && decide (32 ≤ c.queue.length) && c.queue.any (fun q => !q.released))

/-! ### Operand traps and their order (R93, R325) -/

/-- TRAP and BRK come before the operand traps of the entries, which are one class (R93). -/
def Cause.soft : Cause → Bool
  | .softwareTrap | .breakpoint => true
  | _ => false

/-- The order of the operand traps of one operation, that of R93's list. (DEDUCED, log 19) -/
def Cause.rank : Cause → Nat
  | .softwareTrap | .breakpoint => 0
  | .privilegedOperation => 1 | .tileEmpty => 2 | .tileBounds => 3 | .scratchpadBounds => 4
  | .accumulatorNotOwned => 5 | .weightsAbsent => 6 | .handleInvalid => 7 | .tokenFaulted => 8
  | .memoryError => 9 | .phaseFault => 10 | .phaseLate => 11
  | _ => 12

/-- The elements of a grid whose guard bits are set, in row order. -/
def guardedElems (g : Grid) (m : Mask) : List (Nat × Nat) :=
  (List.range g.rows).flatMap fun r =>
    ((List.range g.cols).filter fun c => m.getLsbD (r * 32 + c)).map fun c => (r, c)

/-- Scratchpad-bounds over element accesses: address and size, aligned and inside (R165). -/
def boundsTrap (c : Core) (l : List (Nat × Nat)) : List TrapCond :=
  match l.find? fun a => a.1 % a.2 != 0 || !(c.inSpad a.1 a.2) with
  | some a =>
    let first := if a.1 % a.2 != 0 ∨ spadSizeOf c.id ≤ a.1 then a.1 else spadSizeOf c.id
    [⟨.scratchpadBounds, BitVec.ofNat 64 (first % 2 ^ 22)⟩]
  | none => []

/-- Scratchpad-bounds of an extent with an alignment (R173, R177). (DEDUCED, log 73) -/
def extentTrap (c : Core) (a n al : Nat) : List TrapCond :=
  if a % al ≠ 0 then [⟨.scratchpadBounds, BitVec.ofNat 64 (a % 2 ^ 22)⟩]
  else if c.inSpad a n then []
  else [⟨.scratchpadBounds, BitVec.ofNat 64 ((max a (spadSizeOf c.id)) % 2 ^ 22)⟩]

/-- Memory-error of scratchpad words that a load or a tile read meets (R236). -/
def memTrap (s : State) (l : List (Nat × Nat)) : List TrapCond :=
  if s.core.whole then []
  else match l.find? fun a => s.isPoisoned (spadBase s.core.id + a.1) a.2 with
  | some a => [⟨.memoryError, BitVec.ofNat 64 (a.1 % 2 ^ 22)⟩]
  | none => []

/-- Memory-error of an operation that reads the words of a bank which `reads` holds of: in a bank or at a word that is
poisoned (R236). -/
def bankTrap (c : Core) (bank : BitVec 5) (reads : Nat → Bool) : List TrapCond :=
  if c.whole then []
  else if c.poisonedBanks.getLsbD bank.toNat || c.poisonedWords.any reads then [⟨.memoryError, bank.setWidth 64⟩]
  else []

/-- The guarded element of a VAM form's block that an accumulator word is (R141, R142). -/
def blockReads (c : Core) (f : VecF) (key : Nat) : Bool :=
  (AccBlock.mk (8 * accBand f) 8 (8 * accGroup f) 8).holds (accBank f) key
    && (c.rk f.gm).getLsbD ((key % 6144 / 48 - 8 * accBand f) * 32 + (key % 48 - 8 * accGroup f))

/-- Memory-error of the accumulator elements a VAM form reads: the guarded ones of its block (R141, R142, R236). -/
def blockTrap (c : Core) (f : VecF) : List TrapCond :=
  if (List.range 64).any fun i => (c.rk f.gm).getLsbD (i / 8 * 32 + i % 8) then bankTrap c (accBank f) (blockReads c f)
  else []

/-- The accumulator words a stream adds to, `trans` for MMULT, or a drain reads (R153, R154, R158). -/
def sumBlock (f : MxF) (trans : Bool) : AccBlock :=
  if trans then ⟨f.row.toNat, 48, 0, mxRows f⟩ else ⟨f.row.toNat, mxRows f, 0, 48⟩

/-- Memory-error of those words (R236). -/
def sumTrap (c : Core) (f : MxF) (trans : Bool) : List TrapCond :=
  bankTrap c f.bank ((sumBlock f trans).holds f.bank)

/-- Accumulator-not-owned (R16). -/
def ownTrap (c : Core) (bank : BitVec 5) : List TrapCond :=
  if c.owns bank then [] else [⟨.accumulatorNotOwned, bank.setWidth 64⟩]

/-- Tile-empty (R21). -/
def emptyTrap (c : Core) (t : BitVec 7) : List TrapCond :=
  if TileE.state (c.tile t) == TileE.empty then [⟨.tileEmpty, t.setWidth 64⟩] else []

/-- Tile-bounds when a condition holds (R147, R169, R181). -/
def boundIf (t : BitVec 7) (b : Bool) : List TrapCond := if b then [⟨.tileBounds, t.setWidth 64⟩] else []

/-- A tile's view falls short: its format, its view, its logical rows and columns (R147). -/
def viewBad (e : BitVec 128) (tr : Bool) (fmt rows cols : Nat) : Bool :=
  TileE.fmtCode e != fmt || !(TileE.viewOk e tr) || decide (TileE.lrows e tr < rows)
    || decide (TileE.lcols e tr < cols)

/-- K bytes of an MX form, and the elements of K in a format (R83, R146). -/
def kBytes (f : MxF) : Nat := if f.kc = 0 then 96 else f.kc.toNat
def kel (f : MxF) : Nat := if f.fmt = 1 then kBytes f / 2 else kBytes f

/-- `wb0` pairs with an activation format (R146). -/
def latchPairs (w : Latch) (fmt : BitVec 3) : Bool :=
  w.valid && ((w.fmt == 1 && fmt == 1)
    || ((w.fmt == 2 || w.fmt == 3 || w.fmt == 7) && (fmt == 2 || fmt == 3)))

/-- Scratchpad bytes of a tile's elements (r, c), r < rows, c < cols: one access an element. -/
def tileCells (e : BitVec 128) (tr : Bool) (rows cols : Nat) : List (Nat × Nat) :=
  (List.range rows).flatMap fun r => (List.range cols).map fun c =>
    (TileE.bitAddr e tr r c / 8, (TileE.width e + 7) / 8)

/-- The traps of a stream (R146, R153, R155). -/
def streamTraps (f : MxF) (s : State) : List TrapCond :=
  let c := s.core
  let e := c.tile f.tile
  emptyTrap c f.tile ++ boundIf f.tile (viewBad e f.tr f.fmt.toNat (mxRows f) (kel f))
    ++ ownTrap c f.bank ++ (if latchPairs c.wb0 f.fmt then [] else [⟨.weightsAbsent, 0⟩])
    ++ (if s.poisoned.isEmpty then [] else memTrap s (tileCells e f.tr (mxRows f) (kel f)))

/-- The traps of a weight load (R149). -/
def loadTraps (f : MxF) (s : State) : List TrapCond :=
  let c := s.core
  let e := c.tile f.tile
  emptyTrap c f.tile ++ boundIf f.tile (viewBad e f.tr f.fmt.toNat (kel f) 48)
    ++ (if s.poisoned.isEmpty then [] else memTrap s (tileCells e f.tr (kel f) 48))

/-- The traps of a drain into its tile (R158). -/
def drainTraps (f : MxF) (c : Core) : List TrapCond :=
  emptyTrap c f.tile ++ boundIf f.tile (viewBad (c.tile f.tile) false f.fmt.toNat (mxRows f) 48)
    ++ ownTrap c f.bank ++ sumTrap c f false

/-- Element accesses of the scalar and mask forms. -/
def oneAccess (f : LsF) (c : Core) (n : Nat) : List (Nat × Nat) := [(lsEa f c, n)]

/-- Element accesses of a strided vector form under its guard (R165, R166). -/
def gridAccess (f : LsF) (c : Core) : List (Nat × Nat) :=
  (guardedElems c.grid (c.rk f.gm)).map fun p => (lsElemAddr f c c.grid p.1 p.2, c.grid.w / 8)

/-- Element accesses of an indexed form (R170). -/
def indexAccess (f : LsF) (c : Core) : List (Nat × Nat) :=
  (guardedElems c.grid (c.rk f.gm)).map fun p => (lsIndexAddr f c c.grid p.1 p.2, c.grid.w / 8)

/-- Origin of VLDT and VSTT: row and column (R169). -/
def tileOrigin (f : LsF) (c : Core) : Nat × Nat :=
  ((bits (c.rs f.br) 0 16).toNat, (bits (c.rs f.br) 16 16).toNat)

/-- Tile-bounds of VLDT and VSTT (R169). (DEDUCED, log 74) -/
def tileFormBad (f : LsF) (c : Core) : Bool :=
  let e := c.tile (lsTile f)
  let o := tileOrigin f c
  TileE.fmtCode e != f.ty.toNat || !(TileE.viewOk e false)
    || (guardedElems c.grid (c.rk f.gm)).any fun p =>
        decide (TileE.lrows e false ≤ o.1 + p.1) || decide (TileE.lcols e false ≤ o.2 + p.2)

/-- Element accesses of VLDT. -/
def tileAccess (f : LsF) (c : Core) : List (Nat × Nat) :=
  let e := c.tile (lsTile f)
  let o := tileOrigin f c
  (guardedElems c.grid (c.rk f.gm)).map fun p =>
    (TileE.bitAddr e false (o.1 + p.1) (o.2 + p.2) / 8, c.grid.w / 8)

/-- Element bytes of SLD and SST. -/
def lsBytes (f : LsF) : Nat := tyWidth f.ty / 8

/-- Token-faulted of an output token (R23). -/
def outTrap (c : Core) (t : BitVec 6) : List TrapCond :=
  if t != 63 && tokIsFaulted (c.token t) then
    [⟨.tokenFaulted, BitVec.ofNat 64 (t.toNat + 256 * (tokCode (c.token t)).toNat)⟩]
  else []

/-- Handle-invalid (R25). -/
def handleTrap (c : Core) (h : BitVec 3) : List TrapCond :=
  if bitOf (c.handle h) 63 then [] else [⟨.handleInvalid, h.setWidth 64⟩]

/-- Phase-fault of a target beyond the context's last map (R207). -/
def phaseTrap (s : State) (n : BitVec 6) : List TrapCond :=
  match s.context? s.core.asid with
  | some x => if x.nmap ≤ n.toNat then [⟨.phaseFault, n.setWidth 64⟩] else []
  | none => [⟨.phaseFault, n.setWidth 64⟩]

/-- The traps of a command at issue (R173). -/
def cpTraps (i : Instr) (f : CpF) (s : State) : List TrapCond :=
  let c := s.core
  let a := (c.rs f.ra).toNat
  (match tileForm i with
   | some (f, dst) =>
     let t : BitVec 7 := (c.rs f.rb).setWidth 7
     (if dst then [] else emptyTrap c t)
       ++ boundIf t ((cpRecord i s).elim false fun r => copytBad (c.rs f.rb) (c.tile t) dst r)
   | none => [])
    ++ (match i with
        | .bvec _ => extentTrap c a 64 64
        | i => if (nestForm i).isSome then extentTrap c a 64 64 else [])
    ++ ((cpExtents i c ((cpRecord i s).getD (Vector.replicate 8 0))).flatMap
          fun x => extentTrap c x.1 x.2 1)
    ++ (match i with
        | .tdecH f => handleTrap c (bits f.tk3 2 3)
        | _ => [])
    ++ outTrap c f.tko

/-- The operand traps of an operation's entry. (DEDUCED, log 20) An AFREE whose range is empty or leaves the banks
names its base's low five bits in INFO (R118, R325; DESIGN CHOICE, log 82). TSPAWN to a queue of the task's context
that has closed is a privileged operation (R214; DESIGN CHOICE, log 84). A LOOP, TDEF or nest record that stands in a
poisoned scratchpad word is read as it stands, with no trap: R236 names LD and tile reads (DESIGN CHOICE, log 90). -/
def entryTraps (i : Instr) (s : State) : List TrapCond :=
  let c := s.core
  match i with
  | .trap code => if c.skipBrk == some c.pc then [] else [⟨.softwareTrap, code.setWidth 64⟩]
  | .brk code => if c.skipBrk == some c.pc then [] else [⟨.breakpoint, code.setWidth 64⟩]
  | .movrc f =>
    if guardOff i c || crWritable f.imm.toNat then []
    else [⟨.privilegedOperation, BitVec.ofNat 64 c.slotPos⟩]
  | .loop f => extentTrap c (c.rs f.sa).toNat 64 64
  | .tdef f =>
    if guardOff i c then []
    else
      let a := (c.rs f.sa).toNat
      match extentTrap c a 16 16 with
      | [] => boundIf (f.imm.setWidth 7)
          (!c.whole && !(TileE.ok (spadSizeOf c.id) (BitVec.ofNat 128 (natOfBytes (s.spadBytes a 16)))))
      | l => l
  | .afree f =>
    if guardOff i c then []
    else
      let base := (c.rs f.sa).toNat
      let n := (scB f c).toNat
      if n = 0 ∨ 32 < n ∨ 32 < base + n then [⟨.accumulatorNotOwned, BitVec.ofNat 64 (base % 32)⟩]
      else match ((List.range n).map (base + ·)).find? fun b => !c.own.getLsbD b with
        | some b => [⟨.accumulatorNotOwned, BitVec.ofNat 64 b⟩]
        | none => []
  | .vamrd f => if c.owns (accBank f) then blockTrap c f else []
  | .vamwr f => ownTrap c (accBank f)
  | .vamadd f => ownTrap c (accBank f) ++ blockTrap c f
  | .mmul f => streamTraps f s ++ sumTrap c f false
  | .mmult f => streamTraps f s ++ sumTrap c f true
  | .mmulz f => streamTraps f s
  | .mzero f => ownTrap c f.bank
  | .mldw f => loadTraps f s
  | .mldwt f =>
    loadTraps f s ++ emptyTrap c f.tile2
      ++ boundIf f.tile2 (viewBad (c.tile f.tile2) false f.fmt.toNat 48 (kel f) || f.tile == f.tile2)
  | .mdrain f => drainTraps f c
  | .mdraint f =>
    let e := c.tile f.tile2
    drainTraps f c ++ emptyTrap c f.tile2
      ++ boundIf f.tile2 (viewBad e false (TileE.fmtCode e) 48 (mxRows f)
          || decide (4 < TileE.fmtCode e) || f.tile == f.tile2)
  | .vld f => boundsTrap c (gridAccess f c) ++ memTrap s (gridAccess f c)
  | .vldt f =>
    emptyTrap c (lsTile f) ++ boundIf (lsTile f) (tileFormBad f c) ++ memTrap s (tileAccess f c)
  | .sld f =>
    if guardOff i c then []
    else boundsTrap c (oneAccess f c (lsBytes f)) ++ memTrap s (oneAccess f c (lsBytes f))
  | .vldg f => boundsTrap c (indexAccess f c) ++ memTrap s (indexAccess f c)
  | .kld f =>
    if guardOff i c then [] else boundsTrap c (oneAccess f c 32) ++ memTrap s (oneAccess f c 32)
  | .vst f => boundsTrap c (gridAccess f c)
  | .vstt f => emptyTrap c (lsTile f) ++ boundIf (lsTile f) (tileFormBad f c)
  | .sst f => if guardOff i c then [] else boundsTrap c (oneAccess f c (lsBytes f))
  | .vsts f => boundsTrap c (indexAccess f c)
  | .kst f => if guardOff i c then [] else boundsTrap c (oneAccess f c 32)
  | .arriveHandle h _ => handleTrap c h
  | .bari _ _ e h => if e then handleTrap c h else []
  | .hset h sa =>
    let x := c.rs sa
    if x == 0 || (bits x 56 8 == 0 && bits x 0 2 == 0) then [] else [⟨.handleInvalid, h.setWidth 64⟩]
  | .twait a b d => outTrap c a ++ outTrap c b ++ outTrap c d
  | .pnext _ rf r n => phaseTrap s (phaseTarget rf r n c)
  | .padv tko rf r n =>
    outTrap c tko ++ phaseTrap s (phaseTarget rf r n c)
  | .tspawn _ sa _ =>
    match s.queue? ((c.rs sa).setWidth 14) with
    | some q =>
      if q.asid == c.asid && q.qst != .closed then []
      else [⟨.privilegedOperation, BitVec.ofNat 64 c.slotPos⟩]
    | none => [⟨.privilegedOperation, BitVec.ofNat 64 c.slotPos⟩]
  | .svc tko _ _ => outTrap c tko
  | i =>
    match cpOf i with
    | some f => cpTraps i f s
    | none => []

/-- The operand traps of an operation, its arrivals through handles included (R25). (DEDUCED, log 19) -/
def operandTraps (i : Instr) (s : State) : List TrapCond :=
  entryTraps i s
    ++ ((s.core.selected.filter fun x => bits x 5 3 == 7).flatMap
          fun x => handleTrap s.core (bits x 0 3))

/-- The trap of lowest rank, the earliest of equals (R93). -/
def firstTrap : List TrapCond → Option TrapCond
  | [] => none
  | t :: r =>
    match firstTrap r with
    | some u => if Cause.rank u.cause < Cause.rank t.cause then some u else some t
    | none => some t

end Sys2Proof.Machine
end

