-- ==== Sys2Proof/Machine/StoreForm.lean ====
section
/-! DEFINITION. The bytes the store forms write, with their scratchpad addresses (R28, R168 to R170). -/

namespace Sys2Proof.Machine

open Sys2Proof

/-- Bit address of an element of VLDT and VSTT (R169). -/
def tileBit (f : LsF) (c : Core) (row col : Nat) : Nat :=
  let o := tileOrigin f c
  TileE.bitAddr (c.tile (lsTile f)) false (o.1 + row) (o.2 + col)

/-- The bytes of the guarded elements of a register at scratchpad byte addresses, row by row. -/
def gridBytes (v : VReg) (gm : BitVec 4) (addr : Nat → Nat → Nat) (c : Core) : List (Nat × Byte) :=
  let g := c.grid
  (guardedElems g (c.rk gm)).flatMap fun p =>
    cellsFrom (addr p.1 p.2) (bytesOfNat (g.w / 8) (velem v g.w p.1 p.2).toNat)

/-- The bytes VST, VSTT, VSTS, SST and KST store, with their addresses. -/
def vstBytes (f : LsF) (c : Core) : List (Nat × Byte) :=
  gridBytes (c.rv f.rg) f.gm (lsElemAddr f c c.grid) c
def vsttBytes (f : LsF) (c : Core) : List (Nat × Byte) :=
  gridBytes (c.rv f.sr) f.gm (fun r col => tileBit f c r col / 8) c
def vstsBytes (f : LsF) (c : Core) : List (Nat × Byte) :=
  gridBytes (c.rv f.rg) f.gm (lsIndexAddr f c c.grid) c
def sstBytes (f : LsF) (c : Core) : List (Nat × Byte) :=
  cellsFrom (lsEa f c) (bytesOfNat (lsBytes f) (c.rs f.rg).toNat)
def kstBytes (f : LsF) (c : Core) : List (Nat × Byte) :=
  cellsFrom (lsEa f c) (bytesOfNat 32 (c.rk (f.rg.setWidth 4)).toNat)

/-- The bytes a store withholds, with their addresses; none for an operation that stores none to the scratchpad. -/
def storeBytes? (i : Instr) (c : Core) : Option (List (Nat × Byte)) :=
  match i with
  | .vst f => some (vstBytes f c)
  | .vstt f => some (vsttBytes f c)
  | .sst f => some (sstBytes f c)
  | .vsts f => some (vstsBytes f c)
  | .kst f => some (kstBytes f c)
  | _ => none

end Sys2Proof.Machine
end

