-- ==== Sys2Proof/Machine/Issue.lean ====
section
/-! DEFINITION. Issuing an operation: its checks in the manual's order, its arrivals, the group's write
set, and the whole check of a bundle or group before anything of it issues (R64, R73, R76, R92, R93). -/

namespace Sys2Proof.Machine

open Sys2Proof

/-- What the checks of an operation say. -/
inductive Verdict where
  | go
  | wait
  | force
  | trap (t : TrapCond)
  deriving DecidableEq, Repr

/-- Encoding, feature and group checks, made before any stall (R93). -/
def earlyCheck (i : Instr) (s : State) : Option TrapCond :=
  if encodingBad i s then some ⟨.illegalEncoding, BitVec.ofNat 64 s.core.slotPos⟩
  else match featureMissing i s with
    | some b => some ⟨.featureAbsent, b.setWidth 64⟩
    | none => if groupBad i s.core then some ⟨.illegalGroup, BitVec.ofNat 64 s.core.slotPos⟩ else none

/-- All checks of one operation: the early ones, stalls, then operand traps (R93). (DEDUCED, log 61) -/
def check (i : Instr) (s : State) : Verdict :=
  match earlyCheck i s with
  | some t => .trap t
  | none =>
    if stalled i s then .wait
    else match firstTrap (operandTraps i s) with
      | some t => .trap t
      | none => if needsForced i s.core then .force else .go

/-- Registers the arrivals the slot selects (R73): a revocable operation's are withheld. -/
def Core.addArrivals (c : Core) (i : Instr) : Core :=
  let on := retireOn i c c.nextId
  let n := match on with
    | .groups n => n
    | _ => 0
  { c with arrs := c.arrs ++ c.selected.map fun code => ⟨c.arrTarget code, on, !(irrevocable i), n, c.nextId⟩ }

/-- The bookkeeping of an operation that issues: its arrivals, then its effect unless its guard is off, then the
group's write set and the next slot. (DEDUCED, log 60) -/
def issued (i : Instr) (eff : State → State) (s : State) : State :=
  let s1 := s.onCore fun c => c.addArrivals i
  let s2 := if guardOff i s.core then s1 else eff s1
  s2.onCore fun c => { c with gws := regWrites i ++ c.gws, slot := c.slot + 1 }

/-- The error behind a memory-error trap is logged: of an accumulator bank for an operation that reads one,
else of the scratchpad words from the trap's offset on (R236, R367). -/
def State.logMemTrap (s : State) (i : Instr) (t : TrapCond) : State :=
  if t.cause ≠ .memoryError then s
  else
    let bank : Bool := match i with
      | .vamrd _ | .vamadd _ | .mdrain _ | .mdraint _ => true
      | .mmul f => (sumTrap s.core f false).contains t
      | .mmult f => (sumTrap s.core f true).contains t
      | _ => false
    let id := s.core.id
    if bank then s.addLog 1 0x08 (coreDie id) (bits id 0 8) (2 ^ 54 + t.info.toNat * 24576)
    else
      let a := spadBase id + t.info.toNat
      s.logPoison a (if s.isPoisoned a 8 then 8 else 256)

/-- Issues an operation: a trap is taken, a stall holds the group one cycle, a forced checkpoint comes
first, or the operation has its effect. -/
def issue (i : Instr) (eff : State → State) (s : State) : Host.Outcome State Fault Refusal :=
  .next (match check i s with
    | .trap t => (s.logMemTrap i t).takeTrap t s.core.slotPos
    | .wait => s.hold
    | .force => s.forcedCheckpoint
    | .go => issued i eff s)

/-- An operation outside every slot: the events of the opcode table, each a next state. -/
def event (s : State) : Host.Outcome State Fault Refusal := .next s

/-- An event of a module that is not held in reset; held, nothing of it is performed (R359). -/
def awake (s t : State) : Host.Outcome State Fault Refusal := event (if s.svc.holdReset then s else t)

/-! ### PADV's wait on a transition (R209, R252) -/

/-- A context's transition abandoned (R251); PASS and FCODE, which the rule does not name, are cleared with the rest
(DESIGN CHOICE, log 56). -/
def Context.abandon (x : Context) : Context :=
  { x with
    eng := .idle, tip := false, flt := false, fcode := 0, prem := 0, pass := 0, hasEngine := false
    moves := [], heldBack := [] }

/-- A transition toward n begins (R248). -/
def Context.start (x : Context) (n : BitVec 6) : Context :=
  { x with
    eng := .diffing, tip := true, tgt := n, pass := 0, flt := false, fcode := 0, hasEngine := false
    trans := x.trans + 1, heldBack := [] }

/-- What PADV toward n finds: act at once, wait in this state, or trap. -/
inductive PadvStage where
  | done
  | cut
  | wait (s : State)
  | trap (t : TrapCond)

/-- One more held cycle of a PADV on the transition numbered `k`, its token busy; phase-late when its limit is
reached (R34, R209). Its first held cycle notes what it waits for. -/
def padvHold (s : State) (tko n : BitVec 6) (k : Nat) : PadvStage :=
  let w := s.core.padvWait.getD 0 + 1
  if s.core.plim ≠ 0 ∧ 256 * s.core.plim.toNat ≤ w then .trap ⟨.phaseLate, n.setWidth 64⟩
  else .wait (s.onCore fun c => { c.setToken tko tokBusy with
    padvWait := some w, padvFor := k, padvTgt := n
    padvEnd := if c.padvWait.isNone then .none else c.padvEnd })

/-- A write the final pass held has been performed, or faulted. -/
def State.heldDone (s : State) (h : Held) : Bool :=
  match h with
  | .piece w cmd idx => !(((s.member? w).map (·.running)).getD []).any fun q =>
      q.id == cmd && !q.stopped && q.pieces.any fun p => p.idx == idx && p.stage != .done
  | .packet p => !(s.fab.arrived.any fun i => i.packet == p)
  | .update pa => !(s.pan.recs.any fun r => r.pa == pa && !r.wrote.isEmpty)

/-- PADV's table (R209): its first evaluation abandons and starts as its rows give, and from then on it waits
until CUR has become n or its transition has faulted, which is noted on its core when it happens, or until its own
transition is complete; one that was abandoned it waits out (R252; DEDUCED, log 64). The cut follows the writes that
the final pass held (R254). -/
def padvStage (tko n : BitVec 6) (s : State) : PadvStage :=
  match s.context? s.core.asid with
  | none => .trap ⟨.phaseFault, n.setWidth 64⟩
  | some x =>
    let look (k : Nat) : PadvStage :=
      if x.tip && x.tgt == n && x.trans == k then
        match x.eng with
        | .complete => if x.heldBack.all s.heldDone then .cut else padvHold s tko n k
        | .faulted => .trap ⟨.phaseFault, BitVec.ofNat 64 (n.toNat + 256 * x.fcode.toNat)⟩
        | _ => padvHold s tko n k
      else padvHold s tko n k
    if s.core.padvWait.isSome then
      (match s.core.padvEnd with
       | .met => .done
       | .faulted code => .trap ⟨.phaseFault, BitVec.ofNat 64 (n.toNat + 256 * code.toNat)⟩
       | .none => look s.core.padvFor)
    else if x.cur == n then .done
    else if x.tip && x.tgt == n then look x.trans
    else
      let x' := (x.abandon).start n
      padvHold (s.updContext x.asid fun _ => x') tko n x'.trans

/-! ### The whole check of a bundle and of a group (R76, R93) -/

/-- The state in which one slot of the bundle at `pc` is checked. -/
def Core.atSlot (c : Core) (b : Bundle) (j : Nat) : Core :=
  let k := Slot.all.getD j .sy
  { c with slot := j, ars := slotArs k (b.word k), arr1 := b.arr1, arr2 := b.arr2 }

/-- What later checks of the group see of an operation that has passed: its writes, the objects it prepares, the
latches it leaves, the banks it takes and gives up, the bytes it stores (R67, R76, R152, R199). So the check of a nest
record, of BVEC's descriptor or of TDEF's record sees the stores before it (DEDUCED, log 24, log 25, log 61). -/
def preview (i : Instr) (c : Core) : Core :=
  let c := { c with gws := regWrites i ++ c.gws }
  let c := match guardOff i c, storeBytes? i c with
    | false, some l => { c with stores := c.stores ++ [⟨c.nextId, l, [], 0⟩], nextId := c.nextId + 1 }
    | _, _ => c
  match i with
  | .aalloc f => if guardOff i c then c else
    (match allocRun (scB f c).toNat c.own with
     | some b => { c with own := c.own ||| bankSet b (scB f c).toNat }
     | none => c)
  | .afree f =>
    if guardOff i c then c else { c with own := c.own &&& ~~~(bankSet (c.rs f.sa).toNat (scB f c).toNat) }
  | .bari o .. | .bariAtt o => { c with usable := o :: c.usable }
  | .mldw f | .mldwt f => { c with wb1 := { c.wb1 with valid := true, fmt := f.fmt } }
  | .mswap _ => { c with wb0 := c.wb1, wb1 := c.wb0 }
  | .mclr _ => { c with wb0 := Latch.cleared, wb1 := Latch.cleared }
  | _ => c

/-- The operations of a bundle with their slots, or the first slot that does not decode. -/
def bundleOps (b : Bundle) : Except Nat (List (Nat × Instr)) :=
  (List.range 9).mapM fun j =>
    match b.decode (Slot.all.getD j .sy) with
    | .ok i => .ok (j, i)
    | .error _ => .error j

/-- The operations of the slots before `j`, which decode. -/
def opsBefore (b : Bundle) (j : Nat) : List (Nat × Instr) :=
  (List.range j).filterMap fun n => match b.decode (Slot.all.getD n .sy) with
    | .ok i => some (n, i)
    | .error _ => none

/-- What a check answers for a bundle or group: a trap with its slot and bundle, a wait, or the state
that later bundles are checked in. -/
inductive GroupVerdict where
  | trap (t : TrapCond) (slot bundle : Nat)
  | wait
  | go (s : State)

/-- Early checks of the slots in issue order; the lowest class wins, then the slot order (R93). -/
def earlyClass (want : Cause) (ops : List (Nat × Instr)) (b : Bundle) (s : State) : Option (TrapCond × Nat) :=
  (ops.foldl (fun (a : State × Option (TrapCond × Nat)) (p : Nat × Instr) =>
    let t := a.1.onCore fun c => c.atSlot b p.1
    let r := match a.2 with
      | some x => some x
      | none =>
        match want with
        | .illegalEncoding =>
          if encodingBad p.2 t then some (⟨.illegalEncoding, BitVec.ofNat 64 t.core.slotPos⟩, t.core.slotPos)
          else none
        | .featureAbsent =>
          (featureMissing p.2 t).map fun f => (⟨.featureAbsent, f.setWidth 64⟩, t.core.slotPos)
        | _ =>
          if groupBad p.2 t.core then some (⟨.illegalGroup, BitVec.ofNat 64 t.core.slotPos⟩, t.core.slotPos)
          else none
    (t.onCore (preview p.2), r)) (s, none)).2

/-- The state after a bundle's operations have been previewed. (DEDUCED, log 24) -/
def previewAll (ops : List (Nat × Instr)) (s : State) : State :=
  s.onCore fun c => ops.foldl (fun c p => preview p.2 c) c

/-- The operand trap of each of a bundle's slots that has one, in issue order, with the slot position.
(DEDUCED, log 69) -/
def bundleTraps (ops : List (Nat × Instr)) (b : Bundle) (s : State) : List (TrapCond × Nat) :=
  (ops.foldl (fun (a : State × List (TrapCond × Nat)) (p : Nat × Instr) =>
    let t := a.1.onCore fun c => c.atSlot b p.1
    (t.onCore (preview p.2),
      a.2 ++ ((firstTrap (operandTraps p.2 t)).map fun x => (x, t.core.slotPos)).toList))
    (s, [])).2

/-- TRAP and BRK first, then the earliest slot's trap (R93). -/
def firstRanked (l : List (TrapCond × Nat)) : Option (TrapCond × Nat) :=
  match l.find? fun t => t.1.cause.soft with
  | some t => some t
  | none => l.head?

/-- Checks the bundle at `pc`, the group's `g`-th (R66, R76, R79, R80, R93, R108).
(DEDUCED, log 20, log 63, log 69) -/
def checkBundle (s : State) (pc g : Nat) : GroupVerdict :=
  let s := s.onCore fun c => { c with pc := pc }
  let c := s.core
  match c.bundle? pc with
  | none => .trap ⟨.illegalEncoding, 0⟩ 0 pc
  | some b =>
    match bundleOps b with
    | .error j =>
      let p := (Slot.all.getD j .sy).position
      match earlyClass .illegalEncoding (opsBefore b j) b s with
      | some (t, p) => .trap t p pc
      | none => .trap ⟨.illegalEncoding, BitVec.ofNat 64 p⟩ p pc
    | .ok ops =>
      match earlyClass .illegalEncoding ops b s with
      | some (t, p) => .trap t p pc
      | none =>
        if c.delay.isSome && g == 0 && !b.stop then .trap ⟨.illegalEncoding, 7⟩ 7 pc
        else match earlyClass .featureAbsent ops b s with
          | some (t, p) => .trap t p pc
          | none =>
            if 8 ≤ g then .trap ⟨.illegalGroup, 7⟩ 7 pc
            else if c.jumped && g == 0 && decide (0 < pc)
                && !((c.bundle? (pc - 1)).map Bundle.stop).getD true then .trap ⟨.illegalGroup, 0⟩ 0 pc
            else match earlyClass .illegalGroup ops b s with
              | some (t, p) => .trap t p pc
              | none =>
                if ops.any fun p => stalled p.2 (s.onCore fun c => c.atSlot b p.1) then .wait
                else match firstRanked (bundleTraps ops b s) with
                  | some (t, p) => .trap t p pc
                  | none => .go (previewAll ops s)

/-- Checks the bundles of a group from `pc` to the one with STOP, at most nine (R66, R76). (DEDUCED, log 61) -/
def checkGroup : Nat → State → Nat → Nat → GroupVerdict
  | 0, s, _, _ => .go s
  | n + 1, s, pc, g =>
    match checkBundle s pc g with
    | .go t =>
      if ((s.core.bundle? pc).map Bundle.stop).getD true then .go t else checkGroup n t (pc + 1) (g + 1)
    | r => r

/-- The bundles of the group that begins at `pc`, to the first with STOP, at most eight (R66). -/
def groupBundles (c : Core) : Nat → Nat → List Bundle
  | 0, _ => []
  | n + 1, pc =>
    match c.bundle? pc with
    | none => []
    | some b => if b.stop then [b] else b :: groupBundles c n (pc + 1)

/-- The operations of a list of bundles, but for the slots that do not decode. -/
def groupOps (l : List Bundle) : List Instr := l.flatMap fun b => (opsBefore b 9).map (·.2)

/-- PADV and PCANCEL act on the context's transition at their group's boundary (R76, R209, R210). -/
def isPhase : Instr → Bool
  | .padv .. | .pcancel => true
  | _ => false

/-- The phase operations of a group's bundles that its boundary has still to make, in issue order, each with its
bundle's index. (DEDUCED, log 64) -/
def pendingPhases (c : Core) (l : List Bundle) : List (Nat × Instr) :=
  (((l.zipIdx.flatMap fun p => (opsBefore p.1 9).map fun q => (c.pc + p.2, q.2)).filter fun p => isPhase p.2)).drop
    c.phasesMade

/-- The PADV that a group's boundary has still to make, if there is one: token and target. -/
def groupPadv (l : List Instr) (c : Core) : Option (BitVec 6 × BitVec 6) :=
  ((l.filter isPhase).drop c.phasesMade).findSome? fun i => match i with
    | .padv tko rf r n => some (tko, phaseTarget rf r n c)
    | _ => none

/-- Store-buffer and queue entries a group needs (R28, R172). -/
def groupNeeds (l : List Instr) (c : Core) : Nat × Nat :=
  ((l.filter fun i => takesEntry i c).length, (l.filter fun i => (cpOf i).isSome).length)

/-- A bundle of a group holds a TRAP or BRK that is to be raised before anything of the group issues (R217). -/
def softAhead (c : Core) (l : List Bundle) : Bool :=
  l.zipIdx.any fun p => c.skipBrk != some (c.pc + p.2) && (opsBefore p.1 9).any fun q => match q.2 with
    | .trap _ | .brk _ => true
    | _ => false

/-- The group issues as a unit: an irrevocable operation of it has issued, or its boundary has made one (R76, R329). -/
def Core.unit (c : Core) : Bool := (decide (0 < c.gpos) && c.grpIrrev) || decide (0 < c.phasesMade)

/-- What a checkpoint would commit now. -/
def Core.uncommitted (c : Core) : Bool :=
  !c.stores.isEmpty || c.snapshot != c.shadow || c.queue.any (fun q => !q.released) || c.arrs.any (·.held)
    || c.posts.any (fun p => !p.committed) || c.fences.any (fun f => !f.committed)

/-- What the sequencer does at a bundle boundary before the bundle issues; with `phases` the group's phase
operations are made, and the group issues once they all are. -/
inductive BundleAction where
  | trap (t : TrapCond) (slot bundle : Nat)
  | hold (s : State)
  | force
  | commit
  | go (irrev : Bool)
  | phases

/-- The decision at a bundle boundary: inside a group whose irrevocable operations were checked whole the
bundle issues; at a group's start the checkpoint of R76 or a forced one and then the checks come, of the whole group
when it holds an irrevocable operation, a TRAP or a BRK (R28, R76, R217). A forced checkpoint is taken before the
group's stalls and checks are asked, and a released store that still waits on a tile's bits has left the buffer
(DESIGN CHOICE, log 86). -/
def bundleAction (s : State) : BundleAction :=
  let c := s.core
  if 0 < c.gpos then
    (if c.grpIrrev then .go true
     else match checkBundle s c.pc c.gpos with
      | .trap t p b => .trap t p b
      | .wait => .hold s.hold
      | .go _ => .go false)
  else if 0 < c.phasesMade then .phases
  else
    let l := groupBundles c 8 c.pc
    let ops := groupOps l
    let irrev := ops.any irrevocable
    let need := groupNeeds ops c
    if irrev && c.padvWait.isNone && c.uncommitted then .commit
    else if !irrev && ((decide (48 < c.stores.length + need.1) && !c.stores.isEmpty)
        || (decide (32 < c.queue.length + need.2) && c.queue.any fun q => !q.released)) then .force
    else match (if irrev || softAhead c l then checkGroup 9 s c.pc 0 else checkBundle s c.pc 0) with
      | .trap t p b => .trap t p b
      | .wait => .hold s.hold
      | .go _ =>
        if decide (32 < c.queue.length + need.2) then .hold s.hold
        else if (pendingPhases c l).isEmpty then .go irrev
        else .phases

end Sys2Proof.Machine
end

