-- ==== Sys2Proof/Machine/Scalar.lean ====
section
/-! DEFINITION. The SC slot: integer, address and control instructions (R97 to R122). -/

namespace Sys2Proof.Machine

open Sys2Proof

/-! ### Results (R97, R99) -/

/-- A result of an operation, in flight for its latency (R68, R69). -/
def State.result (s : State) (i : Instr) (val : ResVal) (flags : Flags := 0) (stat : BitVec 5 := 0) : State :=
  s.onCore fun c => c.addResult val (latency i) flags stat

/-- A scalar result of A and B (R97, R98 form B). -/
def scBinary (i : Instr) (f : ScF) (op : Word → Word → Word) (s : State) : State :=
  s.result i (.s f.sd (op (s.core.rs f.sa) (scB f s.core)))

/-- A scalar result of A (R98 form U). -/
def scUnary (i : Instr) (f : ScF) (op : Word → Word) (s : State) : State :=
  s.result i (.s f.sd (op (s.core.rs f.sa)))

/-- A compare of A and B into all 256 bits of a mask (R102, R98 form K). -/
def scCompare (i : Instr) (f : ScF) (p : Word → Word → Bool) (s : State) : State :=
  s.result i (.k (f.sd.setWidth 4) (boolMask (p (s.core.rs f.sa) (scB f s.core))) (BitVec.allOnes 256))

/-! ### Integer arithmetic (R100) -/

/-- Bits 127:64 of the signed product. -/
def mulHigh (a b : Word) : Word := BitVec.ofInt 64 (a.toInt * b.toInt / 2 ^ 64)
/-- Signed quotient toward zero; division by zero gives all ones. -/
def divSigned (a b : Word) : Word :=
  if b = 0 then BitVec.allOnes 64 else BitVec.ofInt 64 (a.toInt.tdiv b.toInt)
/-- Signed remainder with the dividend's sign; division by zero gives the dividend. -/
def remSigned (a b : Word) : Word :=
  if b = 0 then a else BitVec.ofInt 64 (a.toInt.tmod b.toInt)
/-- Unsigned quotient; division by zero gives all ones. -/
def divUnsigned (a b : Word) : Word :=
  if b = 0 then BitVec.allOnes 64 else BitVec.ofNat 64 (a.toNat / b.toNat)
/-- Unsigned remainder; division by zero gives the dividend. -/
def remUnsigned (a b : Word) : Word := if b = 0 then a else BitVec.ofNat 64 (a.toNat % b.toNat)

/-! ### Shifts and bit counts (R101, R107) -/

/-- A shift amount, modulo 64 (R101). -/
def shAmt (b : Word) : Nat := (bits b 0 6).toNat
/-- The number of 1 bits. -/
def onesCount (x : Word) : Nat := (List.range 64).countP fun i => x.getLsbD i
/-- Leading zeros from bit 63; 64 for 0. -/
def leadingZeros (x : Word) : Nat := ((List.range 64).takeWhile fun i => !(x.getLsbD (63 - i))).length
/-- Trailing zeros from bit 0; 64 for 0. -/
def trailingZeros (x : Word) : Nat := ((List.range 64).takeWhile fun i => !(x.getLsbD i)).length

/-! ### Meanings -/

/-- NOP (R63). -/
def execNop (s : State) : Host.Outcome State Fault Refusal := issue .nop id s

/-- ADD (R100). -/
def execAdd (f : ScF) (s : State) : Host.Outcome State Fault Refusal :=
  issue (.add f) (scBinary (.add f) f (fun a b => a + b)) s

/-- SUB (R100). -/
def execSub (f : ScF) (s : State) : Host.Outcome State Fault Refusal :=
  issue (.sub f) (scBinary (.sub f) f (fun a b => a - b)) s

/-- MUL: the low 64 bits (R100). -/
def execMul (f : ScF) (s : State) : Host.Outcome State Fault Refusal :=
  issue (.mul f) (scBinary (.mul f) f (fun a b => a * b)) s

/-- MULH (R100). -/
def execMulh (f : ScF) (s : State) : Host.Outcome State Fault Refusal :=
  issue (.mulh f) (scBinary (.mulh f) f (mulHigh)) s

/-- DIV (R100). -/
def execDiv (f : ScF) (s : State) : Host.Outcome State Fault Refusal :=
  issue (.div f) (scBinary (.div f) f (divSigned)) s

/-- DIVU (R100). -/
def execDivu (f : ScF) (s : State) : Host.Outcome State Fault Refusal :=
  issue (.divu f) (scBinary (.divu f) f (divUnsigned)) s

/-- REM (R100). -/
def execRem (f : ScF) (s : State) : Host.Outcome State Fault Refusal :=
  issue (.rem f) (scBinary (.rem f) f (remSigned)) s

/-- REMU (R100). -/
def execRemu (f : ScF) (s : State) : Host.Outcome State Fault Refusal :=
  issue (.remu f) (scBinary (.remu f) f (remUnsigned)) s

/-- AND (R101). -/
def execAnd (f : ScF) (s : State) : Host.Outcome State Fault Refusal :=
  issue (.and f) (scBinary (.and f) f (fun a b => a &&& b)) s

/-- OR (R101). -/
def execOr (f : ScF) (s : State) : Host.Outcome State Fault Refusal :=
  issue (.or f) (scBinary (.or f) f (fun a b => a ||| b)) s

/-- XOR (R101). -/
def execXor (f : ScF) (s : State) : Host.Outcome State Fault Refusal :=
  issue (.xor f) (scBinary (.xor f) f (fun a b => a ^^^ b)) s

/-- ANDN (R101). -/
def execAndn (f : ScF) (s : State) : Host.Outcome State Fault Refusal :=
  issue (.andn f) (scBinary (.andn f) f (fun a b => a &&& ~~~b)) s

/-- SHL (R101). -/
def execShl (f : ScF) (s : State) : Host.Outcome State Fault Refusal :=
  issue (.shl f) (scBinary (.shl f) f (fun a b => a <<< shAmt b)) s

/-- SHR (R101). -/
def execShr (f : ScF) (s : State) : Host.Outcome State Fault Refusal :=
  issue (.shr f) (scBinary (.shr f) f (fun a b => a >>> shAmt b)) s

/-- SAR (R101). -/
def execSar (f : ScF) (s : State) : Host.Outcome State Fault Refusal :=
  issue (.sar f) (scBinary (.sar f) f (fun a b => a.sshiftRight (shAmt b))) s

/-- ROT: left (R101). -/
def execRot (f : ScF) (s : State) : Host.Outcome State Fault Refusal :=
  issue (.rot f) (scBinary (.rot f) f (fun a b => a.rotateLeft (shAmt b))) s

/-- CMPEQ (R102). -/
def execCmpeq (f : ScF) (s : State) : Host.Outcome State Fault Refusal :=
  issue (.cmpeq f) (scCompare (.cmpeq f) f (fun a b => a == b)) s

/-- CMPLT, signed (R102). -/
def execCmplt (f : ScF) (s : State) : Host.Outcome State Fault Refusal :=
  issue (.cmplt f) (scCompare (.cmplt f) f (fun a b => a.slt b)) s

/-- CMPLTU (R102). -/
def execCmpltu (f : ScF) (s : State) : Host.Outcome State Fault Refusal :=
  issue (.cmpltu f) (scCompare (.cmpltu f) f (fun a b => a.ult b)) s

/-- CMPLE, signed (R102). -/
def execCmple (f : ScF) (s : State) : Host.Outcome State Fault Refusal :=
  issue (.cmple f) (scCompare (.cmple f) f (fun a b => a.sle b)) s

/-- SEL: GK is the condition (R103). -/
def execSel (f : ScF) (s : State) : Host.Outcome State Fault Refusal :=
  issue (.sel f) (fun s => s.result (.sel f)
    (.s f.sd (if maskBit s.core f.gk 0 then s.core.rs f.sa else scB f s.core))) s

/-- MIN, signed (R104). -/
def execMin (f : ScF) (s : State) : Host.Outcome State Fault Refusal :=
  issue (.min f) (scBinary (.min f) f (fun a b => if b.slt a then b else a)) s

/-- MAX, signed (R104). -/
def execMax (f : ScF) (s : State) : Host.Outcome State Fault Refusal :=
  issue (.max f) (scBinary (.max f) f (fun a b => if a.slt b then b else a)) s

/-- LEA: `s[SA] + s[SB] × 2^sh + d` (R105). -/
def execLea (f : ScF) (s : State) : Host.Outcome State Fault Refusal :=
  issue (.lea f) (fun s => s.result (.lea f) (.s f.sd
    (s.core.rs f.sa + (s.core.rs f.sb <<< (bits f.imm 24 3).toNat) + (bits f.imm 0 24).signExtend 64))) s

/-- MOVI (R106). -/
def execMovi (f : ScF) (s : State) : Host.Outcome State Fault Refusal :=
  issue (.movi f) (fun s => s.result (.movi f) (.s f.sd (f.imm.signExtend 64))) s

/-- MOVHI: IMM32 above the low half of A (R106). -/
def execMovhi (f : ScF) (s : State) : Host.Outcome State Fault Refusal :=
  issue (.movhi f) (scUnary (.movhi f) f fun a => f.imm ++ bits a 0 32) s

/-- POPC (R107). -/
def execPopc (f : ScF) (s : State) : Host.Outcome State Fault Refusal :=
  issue (.popc f) (scUnary (.popc f) f fun a => BitVec.ofNat 64 (onesCount a)) s

/-- CLZ (R107). -/
def execClz (f : ScF) (s : State) : Host.Outcome State Fault Refusal :=
  issue (.clz f) (scUnary (.clz f) f fun a => BitVec.ofNat 64 (leadingZeros a)) s

/-- CTZ (R107). -/
def execCtz (f : ScF) (s : State) : Host.Outcome State Fault Refusal :=
  issue (.ctz f) (scUnary (.ctz f) f fun a => BitVec.ofNat 64 (trailingZeros a)) s

/-! ### Branches and the loop (R79, R108 to R112) -/

/-- A branch: the two bundles after it issue, then its target if it is taken (R79). (DEDUCED, log 38) -/
def branchTo (t : Option Nat) (s : State) : State := s.onCore fun c => { c with delay := some ⟨3, t⟩ }

/-- The link value: the bundle after the second delay bundle (R109). -/
def linkValue (c : Core) : Word := BitVec.ofNat 64 (c.pc + 3)

/-- BR (R109). -/
def execBr (f : ScF) (s : State) : Host.Outcome State Fault Refusal :=
  issue (.br f) (fun s => branchTo (some (relTarget f s.core).toNat) s) s

/-- BRC: taken when bit 0 of GK is 1 (R109). -/
def execBrc (f : ScF) (s : State) : Host.Outcome State Fault Refusal :=
  issue (.brc f) (fun s =>
    branchTo (if maskBit s.core f.gk 0 then some (relTarget f s.core).toNat else none) s) s

/-- CALL (R109). -/
def execCall (f : ScF) (s : State) : Host.Outcome State Fault Refusal :=
  issue (.call f) (fun s =>
    branchTo (some (relTarget f s.core).toNat) (s.result (.call f) (.s f.sd (linkValue s.core)))) s

/-- RET (R109). -/
def execRet (f : ScF) (s : State) : Host.Outcome State Fault Refusal :=
  issue (.ret f) (fun s => branchTo (some (s.core.rs f.sa).toNat) s) s

/-- JR: an SD of `s0` discards the link (R109). -/
def execJr (f : ScF) (s : State) : Host.Outcome State Fault Refusal :=
  issue (.jr f) (fun s =>
    let t := s.core.rs f.sa
    branchTo (some t.toNat)
      (if f.sd = 0 then s else s.result (.jr f) (.s f.sd (linkValue s.core)))) s

/-- LOOP: the counts are read once; a count of 0 skips the body (R110, R111). (DEDUCED, log 38) -/
def loopStart (f : ScF) (s : State) : State :=
  let r := s.nestAt (s.core.rs f.sa).toNat
  let counts := (List.range (loopDims f)).map (Nest.cnt r)
  s.onCore fun c =>
    if counts.contains 0 then { c with delay := some ⟨1, some (c.pc + 1 + loopBody f)⟩ }
    else { c with loop := some ⟨c.pc + 1, loopBody f, counts, counts.map fun _ => 0⟩ }

/-- LOOP (R110, R111). -/
def execLoop (f : ScF) (s : State) : Host.Outcome State Fault Refusal := issue (.loop f) (loopStart f) s

/-! ### Control registers, masks, shape and identity (R113 to R116) -/

/-- MOVCR: the register as at issue (R113). -/
def execMovcr (f : ScF) (s : State) : Host.Outcome State Fault Refusal :=
  issue (.movcr f) (fun s => s.result (.movcr f) (.s f.sd ((s.readCr f.imm.toNat).getD 0))) s

/-- MOVRC (R113). -/
def execMovrc (f : ScF) (s : State) : Host.Outcome State Fault Refusal :=
  issue (.movrc f) (fun s => s.result (.movrc f) (.cr (f.imm.setWidth 6) (s.core.rs f.sa))) s

/-- MOVSK: one 64-bit word of a mask (R114). -/
def execMovsk (f : ScF) (s : State) : Host.Outcome State Fault Refusal :=
  issue (.movsk f) (fun s => s.result (.movsk f)
    (.s f.sd (bits (s.core.rk (f.sa.setWidth 4)) (64 * (bits f.imm 0 2).toNat) 64))) s

/-- MOVKS: one word of kd, the others as they were at issue (R114). (DEDUCED, log 27) -/
def execMovks (f : ScF) (s : State) : Host.Outcome State Fault Refusal :=
  issue (.movks f) (fun s =>
    let kd : BitVec 4 := f.sd.setWidth 4
    let w := 64 * (bits f.imm 0 2).toNat
    let en : Mask := ((BitVec.allOnes 64).setWidth 256) <<< w
    let x : Mask := ((s.core.rs f.sa).setWidth 256) <<< w
    s.result (.movks f) (.k kd ((s.core.rk kd &&& ~~~en) ||| x) (BitVec.allOnes 256))) s

/-- SHAPE (R115). -/
def execShape (f : ScF) (s : State) : Host.Outcome State Fault Refusal :=
  issue (.shape f) (fun s => s.result (.shape f)
    (.cr 1 (if f.i then f.imm.setWidth 64 else s.core.rs f.sa))) s

/-- What GETID's selectors give (R116). (DESIGN CHOICE, log 10) -/
def idValue (s : State) (sel : Nat) : Word :=
  let c := s.core
  let t : Option TaskInfo := c.task
  match sel with
  | 0 => (0#40 ++ s.modid ++ 0#2 ++ c.id)
  | 1 => ((t.map TaskInfo.gidx).getD 0).setWidth 64
  | 2 => ((t.map TaskInfo.gang).getD 1).setWidth 64
  | _ => ((t.map TaskInfo.rank).getD 0).setWidth 64

/-- GETID (R116). -/
def execGetid (f : ScF) (s : State) : Host.Outcome State Fault Refusal :=
  issue (.getid f) (fun s => s.result (.getid f) (.s f.sd (idValue s (bits f.imm 0 3).toNat))) s

/-! ### Accumulator banks (R16, R117, R118) -/

/-- The elements of the banks of a set. -/
def inBanks (set : BitVec 32) (key : Nat) : Bool := set.getLsbD (key / 6144)

/-- Banks written to zero, their poison with them (R16). -/
def Core.zeroBanks (c : Core) (set : BitVec 32) : Core :=
  { c with
    acc := Sparse.clear (inBanks set) c.acc, poisonedBanks := c.poisonedBanks &&& ~~~set
    poisonedWords := c.poisonedWords.filter fun k => !(inBanks set k) }

/-- AALLOC's effect: the banks and the base, or −1 and no bank (R117). -/
def allocBanks (f : ScF) (s : State) : State :=
  let n := (scB f s.core).toNat
  match allocRun n s.core.own with
  | some b =>
    (s.onCore fun c => { c.zeroBanks (bankSet b n) with own := c.own ||| bankSet b n }).result
      (.aalloc f) (.s f.sd (BitVec.ofNat 64 b))
  | none => s.result (.aalloc f) (.s f.sd (BitVec.allOnes 64))

/-- AALLOC (R117). -/
def execAalloc (f : ScF) (s : State) : Host.Outcome State Fault Refusal := issue (.aalloc f) (allocBanks f) s

/-- AFREE's effect: the banks released and written to zero (R118). -/
def freeBanks (f : ScF) (s : State) : State :=
  let set := bankSet (s.core.rs f.sa).toNat (scB f s.core).toNat
  s.onCore fun c => { c.zeroBanks set with own := c.own &&& ~~~set }

/-- AFREE (R118). -/
def execAfree (f : ScF) (s : State) : Host.Outcome State Fault Refusal := issue (.afree f) (freeBanks f) s

/-! ### The tile table (R119 to R122) -/

/-- The lowest entry whose TAG is x<31:0>; none for a tag of 0 (R119). -/
def Core.tileOfTag (c : Core) (x : Word) : Option Nat :=
  if bits x 0 32 = 0 then none
  else (List.range 128).find? fun n => TileE.tag (c.tile (BitVec.ofNat 7 n)) == bits x 0 32

/-- TLOOK (R119). -/
def execTlook (f : ScF) (s : State) : Host.Outcome State Fault Refusal :=
  issue (.tlook f) (scUnary (.tlook f) f fun a =>
    match s.core.tileOfTag a with
    | some n => BitVec.ofNat 64 n
    | none => BitVec.allOnes 64) s

/-- TDEF: the image becomes the entry, empty and with PTOK 0 (R120). -/
def defineTile (f : ScF) (s : State) : State :=
  let e := BitVec.ofNat 128 (natOfBytes (s.spadBytes (s.core.rs f.sa).toNat 16))
  s.onCore fun c => c.writeTile (f.imm.setWidth 7) (TileE.withState e TileE.empty 0)

/-- TDEF (R120). -/
def execTdef (f : ScF) (s : State) : Host.Outcome State Fault Refusal := issue (.tdef f) (defineTile f) s

/-- TSTATE: the entry's two words to `s[SD]` and `s[SD + 1]` (R121). -/
def execTstate (f : ScF) (s : State) : Host.Outcome State Fault Refusal :=
  issue (.tstate f) (fun s =>
    let e := s.core.tile (f.imm.setWidth 7)
    (s.result (.tstate f) (.s f.sd (bits e 0 64))).result (.tstate f) (.s (f.sd + 1) (bits e 64 64))) s

/-- TFREE: TAG 0 and empty, the other fields as they are (R122). (DEDUCED, log 35) -/
def freeTile (f : ScF) (s : State) : State :=
  let n : BitVec 7 := f.imm.setWidth 7
  s.onCore fun c =>
    let e := c.tile n
    c.writeTile n (0#32 ++ bits (TileE.withState e TileE.empty (TileE.ptok e)) 0 96)

/-- TFREE (R122). -/
def execTfree (f : ScF) (s : State) : Host.Outcome State Fault Refusal := issue (.tfree f) (freeTile f) s

end Sys2Proof.Machine
end

