-- ==== Sys2Proof/Machine/Engine.lean ====
section
/-! DEFINITION. The CP slot: an engine command captures what it will use, its output token becomes busy,
and it enters the core's queue, held until a checkpoint commits (R75, R171 to R173). -/

namespace Sys2Proof.Machine

open Sys2Proof

/-- The 64 bytes a command captures from the address in RA: a nest record or a BVEC descriptor (R172). -/
def capturedRecord (i : Instr) (f : CpF) (s : State) : Vector Word 8 :=
  let named := (nestForm i).isSome || (match i with
    | .bvec _ => true
    | _ => false)
  if named then s.nestAt (s.core.rs f.ra).toNat else Vector.replicate 8 0

/-- The address of a command: its RA register, or the handle TDEC.H names (R194). (DEDUCED, log 26) -/
def capturedAddress (i : Instr) (f : CpF) (c : Core) : Word :=
  match i with
  | .tdecH f => bits (c.handle (bits f.tk3 2 3)) 0 56 |>.setWidth 64
  | _ => c.rs f.ra

/-- The command as captured at issue (R53, R172). -/
def captured (i : Instr) (f : CpF) (s : State) : Cmd :=
  let c := s.core
  { id := c.nextId, op := i, f := f, ra := capturedAddress i f c, rb := c.rs f.rb, rc := c.rs f.rc
    mod := effMod f c.mdef, env := envNoFlush c.fpc, nest := capturedRecord i f s, asid := c.asid, map := 0
    released := false, tileTaken := false, restart := 0, faultAt := 0, pieces := [], status := 0
    faults := [], why := .home, stopped := false, deadRead := false }

/-- A command enters the queue in pending-release and its output token becomes busy (R23, R75, R172). -/
def enqueue (i : Instr) (f : CpF) (s : State) : State :=
  let q := captured i f s
  s.onCore fun c => { (c.setToken f.tko tokBusy) with queue := c.queue ++ [q], nextId := c.nextId + 1 }

/-- CNOP (R63). -/
def execCnop (s : State) : Host.Outcome State Fault Refusal := issue .cnop id s

/-- COPY (R181). -/
def execCopy (f : CpF) (s : State) : Host.Outcome State Fault Refusal :=
  issue (.copy f) (enqueue (.copy f) f) s

/-- COPYT (R181). -/
def execCopyt (f : CpF) (s : State) : Host.Outcome State Fault Refusal :=
  issue (.copyt f) (enqueue (.copyt f) f) s

/-- SPILLT (R181). -/
def execSpillt (f : CpF) (s : State) : Host.Outcome State Fault Refusal :=
  issue (.spillt f) (enqueue (.spillt f) f) s

/-- GATH (R182). -/
def execGath (f : CpF) (s : State) : Host.Outcome State Fault Refusal :=
  issue (.gath f) (enqueue (.gath f) f) s

/-- SCAT (R182). -/
def execScat (f : CpF) (s : State) : Host.Outcome State Fault Refusal :=
  issue (.scat f) (enqueue (.scat f) f) s

/-- AMO.ADD32 (R184). -/
def execAmoAdd32 (f : CpF) (s : State) : Host.Outcome State Fault Refusal :=
  issue (.amoAdd32 f) (enqueue (.amoAdd32 f) f) s

/-- AMO.ADD64 (R184). -/
def execAmoAdd64 (f : CpF) (s : State) : Host.Outcome State Fault Refusal :=
  issue (.amoAdd64 f) (enqueue (.amoAdd64 f) f) s

/-- AMO.MIN (R184). -/
def execAmoMin (f : CpF) (s : State) : Host.Outcome State Fault Refusal :=
  issue (.amoMin f) (enqueue (.amoMin f) f) s

/-- AMO.MAX (R184). -/
def execAmoMax (f : CpF) (s : State) : Host.Outcome State Fault Refusal :=
  issue (.amoMax f) (enqueue (.amoMax f) f) s

/-- AMO.MINU (R184). -/
def execAmoMinu (f : CpF) (s : State) : Host.Outcome State Fault Refusal :=
  issue (.amoMinu f) (enqueue (.amoMinu f) f) s

/-- AMO.MAXU (R184). -/
def execAmoMaxu (f : CpF) (s : State) : Host.Outcome State Fault Refusal :=
  issue (.amoMaxu f) (enqueue (.amoMaxu f) f) s

/-- AMO.AND (R184). -/
def execAmoAnd (f : CpF) (s : State) : Host.Outcome State Fault Refusal :=
  issue (.amoAnd f) (enqueue (.amoAnd f) f) s

/-- AMO.OR (R184). -/
def execAmoOr (f : CpF) (s : State) : Host.Outcome State Fault Refusal :=
  issue (.amoOr f) (enqueue (.amoOr f) f) s

/-- AMO.XOR (R184). -/
def execAmoXor (f : CpF) (s : State) : Host.Outcome State Fault Refusal :=
  issue (.amoXor f) (enqueue (.amoXor f) f) s

/-- AMO.SWAP (R184). -/
def execAmoSwap (f : CpF) (s : State) : Host.Outcome State Fault Refusal :=
  issue (.amoSwap f) (enqueue (.amoSwap f) f) s

/-- AMO.FXA (R184). -/
def execAmoFxa (f : CpF) (s : State) : Host.Outcome State Fault Refusal :=
  issue (.amoFxa f) (enqueue (.amoFxa f) f) s

/-- CAS (R185). -/
def execCas (f : CpF) (s : State) : Host.Outcome State Fault Refusal :=
  issue (.cas f) (enqueue (.cas f) f) s

/-- CASW (R185). -/
def execCasw (f : CpF) (s : State) : Host.Outcome State Fault Refusal :=
  issue (.casw f) (enqueue (.casw f) f) s

/-- DCAS (R185). -/
def execDcas (f : CpF) (s : State) : Host.Outcome State Fault Refusal :=
  issue (.dcas f) (enqueue (.dcas f) f) s

/-- ENQ (R186). -/
def execEnq (f : CpF) (s : State) : Host.Outcome State Fault Refusal :=
  issue (.enq f) (enqueue (.enq f) f) s

/-- CHASE (R186). -/
def execChase (f : CpF) (s : State) : Host.Outcome State Fault Refusal :=
  issue (.chase f) (enqueue (.chase f) f) s

/-- PUT (R187). -/
def execPut (f : CpF) (s : State) : Host.Outcome State Fault Refusal :=
  issue (.put f) (enqueue (.put f) f) s

/-- GET (R187). -/
def execGet (f : CpF) (s : State) : Host.Outcome State Fault Refusal :=
  issue (.get f) (enqueue (.get f) f) s

/-- FENF (R188). -/
def execFenf (f : CpF) (s : State) : Host.Outcome State Fault Refusal :=
  issue (.fenf f) (enqueue (.fenf f) f) s

/-- LXFER (R189). -/
def execLxfer (f : CpF) (s : State) : Host.Outcome State Fault Refusal :=
  issue (.lxfer f) (enqueue (.lxfer f) f) s

/-- LXRED (R189). -/
def execLxred (f : CpF) (s : State) : Host.Outcome State Fault Refusal :=
  issue (.lxred f) (enqueue (.lxred f) f) s

/-- BVEC (R190). -/
def execBvec (f : CpF) (s : State) : Host.Outcome State Fault Refusal :=
  issue (.bvec f) (enqueue (.bvec f) f) s

/-- PCON (R191). -/
def execPcon (f : CpF) (s : State) : Host.Outcome State Fault Refusal :=
  issue (.pcon f) (enqueue (.pcon f) f) s

/-- PREAD.MST (R192). -/
def execPreadMst (f : CpF) (s : State) : Host.Outcome State Fault Refusal :=
  issue (.preadMst f) (enqueue (.preadMst f) f) s

/-- PREAD.WBF (R192). -/
def execPreadWbf (f : CpF) (s : State) : Host.Outcome State Fault Refusal :=
  issue (.preadWbf f) (enqueue (.preadWbf f) f) s

/-- PREAD.WF8 (R192). -/
def execPreadWf8 (f : CpF) (s : State) : Host.Outcome State Fault Refusal :=
  issue (.preadWf8 f) (enqueue (.preadWf8 f) f) s

/-- PREAD.MOM (R192). -/
def execPreadMom (f : CpF) (s : State) : Host.Outcome State Fault Refusal :=
  issue (.preadMom f) (enqueue (.preadMom f) f) s

/-- PSTAT (R193). -/
def execPstat (f : CpF) (s : State) : Host.Outcome State Fault Refusal :=
  issue (.pstat f) (enqueue (.pstat f) f) s

/-- MAPQ (R193). -/
def execMapq (f : CpF) (s : State) : Host.Outcome State Fault Refusal :=
  issue (.mapq f) (enqueue (.mapq f) f) s

/-- PREF (R194). -/
def execPref (f : CpF) (s : State) : Host.Outcome State Fault Refusal :=
  issue (.pref f) (enqueue (.pref f) f) s

/-- MSET (R194). -/
def execMset (f : CpF) (s : State) : Host.Outcome State Fault Refusal :=
  issue (.mset f) (enqueue (.mset f) f) s

/-- TDEC (R194). -/
def execTdec (f : CpF) (s : State) : Host.Outcome State Fault Refusal :=
  issue (.tdec f) (enqueue (.tdec f) f) s

/-- TDEC.H (R194). -/
def execTdecH (f : CpF) (s : State) : Host.Outcome State Fault Refusal :=
  issue (.tdecH f) (enqueue (.tdecH f) f) s

/-- XLINV (R194). -/
def execXlinv (f : CpF) (s : State) : Host.Outcome State Fault Refusal :=
  issue (.xlinv f) (enqueue (.xlinv f) f) s

end Sys2Proof.Machine
end

