-- ==== Sys2Proof/Machine/Queue.lean ====
section
/-! DEFINITION. Task records, counters, queue bindings and the ready pool, as every agent that touches
them does (R310 to R319). -/

namespace Sys2Proof.Machine

open Sys2Proof

/-! ### Task records in a context's memory (R310) -/

/-- The cells of a little-endian number. -/
def leCells (a n x : Nat) : List (Nat × Byte) := cellsFrom a (bytesOfNat n x)

/-- The physical byte address of a byte of a context on this module. -/
def State.physOf (s : State) (asid : BitVec 16) (va : Nat) (write : Bool) : Option Nat :=
  match s.access asid va false write with
  | .ok (.phys b) => some (b / 8)
  | _ => none

/-- Writes a field of a context's memory; a field that cannot be written is left. -/
def State.setField (s : State) (asid : BitVec 16) (va n x : Nat) : State :=
  (s.writeVa asid va (bytesOfNat n x)).getD s

/-- A field of a record; 0 when it cannot be read. -/
def State.field (s : State) (asid : BitVec 16) (va n : Nat) : Nat := (s.fieldVa asid va n).getD 0

/-- STATE and FLG of a task record (R310). -/
def State.setTaskState (s : State) (asid : BitVec 16) (rec : VAddr) (x : Nat) : State :=
  s.setField asid (rec.toNat + 4) 1 x
def State.orTaskFlag (s : State) (asid : BitVec 16) (rec : VAddr) (m : Nat) : State :=
  s.setField asid (rec.toNat + 7) 1 (s.field asid (rec.toNat + 7) 1 ||| m)

/-! ### Bindings (R316) -/

/-- A task of the queue is ready, running, switched or frozen. -/
def State.queueHasTask (s : State) (q : BitVec 14) : Bool :=
  (s.sched.pools.toList ++ s.sched.chains.toList).any (fun l => l.any fun e => e.queue == q)
    || (s.core :: s.parked).any (fun c => (c.task.map fun t => t.queue == q).getD false
      || (c.incoming.map fun e => e.queue == q).getD false)
    || s.sched.images.any (fun m => m.queue == q)

/-- A bound queue is idle (R316). -/
def State.queueIdle (s : State) (q : Queue) : Bool := q.head == q.tail && !(s.queueHasTask q.qid)

/-- The queues bound on a die. -/
def State.boundOn (s : State) (die : BitVec 2) : List Queue :=
  s.sched.queues.filter fun q => q.die == die && q.qst == .bound

/-- The first slot of a die with no queue. -/
def State.freeSlot (s : State) (die : BitVec 2) : Option Nat :=
  (List.range 64).find? fun n => !((s.boundOn die).any fun q => q.slot.toNat == n)

/-- The queue of lowest key, the first of equals. -/
def minQueue (key : Queue → Nat × Nat) : List Queue → Option Queue
  | [] => none
  | q :: r =>
    match minQueue key r with
    | some p => if decide ((key p).1 < (key q).1 ∨ ((key p).1 = (key q).1 ∧ (key p).2 < (key q).2))
        then some p else some q
    | none => some q

/-- Changes a die's pool, or its overflow chain. -/
def State.updPool (s : State) (die : BitVec 2) (f : List PoolEntry → List PoolEntry) : State :=
  { s with sched := { s.sched with
      pools := s.sched.pools.set die.toNat (f (s.sched.pools[die.toNat]'(die.isLt))) die.isLt } }
def State.updChain (s : State) (die : BitVec 2) (f : List PoolEntry → List PoolEntry) : State :=
  { s with sched := { s.sched with
      chains := s.sched.chains.set die.toNat (f (s.sched.chains[die.toNat]'(die.isLt))) die.isLt } }
def State.pool (s : State) (die : BitVec 2) : List PoolEntry := s.sched.pools[die.toNat]'(die.isLt)
def State.chain (s : State) (die : BitVec 2) : List PoolEntry := s.sched.chains[die.toNat]'(die.isLt)

/-- The tasks of the overflow chain: those that wait for room, not for a binding (R316, R317). -/
def State.overflow (s : State) (die : BitVec 2) : List PoolEntry :=
  (s.chain die).filter fun e => ((s.queue? e.queue).map fun q => q.qst == .bound).getD false

/-- HLNK of a record, written when it changes. -/
def State.setLink (s : State) (e : PoolEntry) (x : Nat) : State :=
  if s.field e.asid (e.recVa.toNat + 120) 8 = x then s else s.setField e.asid (e.recVa.toNat + 120) 8 x

/-- HLNK along a chain, the last link 0 (R317). -/
def State.linkAll (s : State) : List PoolEntry → State
  | [] => s
  | e :: r => (s.setLink e ((r.head?.map fun f => f.recVa.toNat).getD 0)).linkAll r

/-- Links a die's overflow chain as it stands (R317). -/
def State.relink (s : State) (die : BitVec 2) : State := s.linkAll (s.overflow die)

/-- Binds a queue to a slot. -/
def State.bindTo (s : State) (q : BitVec 14) (slot : Nat) : State :=
  let t := s.updQueue q fun q => { q with
    qst := .bound, slot := BitVec.ofNat 6 slot, stamp := s.sched.nextStamp }
  State.relink { t with sched := { t.sched with nextStamp := t.sched.nextStamp + 1 } }
    (((s.queue? q).map (·.die)).getD 0)

/-- A queue rung or readied while unbound: a free slot, an idle queue evicted, or pending (R316). -/
def State.bindQueue (s : State) (qid : BitVec 14) : State :=
  match s.queue? qid with
  | none => s
  | some q =>
    if q.qst != .unbound then s
    else if s.svc.drained.contains q.die then s
    else match s.freeSlot q.die with
      | some n => s.bindTo qid n
      | none =>
        match minQueue (fun p => (p.qrk.toNat, p.stamp)) ((s.boundOn q.die).filter s.queueIdle) with
        | some p => (s.updQueue p.qid fun p => { p with qst := .unbound }).bindTo qid p.slot.toNat
        | none =>
          let t := s.updQueue qid fun q => { q with qst := .pending, stamp := s.sched.nextStamp }
          { t with sched := { t.sched with nextStamp := t.sched.nextStamp + 1 } }

/-! ### The ready pool (R317) -/

/-- An entry may stand in the pool: its queue is bound and the pool has room (R316, R317). -/
def State.poolTakes (s : State) (die : BitVec 2) (e : PoolEntry) : Bool :=
  decide ((s.pool die).length < 4096) && ((s.queue? e.queue).map fun q => q.qst == .bound).getD false

/-- The images a ready task resumes from. -/
def State.imagesOf (s : State) (asid : BitVec 16) (rec : VAddr) : List SaveImage :=
  s.sched.images.filter fun m => match m.core.task with
    | some t => t.asid == asid && t.recVa == rec
    | none => false

/-- The feature word of a task, with what a re-placed image has come to need (R32, R327). -/
def State.needOf (s : State) (e : PoolEntry) : BitVec 9 :=
  (s.imagesOf e.asid e.recVa).foldl (fun a m => a ||| m.core.needFeat)
    (BitVec.ofNat 9 (s.field e.asid (e.recVa.toNat + 10) 2 % 256))

/-- A core that is not retired covers the task's feature word (R32, R320). -/
def State.coverable (s : State) (die : BitVec 2) (e : PoolEntry) : Bool :=
  let need := s.needOf e
  (List.range 256).any fun i =>
    let c := s.findCore (die ++ BitVec.ofNat 8 i)
    !(s.svc.retiredCores.contains c.id) && (need &&& c.feat) == need

/-- The status of a die's queues tells which has a ready task that no core of the die covers (R320). -/
def State.tellUncovered (s : State) (die : BitVec 2) : State :=
  let bad := ((s.pool die ++ s.chain die).filter fun e => !(s.coverable die e)).map (·.queue)
  { s with sched := { s.sched with queues := s.sched.queues.map fun q =>
      if q.die = die then { q with uncovered := bad.contains q.qid } else q } }

/-- Enters a task in its die's pool, behind the tasks of the overflow chain when there are any (R317). -/
def State.poolPush (s : State) (die : BitVec 2) (e : PoolEntry) : State :=
  (if s.poolTakes die e && (s.overflow die).isEmpty then s.updPool die fun l => l ++ [e]
  else (s.updChain die fun l => l ++ [e]).relink die).tellUncovered die

/-- PTB div 1024, the readying time (R310). -/
def State.rdyNow (s : State) : BitVec 32 := BitVec.ofNat 32 (s.ptb.toNat / 1024)

/-- A task becomes ready, or re-enters after a switch or freeze with its save slot: its queue is bound if
it is not, and RDY is written (R314, R316, R317). -/
def State.readyTask (s : State) (asid : BitVec 16) (rec : VAddr) (qid : BitVec 14) (save : Option Nat) :
    State :=
  match s.queue? qid with
  | none => s
  | some q =>
    let s := if save.isNone then s.setTaskState asid rec 2 else s
    let s := s.setField asid (rec.toNat + 112) 4 s.rdyNow.toNat
    let rank := BitVec.ofNat 4 (s.field asid (rec.toNat + 5) 1)
    let s := s.setField asid (rec.toNat + 5) 1 (17 * rank.toNat)
    (s.bindQueue qid).poolPush q.die ⟨asid, rec, qid, rank, s.rdyNow, s.cyc.toNat, save⟩

/-! ### Counters (R200, R314, R315) -/

/-- Bytes of physical memory as a number. -/
def State.peekNat (s : State) (pa n : Nat) : Nat := natOfBytes (s.peekBytes pa n)

/-- A waiting task whose record lies at a physical address. (DEDUCED, log 48) -/
def State.waitingAt (s : State) (pa : Nat) : Option (BitVec 16 × VAddr × BitVec 14) :=
  s.sched.waiting.find? fun w => s.physOf w.1 w.2.1.toNat true == some pa

/-- A decrement of `n` performed at the counter's word (R314): the decrement whose result is 0 arms a
record not yet submitted or readies a waiting one; below zero the counter wraps and CERR is set. -/
def State.decrementAt (s : State) (pa : Nat) (va : VAddr) (n : BitVec 32) : State :=
  let cnt := s.peekNat pa 4
  let flag (s : State) (m : Nat) : State := s.store [(pa + 7, BitVec.ofNat 8 (s.peekNat (pa + 7) 1 ||| m))]
  if n = 0 then s
  else
    let s := s.store (leCells pa 4 ((BitVec.ofNat 32 cnt - n).toNat))
    if cnt < n.toNat then (flag s 4).addLog 7 0x05 (placeUnit pa).1 (placeUnit pa).2 va.toNat
    else if cnt = n.toNat then
      match s.peekNat (pa + 4) 1 with
      | 0 => flag s 2
      | 1 =>
        match s.waitingAt pa with
        | some w =>
          State.readyTask { s with sched := { s.sched with
            waiting := s.sched.waiting.filter fun x => x != w } } w.1 w.2.1 w.2.2 none
        | none => s
      | _ => s
    else s

/-! ### Entries reserved by TSPAWN (R214, R313) -/

/-- The commands a reserved entry follows have completed, on the core or in the image that holds its task. -/
def State.reservedDue (s : State) (r : Reserved) : Bool :=
  match s.member? r.who with
  | some c => !(c.outstandingBefore r.before)
  | none => true

/-- Writes the reserved entries whose earlier commands have completed, and rings their queues (R214, R290, R313). -/
def State.flushSpawns (s : State) : State :=
  s.sched.queues.foldl (fun (s : State) (q : Queue) =>
    let due := q.reserved.filter s.reservedDue
    if due.isEmpty then s
    else
      let s := due.foldl (fun (s : State) (r : Reserved) =>
        s.setField q.asid (q.ring.toNat + 8 * (r.place.toNat % q.rsz)) 8 r.recVa.toNat) s
      (s.updQueue q.qid fun q => { q with reserved := q.reserved.filter fun r => !(due.contains r) }).bindQueue
        q.qid) s

end Sys2Proof.Machine
end

