-- ==== Sys2Proof/Machine/NetMsg.lean ====
section
/-! DEFINITION. What a message asks of the unit that owns its target, and the decrements that no token waits for
(R200, R222, R236, R294). -/

namespace Sys2Proof.Machine

open Sys2Proof

/-- A message of a core's command to be completed and sent. -/
def Msg.request (op : NetOp) (core : BitVec 10) (q : Cmd) (idx : Nat) (loc : Loc) (width : Nat) : Msg :=
  { Msg.bare' op core (corePort core) (corePort core) with
    cmd := q.id, idx := idx, loc := loc, width := width, cls := modCls q.mod, scope := modScp q.mod
    asid := q.asid, map := q.map, bare := false }

/-- The byte address of a location of this module's memory. -/
def Loc.byte : Loc → Nat
  | .phys b => b / 8
  | .remote _ b => b / 8
  | .spad b => b / 8
  | _ => 0

/-- The bytes an access of `w` bits touches. -/
def accessBytes (w : Nat) : Nat := (w + 7) / 8

/-- An access at its home: scratchpads serve only the context whose data they hold (R222), and a poisoned
unit answers 0x07 (R236). -/
def State.homeCode (s : State) (m : Msg) : BitVec 8 :=
  let a := m.loc.byte
  match placeOf a with
  | .spad c =>
    if !(s.holds c m.asid) then 0x06 else if s.isPoisoned a (accessBytes m.width) then 0x07 else 0
  | .stack _ => if s.isPoisoned a (accessBytes m.width) then 0x07 else 0
  | _ => 0x06

/-- The error an access meets at its home is logged there (R236). -/
def State.homeLog (s : State) (m : Msg) : State :=
  if m.psn = false ∧ s.homeCode m = 0x07 then s.logPoison m.loc.byte (accessBytes m.width) else s

/-- Logs a record event with the stack that holds the record, and its die (R236, R366, R367). -/
def State.logRecord (s : State) (code : BitVec 8) (pa : Nat) (va : VAddr) : State :=
  s.addLog 6 code (placeUnit pa).1 (placeUnit pa).2 va.toNat

/-- A decrement that no token waits for has been answered: a code drops it, and it is logged (R200, R270). -/
def State.dropLog (s : State) (m : Msg) (code : BitVec 8) : State :=
  if code = 0 then s
  else if m.unit then s.logRecord 0x03 m.cmd m.counterVa
  else s.addLog 7 0x06 (coreDie m.core) (bits m.core 0 8) m.counterVa.toNat

/-- A decrement that no token waits for leaves a task's core for the counter's home; one whose address faults is
dropped and logged (R200, R294, R343). (DEDUCED, log 15) -/
def State.sendCounter (s : State) (core : BitVec 10) (w : Member) (va : VAddr) (n : BitVec 32) : State :=
  let drop := s.addLog 7 0x06 (coreDie core) (bits core 0 8) va.toNat
  match s.access w.asid (va.toNat / 4 * 4) false true with
  | .ok (.phys b) =>
    s.sendMsg (counterMsg core (corePort core) (homePort (b / 8)) (.phys b) w.asid n va 0)
  | .ok (.remote m b) =>
    if s.isPeer w.asid m then s.sendDecrement (corePort core) core w.asid w.recVa m (b / 8) n va 0 else drop
  | _ => drop

/-- A code read at a bit address of physical memory. -/
def State.physBytes (s : State) (bit w : Nat) : List Byte :=
  if w % 8 = 0 then s.peekBytes (bit / 8) (w / 8)
  else [BitVec.ofNat 8 ((s.peek (bit / 8)).toNat / 2 ^ (bit % 8) % 2 ^ w)]

/-- The cells a write of `w` bits changes; a nibble keeps the other half of its byte. -/
def State.physCells (s : State) (bit w : Nat) (l : List Byte) : List (Nat × Byte) :=
  if w % 8 = 0 then cellsFrom (bit / 8) (l.take (w / 8))
  else
    let x := (natOfBytes l) % 2 ^ w
    let old := (s.peek (bit / 8)).toNat
    let sh := 2 ^ (bit % 8)
    let keep := old / (sh * 2 ^ w) * (sh * 2 ^ w) + old % sh
    [(bit / 8, BitVec.ofNat 8 (keep + x * sh))]

end Sys2Proof.Machine
end

