-- ==== Sys2Proof/Machine/AtMem.lean ====
section
/-! DEFINITION. At-memory operations as the unit that owns the target performs them: whole, with no other
access to the target between the read and the write (R183 to R186, R228, R302). -/

namespace Sys2Proof.Machine

open Sys2Proof

/-- Sub-operations beyond R184's: CAS of 4 and 8 bytes, CASW, DCAS, ENQ, CHASE (DESIGN CHOICE, log 14). -/
def subCas4 : Nat := 11
def subCas8 : Nat := 12
def subCasw : Nat := 13
def subDcas : Nat := 14
def subEnq : Nat := 15
def subChase : Nat := 16

/-- FX64 of an FXA operand: FP32 in bits 31:0, exponent in bits 39:32 (R45, R184). -/
def fxaOperand (b : Word) : Word :=
  (toFx64 (decodeFp .f32 ((bits b 0 32).setWidth 64)) (bits b 32 8).toInt).1

/-- The new value of an AMO (R184). -/
def amoNew (sub : Nat) (old b : Word) : Word :=
  match sub with
  | 0 => (bits (old + b) 0 32).setWidth 64
  | 1 => old + b
  | 2 => if old.toInt ≤ b.toInt then old else b
  | 3 => if old.toInt ≤ b.toInt then b else old
  | 4 => if old.toNat ≤ b.toNat then old else b
  | 5 => if old.toNat ≤ b.toNat then b else old
  | 6 => old &&& b
  | 7 => old ||| b
  | 8 => old ^^^ b
  | 9 => b
  | _ => old + fxaOperand b

/-- Bytes of an AMO's word (R184). -/
def amoWidth (sub : Nat) : Nat := if sub = 0 then 4 else 8

/-- One AMO at a physical byte address: the state after it and the old value. (DEDUCED, log 41) -/
def State.amoAt (s : State) (pa sub : Nat) (b : Word) : State × Word :=
  let w := amoWidth sub
  let old := BitVec.ofNat 64 (s.peekNat pa w)
  (s.store (leCells pa w (amoNew sub old b).toNat), old)

/-- The entries of a flit in order, each as a lone AMO: the old value of each (R302). -/
def State.amoEntries (s : State) (pa sub : Nat) : List AmoEntry → State × List (Nat × Word)
  | [] => (s, [])
  | e :: r =>
    let x := s.amoAt pa sub e.operand
    let y := x.1.amoEntries pa sub r
    (y.1, (e.msg, x.2) :: y.2)

/-- What an unmergeable operation answers: data and code. -/
structure AtResult where
  state : State
  data : List Byte
  code : BitVec 8

/-- CAS and CASW of `w` bytes: `data` holds expected and new values, `wcode` what a write meets (R185). -/
def State.casAt (s : State) (pa w : Nat) (data : List Byte) (wcode : BitVec 8) : AtResult :=
  let old := s.peekBytes pa w
  let f := max w 8
  if old = (padTo w (data.take w)) then
    if wcode ≠ 0 then ⟨s, [], wcode⟩
    else ⟨s.store (cellsFrom pa ((data.drop f).take w)), padTo f old ++ bytesOfNat 8 1, 0⟩
  else ⟨s, padTo f old ++ bytesOfNat 8 0, 0⟩

/-- DCAS of two words: `data` holds two expected and two new values (R185). -/
def State.dcasAt (s : State) (pa pb : Nat) (data : List Byte) (wcode : BitVec 8) : AtResult :=
  let a := s.peekBytes pa 8
  let b := s.peekBytes pb 8
  if a = data.take 8 ∧ b = (data.drop 8).take 8 then
    if wcode ≠ 0 then ⟨s, [], wcode⟩
    else ⟨s.store (cellsFrom pa ((data.drop 16).take 8) ++ cellsFrom pb ((data.drop 24).take 8)),
      a ++ b ++ bytesOfNat 8 1, 0⟩
  else ⟨s, a ++ b ++ bytesOfNat 8 0, 0⟩

/-- The stack a virtual address of a context lies on, with its physical byte address. -/
def State.stackOf (s : State) (asid : BitVec 16) (map : BitVec 6) (va : Nat) (write : Bool) :
    Except (BitVec 8) (Nat × Nat) :=
  match s.accessUnder asid map (va % 2 ^ 56 / 8 * 8) false write with
  | .ok (.phys b) =>
    match placeOf (b / 8) with
    | .stack i => .ok (i, b / 8)
    | _ => .error 0x06
  | .bad code => .error code
  | .dead => .error 0x05
  | .ok _ => .error 0x06

/-- ENQ performed on physical words of one stack: descriptor head and tail, node, and the old tail's first word with
its virtual address; the old tail is answered (R186). -/
def State.enqueue' (s : State) (head tail node : Nat) (va : Nat) (old : Nat × Nat) : AtResult :=
  let base := s.store (leCells node 8 0)
  if old.1 = 0 then ⟨base.store (leCells head 8 va ++ leCells tail 8 va), bytesOfNat 8 0, 0⟩
  else ⟨base.store (leCells old.2 8 va ++ leCells tail 8 va), bytesOfNat 8 old.1, 0⟩

/-- ENQ: the node at `node` joins the list at `desc`, all on one stack (R186). (DEDUCED, log 41) -/
def State.enqAt (s : State) (asid : BitVec 16) (map : BitVec 6) (desc node : Nat) : AtResult :=
  match s.stackOf asid map desc true, s.stackOf asid map (desc + 8) true, s.stackOf asid map node true with
  | .ok d, .ok t, .ok n =>
    if d.1 ≠ n.1 ∨ d.1 ≠ t.1 then ⟨s, [], 0x06⟩
    else if s.isPoisoned d.2 8 || s.isPoisoned t.2 8 || s.isPoisoned n.2 8 then
      ⟨((s.logPoison d.2 8).logPoison t.2 8).logPoison n.2 8, [], 0x07⟩
    else
      let tail := s.peekNat t.2 8
      if tail = 0 then s.enqueue' d.2 t.2 n.2 node (0, 0)
      else match s.stackOf asid map tail true with
        | .ok o =>
          if o.1 ≠ d.1 then ⟨s, [], 0x06⟩
          else if s.isPoisoned o.2 8 then ⟨s.logPoison o.2 8, [], 0x07⟩
          else s.enqueue' d.2 t.2 n.2 node (tail, o.2)
        | .error c => ⟨s, [], c⟩
  | .error c, _, _ => ⟨s, [], c⟩
  | _, .error c, _ => ⟨s, [], c⟩
  | _, _, .error c => ⟨s, [], c⟩

/-- The unit that performs an operation on a physical byte: a stack's base die or a core's network interface (R183). -/
def homeUnit (pa : Nat) : Option Nat :=
  match placeOf pa with
  | .stack i => some i
  | .spad c => some (8 + c.toNat)
  | _ => none

/-- The unit a word of a context lies in, with its physical byte address; none for a dead page. -/
def State.unitOf (s : State) (asid : BitVec 16) (map : BitVec 6) (va : Nat) : Option (Nat × Nat) :=
  match s.accessUnder asid map (va % 2 ^ 56 / 8 * 8) false false with
  | .ok (.phys b) => (homeUnit (b / 8)).map fun u => (u, b / 8)
  | _ => none

/-- A walk of CHASE: the next pointer, hops left, and the addresses recorded (R186). -/
structure Walk where
  p : Nat
  left : Nat
  seen : List Nat

/-- The hops of a walk that stay in the unit `i`; the walk stops at a null pointer, at the hop limit, or before
a hop that leaves the unit (R186). (DEDUCED, log 41) -/
def State.chaseOn (s : State) (asid : BitVec 16) (map : BitVec 6) (off i : Nat) :
    Nat → Walk → Walk × BitVec 8
  | 0, w => (w, 0)
  | n + 1, w =>
    if w.p = 0 ∨ w.left = 0 then (w, 0)
    else match s.unitOf asid map (w.p + 8 * off) with
      | some d =>
        if d.1 ≠ i then (w, 0)
        else if s.isPoisoned d.2 8 then (w, 0x07)
        else s.chaseOn asid map off i n ⟨s.peekNat d.2 8, w.left - 1, w.seen ++ [w.p]⟩
      | none => (w, 0)

/-- A walk as bytes: next pointer, hops left, addresses recorded. -/
def Walk.bytes (w : Walk) : List Byte :=
  bytesOfNat 8 w.p ++ bytesOfNat 8 w.left ++ w.seen.flatMap (bytesOfNat 8)

/-- The addresses in the bytes of a walk. -/
def addrsOf : Nat → List Byte → List Nat
  | 0, _ => []
  | n + 1, l => if l.isEmpty then [] else natOfBytes (l.take 8) :: addrsOf n (l.drop 8)

def Walk.ofBytes (l : List Byte) : Walk :=
  ⟨natOfBytes (l.take 8), natOfBytes ((l.drop 8).take 8), addrsOf 256 (l.drop 16)⟩

/-- An unmergeable at-memory operation at its home (R228). -/
def State.atomicAt (s : State) (m : Msg) : AtResult :=
  let pa := m.loc.byte
  let code := s.homeCode m
  if m.sub = subEnq then
    s.enqAt m.asid m.map (natOfBytes (m.data.take 8)) (natOfBytes ((m.data.drop 8).take 8))
  else if code ≠ 0 then ⟨s.homeLog m, [], code⟩
  else if m.sub = 9 then
    let b := (m.entries.head?.map (·.operand)).getD 0
    let r := s.amoAt pa 9 b
    ⟨r.1, bytesOfNat 8 r.2.toNat, 0⟩
  else if m.sub = subCas4 then s.casAt pa 4 m.data m.status
  else if m.sub = subCas8 then s.casAt pa 8 m.data m.status
  else if m.sub = subCasw then s.casAt pa 16 m.data m.status
  else if m.sub = subDcas then
    let pb := natOfBytes ((m.data.drop 32).take 8)
    if s.isPoisoned pb 8 then ⟨s.logPoison pb 8, [], 0x07⟩ else s.dcasAt pa pb m.data m.status
  else
    match homeUnit pa with
    | some i =>
      let off := natOfBytes (m.data.take 8)
      let r := s.chaseOn m.asid m.map off i 256 (Walk.ofBytes (m.data.drop 8))
      let t := match s.unitOf m.asid m.map (r.1.p + 8 * off) with
        | some d => if r.2 = 0 then s else s.logPoison d.2 8
        | none => s
      ⟨t, r.1.bytes, r.2⟩
    | none => ⟨s, [], 0x06⟩

end Sys2Proof.Machine
end

