-- ==== Sys2Proof/Machine/NetServe.lean ====
section
/-! DEFINITION. What the unit that owns a message's target does with it, and in which order it serves what has
arrived (R221, R222, R228, R294, R302). -/

namespace Sys2Proof.Machine

open Sys2Proof

/-! ### Serving one message -/

/-- A request met by a flit error is not performed (R296). -/
def Msg.why' (m : Msg) : FaultWhy := if m.psn then .unperformed else .home

/-- The code of a request at its home (R222, R236, R296). -/
def State.requestCode (s : State) (m : Msg) : BitVec 8 := if m.psn then 0x07 else s.homeCode m

/-- A read at its home (R294). -/
def State.serveRead (s : State) (m : Msg) : State :=
  let code := s.requestCode m
  let data : List Byte := match m.loc with
    | .phys b => if code = 0 then s.physBytes b m.width else []
    | _ => []
  (s.homeLog m).reply m .readResp data code m.why'

/-- The code of a write at its home: a scratchpad serves the context whose data it holds (R222). -/
def State.writeCodeAt (s : State) (m : Msg) : BitVec 8 :=
  if m.psn then 0x07 else match placeOf m.loc.byte with
    | .spad c => if s.holds c m.asid then 0 else 0x06
    | .stack _ => 0
    | _ => 0x06

/-- A write at its home (R294). -/
def State.writeAt (s : State) (m : Msg) : State × BitVec 8 :=
  let code := s.writeCodeAt m
  match m.loc with
  | .phys b => if code = 0 then (s.store (s.physCells b m.width m.data), 0) else (s, code)
  | _ => (s, 0x06)

/-- A write is performed, and acknowledged with its second copies (R246). -/
def State.serveWrite (s : State) (m : Msg) : State :=
  (s.writeAt m).1.replyLater s.net.nextMsg m .writeAck [] (s.writeAt m).2 m.why'

/-- One source of a performed flit gets the value the word held before its entry, or a code (R302); the second copies
were sent since the message numbered `since` (R246). -/
def State.replyEntry (s : State) (since : Nat) (m : Msg) (x : Nat × Word × BitVec 8) : State :=
  match s.msg? x.1 with
  | some q =>
    s.replyLater since { q with final := m.final } .atResp (bytesOfNat (amoWidth m.sub) x.2.1.toNat) x.2.2 m.why'
  | none => s

/-- The entries of a flit in order, each applied as the lone AMO of its source would be, under that source's own
context (R222, R302): the value each found, and its code. -/
def State.mergeEntries (s : State) (m : Msg) : List AmoEntry → State × List (Nat × Word × BitVec 8)
  | [] => (s, [])
  | e :: r =>
    let code := s.requestCode { m with asid := ((s.msg? e.msg).map (·.asid)).getD m.asid }
    let x := if code = 0 then s.amoAt m.loc.byte m.sub e.operand else (s, 0)
    let y := x.1.mergeEntries m r
    (y.1, (e.msg, x.2, code) :: y.2)

/-- A mergeable operation at its home (R236, R302). -/
def State.serveMerge (s : State) (m : Msg) : State :=
  let r := (s.homeLog m).mergeEntries m m.entries
  r.2.foldl (fun (t : State) x => t.replyEntry s.net.nextMsg m x) r.1

/-- An unmergeable operation at its home (R228). -/
def State.serveAtomic (s : State) (m : Msg) : State :=
  if m.psn then s.reply m .atResp [] 0x07 .unperformed
  else (s.atomicAt m).state.replyLater s.net.nextMsg m .atResp (s.atomicAt m).data (s.atomicAt m).code

/-- A decrement at its counter's home: TDEC's is answered; one no token waits for is dropped and logged when the word
is in error (R194, R200, R314). -/
def State.serveCounter (s : State) (m : Msg) : State :=
  let code := s.requestCode m
  let t :=
    if code = 0 then s.decrementAt m.loc.byte m.counterVa (BitVec.ofNat 32 (natOfBytes (m.data.take 4)))
    else if m.bare then (s.homeLog m).dropLog m code
    else s.homeLog m
  t.replyLater s.net.nextMsg m .writeAck [] code m.why'

/-- The message asks a home unit to read or change memory. -/
def NetOp.asks : NetOp → Bool
  | .readReq | .write | .merge | .atomic | .counter => true
  | _ => false

/-! ### Order (R221, R228) -/

/-- The operation changes memory whole at its home (R228). -/
def NetOp.atMemory : NetOp → Bool
  | .merge | .atomic | .counter => true
  | _ => false

/-- The physical place of a word of a list of ENQ, as its context maps it. -/
def State.listPlace (s : State) (m : Msg) (va : Nat) : List (Nat × Nat) :=
  match s.stackOf m.asid m.map va true with
  | .ok d => [(d.2, 8)]
  | .error _ => []

/-- The places that a request asks for at its home, as byte addresses with their sizes: its own, DCAS's second word, an
ENQ's node and old tail (R185, R186, R228). -/
def State.places (s : State) (m : Msg) : List (Nat × Nat) :=
  let own : Nat × Nat := (m.loc.byte, max 1 (accessBytes m.width))
  match m.packet with
  | some p =>
    let word (o : Nat) : List (Nat × Nat) := match s.recvKey p with
      | some k => [(s.forwarded (natOfBytes (((packetBlock k p s.modid).drop o).take 8)), 8)]
      | none => []
    if p.type ≠ 0x05 then [own]
    else if p.aux.getLsbD 6 then own :: (word 8 ++ word 24)
    else if p.aux.toNat % 16 = subDcas then [own, (m.loc.byte / 4096 * 4096 + p.opnd.toNat % 4096 / 8 * 8, 8)]
    else [own]
  | none =>
    let arg (o : Nat) : Nat := natOfBytes ((m.data.drop o).take 8)
    if m.op ≠ .atomic then [own]
    else if m.sub = subDcas then [own, (arg 32, 8)]
    else if m.sub = subEnq then
      own :: (s.listPlace m (arg 8) ++ match s.listPlace m (arg 0 + 8) with
        | t :: _ => s.listPlace m (s.peekNat t.1 8)
        | [] => [])
    else [own]

/-- Two places touch one block of `n` bytes. -/
def blocksMeet (n : Nat) (a b : Nat × Nat) : Bool :=
  decide (a.1 / n ≤ (b.1 + b.2 - 1) / n) && decide (b.1 / n ≤ (a.1 + a.2 - 1) / n)

/-- Bytes of a bank of a scratchpad (R221). -/
def bankSize : Nat := 65536

/-- Some place of one list shares a block with some place of another. -/
def placesMeet (n : Nat) (a b : List (Nat × Nat)) : Bool := a.any fun x => b.any (blocksMeet n x)

/-- The request has arrived at the unit that is to serve it. -/
def Msg.waitsAt (m : Msg) (p : Port) : Bool := m.op.asks && m.arrived && m.final == p && m.dst == p

/-- Of two messages at one home the one that arrived first is served first: in a bank of a scratchpad, and among the
at-memory operations of a 64-byte line of a stack (R221, R228). -/
def State.ordered (s : State) (a b : Msg) : Bool :=
  b.op.asks && a.waitsAt b.final
    && match placeOf a.loc.byte with
       | .spad _ => placesMeet bankSize (s.places a) (s.places b)
       | _ => a.op.atMemory && b.op.atMemory && placesMeet 64 (s.places a) (s.places b)

/-- The messages that arrived before one; messages stand in the order of arrival. -/
def State.before (s : State) (m : Msg) : List Msg := s.net.msgs.takeWhile fun x => x.id != m.id

/-- No message that arrived earlier is to be served before this one. -/
def State.firstServed (s : State) (m : Msg) : Bool := (s.before m).all fun x => !(s.ordered x m)

/-- Of a list of messages one waits for a bank that the engine of a core is to use, for spans given as offsets with
sizes (R221). -/
def State.bankTaken (s : State) (core : BitVec 10) (l : List Msg) (spans : List (Nat × Nat)) : Bool :=
  !spans.isEmpty && l.any fun m => m.waitsAt (corePort core)
    && placesMeet bankSize (s.places m) (spans.map fun x => (spadBase core + x.1, max 1 x.2))

end Sys2Proof.Machine
end

