-- ==== Sys2Proof/Machine/Params.lean ====
section
/-! DEFINITION. Parameter records, norm cells and pan units (R257 to R273). -/

namespace Sys2Proof.Machine

open Sys2Proof

/-! ### Records in memory (R258, R259, R264) -/

/-- The record or cell loaded at a physical address. -/
def State.recAt (s : State) (pa : Nat) : Option RecInfo := s.pan.recs.find? fun r => r.pa == pa

/-- Changes the pan units' view of a record. -/
def State.updRec (s : State) (pa : Nat) (f : RecInfo → RecInfo) : State :=
  { s with pan := { s.pan with recs := s.pan.recs.map fun r => if r.pa = pa then f r else r } }

/-- Fields of a header (R259). -/
def State.recRule (s : State) (pa : Nat) : Nat := s.peekNat pa 1
def State.recStc (s : State) (pa : Nat) : Nat := s.peekNat (pa + 1) 1 % 8
def State.recCsel (s : State) (pa : Nat) : Nat := s.peekNat (pa + 1) 1 / 8 % 2
def State.recE (s : State) (pa : Nat) : Int := (s.peek (pa + 2)).toInt
def State.recExp (s : State) (pa : Nat) : Nat := s.peekNat (pa + 4) 4
def State.recCnt (s : State) (pa p : Nat) : Nat := s.peekNat (pa + 8 + 4 * p) 4
def State.recStep (s : State) (pa : Nat) : Nat := s.peekNat (pa + 16) 4
def State.recVer (s : State) (pa : Nat) : Nat := s.peekNat (pa + 20) 4
def State.recNrm (s : State) (pa : Nat) : Nat := s.peekNat (pa + 32) 8
def State.recNtf (s : State) (pa : Nat) : Nat := s.peekNat (pa + 40) 8

/-- Record states (R259). -/
def recIdle : Nat := 0
def recCollecting : Nat := 1
def recGated : Nat := 2
def recUpdating : Nat := 3
def recPublishing : Nat := 4

/-- Writes of the service and the pan units: to the frame, and to a mirrored one (R246, R272). -/
def State.setStc (s : State) (pa st : Nat) : State :=
  s.store [(pa + 1, BitVec.ofNat 8 (s.peekNat (pa + 1) 1 / 8 * 8 + st))]
def State.orRecFlag (s : State) (pa m : Nat) : State :=
  s.store [(pa + 3, BitVec.ofNat 8 (s.peekNat (pa + 3) 1 ||| m))]

/-- Bytes of a record and of a norm cell. -/
def recordSize : Nat := 9216
def accOffset (p : Nat) : Nat := 3200 + 2048 * p
def wbOffset (c : Nat) : Nat := 7296 + 512 * c
def f8Offset (c : Nat) : Nat := 8320 + 256 * c

/-- Element i of an accumulator as FX64. -/
def State.accFx (s : State) (pa p i : Nat) : BitVec 64 :=
  BitVec.ofNat 64 (s.peekNat (pa + accOffset p + 8 * i) 8)

/-- An uncorrectable error met by a pan unit: MERR, logged, and the record is poisoned: it stops in its state and
gives up its place among the records that update (R236, R263, R273). -/
def State.poisonRec (s : State) (r : RecInfo) : State :=
  let s := (s.orRecFlag r.pa 32).updRec r.pa fun r => { r with poisoned := true, active := false, wrote := [] }
  State.logRecord { s with pan := { s.pan with firing := s.pan.firing.filter (· != r.pa) } } 0x01 r.pa r.va

/-- The service logs that a report cannot be made: GERR, the record stays gated (R265). -/
def State.gateError (s : State) (pa : Nat) (va : VAddr) : State := (s.orRecFlag pa 16).logRecord 0x02 pa va

/-! ### Firing (R263, R265, R267) -/

/-- Σ q² of a tile's accumulator, its weight being 2^(2 E) (R265). -/
def State.sumSquares (s : State) (pa p : Nat) : Nat :=
  (List.range 256).foldl (fun a i => a + ((s.accFx pa p i).toInt.natAbs) ^ 2) 0

/-- The address of a norm cell: a module when bit 63 names one, and the address there (R259). -/
def normLink (nrm : Nat) : Option (BitVec 12) × Nat :=
  if nrm / 2 ^ 63 = 1 then (some (BitVec.ofNat 12 (nrm / 2 ^ 44)), nrm % 2 ^ 44) else (none, nrm % 2 ^ 56)

/-- A report or release toward another module is a fabric store: it is noted until its acknowledgement comes or its
time is over, with the record or cell it is for (R265, R350). -/
def State.notePan (s : State) (asid : BitVec 16) (m : BitVec 12) (a : Nat) (kind : Nat) (pa : Nat) (va : VAddr) : State :=
  let p : Port := homePort pa
  s.noteAway { Msg.bare' .write 0x3FF p p with
    cmd := pa, idx := va.toNat, sub := kind, loc := .remote m (8 * a), asid := asid, pid := some s.fab.nextPid
    unit := true, bare := false, flits := 0 }

/-- Kinds in AUX of a parameter packet past the requests: an answer, a report, a release (DESIGN CHOICE, log 14). -/
def auxParamResponse : Nat := 8
def auxReport : Nat := 9
def auxRelease : Nat := 10

/-- A report's packet: its kind in AUX, the record's address in OPND, and the sum with the step and the exponent in
one line (R343; DESIGN CHOICE, log 14). -/
def State.sendReport (s : State) (r : RecInfo) (m : BitVec 12) (a : Nat) (sum : Nat) (e : Int) (step : Nat) :
    State :=
  (s.notePan r.asid m a auxReport r.pa r.va).sendPacket (homePort r.pa) .paramReq { Packet.bare with
    dmod := m, type := 0x0B, addr := BitVec.ofNat 44 a, pcid := s.pcidOf r.asid, aux := BitVec.ofNat 32 auxReport
    opnd := BitVec.ofNat 64 r.pa } m
    [(a / 64, BitVec.allOnes 64, bytesOfNat 48 sum ++ bytesOfNat 8 step ++ bytesOfNat 8 (BitVec.ofInt 64 e).toNat)]

/-- Where what a physical address names is served: at the old frame of a carried page until its mirroring ends
(R249, R272). -/
def State.servedAt (s : State) (pa : Nat) : Nat :=
  ((s.contexts.flatMap (·.mirrors)).findSome? fun m => match m.src, m.dst with
    | .phys x, .phys b => if b / 8 ≤ pa ∧ pa < b / 8 + m.size then some (x / 8 + (pa - b / 8)) else none
    | _, _ => none).getD pa

/-- A gated record sends its tile's report (R265). -/
def State.sendGate (s : State) (r : RecInfo) (p : Nat) : State :=
  let sum := s.sumSquares r.pa p
  let e := s.recE r.pa
  let step := s.recStep r.pa
  let put (cell : Nat) : State :=
    match s.recAt cell with
    | some c =>
      if c.cell then
        { s with pan := { s.pan with reports := s.pan.reports ++
            [⟨cell, sum, e, BitVec.ofNat 32 step, s.modid, r.pa, r.va, none⟩] } }
      else s.gateError r.pa r.va
    | none => s.gateError r.pa r.va
  match normLink (s.recNrm r.pa) with
  | (some m, a) => if s.isPeer r.asid m then s.sendReport r m a sum e step else s.gateError r.pa r.va
  | (none, va) =>
    match s.access r.asid va true false with
    | .ok (.phys b) => put (s.servedAt (b / 8))
    | .ok (.remote m b) =>
      if s.isPeer r.asid m then s.sendReport r m (b / 8) sum e step else s.gateError r.pa r.va
    | _ => s.gateError r.pa r.va

/-- A record fires: its rule entry is captured, and it is gated or begins to update; an accumulator in error poisons
it as its sum of squares is formed (R263, R267, R273). -/
def State.fire (s : State) (r : RecInfo) (rule : RuleEntry) : State :=
  let p := s.recStep r.pa % 2
  let s := s.updRec r.pa fun r => { r with rule := some rule }
  if s.recNrm r.pa = 0 then
    let s := s.setStc r.pa recUpdating
    { s with pan := { s.pan with firing := s.pan.firing ++ [r.pa] } }
  else if s.isPoisoned (r.pa + accOffset p) 2048 then (s.setStc r.pa recGated).poisonRec r
  else (s.setStc r.pa recGated).sendGate r p

/-- The rule entry at a record's RULE; an empty entry has TMPL 0 (R266). -/
def State.ruleOf (s : State) (pa : Nat) : RuleEntry := s.pan.rules.toList.getD (s.recRule pa) RuleEntry.empty

/-- A record fires when its step's count is complete and its rule entry is not empty; a header in error poisons it
(R263, R273). -/
def State.fireIfDue (s : State) (r : RecInfo) : State :=
  let st := s.recStc r.pa
  let p := s.recStep r.pa % 2
  if r.poisoned = false ∧ s.isPoisoned r.pa 64 = true then s.poisonRec r
  else if (st = recIdle ∨ st = recCollecting) ∧ s.recCnt r.pa p = s.recExp r.pa ∧ r.poisoned = false then
    if (s.ruleOf r.pa).tmpl = 0 then s else s.fire r (s.ruleOf r.pa)
  else s

/-! ### Contributions (R261, R262) -/

/-- The accumulator of a parity after 256 values, and whether any saturated or was a NaN (R261). -/
def State.accumulate (s : State) (pa p : Nat) (vals : List XR) : List (Nat × Byte) × Bool × Bool :=
  let q := vals.map fun v => toFx64 v (s.recE pa)
  (q.zipIdx.flatMap fun (x : (BitVec 64 × Bool × Bool) × Nat) =>
      leCells (pa + accOffset p + 8 * x.2) 8 (s.accFx pa p x.2 + x.1.1).toNat,
    q.any (fun x => x.2.1), q.any (fun x => x.2.2))

/-- A contribution for step `t`: accepted, rejected with 0x02, or faulted (R261, R262, R273). -/
def State.contribute (s : State) (r : RecInfo) (t : Nat) (vals : List XR) : State × BitVec 8 :=
  let pa := r.pa
  let st := s.recStc pa
  let step := s.recStep pa
  let p := t % 2
  let cnt := s.recCnt pa p
  let now := decide (t = step) && (st == recIdle || st == recCollecting)
  let next := decide (t = (step + 1) % 2 ^ 32)
  if r.poisoned then (s, 0x07)
  else if s.isPoisoned pa 128 then (s.poisonRec r, 0x07)
  else if !((now || next) && decide (cnt < s.recExp pa)) then (s, 0x02)
  else if s.isPoisoned (pa + accOffset p) 2048 then (s.poisonRec r, 0x07)
  else
    let fires := now && decide (cnt + 1 = s.recExp pa)
    if fires && (s.ruleOf pa).tmpl == 0 then (s, 0x06)
    else
      let a := s.accumulate pa p vals
      let s := s.store (a.1 ++ leCells (pa + 8 + 4 * p) 4 (cnt + 1))
      let s := if a.2.1 then s.orRecFlag pa 1 else s
      let s := if a.2.2 then s.orRecFlag pa 2 else s
      let s := if now then s.setStc pa recCollecting else s
      (if fires then s.fire r (s.ruleOf pa) else s, 0)

/-! ### Norm cells (R264, R265) -/

/-- A record's link in the gated chain: its address, with its module above it when another holds it. -/
def chainWord (s : State) (m : BitVec 12) (pa : Nat) (va : VAddr) : Nat :=
  if m = s.modid then va.toNat else 2 ^ 63 + m.toNat * 2 ^ 44 + pa

/-- A release toward another module: its kind in AUX, the norm in OPND (R343; DESIGN CHOICE, log 14). -/
def State.sendRelease (s : State) (c : RecInfo) (m : BitVec 12) (pa : Nat) (n : Word32) : State :=
  (s.notePan c.asid m pa auxRelease c.pa c.va).sendPacket (homePort c.pa) .paramReq { Packet.bare with
    dmod := m, type := 0x0B, addr := BitVec.ofNat 44 pa, pcid := s.pcidOf c.asid, aux := BitVec.ofNat 32 auxRelease
    opnd := n.setWidth 64 } m []

/-- CNRM of a complete group (R265). -/
def cellNorm (ssq : BitVec 64) (en : Int) : Word32 :=
  let q := fromFx64 ssq en
  if q < 0 then 0x7FC00000
  else (roundFp (envRne true) .f32 (.fin (sqrtProxy q) false)).1.setWidth 32

/-- Codes in the acknowledgement of a report: the step is not the cell's; the cell's line is in error
(DESIGN CHOICE, log 14). -/
def ackStep : BitVec 8 := 0x02
def ackError : BitVec 8 := 0x07

/-- A report is answered with the cell's HEAD or a code: in the record, here; or to the module that sent it. -/
def State.answerReport (s : State) (x : Report) (code : BitVec 8) (head : Nat) : State :=
  match x.asked with
  | some p => s.answerPacket p 0x04 (code.setWidth 32) (BitVec.ofNat 64 head) []
  | none =>
    if code = 0 then s.store (leCells (x.recPa + 48) 8 head)
    else if code = ackError then s.logRecord 0x04 x.recPa x.recVa
    else s.gateError x.recPa x.recVa

/-- A pan unit meets an error in a norm cell: it is logged for the cell (R236). A cell has no state for it in the
manual: the model notes it as poisoned (DESIGN CHOICE, log 92). -/
def State.poisonCell (s : State) (c : RecInfo) : State :=
  ((s.updRec c.pa fun c => { c with poisoned := true }).logPoison c.pa 64).logRecord 0x01 c.pa c.va

/-- A cell performs a report (R265). A sum that saturates in to_fx64 sets no flag: neither cell nor record has one
for it (R264; DESIGN CHOICE, log 80). A cell in error performs none: the record's loss is logged as one on the fabric
is, on the cell's own module too, and it stays gated (R236, R265; DESIGN CHOICE, log 92). -/
def State.performReport (s : State) (c : RecInfo) (x : Report) : State :=
  let pa := c.pa
  let en := (s.peek (pa + 8)).toInt
  let cstp := s.peekNat (pa + 20) 4
  if s.isPoisoned pa 64 then (s.poisonCell c).answerReport x ackError 0
  else if x.step.toNat ≠ cstp then s.answerReport x ackStep 0
  else
    let rep := (toFx64 (.fin ((x.sum : ℚ) * pow2 (2 * x.e)) false) en).1
    let ssq := BitVec.ofNat 64 (s.peekNat pa 8) + rep
    let head := s.peekNat (pa + 32) 8
    let cnt := s.peekNat (pa + 16) 4 + 1
    let s := s.answerReport x 0 head
    let link := chainWord s x.home x.recPa x.recVa
    let chain := (x.home, x.recPa) :: c.chain
    if cnt = s.peekNat (pa + 12) 4 then
      let n := cellNorm ssq en
      let s := s.store (leCells pa 8 0 ++ [(pa + 9, 1)] ++ leCells (pa + 16) 4 0
        ++ leCells (pa + 20) 4 (x.step + 1).toNat ++ leCells (pa + 24) 4 n.toNat ++ leCells (pa + 32) 8 0)
      let s := s.updRec pa fun c => { c with chain := [] }
      let s := (chain.filter fun p => p.1 != s.modid).foldl
        (fun (s : State) p => s.sendRelease c p.1 p.2 n) s
      let mine := (chain.filter fun p => p.1 == s.modid).map fun p => (pa, p.1, p.2, n)
      let s := { s with pan := { s.pan with releases := s.pan.releases ++ mine } }
      if mine.isEmpty then s.store [(pa + 9, 0)] else s
    else
      (s.store (leCells pa 8 ssq.toNat ++ leCells (pa + 16) 4 cnt ++ leCells (pa + 32) 8 link)).updRec pa
        fun c => { c with chain := chain }

/-- The answer to a report or release sent to another module: the record takes its link, or GERR where the cell or
its module refused; one that was lost or failed its check is logged (R265). -/
def State.panAnswer (s : State) (m : Msg) (data : Word) (code : BitVec 8) : State :=
  let va : VAddr := BitVec.ofNat 56 m.idx
  if m.sub = auxReport then
    (if code = 0 then s.store (leCells (m.cmd + 48) 8 data.toNat)
     else if code = 0x07 ∨ code = 0x08 then s.logRecord 0x04 m.cmd va
     else s.gateError m.cmd va)
  else if code = 0 then s
  else s.logRecord 0x04 m.cmd va

/-- NORM_REPORT: the report the occurrence names (R265). -/
def execNormReport (s : State) : Host.Outcome State Fault Refusal :=
  event (match s.occ with
    | .num n =>
      match s.pan.reports[n]? with
      | some x =>
        let s := { s with pan := { s.pan with reports := s.pan.reports.eraseIdx n } }
        match s.recAt x.cell with
        | some c => if c.cell then s.performReport c x else s.answerReport x 0x06 0
        | none => s.answerReport x 0x06 0
      | none => s
    | _ => s)

/-- FP32 codes as exact values. -/
def xr32 (x : Word32) : XR := decodeFp .f32 (x.setWidth 64)

/-- The rounding of the rule arithmetic: FP32, nearest even, no flush (R268). -/
def rnd (x : XR) : Word32 × Flags :=
  let r := roundFp (envRne true) .f32 x
  (r.1.setWidth 32, r.2)

/-- Quotient of exact values (R41). -/
def XR.div (a b : XR) : XR :=
  match a, b with
  | .nan x, .nan y => .nan (x || y)
  | .nan x, _ => .nan x
  | _, .nan y => .nan y
  | .inf _, .inf _ => .nan true
  | .inf x, .fin _ n => .inf (x != n)
  | .fin _ n, .inf y => .fin 0 (n != y)
  | .fin p n, .fin q m =>
    if q = 0 then (if p = 0 then .nan true else .inf (n != m)) else .fin (p / q) (n != m)

/-- The clip factor (R268). -/
def clipFactor (rule : RuleEntry) (gated : Bool) (n : Word32) : Word32 × Flags :=
  let over' := match xr32 n, xr32 rule.clip with
    | .fin a _, .fin b _ => decide (b < a)
    | .inf a, .fin _ _ => !a
    | _, _ => false
  let zero := match xr32 rule.clip with
    | .fin q _ => decide (q = 0)
    | _ => false
  if gated && !zero && over' then rnd ((xr32 rule.clip).div (xr32 n)) else (0x3F800000, 0)

/-- A gated record takes its release: LNRM, the clip factor, and it begins to update (R263, R268). -/
def State.releaseRec (s : State) (pa : Nat) (n : Word32) : State :=
  match s.recAt pa with
  | some r =>
    if r.poisoned = false ∧ s.isPoisoned pa 64 = true then s.poisonRec r
    else if s.recStc pa = recGated ∧ r.poisoned = false then
      let f := clipFactor (r.rule.getD RuleEntry.empty) true n
      let s := s.store (leCells (pa + 56) 4 n.toNat ++ leCells (pa + 60) 4 f.1.toNat)
      let s := s.updRec pa fun r => { r with norm := n }
      let s := s.setStc pa recUpdating
      { s with pan := { s.pan with firing := s.pan.firing ++ [pa] } }
    else s
  | none => s

/-- RELEASE_FROM_CELL: a release reaches its record; after the last the cell is open (R263, R265). -/
def execReleaseFromCell (s : State) : Host.Outcome State Fault Refusal :=
  event (match s.occ with
    | .num n =>
      match s.pan.releases[n]? with
      | some x =>
        let s := { s with pan := { s.pan with releases := s.pan.releases.eraseIdx n } }
        let s := s.releaseRec x.2.2.1 x.2.2.2
        if s.pan.releases.any fun y => y.1 == x.1 then s else s.store [(x.1 + 9, 0)]
      | none => s
    | _ => s)

/-! ### Rule arithmetic (R268, R269) -/

/-- One element after an update: master and moments, with flags. -/
structure Elem where
  w : Word32
  m1 : Word32
  m2 : Word32
  flags : Flags

/-- w − LR × (x + WD × w), rounded once. -/
def stepW (rule : RuleEntry) (w : Word32) (x : XR) : Word32 × Flags :=
  rnd (XR.add .rne (xr32 w) ((xr32 rule.lr).mul (XR.add .rne x ((xr32 rule.wd).mul (xr32 w)))).neg)

/-- 1 − x. -/
def oneMinus (x : XR) : XR := XR.add .rne (.fin 1 false) x.neg

/-- x^t of a finite value; others as their product. -/
def xrPow (x : XR) (t : Nat) : XR :=
  match x with
  | .fin q n => .fin (q ^ t) (n && t % 2 == 1)
  | .inf n => if t = 0 then .fin 1 false else .inf (n && t % 2 == 1)
  | .nan v => .nan v

/-- √x of an exact value (R268). -/
def xrSqrt (x : XR) : XR :=
  match x with
  | .fin q n => if q = 0 then .fin 0 n else if q < 0 then .nan true else .fin (sqrtProxy q) false
  | .inf n => if n then .nan true else .inf false
  | .nan v => .nan v

/-- The fixed sequence of R268 on one element; `g` is the clipped gradient and `t` the step. -/
def ruleElem (rule : RuleEntry) (t : Nat) (g w m1 m2 : Word32) : Elem :=
  let b1 := xr32 rule.b1
  let b2 := xr32 rule.b2
  let mix (b : XR) (m : Word32) (x : XR) : XR := XR.add .rne (b.mul (xr32 m)) ((oneMinus b).mul x)
  match rule.tmpl.toNat with
  | 1 =>
    let r := stepW rule w (xr32 g)
    ⟨r.1, m1, m2, r.2⟩
  | 2 =>
    let a := rnd (XR.add .rne (b1.mul (xr32 m1)) (xr32 g))
    let r := stepW rule w (xr32 a.1)
    ⟨r.1, a.1, m2, a.2 ||| r.2⟩
  | 3 =>
    let a := rnd (mix b1 m1 (xr32 g))
    let b := rnd (mix b2 m2 ((xr32 g).mul (xr32 g)))
    let ca := rnd (oneMinus (xrPow b1 t))
    let cb := rnd (oneMinus (xrPow b2 t))
    let mh := rnd ((xr32 a.1).div (xr32 ca.1))
    let vh := rnd ((xr32 b.1).div (xr32 cb.1))
    let e := rnd (XR.add .rne (xrSqrt (xr32 vh.1)) (xr32 rule.eps))
    let d := rnd ((xr32 mh.1).div (xr32 e.1))
    let r := stepW rule w (xr32 d.1)
    ⟨r.1, a.1, b.1, a.2 ||| b.2 ||| ca.2 ||| cb.2 ||| mh.2 ||| vh.2 ||| e.2 ||| d.2 ||| r.2⟩
  | _ =>
    let c := rnd (mix b1 m1 (xr32 g))
    let u : XR := match xr32 c.1 with
      | .fin q _ => .fin (if 0 < q then 1 else if q < 0 then -1 else 0) (decide (q < 0))
      | .inf n => .fin (if n then -1 else 1) n
      | .nan _ => .fin 0 false
    let r := stepW rule w u
    let a := rnd (mix b2 m1 (xr32 g))
    ⟨r.1, a.1, m2, c.2 ||| r.2 ||| a.2⟩

/-- The FP8 format and the scale of a publication (R269). -/
def f8Fmt (rule : RuleEntry) : Fmt := if rule.fpol.getLsbD 0 then .e5m2 else .e4m3

/-- 2^k as an FP32 code, −126 ≤ k ≤ 127. -/
def pow2Code (k : Int) : Word32 := BitVec.ofInt 32 ((k + 127) * 2 ^ 23)

/-- POW2MAX's scale over the finite elements (R269). -/
def pow2Max (f : Fmt) (ws : List Word32) : Word32 :=
  let m := ws.foldl (fun (a : ℚ) w => match xr32 w with
    | .fin q _ => max a |q|
    | _ => a) 0
  if m = 0 then 0x3F800000
  else
    let k := log2Floor (maxFinite f / m)
    pow2Code (if k < -126 then -126 else if 127 < k then 127 else k)

/-- The scale a rule publishes with. -/
def f8Scale (rule : RuleEntry) (ws : List Word32) : Word32 :=
  if rule.fpol.getLsbD 1 then rule.fscl else pow2Max (f8Fmt rule) ws

/-- Working copy and FP8 copy of the master values into a slot, with flags (R269). (DEDUCED, log 65) -/
def publishCells (pa slot : Nat) (rule : RuleEntry) (ws : List Word32) : List (Nat × Byte) × Flags :=
  let sc := f8Scale rule ws
  let wb := ws.map fun w => roundFp (envRne true) .bf16 (xr32 w)
  let f8 := ws.map fun w => roundFp (envRne true) (f8Fmt rule) ((xr32 w).mul (xr32 sc))
  (cellsFrom (pa + wbOffset slot) (wb.flatMap fun c => bytesOfNat 2 c.1.toNat)
      ++ cellsFrom (pa + f8Offset slot) (f8.flatMap fun c => bytesOfNat 1 c.1.toNat)
      ++ leCells (pa + 24 + 4 * slot) 4 sc.toNat,
    (wb ++ f8).foldl (fun a c => a ||| c.2) 0)

/-- A rule's template works on a moment: the others leave it as it is (R268). -/
def usesM1 (rule : RuleEntry) : Bool := rule.tmpl != 1
def usesM2 (rule : RuleEntry) : Bool := rule.tmpl == 3

/-- What an update reads of its record, as addresses with sizes: header, accumulator, master and the moments its rule
works on (R268). -/
def State.updateReads (s : State) (r : RecInfo) : List (Nat × Nat) :=
  let rule := r.rule.getD RuleEntry.empty
  [(r.pa, 128), (r.pa + accOffset (s.recStep r.pa % 2), 2048), (r.pa + 128, 1024)]
    ++ (if usesM1 rule then [(r.pa + 1152, 1024)] else []) ++ (if usesM2 rule then [(r.pa + 2176, 1024)] else [])

/-- Everything an update writes, with the flags of its arithmetic (R268 to R270). (DEDUCED, log 65) -/
def State.updateCells (s : State) (r : RecInfo) : List (Nat × Byte) × Flags :=
  let pa := r.pa
  let rule := r.rule.getD RuleEntry.empty
  let t := s.recStep pa
  let p := t % 2
  let f := clipFactor rule (s.recNrm pa ≠ 0) r.norm
  let els := (List.range 256).map fun i =>
    let rd (o : Nat) : Word32 := BitVec.ofNat 32 (s.peekNat (pa + o + 4 * i) 4)
    let a := rnd (XR.ofRat (fromFx64 (s.accFx pa p i) (s.recE pa)) false)
    let g := rnd ((xr32 a.1).mul (xr32 f.1))
    let e := ruleElem rule t g.1 (rd 128) (rd 1152) (rd 2176)
    { e with flags := e.flags ||| a.2 ||| g.2 }
  let used (b : Bool) (l : List (Nat × Byte)) : List (Nat × Byte) := if b then l else []
  let pub := publishCells pa (1 - s.recCsel pa) rule (els.map (·.w))
  (cellsFrom (pa + 128) (els.flatMap fun e => bytesOfNat 4 e.w.toNat)
      ++ used (usesM1 rule) (cellsFrom (pa + 1152) (els.flatMap fun e => bytesOfNat 4 e.m1.toNat))
      ++ used (usesM2 rule) (cellsFrom (pa + 2176) (els.flatMap fun e => bytesOfNat 4 e.m2.toNat)) ++ pub.1
      ++ leCells (pa + 60) 4 f.1.toNat,
    els.foldl (fun a e => a ||| e.flags) (f.2 ||| pub.2))

/-- The stack of a physical address. -/
def stackNo (pa : Nat) : Nat := pa / 0x2000000000

/-- A pan unit's write at an address is held: by a cut of its context, or by the final pass (R247, R249). -/
def State.panHeld (s : State) (pa : Nat) : Bool :=
  s.placeHeld (.phys (8 * pa)) || ((s.recAt pa).map fun r => s.cutHolds r.asid).getD false

/-- A pan slot is free for the record: four update at once on a stack, in order of firing (R272). -/
def State.panFree (s : State) (pa : Nat) : Bool :=
  decide (((s.pan.recs.filter fun r => r.active && stackNo r.pa == stackNo pa).length) < 4)
    && (s.pan.firing.find? fun q => stackNo q == stackNo pa) == some pa && !(s.panHeld pa)

/-- The final pass holds the place of the counter that a record's publication decrements (R247, R270). -/
def State.ntfHeld (s : State) (r : RecInfo) : Bool :=
  s.recNtf r.pa != 0 && match s.access r.asid (s.recNtf r.pa % 2 ^ 56 / 4 * 4) false true with
    | .ok l => s.placeHeld l
    | _ => false

/-- An update's record is in a state, not poisoned, and neither it nor the counter it will decrement is held by the
final pass: its next event may come. -/
def State.panDue (s : State) (r : RecInfo) (st : Nat) : Bool :=
  r.active && !r.poisoned && s.recStc r.pa == st && !(s.placeHeld (.phys (8 * r.pa)))
    && !(st == recPublishing && s.ntfHeld r)

/-- PAN_UPDATE_START: a fired record takes a slot and its rule arithmetic runs, unless a line it reads is in error
(R268, R272, R273). -/
def execPanUpdateStart (s : State) : Host.Outcome State Fault Refusal :=
  event (match s.occ with
    | .num pa =>
      match s.recAt pa with
      | some r =>
        if s.pan.firing.contains pa && s.panFree pa then
          let l := s.updateReads r
          let s := { s with pan := { s.pan with firing := s.pan.firing.erase pa } }
          let s := l.foldl (fun (s : State) p => s.touchAll p.1 p.2) s
          if l.any fun p => s.isPoisoned p.1 p.2 then s.poisonRec r
          else
            let w := s.updateCells r
            let s := if w.2.getLsbD 0 then s.orRecFlag pa 4 else s
            let s := if w.2.getLsbD 1 then s.orRecFlag pa 8 else s
            s.updRec pa fun r => { r with active := true, wrote := w.1 }
        else s
      | none => s
    | _ => s)

/-- UPDATE_WRITES_DONE: the writes of an update have been performed; a header in error poisons the record (R263, R270,
R273). -/
def execUpdateWritesDone (s : State) : Host.Outcome State Fault Refusal :=
  event (match s.occ with
    | .num pa =>
      match s.recAt pa with
      | some r =>
        if s.panDue r recUpdating then
          if s.isPoisoned pa 64 then s.poisonRec r
          else ((s.store r.wrote).updRec pa fun r => { r with wrote := [] }).setStc pa recPublishing
        else s
      | none => s
    | _ => s)

/-- A decrement of 1 on NTF; a fault there is logged and undoes nothing (R270). -/
def State.notifyNtf (s : State) (r : RecInfo) (ntf : Nat) : State :=
  if ntf = 0 then s
  else
    let bad := s.logRecord 0x03 r.pa r.va
    match s.access r.asid (ntf % 2 ^ 56 / 4 * 4) false true with
    | .ok (.phys b) =>
      if s.isPoisoned (b / 8) 4 then bad.logPoison (b / 8) 4 else s.decrementAt (b / 8) (BitVec.ofNat 56 ntf) 1
    | .ok (.remote m b) =>
      if s.isPeer r.asid m then s.sendDecrement (homePort r.pa) 0x3FF r.asid 0 m (b / 8) 1 r.va r.pa else bad
    | _ => bad

/-- The flip: version, current slot and step advance, the step's parity is cleared, NTF is decremented, and
a complete next step fires (R263, R270). -/
def State.flipRec (s : State) (r : RecInfo) : State :=
  let pa := r.pa
  let step := s.recStep pa
  let p := step % 2
  let csel := s.recCsel pa
  let ntf := s.recNtf pa
  let idle := if s.recCnt pa (1 - p) = 0 then recIdle else recCollecting
  let s := s.store (leCells (pa + 20) 4 (s.recVer pa + 1) ++ leCells (pa + 16) 4 (step + 1)
    ++ [(pa + 1, BitVec.ofNat 8 ((1 - csel) * 8 + idle))] ++ leCells (pa + 8 + 4 * p) 4 0
    ++ cellsFrom (pa + accOffset p) (List.replicate 2048 0))
  let s := s.updRec pa fun r => { r with active := false, rule := none, norm := 0 }
  let s := s.notifyNtf r ntf
  match s.recAt pa with
  | some r => s.fireIfDue r
  | none => s

/-- FLIP: a header in error poisons the record, which does not flip (R270, R273). -/
def execFlip (s : State) : Host.Outcome State Fault Refusal :=
  event (match s.occ with
    | .num pa =>
      match s.recAt pa with
      | some r =>
        if s.panDue r recPublishing then (if s.isPoisoned pa 64 then s.poisonRec r else s.flipRec r) else s
      | none => s
    | _ => s)

/-! ### Requests at the home (R191 to R193, R271) -/

/-- Sub-operations of a parameter message: PCON with FP32 or BF16 values, PREAD of a kind, PSTAT. -/
def subPcon : Nat := 0
def subPconBf : Nat := 1
def subPread : Nat := 2
def subPstat : Nat := 6

/-- What a request finds: an answer, or a wait (R192, R271). -/
inductive ParamResult where
  | wait
  | answer (s : State) (data : List Byte) (code : BitVec 8)

/-- The values of a PCON: 256 FP32 or BF16 codes. -/
def pconValues (bf : Bool) (l : List Byte) : List XR :=
  (List.range 256).map fun i =>
    if bf then decodeFp .bf16 (BitVec.ofNat 64 (natOfBytes ((l.drop (2 * i)).take 2)))
    else decodeFp .f32 (BitVec.ofNat 64 (natOfBytes ((l.drop (4 * i)).take 4)))

/-- The 8-byte trailer of a PREAD. -/
def trailer (ver : Nat) (scale : Nat) : List Byte := bytesOfNat 4 ver ++ bytesOfNat 4 scale

/-- PREAD of a kind for version `q` (R192, R271). -/
def State.preadAt (s : State) (r : RecInfo) (kind q : Nat) : ParamResult :=
  let pa := r.pa
  let v := s.recVer pa
  let st := s.recStc pa
  let busy := st == recUpdating || st == recPublishing
  let slot (c : Nat) (ver : Nat) : ParamResult :=
    let a := if kind = 1 then wbOffset c else f8Offset c
    let n := if kind = 1 then 512 else 256
    if s.isPoisoned (pa + a) n then .answer (s.poisonRec r) [] 0x07
    else .answer s (s.peekBytes (pa + a) n
      ++ trailer ver (if kind = 1 then 0 else s.peekNat (pa + 24 + 4 * c) 4)) 0
  if r.poisoned then .answer s [] 0x07
  else if s.isPoisoned pa 128 then .answer (s.poisonRec r) [] 0x07
  else if kind = 0 ∨ kind = 3 then
    if q ≠ 0 then .answer s [] 0x04
    else if busy then .wait
    else
      let a := if kind = 0 then 128 else 1152
      let n := if kind = 0 then 1024 else 2048
      if s.isPoisoned (pa + a) n then .answer (s.poisonRec r) [] 0x07
      else .answer s (s.peekBytes (pa + a) n ++ trailer v 0) 0
  else if q = 0 ∨ q = v then slot (s.recCsel pa) v
  else if q + 1 = v then (if busy then .wait else slot (1 - s.recCsel pa) q)
  else .answer s [] 0x04

/-- The address lies in the destination of a page still mirrored after a cut: the record is still at the
old stack, and the request waits (R249, R272). -/
def State.recMoving (s : State) (pa : Nat) : Bool :=
  s.contexts.any fun x => x.mirrors.any fun m =>
    match m.dst with
    | .phys b => decide (b / 8 ≤ pa) && decide (pa < b / 8 + m.size)
    | _ => false

/-- A parameter request at its home; PSTAT returns the header of a poisoned record too (R257, R263, R271, R273). PCON
and PREAD of a norm cell fault with 0x06, as of an address that holds no record (DESIGN CHOICE, log 80). -/
def State.paramAt (s : State) (m : Msg) : ParamResult :=
  let pa := m.loc.byte
  match s.recAt pa with
  | none => if s.recMoving pa then .wait else .answer s [] 0x06
  | some r =>
    if m.sub = subPstat then
      let bad := !r.poisoned && s.isPoisoned pa (if r.cell then 64 else 128)
      if r.cell then .answer (if bad then s.poisonCell r else s) (s.peekBytes pa 64 ++ List.replicate 64 0) 0
      else .answer (if bad then s.poisonRec r else s) (s.peekBytes pa 128) 0
    else if r.cell then .answer s [] 0x06
    else if m.sub ≤ 1 then
      let t := natOfBytes (m.data.take 4)
      let x := s.contribute r t (pconValues (m.sub == subPconBf) (m.data.drop 64))
      .answer x.1 [] x.2
    else s.preadAt r (m.sub - subPread) (natOfBytes (m.data.take 4))

end Sys2Proof.Machine
end

