-- ==== Sys2Proof/Machine/EngineExec.lean ====
section
/-! DEFINITION. The engine: where a command's elements lie, their reads, conversions and writes, when a
command starts, completes, faults and restarts (R172 to R194, R206, R282, R283, R328, R348, R373). -/

namespace Sys2Proof.Machine

open Sys2Proof

/-! ### Commands of a core -/

/-- A started command of a core. -/
def State.cmd? (s : State) (core : BitVec 10) (id : Nat) : Option Cmd :=
  (s.findCore core).running.find? fun q => q.id == id

/-- Changes a started command. -/
def State.updCmd (s : State) (core : BitVec 10) (id : Nat) (f : Cmd → Cmd) : State :=
  s.updCore core fun c => { c with running := c.running.map fun q => if q.id = id then f q else q }

/-- Sets the stage of one element. -/
def Cmd.mark (q : Cmd) (idx : Nat) (st : Stage) : Cmd :=
  { q with pieces := q.pieces.map fun p => if p.idx = idx then { p with stage := st } else p }

def State.markPiece (s : State) (core : BitVec 10) (id idx : Nat) (st : Stage) : State :=
  s.updCmd core id fun q => q.mark idx st

/-- An element whose access has failed names the place that failed alone: of a write its destination, else the place
that was read, which for an LXRED is its destination (R373). -/
def Piece.atFault (p : Piece) (op : Instr) : Piece :=
  let l : Loc := match op with
    | .lxred _ => p.dst
    | _ => if p.stage = .writing then p.dst else p.src
  { p with src := l, dst := l, stage := .done }

/-- An element's access fails: the command stops (R175). -/
def State.failPiece (s : State) (core : BitVec 10) (id idx : Nat) (code : BitVec 8) (why : FaultWhy) : State :=
  s.updCmd core id fun q => { q with
    pieces := q.pieces.map fun p => if p.idx = idx then p.atFault q.op else p
    faults := q.faults ++ [(idx, code, why)], stopped := true }

/-- A done status other than 0x00 (R24); that a dead page was read stays noted over a fault and a restart (R174). -/
def State.noteStatus (s : State) (core : BitVec 10) (id : Nat) (code : BitVec 8) : State :=
  s.updCmd core id fun q => { q with
    status := if q.status = 0 then code else q.status, deadRead := q.deadRead || code == 0x01 }

/-- An access of the command is in flight. -/
def Cmd.inFlight (q : Cmd) : Bool := q.pieces.any fun p => p.stage == .reading || p.stage == .writing

/-! ### Places (R174, R222, R241) -/

/-- A physical bit address as the issuing core's engine reaches it. -/
def locOfPhys (core : BitVec 10) (bit : Nat) : Loc :=
  match placeOf (bit / 8) with
  | .spad c => if c = core then .spad (bit - 8 * spadBase core) else .phys bit
  | _ => .phys bit

/-- A location in the multicast range of this module (R351). -/
def State.isMulticast (s : State) (l : Loc) : Bool :=
  match l with
  | .remote m b => m == s.modid && b / 8 / 2 ^ 40 % 16 == 0xE
  | _ => false

/-- The commands whose accesses to another module are writes or scheduled blocks, which alone may use a multicast
group (R351). -/
def mayMulticast : Instr → Bool
  | .copy _ | .spillt _ | .gath _ | .scat _ | .put _ | .lxfer _ | .mset _ => true
  | _ => false

/-- A place on another module, as a command may reach it (R348, R351). -/
def State.remoteLoc (s : State) (q : Cmd) (m : BitVec 12) (bit : Nat) (write : Bool) : Loc :=
  if !(s.isPeer q.asid m) then .bad 0x06
  else if s.isMulticast (.remote m bit) && !(write && mayMulticast q.op) then .bad 0x06
  else .remote m bit

/-- Where `w` bits at a bit address of a space lie, the address aligned down to `al` bits (R174). A cluster-window
address with other bits set than the rule allows faults with 0x05 (DESIGN CHOICE, log 89). -/
def State.locateAt (s : State) (core : BitVec 10) (q : Cmd) (spc : BitVec 2) (bit al w : Nat) (write : Bool) : Loc :=
  let bit := bit / al * al
  if spc = spcWindow then
    let a := bit / 8
    let id := coreDie core ++ BitVec.ofNat 8 (a / 2 ^ 22)
    let off := a % 2 ^ 22
    if 2 ^ 30 ≤ a % 2 ^ 56 ∨ spadSizeOf id < off + accessBytes w then .bad 0x05
    else if !(s.holds id q.asid) then .bad 0x06
    else locOfPhys core (8 * (spadBase id + off) + bit % 8)
  else if spc = spcFabric then
    let a := bit / 8 % 2 ^ 56
    s.remoteLoc q (BitVec.ofNat 12 (a / 2 ^ 44)) (8 * (a % 2 ^ 44) + bit % 8) write
  else
    match s.accessUnder q.asid q.map (bit / 8 % 2 ^ 56) (spc == spcParam) write with
    | .ok (.phys b) => locOfPhys core (b + bit % 8)
    | .ok (.remote m b) => s.remoteLoc q m (b + bit % 8) write
    | .ok l => l
    | .dead => .dead
    | .bad c => .bad c

/-- Where an element of `w` bits lies: it is aligned down to its size (R174). -/
def State.locate (s : State) (core : BitVec 10) (q : Cmd) (spc : BitVec 2) (bit w : Nat) (write : Bool) : Loc :=
  s.locateAt core q spc bit w w write

/-- An integer bit address as the engine sees it: modulo 2^56 bytes. -/
def bitAddr (x : Int) : Nat := (x % (8 * 2 ^ 56)).toNat

/-! ### Elements of a command (R179 to R182, R184 to R194) -/

/-- Widths of the sides of a nest record. -/
def nestWidth (r : Vector Word 8) (dst : Bool) : Nat :=
  ((Fmt.ofCode (Nest.fmtCode r dst)).map Fmt.width).getD 8

/-- The space a nest record gives a side. -/
def nestSpc (r : Vector Word 8) (dst : Bool) : BitVec 2 := BitVec.ofNat 2 (Nest.spc r dst)

/-- One side of the n-th element visited: base, offset and displacement (R179). (DEDUCED, log 31) -/
def State.nestSide (s : State) (core : BitVec 10) (q : Cmd) (dst : Bool) (ofs n : Nat) : Loc :=
  let w := nestWidth q.nest dst
  s.locate core q (nestSpc q.nest dst)
    (bitAddr ((8 * (Nest.base q.nest dst + ofs) : Nat) + Nest.disp q.nest dst w n)) w dst

/-- The tile's n-th logical element in count order (R181). -/
def tileLoc (e : BitVec 128) (n : Nat) : Loc :=
  let c := TileE.lcols e false
  .spad (TileE.bitAddr e false (n / c) (n % c))

/-- The row of a GATH or SCAT that an element belongs to, addressed through its index (R182). -/
def State.rowSide (s : State) (core : BitVec 10) (q : Cmd) (dst : Bool) (ofs row : Nat) (i0 : Nat) : Loc :=
  let w := nestWidth q.nest dst
  s.locate core q (nestSpc q.nest dst)
    (bitAddr ((8 * (Nest.base q.nest dst + ofs) : Nat) + (row : Int) * Nest.stride q.nest dst 1 * 8
      + (i0 * w : Nat))) w dst

/-- Index n of the list in the scratchpad, its words aligned down, or none when its word is poisoned (R174, R182,
R236). -/
def State.indexAt (s : State) (core : BitVec 10) (q : Cmd) (n : Nat) : Option Nat :=
  let a := spadBase core + q.rb.toNat / 4 * 4 + 4 * n
  if s.isPoisoned a 4 then none else some (s.peekNat a 4)

/-- The error the index of an element meets is logged (R236). -/
def State.indexLog (s : State) (core : BitVec 10) (q : Cmd) (p : Piece) (code : BitVec 8) : State :=
  let a := spadBase core + q.rb.toNat / 4 * 4 + 4 * (p.idx / Nest.cnt q.nest 0)
  match q.op with
  | .gath _ | .scat _ => if code = 0x07 then s.logPoison a 4 else s
  | _ => s

/-- Element places of a command that moves elements one by one. -/
def State.nestPieces (s : State) (core : BitVec 10) (q : Cmd) : List Piece :=
  let c := s.findCore core
  let rb := q.rb.toNat
  let rc := q.rc.toNat
  (List.range (Nest.total q.nest)).map fun n =>
    let p : Loc × Loc :=
      match q.op with
      | .copy _ => (s.nestSide core q false rb n, s.nestSide core q true rc n)
      | .copyt _ => (s.nestSide core q false rc n, tileLoc (c.tile (q.rb.setWidth 7)) n)
      | .spillt _ => (tileLoc (c.tile (q.rb.setWidth 7)) n, s.nestSide core q true rc n)
      | .gath _ =>
        let k := Nest.cnt q.nest 0
        match s.indexAt core q (n / k) with
        | some x => (s.rowSide core q false rc x (n % k), s.rowSide core q true 0 (n / k) (n % k))
        | none => (.bad 0x07, .dead)
      | .scat _ =>
        let k := Nest.cnt q.nest 0
        match s.indexAt core q (n / k) with
        | some x => (s.rowSide core q false 0 (n / k) (n % k), s.rowSide core q true rc x (n % k))
        | none => (.bad 0x07, .dead)
      | .lxfer _ =>
        (s.nestSide core q false 0 n,
          s.locate core q spcFabric
            (bitAddr ((8 * Nest.base q.nest true : Nat) + Nest.disp q.nest true (nestWidth q.nest true) n))
            (nestWidth q.nest true) true)
      | _ => (.dead, s.nestSide core q true 0 n)
    ⟨n, p.1, p.2, .waiting, none⟩

/-- The byte range of the i-th 64-byte line of a PUT, GET or MSET: its address and size (R187). -/
def lineRange (a n i : Nat) : Nat × Nat :=
  let lo := max a (64 * (a / 64 + i))
  (lo, min (a + n) (64 * (a / 64 + i + 1)) - lo)

/-- Lines of a PUT, GET or MSET. -/
def lineCount (a n : Nat) : Nat := if n = 0 then 0 else (a + n - 1) / 64 - a / 64 + 1

/-- The words MSET writes of its i-th 64-byte line: address and bytes (R187, R194; DEDUCED, log 18). -/
def msetRange (q : Cmd) (i : Nat) : Nat × Nat := lineRange (q.ra.toNat / 8 * 8) (q.rc.toNat / 8 * 8) i

/-- A one-element command at a place. -/
def onePiece (l : Loc) : List Piece := [⟨0, l, l, .waiting, none⟩]

/-- B's elements of a BVEC, in the order k then j. (DEDUCED, log 40) -/
def State.bvecLocs (s : State) (core : BitVec 10) (q : Cmd) : List Loc :=
  let r := q.nest
  let eb := Bvec.esize r
  (List.range (Bvec.k r)).flatMap fun (k : Nat) => (List.range (Bvec.n r)).map fun j =>
    s.locate core q spcGlobal
      (bitAddr (8 * ((Bvec.bw r : Int) + (k : Int) * Bvec.bstr r + (j * eb : Nat)))) (8 * eb) false

/-- The stack all live pages of B lie on (R190): none dead-only, or the fault they give. (DEDUCED, log 40) -/
def bvecStack (l : List Loc) : Except (BitVec 8) (Option Nat) :=
  l.foldl (fun a x => match a, x with
    | .error c, _ => .error c
    | .ok o, .phys b =>
      (match placeOf (b / 8) with
       | .stack i => (match o with
          | none => .ok (some i)
          | some j => if i = j then .ok o else .error 0x06)
       | _ => .error 0x06)
    | .ok o, .dead => .ok o
    | .ok _, .bad c => .error c
    | .ok _, _ => .error 0x06) (.ok none)

/-- The 2 KiB blocks, or parts of one, of PREF's bytes that lie on another module: each is asked of its owner by a
read; the others are staged with no access to be seen (R194, R343). (DEDUCED, log 40) -/
def State.prefPieces (s : State) (core : BitVec 10) (q : Cmd) : List Piece :=
  let a := q.ra.toNat % 2 ^ 56
  let n := q.rb.toNat % 2 ^ 32
  (((List.range ((a % 2048 + n + 2047) / 2048)).map fun i =>
    (⟨i, s.locate core q (modSpc q.mod) (8 * max a (2048 * (a / 2048 + i))) 8 false, .dead, .waiting, none⟩ : Piece))).filter
      fun p => match p.src with
        | .remote _ _ => true
        | _ => false

/-- The elements of a command as it starts (R172, R174). A record's address is asked for its alignment before it is
translated: misaligned on an absent page it gets 0x06 (R257; DESIGN CHOICE, log 91). -/
def State.piecesOf (s : State) (core : BitVec 10) (q : Cmd) : List Piece :=
  let spc := modSpc q.mod
  let at' (w : Nat) (write : Bool) : List Piece := onePiece (s.locate core q spc (8 * q.ra.toNat) w write)
  match q.op with
  | .copy _ | .copyt _ | .spillt _ | .gath _ | .scat _ | .lxfer _ | .lxred _ => s.nestPieces core q
  | .amoAdd32 _ => at' 32 true
  | .amoAdd64 _ | .amoMin _ | .amoMax _ | .amoMinu _ | .amoMaxu _ | .amoAnd _ | .amoOr _ | .amoXor _
  | .amoSwap _ | .amoFxa _ => at' 64 true
  | .cas f => at' (if bits f.tk3 0 2 = 0 then 32 else 64) false
  | .casw _ => at' 128 false
  | .dcas _ => at' 64 false
  | .enq _ => onePiece (s.locate core q spcGlobal (8 * q.ra.toNat) 64 true)
  | .chase _ => onePiece .dead
  | .put _ =>
    (List.range (lineCount (q.rb.toNat % 2 ^ 44) q.rc.toNat)).map fun i =>
      let x := lineRange (q.rb.toNat % 2 ^ 56) q.rc.toNat i
      ⟨i, .spad (8 * (q.ra.toNat + (x.1 - q.rb.toNat % 2 ^ 56))), s.locate core q spcFabric (8 * x.1) 8 true,
        .waiting, none⟩
  | .get _ =>
    (List.range (lineCount (q.rb.toNat % 2 ^ 44) q.rc.toNat)).map fun i =>
      let x := lineRange (q.rb.toNat % 2 ^ 56) q.rc.toNat i
      ⟨i, s.locate core q spcFabric (8 * x.1) 8 false, .spad (8 * (q.ra.toNat + (x.1 - q.rb.toNat % 2 ^ 56))),
        .waiting, none⟩
  | .fenf _ => onePiece (s.locate core q spcFabric (8 * q.ra.toNat) 32 true)
  | .bvec _ =>
    (match bvecStack (s.bvecLocs core q) with
     | .error c => onePiece (.bad c)
     | .ok none => onePiece .dead
     | .ok (some _) => onePiece (((s.bvecLocs core q).find? fun l => l != .dead).getD .dead))
  | .pcon _ | .preadMst _ | .preadWbf _ | .preadWf8 _ | .preadMom _ | .pstat _ =>
    if q.ra.toNat % 64 ≠ 0 then onePiece (.bad 0x06)
    else onePiece (s.locate core q spcParam (8 * q.ra.toNat) 512 false)
  | .mset _ =>
    (List.range (lineCount (q.ra.toNat / 8 * 8) (q.rc.toNat / 8 * 8))).map fun i =>
      let x := msetRange q i
      ⟨i, .dead, s.locateAt core q spc (8 * x.1) 64 (8 * x.2) true, .waiting, none⟩
  | .tdec _ | .tdecH _ => at' 32 true
  | .pref _ => s.prefPieces core q
  | _ => []

/-! ### Conversions (R180, R189) -/

/-- The conversion of a nest-driven element (R180); it sets no flag. -/
def convElem (env : FpEnv) (r : Vector Word 8) (x : Code) : Code :=
  let sc := Nest.fmtCode r false
  let dc := Nest.fmtCode r true
  let sf := (Fmt.ofCode sc).getD .f32
  let df := (Fmt.ofCode dc).getD .f32
  let k := Nest.scale r
  if sc = dc then x
  else if sf.scaled == df.scaled then (convert env df sf x).1
  else if !(scaleOk k) then (badScale df).1
  else if sf.scaled then (convertExact env df ((exactOf sf x).divQ (scaleVal k))).1
  else (convertExact env df ((exactOf sf x).mulQ (scaleVal k))).1

/-- An element widened for a scheduled reduction (R189). -/
def widen (f : Fmt) (k : Word32) (x : Code) : Option XR :=
  if f.scaled then (if scaleOk k then some ((exactOf f x).divQ (scaleVal k)) else none) else some (exactOf f x)

/-- d := q(round_fp(widen(d) + widen(src), FP32, RNE)) (R60, R189). -/
def reduceElem (env : FpEnv) (r : Vector Word 8) (d x : Code) : Code :=
  let sf := (Fmt.ofCode (Nest.fmtCode r false)).getD .f32
  let df := (Fmt.ofCode (Nest.fmtCode r true)).getD .f32
  let k := Nest.scale r
  match widen df k d, widen sf k x with
  | some a, some b =>
    let y := (roundFp (envRne env.f8sat) .f32 (XR.add .rne a b)).1
    if df.scaled then (roundFp (envRne env.f8sat) df ((decodeFp .f32 y).mulQ (scaleVal k))).1 else y
  | _, _ => (badScale df).1

/-! ### Fabric accesses of a command (R342, R343, R348, R351) -/

/-- The store-count entry of a pair advances by `n`; none when a new pair finds the table full (R348). -/
def Core.countStore (c : Core) (m : BitVec 12) (cls : BitVec 4) (n : Nat) : Option Core :=
  if c.counts.any fun e => e.dmod == m && e.cls == cls then
    some { c with counts := c.counts.map fun e =>
      if e.dmod = m ∧ e.cls = cls then { e with count := e.count + BitVec.ofNat 32 n } else e }
  else if c.counts.length < 64 then some { c with counts := c.counts ++ [⟨m, cls, BitVec.ofNat 32 n⟩] }
  else none

/-- Stores a fabric message counts as: lines of a write, one for an at-memory operation (R348). -/
def fabStores (m : Msg) : Nat :=
  match m.op with
  | .write => (linesOf m.loc.byte m.data).length
  | .merge | .atomic => 1
  | _ => 0

/-- The element that writes the other nibble of a byte of another module: its neighbour in the visiting order.
(DEDUCED, log 31) -/
def Cmd.partner (q : Cmd) (p : Piece) : Option Piece :=
  match p.dst with
  | .remote m b =>
    if nestWidth q.nest true ≠ 4 then none
    else if b % 8 = 0 then q.pieces.find? fun o => o.idx == p.idx + 1 && o.dst == .remote m (b + 4)
    else q.pieces.find? fun o => o.idx + 1 == p.idx && o.dst == .remote m (b - 4)
  | _ => none

/-- The bytes a nest-driven command writes to other modules: two nibbles of one byte are written together. -/
def Cmd.blockBytes (q : Cmd) : Nat :=
  if nestWidth q.nest true = 4 then
    q.pieces.length - (q.pieces.filter fun p => decide (0 < p.idx) && (match p.dst with
      | .remote _ b => b % 8 != 0 && (q.partner p).isSome
      | _ => false)).length
  else q.pieces.length * (nestWidth q.nest true / 8)

/-- The command's slot and block size when it is a scheduled block (R354). -/
def blockTag (q : Cmd) : BitVec 32 × BitVec 32 :=
  match q.op with
  | .lxfer _ => (q.rb.setWidth 32, BitVec.ofNat 32 q.blockBytes)
  | _ => (0, 0)

/-- The sum of a core's counts toward a module over the classes of a mask (R188, R349). -/
def Core.fenceSum (c : Core) (m : BitVec 12) (mask : BitVec 16) : BitVec 32 :=
  (c.counts.filter fun e => e.dmod == m && mask.getLsbD e.cls.toNat).foldl (fun a e => a + e.count) 0

/-- The classes of a FENF (R188). -/
def fenceMask (q : Cmd) : BitVec 16 := if q.rb.setWidth 16 = (0 : BitVec 16) then BitVec.allOnes 16 else q.rb.setWidth 16

/-- The amount of a FENF or TDEC: a register, or 1 for `s0` (R188, R194). -/
def cmdAmount (r : BitVec 6) (x : Word) : BitVec 32 := if r = 0 then 1 else x.setWidth 32

/-- AUX of an at-memory packet: sub-operation and order (R342), and past them ENQ's mark and the code that a write to
the place would meet at its sender (R185; DESIGN CHOICE, log 14). -/
def atomicAux (m : Msg) : BitVec 32 :=
  let order := ((m.entries.head?.map AmoEntry.order).getD 0).toNat
  BitVec.ofNat 32 (min m.sub 15 + 16 * order + (if m.sub = subEnq then 64 else 0) + 256 * m.status.toNat)

/-- The header of a fabric access, and its plain lines (R342, R343; log 14 for the fields R342 leaves to
the type). -/
def State.fabPacket (s : State) (m : Msg) (q : Cmd) (dmod : BitVec 12) (bit : Nat) :
    Packet × List (Nat × BitVec 64 × List Byte) :=
  let c := s.findCore m.core
  let a := bit / 8
  let base : Packet := { Packet.bare with
    dmod := dmod, score := m.core, addr := BitVec.ofNat 44 a, pcid := s.pcidOf m.asid, cls := m.cls
    scope := m.scope, fcid := c.recVa }
  match m.op with
  | .write =>
    let t := blockTag q
    let sched : Bool := match q.op with
      | .lxfer _ => true
      | _ => false
    ({ base with type := if sched then 0x0C else 0x01, slot := t.1, aux := t.2 }, linesOf a m.data)
  | .readReq => ({ base with type := 0x02, aux := BitVec.ofNat 32 (accessBytes m.width) }, [])
  | .merge | .atomic =>
    ({ base with
      type := 0x05, aux := atomicAux m
      opnd := if m.sub = subDcas then (q.rc.setWidth 12).setWidth 64
        else (m.entries.head?.map AmoEntry.operand).getD 0 },
     if m.sub ≤ 10 ∨ m.sub = subChase then []
     else [(a / 64, BitVec.allOnes 64, padTo 64 (m.data.take 64))])
  | .counter => ({ base with type := 0x09, opnd := (cmdAmount q.f.rb q.rb).setWidth 64 }, [])
  | .control =>
    ({ base with
      type := 0x07, aux := c.fenceSum dmod (fenceMask q)
      opnd := (cmdAmount q.f.rc q.rc).setWidth 64 ||| ((fenceMask q).setWidth 64 <<< 32) }, [])
  | _ =>
    ({ base with type := 0x0B, aux := BitVec.ofNat 32 m.sub, opnd := BitVec.ofNat 64 (natOfBytes (m.data.take 4)) },
     linesOf a (m.data.drop 64))

/-- A FENF issued before the command is under way over its class toward the module: the next interval's stores
wait for it (R188, R349). (DEDUCED, log 44) -/
def Core.fenceUnderWay (c : Core) (q : Cmd) (dmod : BitVec 12) (cls : BitVec 4) : Bool :=
  c.running.any fun p => match p.op with
    | .fenf _ => decide (p.id < q.id) && !p.stopped && bits p.ra 44 12 == dmod && (fenceMask p).getLsbD cls.toNat
    | _ => false

/-- The counts of a closed fence interval are reset and their entries freed (R188, R349). (DEDUCED, log 44) -/
def Core.closeInterval (c : Core) (m : BitVec 12) (mask : BitVec 16) : Core :=
  { c with counts := c.counts.filter fun e => !(e.dmod == m && mask.getLsbD e.cls.toNat) }

/-- Sends a fabric access: its stores are counted, and its packet travels to its gateway; none when its stores wait
for an entry or a fence (R341, R348). (DEDUCED, log 44) -/
def State.sendFabric (s : State) (m : Msg) (q : Cmd) (dmod : BitVec 12) (bit : Nat) : Option State :=
  let n := fabStores m
  let c := s.findCore m.core
  if decide (0 < n) && c.fenceUnderWay q dmod m.cls then none
  else match (if n = 0 then some c else c.countStore dmod m.cls n) with
  | some c =>
    let p := s.fabPacket m q dmod bit
    let s := if n = 0 then s else s.updCore m.core fun _ => c
    let s := if m.op = .control then s.updCore m.core fun c => c.closeInterval dmod (fenceMask q) else s
    some (s.sendVia m p.1 dmod p.2)
  | none => none

/-- Sends an access of a command to its place's owner; a write to a multicast address goes to the gateway that
replicates it (R351); none when the access waits. -/
def State.sendAccess (s : State) (m : Msg) (q : Cmd) : Option State :=
  match m.loc with
  | .phys b => some (s.sendMsg { m with final := homePort (b / 8) })
  | .remote d b =>
    if s.isMulticast m.loc then
      some (s.sendMsg { m with
        final := trepinPort (BitVec.ofNat 4 (Config.portHash d (b / 8 / 4096) s.fab.nextPid)) })
    else s.sendFabric m q d b
  | _ => some s

/-! ### Steps of one element -/

/-- Bytes of the core's own scratchpad as the engine sees them, or none when a word is poisoned (R176). -/
def State.ownBytes (s : State) (core : BitVec 10) (off n : Nat) : Option (List Byte) :=
  if s.isPoisoned (spadBase core + off) n then none else some (s.peekBytes (spadBase core + off) n)

/-- The engine writes the core's own scratchpad. -/
def State.ownWrite (s : State) (core : BitVec 10) (off : Nat) (l : List Byte) : State :=
  s.store (cellsFrom (spadBase core + off) l)

/-- Sets the stage of one element and the bytes it is to write. -/
def State.setPiece (s : State) (core : BitVec 10) (id idx : Nat) (st : Stage) (out : Option (List Byte)) : State :=
  s.updCmd core id fun q => { q with
    pieces := q.pieces.map fun p => if p.idx = idx then { p with stage := st, out := out } else p }

/-- A location without its bits below a byte. -/
def Loc.byteStart : Loc → Loc
  | .phys b => .phys (b / 8 * 8)
  | .remote m b => .remote m (b / 8 * 8)
  | .spad b => .spad (b / 8 * 8)
  | l => l

/-- An element's write leaves for its place's owner; when it cannot yet be sent, its bytes wait with it. -/
def State.sendWrite (s : State) (core : BitVec 10) (q : Cmd) (p : Piece) (loc : Loc) (w : Nat) (l : List Byte) : State :=
  match s.sendAccess { Msg.request .write core q p.idx loc w with data := l } q with
  | some t => t.setPiece core q.id p.idx .writing none
  | none => s.setPiece core q.id p.idx .waiting (some l)

/-- A nibble for another module, whose packets enable whole bytes: it waits for its neighbour's, or the byte is read
first (R179, R342). A multicast group cannot be read, so that a lone nibble to one faults with 0x06 (R351).
(DEDUCED, log 31) -/
def State.writeNibble (s : State) (core : BitVec 10) (q : Cmd) (p : Piece) (m : BitVec 12) (b x : Nat) : State :=
  let q := (s.cmd? core q.id).getD q
  match q.partner p with
  | some o =>
    (match o.stage, o.out with
     | .parked, some l =>
       let y := natOfBytes l
       s.sendWrite core q p (.remote m (b / 8 * 8)) 8 [BitVec.ofNat 8 (if b % 8 = 0 then x + 16 * y else y + 16 * x)]
     | _, _ => s.setPiece core q.id p.idx .parked (some [BitVec.ofNat 8 x]))
  | none =>
    if s.isMulticast p.dst then s.failPiece core q.id p.idx 0x06 .translation
    else match s.sendAccess (Msg.request .readReq core q p.idx (.remote m (b / 8 * 8)) 8) q with
    | some t => t.setPiece core q.id p.idx .reading (some [BitVec.ofNat 8 x])
    | none => s

/-- The write of a code of `w` bits to an element's destination. -/
def State.writeElem (s : State) (core : BitVec 10) (q : Cmd) (p : Piece) (w : Nat) (l : List Byte) : State :=
  match p.dst with
  | .spad b => (s.store (s.physCells (8 * spadBase core + b) w l)).markPiece core q.id p.idx .done
  | .bad c => s.failPiece core q.id p.idx c .translation
  | .dead => s.failPiece core q.id p.idx 0x05 .translation
  | .remote m b =>
    if w % 8 = 0 then s.sendWrite core q p (.remote m b) w l else s.writeNibble core q p m b (natOfBytes l % 2 ^ w)
  | .phys b => s.sendWrite core q p (.phys b) w l

/-- Width of an element read, and of the one written. -/
def srcWidth (q : Cmd) (p : Piece) : Nat :=
  match q.op with
  | .get _ => 8 * (lineRange (q.rb.toNat % 2 ^ 56) q.rc.toNat p.idx).2
  | .put _ => 8 * (lineRange (q.rb.toNat % 2 ^ 56) q.rc.toNat p.idx).2
  | .mset _ => 8 * (msetRange q p.idx).2
  | .lxred _ => nestWidth q.nest true
  | _ => nestWidth q.nest false

def dstWidth (q : Cmd) (p : Piece) : Nat :=
  match q.op with
  | .get _ | .put _ => srcWidth q p
  | .mset _ => 8 * (msetRange q p.idx).2
  | _ => nestWidth q.nest true

/-- The landed block of an LXRED: its bytes in address order (R354; DEDUCED, log 16). -/
def State.landedBlock (s : State) (q : Cmd) : Option Landing :=
  s.fab.landing.find? fun e => e.smod == q.rc.setWidth 12 && e.slot == q.rb.setWidth 32 && e.total == e.bytes

/-- Element n of a landed block. -/
def State.landedElem (s : State) (q : Cmd) (n : Nat) : Code :=
  let w := nestWidth q.nest false
  let bytes := ((s.landedBlock q).map fun e => (Sparse.setAll 256 [] (e.place.map fun c =>
    (c.1, c.2.toNat))).map fun c => c.1).getD []
  let l := ((bytes.drop (n * w / 8)).take (accessBytes w)).map fun a => s.peek a
  BitVec.ofNat 64 (natOfBytes l / 2 ^ (n * w % 8) % 2 ^ w)

/-- The bytes an element writes, from the bytes read for it (R180, R187, R189, R194). -/
def State.elemOut (s : State) (q : Cmd) (p : Piece) (l : List Byte) : List Byte :=
  let x : Code := BitVec.ofNat 64 (natOfBytes l)
  match q.op with
  | .get _ | .put _ => l
  | .mset _ => (List.replicate ((msetRange q p.idx).2 / 8) (bytesOfNat 8 q.rb.toNat)).flatten
  | .lxred _ => bytesOfNat (accessBytes (dstWidth q p)) (reduceElem q.env q.nest x (s.landedElem q p.idx)).toNat
  | _ =>
    let r := q.nest
    if Nest.fmtCode r false = Nest.fmtCode r true then l
    else bytesOfNat (accessBytes (nestWidth r true)) (convElem q.env r x).toNat

/-- An element whose source bytes are known is written. -/
def State.haveData (s : State) (core : BitVec 10) (q : Cmd) (p : Piece) (l : List Byte) : State :=
  s.writeElem core q p (dstWidth q p) (s.elemOut q p l)

/-- The operand block of a compare: its words are aligned down (R174, R185). -/
def blockOffset (q : Cmd) : Nat := q.rb.toNat / 8 * 8

/-- The result area of a command that answers into the scratchpad: offset of its words, aligned down to their size
(R173, R174). (DEDUCED, log 73) -/
def resultOffset (q : Cmd) : Option Nat :=
  match q.op with
  | .amoAdd32 f => if f.rc = 0 then none else some (q.rc.toNat / 4 * 4)
  | .amoAdd64 f | .amoMin f | .amoMax f | .amoMinu f | .amoMaxu f | .amoAnd f | .amoOr f
  | .amoXor f | .amoSwap f | .amoFxa f | .enq f => if f.rc = 0 then none else some (q.rc.toNat / 8 * 8)
  | .cas _ => some (blockOffset q + 16)
  | .casw _ | .dcas _ => some (blockOffset q + 32)
  | .chase _ => some (q.rc.toNat / 8 * 8)
  | .preadMst _ | .preadWbf _ | .preadWf8 _ | .preadMom _ | .pstat _ => some (q.rb.toNat / 8 * 8)
  | _ => none

/-- Bytes of the result that are written. -/
def resultBytes (q : Cmd) (l : List Byte) : List Byte :=
  match q.op with
  | .amoAdd32 _ => l.take 4
  | .cas _ => l.take 16
  | .casw _ | .dcas _ => l.take 24
  | _ => l

/-- An element is done, and with it the neighbour whose nibble it wrote. -/
def State.donePiece (s : State) (core : BitVec 10) (id idx : Nat) : State :=
  s.updCmd core id fun q =>
    let o := ((q.pieces.find? fun p => p.idx == idx).bind q.partner).map (·.idx)
    { q with pieces := q.pieces.map fun p =>
        if p.idx = idx ∨ (p.stage = .parked ∧ some p.idx = o) then { p with stage := .done, out := none } else p }

/-- A one-element command's result arrives: it is written, and the element is done. -/
def State.finishPiece (s : State) (core : BitVec 10) (q : Cmd) (idx : Nat) (l : List Byte) : State :=
  let s := match resultOffset q with
    | some o => s.ownWrite core o (resultBytes q l)
    | none => s
  s.donePiece core q.id idx

/-- Sub-operation of an AMO (R184). -/
def amoSub : Instr → Option Nat
  | .amoAdd32 _ => some 0 | .amoAdd64 _ => some 1 | .amoMin _ => some 2 | .amoMax _ => some 3
  | .amoMinu _ => some 4 | .amoMaxu _ => some 5 | .amoAnd _ => some 6 | .amoOr _ => some 7
  | .amoXor _ => some 8 | .amoSwap _ => some 9 | .amoFxa _ => some 10
  | _ => none

/-- CHASE goes on from a walk: it ends, or sends its next hop to the owner of the next node; a hop that cannot be sent
yet waits with the walk (R186). -/
def State.chaseNext (s : State) (core : BitVec 10) (q : Cmd) (w : Walk) (code : BitVec 8) : State :=
  let off := q.f.tk3.toNat
  let finish (s : State) (w : Walk) : State :=
    s.finishPiece core q 0 (bytesOfNat 8 w.seen.length ++ w.seen.flatMap (bytesOfNat 8))
  if code ≠ 0 then s.failPiece core q.id 0 code .home
  else if w.p = 0 ∨ w.left = 0 then finish s w
  else
    let hop (loc : Loc) : Msg := { Msg.request .atomic core q 0 loc 64 with
      sub := subChase, data := bytesOfNat 8 off ++ w.bytes }
    let at' (t : State) (loc : Loc) (st : Stage) (out : Option (List Byte)) : State :=
      t.updCmd core q.id fun q => { q with pieces := [⟨0, loc, loc, st, out⟩] }
    let send (loc : Loc) : State :=
      match s.sendAccess (hop loc) q with
      | some t => at' t loc .reading none
      | none => at' s loc .waiting (some w.bytes)
    match s.locate core q spcGlobal (8 * ((w.p + 8 * off) % 2 ^ 56)) 64 false with
    | .spad b => send (.phys (8 * spadBase core + b))
    | .dead => finish (s.noteStatus core q.id 0x01) ⟨0, w.left - 1, w.seen ++ [w.p]⟩
    | .bad c => s.failPiece core q.id 0 c .home
    | loc => send loc

/-- The operand block of CAS, CASW and DCAS as read after the start (R185). -/
def casSize (q : Cmd) : Nat :=
  match q.op with
  | .cas _ => 16
  | _ => 32

/-- DCAS's second word: the same 4 KiB block, offset from RC (R185). -/
def dcasSecond (q : Cmd) : Nat := q.ra.toNat / 2 ^ 12 % 2 ^ 44 * 2 ^ 12 + q.rc.toNat % 2 ^ 12 / 8 * 8

/-- CAS and its kind on a dead page: it reads zeros, and a match would write (R185, R241). (DEDUCED, log 41) -/
def State.casDead (s : State) (core : BitVec 10) (q : Cmd) (blk : List Byte) : State :=
  let n := match q.op with
    | .cas f => if bits f.tk3 0 2 = 0 then 4 else 8
    | _ => 16
  if (blk.take n).all (· == 0) then s.failPiece core q.id 0 0x05 .home
  else (s.noteStatus core q.id 0x01).finishPiece core q 0
    (List.replicate (if n = 16 then 16 else 8) 0 ++ bytesOfNat 8 0)

/-- The code a write through the place of a compare would meet. -/
def State.casWriteCode (s : State) (core : BitVec 10) (q : Cmd) (spc : BitVec 2) (w : Nat) : BitVec 8 :=
  match s.locate core q spc (8 * q.ra.toNat) w true with
  | .bad c => c
  | _ => 0

/-- A compare sends its operand block. -/
def State.sendCas (s : State) (core : BitVec 10) (q : Cmd) (p : Piece) : State :=
  let (sub, w) := match q.op with
    | .cas f => if bits f.tk3 0 2 = 0 then (subCas4, 32) else (subCas8, 64)
    | .casw _ => (subCasw, 128)
    | _ => (subDcas, 64)
  match s.ownBytes core (blockOffset q) (casSize q) with
  | none => (s.logPoison (spadBase core + blockOffset q) (casSize q)).failPiece core q.id p.idx 0x07 .home
  | some blk =>
    match p.dst with
    | .dead => s.casDead core q blk
    | .bad c => s.failPiece core q.id p.idx c .translation
    | loc0 =>
      -- the core's own network interface performs an operation on its own scratchpad
      let loc : Loc := match loc0 with
        | .spad b => .phys (8 * spadBase core + b)
        | l => l
      let second := match s.locate core q (modSpc q.mod) (8 * dcasSecond q) 64 false with
        | .phys b => b / 8
        | .spad b => spadBase core + b / 8
        | .remote _ b => b / 8
        | _ => 0
      let m := { Msg.request .atomic core q p.idx loc w with
        sub := sub, data := blk ++ (if sub = subDcas then bytesOfNat 8 second else [])
        status := s.casWriteCode core q (modSpc q.mod) w, final := homePort loc.byte }
      match s.sendAccess m q with
      | some t => t.markPiece core q.id p.idx .reading
      | none => s

/-- An at-memory operation or counter decrement is sent to its home (R183, R194). (DEDUCED, log 40) -/
def State.sendOne (s : State) (core : BitVec 10) (q : Cmd) (p : Piece) (op : NetOp) (w sub : Nat)
    (entries : List AmoEntry) (data : List Byte) : State :=
  let go (loc : Loc) : State :=
    match s.sendAccess { Msg.request op core q p.idx loc w with
        sub := sub, entries := entries, data := data, final := homePort loc.byte } q with
    | some t => t.markPiece core q.id p.idx .reading
    | none => s
  match p.dst with
  | .dead => s.failPiece core q.id p.idx 0x05 .translation
  | .bad c => s.failPiece core q.id p.idx c .translation
  | .spad b => go (.phys (8 * spadBase core + b))
  | l => go l

/-- The order field of an AMO (R184). -/
def amoOrder (f : CpF) : BitVec 2 := bits f.tk3 0 2

/-- B × A on the base die (R58, R190): the output rows as bytes. -/
def State.bvecOut (s : State) (core : BitVec 10) (q : Cmd) : List (Nat × List Byte) :=
  let r := q.nest
  let locs := s.bvecLocs core q
  let fa := (Fmt.ofCode (Bvec.afmt r)).getD .bf16
  let fb := (Fmt.ofCode (Bvec.bfmt r)).getD .bf16
  let eb := Bvec.esize r
  let a (i k : Nat) : XR := exactOf fa (BitVec.ofNat 64
    (s.peekNat (spadBase core + (Bvec.aadr r + i * Bvec.apitch r + k * eb) / eb * eb) eb))
  let b (k j : Nat) : XR := exactOf fb (match locs.getD (k * Bvec.n r + j) .dead with
    | .phys x => BitVec.ofNat 64 (s.peekNat (x / 8) eb)
    | _ => 0)
  (List.range (Bvec.m r)).flatMap fun i => (List.range (Bvec.n r)).map fun j =>
    let y : Word32 :=
      if scaleOk (Bvec.sa r) && scaleOk (Bvec.sb r) then
        let sum := (List.range (Bvec.k r)).foldl (fun t k => XR.add .rne t ((a i k).mul (b k j))) (.fin 0 false)
        (roundFp (envRne true) .f32 (sum.divQ (scaleVal (Bvec.sa r) * scaleVal (Bvec.sb r)))).1.setWidth 32
      else 0x7FC00000
    ((Bvec.dadr r + i * Bvec.dpitch r + 4 * j) / 4 * 4, bytesOfNat 4 y.toNat)

/-- BVEC's output written to the scratchpad. -/
def State.bvecWrite (s : State) (core : BitVec 10) (q : Cmd) : State :=
  (s.bvecOut core q).foldl (fun (s : State) x => s.ownWrite core x.1 x.2) s

/-- BVEC reads a poisoned line, or a poisoned word of A (R236). -/
def State.bvecPoison (s : State) (core : BitVec 10) (q : Cmd) : Bool :=
  let r := q.nest
  !s.poisoned.isEmpty && (((s.bvecLocs core q).any fun l => match l with
      | .phys b => s.isPoisoned (b / 8) (Bvec.esize r)
      | _ => false)
    || (List.range (Bvec.m r)).any fun i =>
        s.isPoisoned (spadBase core + Bvec.aadr r + i * Bvec.apitch r) (Bvec.k r * Bvec.esize r))

/-- The errors BVEC's reads meet are logged (R236). -/
def State.bvecLog (s : State) (core : BitVec 10) (q : Cmd) : State :=
  let r := q.nest
  let s := (s.bvecLocs core q).foldl (fun (s : State) l => match l with
      | .phys b => s.logPoison (b / 8) (Bvec.esize r)
      | _ => s) s
  (List.range (Bvec.m r)).foldl (fun (s : State) i =>
    s.logPoison (spadBase core + Bvec.aadr r + i * Bvec.apitch r) (Bvec.k r * Bvec.esize r)) s

/-- The parameter request of a command (R191 to R193). -/
def paramSub : Instr → Nat
  | .pcon f => if f.tk3.getLsbD 0 then subPconBf else subPcon
  | .preadMst _ => subPread | .preadWbf _ => subPread + 1 | .preadWf8 _ => subPread + 2
  | .preadMom _ => subPread + 3 | _ => subPstat

/-- The stack of a module that an address on it lies on. -/
def stackAt (a : Nat) : Option Nat :=
  match placeOf a with
  | .stack i => some i
  | _ => none

/-- ENQ on another module: the tail is read first, so that the operation can name the old tail's place there
(R186, R343; DESIGN CHOICE, log 41). -/
def State.enqRead (s : State) (core : BitVec 10) (q : Cmd) (p : Piece) (m : BitVec 12) (b : Nat) : State :=
  match s.locate core q spcGlobal (8 * (q.ra.toNat % 2 ^ 56 / 8 * 8 + 8)) 64 true with
  | .remote n t =>
    if n = m ∧ stackAt (t / 8) = stackAt (b / 8) ∧ (stackAt (b / 8)).isSome then
      match s.sendAccess (Msg.request .readReq core q p.idx (.remote m t) 64) q with
      | some t => t.markPiece core q.id p.idx .reading
      | none => s
    else s.failPiece core q.id p.idx 0x06 .home
  | .bad c => s.failPiece core q.id p.idx c .home
  | .dead => s.failPiece core q.id p.idx 0x05 .home
  | _ => s.failPiece core q.id p.idx 0x06 .home

/-- ENQ on another module, its tail read: node and old tail must lie on the descriptor's stack. The packet's block
holds the node's virtual and physical address, and those of the tail that was read (R186; DESIGN CHOICE, log 41). -/
def State.enqSend (s : State) (core : BitVec 10) (q : Cmd) (p : Piece) (tail : Nat) : State :=
  let fail (c : BitVec 8) : State := s.failPiece core q.id p.idx c .home
  match p.dst with
  | .remote m b =>
    let onStack (va : Nat) : Except (BitVec 8) Nat :=
      match s.locate core q spcGlobal (8 * (va % 2 ^ 56)) 64 true with
      | .remote n x => if n = m ∧ stackAt (x / 8) = stackAt (b / 8) then .ok (x / 8) else .error 0x06
      | .bad c => .error c
      | .dead => .error 0x05
      | _ => .error 0x06
    let node := q.rb.toNat % 2 ^ 56 / 8 * 8
    (match onStack node, (if tail = 0 then .ok 0 else onStack tail) with
     | .ok n, .ok t =>
       (match s.sendAccess { Msg.request .atomic core q p.idx (.remote m b) 64 with
           sub := subEnq, data := bytesOfNat 8 node ++ bytesOfNat 8 n ++ bytesOfNat 8 tail ++ bytesOfNat 8 t } q with
        | some t => t.markPiece core q.id p.idx .reading
        | none => s.markPiece core q.id p.idx .waiting)
     | .error c, _ => fail c
     | _, .error c => fail c)
  | _ => fail 0x06

/-- Begins one element: a read, or at once its write; results of whole-command operations. ENQ stores its node's
pointer cut to 56 bits and aligned down to 8 bytes (R174, R186; DESIGN CHOICE, log 83). -/
def State.beginFresh (s : State) (core : BitVec 10) (q : Cmd) (p : Piece) : State :=
  let fail (c : BitVec 8) : State := s.failPiece core q.id p.idx c .translation
  match q.op with
  | .mset _ => s.haveData core q p []
  | .chase f => s.chaseNext core q ⟨q.ra.toNat, chaseHops (if f.rb = 0 then 0 else q.rb), []⟩ 0
  | .enq _ =>
    (match p.dst with
     | .phys _ => s.sendOne core q p .atomic 128 subEnq []
        (bytesOfNat 8 (q.ra.toNat % 2 ^ 56 / 8 * 8) ++ bytesOfNat 8 (q.rb.toNat % 2 ^ 56 / 8 * 8))
     | .remote m b => s.enqRead core q p m b
     | .bad c => fail c
     | .dead => fail 0x05
     | _ => s.failPiece core q.id p.idx 0x06 .home)
  | .cas _ | .casw _ | .dcas _ => s.sendCas core q p
  | .tdec _ | .tdecH _ => s.sendOne core q p .counter 32 0 []
      (bytesOfNat 4 (cmdAmount q.f.rb q.rb).toNat ++ bytesOfNat 8 (q.ra.toNat % 2 ^ 56))
  | .fenf _ => s.sendOne core q p .control 32 0 [] []
  | .bvec _ =>
    (match p.dst with
     | .bad c => fail c
     | .phys _ => s.sendOne core q p .readReq 8 1 [] []
     | _ =>
      if s.bvecPoison core q then (s.bvecLog core q).failPiece core q.id p.idx 0x07 .home
      else ((s.bvecWrite core q).noteStatus core q.id 0x01).markPiece core q.id p.idx .done)
  | .pcon f =>
    let n := if f.tk3.getLsbD 0 then 512 else 1024
    let o := q.rb.toNat / (n / 256) * (n / 256)
    (match s.ownBytes core o n with
     | some l => s.sendOne core q p .paramReq 512 (paramSub q.op) [] (padTo 64 (bytesOfNat 4 q.rc.toNat) ++ l)
     | none => (s.logPoison (spadBase core + o) n).failPiece core q.id p.idx 0x07 .home)
  | .preadMst f | .preadWbf f | .preadWf8 f | .preadMom f =>
    s.sendOne core q p .paramReq 512 (paramSub q.op) [] (bytesOfNat 4 (if f.rc = 0 then 0 else q.rc.toNat))
  | .pstat _ => s.sendOne core q p .paramReq 512 (paramSub q.op) [] []
  | .pref _ =>
    let n := min (2048 - p.src.byte % 2048) (q.rb.toNat % 2 ^ 32 - 2048 * p.idx)
    (match s.sendAccess (Msg.request .readReq core q p.idx p.src (8 * n)) q with
     | some t => t.markPiece core q.id p.idx .reading
     | none => s)
  | i =>
    match amoSub i with
    | some sub =>
      s.sendOne core q p (if sub = 9 then .atomic else .merge) (8 * amoWidth sub) sub
        [⟨0, q.rb, amoOrder q.f, 0, 0⟩] []
    | none =>
      let src := match q.op with
        | .lxred _ => p.dst
        | _ => p.src
      match src with
      | .spad b =>
        let w := srcWidth q p
        if s.isPoisoned (spadBase core + b / 8) (accessBytes w) then
          (s.logPoison (spadBase core + b / 8) (accessBytes w)).failPiece core q.id p.idx 0x07 .home
        else s.haveData core q p (s.physBytes (8 * spadBase core + b) w)
      | .dead =>
        (s.noteStatus core q.id 0x01).haveData core q p (List.replicate (accessBytes (srcWidth q p)) 0)
      | .bad c => (s.indexLog core q p c).failPiece core q.id p.idx c (if c = 0x07 then .home else .translation)
      | loc =>
        match s.sendAccess (Msg.request .readReq core q p.idx loc (srcWidth q p)) q with
        | some t => t.markPiece core q.id p.idx .reading
        | none => s

/-- Begins an element, or sends what could not be sent before. -/
def State.beginPiece (s : State) (core : BitVec 10) (q : Cmd) (p : Piece) : State :=
  match p.out, q.op with
  | some l, .chase _ => s.chaseNext core q (Walk.ofBytes l) 0
  | some l, _ => s.sendWrite core q p p.dst.byteStart (8 * l.length) l
  | none, _ => s.beginFresh core q p

/-! ### Pacing -/

/-- The command writes what its elements' places hold; the others only read there, and reads are never held
(R247). -/
def Cmd.writesPlace (q : Cmd) : Bool :=
  match q.op with
  | .bvec _ | .preadMst _ | .preadWbf _ | .preadWf8 _ | .preadMom _ | .pstat _ | .chase _ | .pref _ | .fenf _ => false
  | _ => true

/-- The places an ENQ writes beside its descriptor: its node, and the old tail as the list now stands (R186). -/
def State.enqPlaces (s : State) (core : BitVec 10) (q : Cmd) : List Loc :=
  match q.op with
  | .enq _ =>
    let place (va : Nat) : Loc := s.locate core q spcGlobal (8 * (va % 2 ^ 56)) 64 true
    let tail := match place (q.ra.toNat % 2 ^ 56 / 8 * 8 + 8) with
      | .phys b => s.peekNat (b / 8) 8
      | _ => 0
    place (q.rb.toNat % 2 ^ 56 / 8 * 8) :: (if tail = 0 then [] else [place tail])
  | _ => []

/-- New writes of a command to a place are held (R247). -/
def State.writeHeld (s : State) (core : BitVec 10) (q : Cmd) (l : Loc) : Bool :=
  q.writesPlace && (l :: s.enqPlaces core q).any fun l => match l with
    | .spad b => s.placeHeld (.phys (8 * spadBase core + b))
    | l => s.placeHeld l

/-- Two destinations share a byte. -/
def locOverlap (wa wb : Nat) (a b : Loc) : Bool :=
  let meet (x y : Nat) : Bool :=
    decide (x / 8 < (y + wb + 7) / 8) && decide (y / 8 < (x + wa + 7) / 8)
  match a, b with
  | .spad x, .spad y => meet x y
  | .phys x, .phys y => meet x y
  | .remote m x, .remote n y => m == n && meet x y
  | _, _ => false

/-- The command writes its elements strictly in the visiting order (R189). -/
def Cmd.inOrder (q : Cmd) : Bool :=
  match q.op with
  | .lxred _ => true
  | _ => false

/-- Bytes from an offset, when a place lies in the core's own scratchpad. -/
def Loc.ownSpan (l : Loc) (w : Nat) : List (Nat × Nat) :=
  match l with
  | .spad b => [(b / 8, accessBytes w)]
  | _ => []

/-- The bytes of an answer into the scratchpad; those of READ and PSTAT, and CHASE's list, take no more than these
(R186, R192, R193). -/
def resultRoom (q : Cmd) : Nat := if (amoSub q.op).isSome then 8 else 2056

/-- What an element uses of the core's own scratchpad, offsets and sizes: its source and destination, its index, operand
block, values and result, BVEC's rows (R176, R221). -/
def ownSpans (q : Cmd) (p : Piece) : List (Nat × Nat) :=
  p.src.ownSpan (srcWidth q p) ++ p.dst.ownSpan (dstWidth q p) ++ match q.op with
    | .cas _ | .casw _ | .dcas _ => [(blockOffset q, 2 * casSize q)]
    | .pcon f => [if f.tk3.getLsbD 0 then (q.rb.toNat / 2 * 2, 512) else (q.rb.toNat / 4 * 4, 1024)]
    | .bvec _ =>
      let r := q.nest
      (List.range (Bvec.m r)).flatMap fun i => [(Bvec.aadr r + i * Bvec.apitch r, Bvec.k r * Bvec.esize r),
        (Bvec.dadr r + i * Bvec.dpitch r, 4 * Bvec.n r)]
    | _ => ((resultOffset q).map fun o => (o, resultRoom q)).toList

/-- What a command uses of its core's scratchpad as it starts, an index list, and as it completes, MAPQ's answer (R176,
R182, R193, R221). -/
def Cmd.startSpans (q : Cmd) : List (Nat × Nat) :=
  match q.op with
  | .gath _ | .scat _ => [(q.rb.toNat / 4 * 4, 4 * Nest.cnt q.nest 1)]
  | _ => []
def Cmd.endSpans (q : Cmd) : List (Nat × Nat) :=
  match q.op with
  | .mapq _ => [(q.rb.toNat / 8 * 8, 16)]
  | _ => []

/-- An element may begin: no earlier element that shares destination bytes is undone, the final pass does not
hold its page, its banks owe nothing to older accesses, and the source port has room (R179, R189, R221, R247, R293).
(DESIGN CHOICE, log 76) -/
def State.pieceReady (s : State) (core : BitVec 10) (q : Cmd) (p : Piece) : Bool :=
  p.stage == .waiting && !q.stopped && decide ((s.inFlight (corePort core)).length < 256)
    && !(s.writeHeld core q p.dst) && !(s.bankTaken core s.net.msgs (ownSpans q p))
    && q.pieces.all fun o => !(decide (o.idx < p.idx)) || o.stage == .done
        || !(q.inOrder || locOverlap (dstWidth q o) (dstWidth q p) o.dst p.dst)
        || (q.partner p).map (·.idx) == some o.idx

/-- Tops up a command: each element in visiting order begins when it may. -/
def State.pump (s : State) (core : BitVec 10) (id : Nat) : State :=
  match s.cmd? core id with
  | none => s
  | some q =>
    q.pieces.foldl (fun (s : State) (p : Piece) =>
      match s.cmd? core id with
      | some q => if s.pieceReady core q p then s.beginPiece core q p else s
      | none => s) s

/-- Tops up every command of a core. -/
def State.pumpCore (s : State) (core : BitVec 10) : State :=
  (s.findCore core).running.foldl (fun (s : State) (q : Cmd) => s.pump core q.id) s

/-- Tops up every command of the module. -/
def State.pumpAll (s : State) : State :=
  (s.core :: s.parked).foldl (fun (s : State) (c : Core) => s.pumpCore c.id) s

/-- The byte an element's lone nibble goes into has been read: it is written back with the nibble (R179).
(DEDUCED, log 31) -/
def State.mergeNibble (s : State) (core : BitVec 10) (q : Cmd) (p : Piece) (nibble old : List Byte) : State :=
  let x := natOfBytes nibble
  let y := natOfBytes old
  let high := match p.dst with
    | .remote _ b => b % 8 != 0
    | _ => false
  s.sendWrite core q p p.dst.byteStart 8
    [BitVec.ofNat 8 (if high then y % 16 + 16 * x else y / 16 * 16 + x)]

/-- The nibble of a byte read from another module (R179). -/
def remoteNibble (l : Loc) (w : Nat) (data : List Byte) : List Byte :=
  match l with
  | .remote _ b => if w % 8 = 0 then data else [BitVec.ofNat 8 (natOfBytes data / 2 ^ (b % 8) % 2 ^ w)]
  | _ => data

/-- Data read for an element, or a result, reaches it (R294). -/
def State.takeData (s : State) (m : Msg) (q : Cmd) (p : Piece) (data : List Byte) : State :=
  match q.op with
  | .chase _ => s.chaseNext m.core q (Walk.ofBytes data) 0
  | .bvec _ =>
    let t := (s.bvecWrite m.core q).markPiece m.core q.id p.idx .done
    if (s.bvecLocs m.core q).any (· == .dead) then t.noteStatus m.core q.id 0x01 else t
  | .enq _ =>
    if m.op = .readResp then s.enqSend m.core q p (natOfBytes data)
    else match p.dst with
      | .remote _ _ =>
        -- another ENQ came between the tail's read and the operation: it is tried again
        if natOfBytes ((data.drop 8).take 8) = 0 then s.markPiece m.core q.id p.idx .waiting
        else s.finishPiece m.core q p.idx (data.take 8)
      | _ => s.finishPiece m.core q p.idx data
  | .tdec _ | .tdecH _ | .fenf _ | .pcon _ | .pref _ => s.markPiece m.core q.id p.idx .done
  | _ =>
    if (resultOffset q).isSome || p.stage == .writing || (amoSub q.op).isSome then s.finishPiece m.core q p.idx data
    else match p.out with
      | some l => s.mergeNibble m.core q p l data
      | none =>
        let src := match q.op with
          | .lxred _ => p.dst
          | _ => p.src
        s.haveData m.core q p (remoteNibble src (srcWidth q p) data)

/-- An answer reaches its command: data for an element read, a result, or a fault; PREF has none (R175, R194,
R294). -/
def State.deliver (s : State) (m : Msg) (data : List Byte) (code : BitVec 8) (why : FaultWhy) : State :=
  match s.cmd? m.core m.cmd with
  | none => s
  | some q =>
    match q.pieces.find? fun p => p.idx == m.idx with
    | none => s
    | some p =>
      let code : BitVec 8 := match q.op with
        | .pref _ => 0
        | _ => code
      let s :=
        if code = 0x02 then (s.noteStatus m.core q.id code).finishPiece m.core q p.idx []
        else if code ≠ 0 then s.failPiece m.core q.id p.idx code why
        else s.takeData m q p data
      s.pumpCore m.core

/-! ### Starting (R172, R206, R216, R282, R283) -/

/-- Acquire and release of a command's order fields (R184, R185, R283). -/
def Cmd.acquires (q : Cmd) : Bool :=
  match q.op with
  | .cas f | .casw f | .dcas f => f.tk3.getLsbD 4 || f.tk3.getLsbD 2
  | i => (amoSub i).isSome && q.f.tk3.getLsbD 0
def Cmd.releases (q : Cmd) : Bool :=
  match q.op with
  | .cas f | .casw f | .dcas f => f.tk3.getLsbD 5
  | i => (amoSub i).isSome && q.f.tk3.getLsbD 1

/-- Commands of the core issued before one that have not completed. -/
def Core.earlier (c : Core) (q : Cmd) : List Cmd := (c.queue ++ c.running).filter fun p => decide (p.id < q.id)

/-- The token's producer is a command whose fault the service has not resolved (R328). -/
def Core.unresolved (c : Core) (t : BitVec 6) : Bool :=
  c.running.any fun p => p.f.tko == t && p.stopped

/-- The tokens a command consumes: TK3 is one unless it carries a selector (R171, R173). -/
def Cmd.inputs (q : Cmd) : List (BitVec 6) :=
  ([q.f.tk1, q.f.tk2] ++ (if usesSel q.op then [] else [q.f.tk3])).filter (· != 63)

/-- An input token no longer holds its consumer: idle, done, or faulted by a retired command (R23, R328). -/
def Core.inputReady (c : Core) (t : BitVec 6) : Bool :=
  tokReady (c.token t) || (tokIsFaulted (c.token t) && !(c.unresolved t))

/-- A faulted command none of whose accesses is in flight: each has returned its acknowledgement or its fault
(R349). -/
def Cmd.halted (q : Cmd) : Bool := q.stopped && !q.inFlight

/-- The order rules of one command against the earlier ones (R188, R194, R206, R282, R283).
(DEDUCED, log 39) (DESIGN CHOICE, log 76) -/
def Core.orderOk (c : Core) (q : Cmd) : Bool :=
  let es := c.earlier q
  let fenced (f : Fence) : Bool :=
    decide (f.after ≤ q.id) && f.mask.getLsbD (modCls q.mod).toNat
      && (c.queue ++ c.running).any fun p => decide (p.id < f.after) && f.mask.getLsbD (modCls p.mod).toNat
  es.all (fun p => modCls p.mod != modCls q.mod && !p.acquires)
    && (!q.releases || es.isEmpty) && !(c.fences.any fenced)
    && (match q.op with
        | .tdec _ | .tdecH _ => es.isEmpty
        | .fenf _ => es.all fun p => match p.op with
            | .fenf _ => p.halted || bits p.ra 44 12 != bits q.ra 44 12
            | _ => true
        | _ => true)

/-- An LXRED that has elements waits for its block to land; one whose counts hold a 0 performs no access (R179,
R354). -/
def State.lacksBlock (s : State) (q : Cmd) : Bool :=
  q.inOrder && decide (0 < Nest.total q.nest) && (s.landedBlock q).isNone

/-- The operations whose accesses to another module count as fabric stores (R348). -/
def storesFabric (i : Instr) : Bool :=
  match i with
  | .enq _ | .chase _ | .cas _ | .casw _ | .dcas _ => true
  | i => mayMulticast i || (amoSub i).isSome

/-- A command has a fabric store toward a module that its receiver may not have performed yet (R188). What a CHASE
still meets is not known. (DEDUCED, log 44) -/
def State.storesTo (s : State) (core : BitVec 10) (p : Cmd) (m : BitVec 12) : Bool :=
  let q : Cmd := { p with map := ((s.context? p.asid).map (·.cur)).getD 0 }
  let started := ((s.findCore core).running.any fun r => r.id == p.id)
  storesFabric p.op && !p.halted && match p.op with
    | .chase _ => true
    | _ => (if started then p.pieces else s.piecesOf core q).any fun x => x.stage != .done && (match x.dst with
        | .remote d b => d == m || s.isMulticast (.remote d b)
        | _ => false)

/-- FENF waits for the earlier fabric stores of its classes to its module (R188). -/
def State.fenceClear (s : State) (c : Core) (q : Cmd) : Bool :=
  match q.op with
  | .fenf _ => (c.earlier q).all fun p =>
      !((fenceMask q).getLsbD (modCls p.mod).toNat) || !(s.storesTo c.id p (bits q.ra 44 12))
  | _ => true

/-- The slot and the landed block of a scheduled command (R189, R354). -/
def State.slotOk (s : State) (q : Cmd) : Bool :=
  match q.op with
  | .lxfer _ => decide (256 * q.rb.toNat ≤ s.ptb.toNat)
  | .lxred _ => decide (256 * q.rb.toNat ≤ s.ptb.toNat) && !(s.lacksBlock q)
  | _ => true

/-- A queued command of a core may start but for its slot (R172). (DEDUCED, log 39) (DESIGN CHOICE, log 76) -/
def State.startable (s : State) (c : Core) (q : Cmd) : Bool :=
  q.released && c.releasing.isEmpty && decide (c.running.length < 8) && c.mode != .idle
    && q.inputs.all c.inputReady
    && (match q.tile? with
        | some (t, _) => q.tileTaken && !(c.tileReadBit t) && !(c.tileWriteBit t)
        | none => true)
    && c.orderOk q && s.fenceClear c q && !(s.cutHolds q.asid) && !(s.bankTaken c.id s.net.msgs q.startSpans)

/-- A queued command of a core may start (R172). -/
def State.canStart (s : State) (c : Core) (q : Cmd) : Bool := s.startable c q && s.slotOk q

/-- The code a consumed faulted token passes on, if any (R328). -/
def Core.inheritedFault (c : Core) (q : Cmd) : Option (BitVec 8) :=
  (q.inputs.find? fun t => tokIsFaulted (c.token t)).map fun t => tokCode (c.token t)

/-- ENGINE_COMMAND_START: the focused core's command moves to an execution slot, under the current map, and
begins its accesses; a started command goes on with what it could not yet begin (R172, R243, R328). -/
def startCmd (s : State) : State :=
  match s.occ with
  | .num n =>
    let c := s.core
    match c.queue.find? fun q => q.id == n with
    | some q =>
      if s.canStart c q then
        let q := { q with map := ((s.context? q.asid).map (·.cur)).getD 0 }
        let q := match c.inheritedFault q with
          | some code => { q with faults := [(0, code, .inherited)], stopped := true }
          | none => { q with pieces := s.piecesOf c.id q }
        ((s.cachePlaces c.id q (q.pieces.flatMap fun p => [p.src, p.dst])).onCore fun c => { c with
          queue := c.queue.filter fun p => p.id != n, running := c.running ++ [q] }).pump c.id n
      else s
    | none => s.pump c.id n
  | _ => s

/-- ENGINE_COMMAND_START (R172). -/
def execEngineCommandStart (s : State) : Host.Outcome State Fault Refusal := event (startCmd s)

/-! ### Completing (R21, R172, R193) -/

/-- MAPQ's sixteen bytes (R193); a carried page of a transition that has not found it yet, or has faulted, is not
copied. -/
def State.mapqBytes (s : State) (q : Cmd) : List Byte :=
  match s.context? q.asid with
  | none => List.replicate 16 0
  | some x =>
    let m : BitVec 6 := if q.f.rc = 0 ∨ bits q.rc 6 58 ≠ 0 then x.cur else q.rc.setWidth 6
    let va := q.ra.toNat % 2 ^ 56
    let e : BitVec 64 := if x.nmap ≤ m.toNat then 0
      else ((findPage (x.maps.getD m.toNat []) va).map (·.entry)).getD 0
    let mv := x.moves.find? fun p => decide (p.va.toNat ≤ va) && decide (va < p.va.toNat + p.size)
    let carried := x.carried.any fun d => decide (d.va ≤ va) && decide (va < d.va + d.size)
    let copied := !x.tip || !carried || (mv.map (·.mirrored)).getD false
    let wrote := match mv with
      | some p => p.written
      | none => false
    let st : Word := 0#49 ++ BitVec.ofBool wrote ++ BitVec.ofBool copied ++ x.tgt ++ BitVec.ofBool x.tip ++ m
    bytesOfNat 8 e.toNat ++ bytesOfNat 8 st.toNat

/-- What a command does as it completes beside its accesses: MAPQ's result, XLINV's invalidation, a consumed landing
(R193, R194, R354). -/
def State.completionEffect (s : State) (q : Cmd) : State :=
  match q.op with
  | .mapq _ => s.ownWrite s.core.id (q.rb.toNat / 8 * 8) (s.mapqBytes q)
  | .xlinv _ => s.xlinv s.core.id q
  | .lxred _ => { s with fab := { s.fab with
      landing := s.fab.landing.filter fun e => !(e.smod == q.rc.setWidth 12 && e.slot == q.rb.setWidth 32) } }
  | _ => s

/-- After a command leaves the engine: waiting tiles, arrivals, posts and ring entries go on. -/
def State.settle (s : State) : State :=
  ((((s.onCore Core.takeTiles).makeArrivals).flushPosts).flushSpawns).pumpCore s.core.id

/-- The tile a command leaves: filled, or spilled and empty (R21). -/
def Core.leaveTile (c : Core) (q : Cmd) : Core :=
  match q.tile? with
  | some (t, fill) => c.setTile t (if fill then TileE.ready else TileE.empty) (TileE.ptok (c.tile t))
  | none => c

/-- A command of a core has performed every access; a write to a mirrored page counts with its second copy, and MAPQ's
answer follows older accesses to its bank (R221, R246). -/
def State.finished (s : State) (core : BitVec 10) (q : Cmd) : Bool :=
  !q.stopped && q.pieces.all (fun p => p.stage == .done) && !(s.bankTaken core s.net.msgs q.endSpans)
    && !(s.net.msgs.any fun m => m.couch && m.asid == q.asid && (m.idx == couchSecond || m.idx == couchLine))

/-- ENGINE_COMMAND_COMPLETE: the token becomes done, the tile advances, arrivals are made (R172). -/
def completeCmd (s : State) : State :=
  match s.occ with
  | .num n =>
    match s.core.running.find? fun q => q.id == n with
    | some q =>
      if s.finished s.core.id q then
        let s := s.completionEffect q
        (s.onCore fun c =>
          let c := { c with running := c.running.filter fun p => p.id != n }
          ((c.completeToken q.f.tko (tokDone q.status)).leaveTile q).retire (.cmd n)).settle
      else s
    | none => s
  | _ => s

/-- ENGINE_COMMAND_COMPLETE (R172). -/
def execEngineCommandComplete (s : State) : Host.Outcome State Fault Refusal := event (completeCmd s)

/-! ### Faulting and restarting (R21, R175, R328, R373) -/

/-- The first fault in element order (R175). -/
def firstFault : List (Nat × BitVec 8 × FaultWhy) → Option (Nat × BitVec 8 × FaultWhy)
  | [] => none
  | f :: r => match firstFault r with
    | some g => if g.1 < f.1 then some g else some f
    | none => some f

/-- The restart point: the first element that has not been performed (R175). -/
def Cmd.firstLeft (q : Cmd) : Nat :=
  ((q.pieces.find? fun p => p.stage != .done || q.faults.any fun f => f.1 == p.idx).map (·.idx)).getD 0

/-- An at-memory operation, a counter decrement or a FENF: lost with its outcome unknown, it may not run again
(R373). -/
def Cmd.unrepeatable (q : Cmd) : Bool :=
  match q.op with
  | .cas _ | .casw _ | .dcas _ | .enq _ | .chase _ | .tdec _ | .tdecH _ | .fenf _ => true
  | i => (amoSub i).isSome

/-- The element that failed. -/
def Cmd.failed (q : Cmd) : Option Piece := q.pieces.find? fun p => p.idx == q.faultAt

/-- The modules that the access of a faulted element went to: one, or those of a multicast group (R351). -/
def State.faultModules (s : State) (q : Cmd) : List (BitVec 12) :=
  match q.failed with
  | some p => (match p.dst with
    | .remote m b =>
      if s.isMulticast (.remote m b) then
        ((s.fab.groups.filter fun g => g.g.toNat == b / 8 / 2 ^ 32 % 256).flatMap fun g => g.dests.map (·.1))
      else [m]
    | _ => [])
  | none => []

/-- The element that failed translates now: only the service's change of its entry in place can have made it so,
for the command keeps the map it started under (R373). -/
def State.translatesNow (s : State) (core : BitVec 10) (q : Cmd) : Bool :=
  match (s.piecesOf core q).find? fun p => p.idx == q.faultAt with
  | some p => (match p.src, p.dst with
      | .bad _, _ => false
      | _, .bad _ => false
      | _, .dead => false
      | _, _ => true)
  | none => false

/-- How the service resolves a fault (R373): restart, retire, or wait for a route. -/
inductive FaultAnswer where
  | restart | retire | wait
  deriving DecidableEq, Repr

/-- R373's table by the fault's cause and code. A tag failure at the home leaves the access unperformed (R345).
(DEDUCED, log 42) -/
def State.faultAnswer (s : State) (core : BitVec 10) (q : Cmd) (code : BitVec 8) : FaultAnswer :=
  let lost := q.why == .response || q.why == .packet
  if q.why = .inherited ∨ q.why = .landing ∨ (lost ∧ q.unrepeatable) then .retire
  else match code.toNat with
    | 0x05 => if q.why = .translation ∧ s.translatesNow core q then .restart else .retire
    | 0x07 => if q.why = .unperformed ∨ q.why = .response then .restart else .retire
    | 0x08 =>
      let l := s.faultModules q
      if l.any s.svc.unreachable.contains then .retire
      else if l.all fun m => m == s.modid || !(s.routePorts m).isEmpty then .restart else .wait
    | _ => .retire

/-- The service retires a faulted command: the token stays faulted, the tile leaves filling or draining,
and the command never arrives (R21, R73, R328). -/
def Core.retireCmd (c : Core) (q : Cmd) : Core :=
  let c := { c with
    running := c.running.filter fun p => p.id != q.id
    arrs := c.arrs.filter fun a => a.on != .cmd q.id }
  match q.tile? with
  | some (t, fill) => c.setTile t (if fill then TileE.empty else TileE.ready) (if fill then TileE.ptok (c.tile t) else 0)
  | none => c

/-- ENGINE_FAULT: the command stops at its restart point and its token is faulted; a fault that R373 always
retires is retired (R175, R328). (DEDUCED, log 42) -/
def faultCmd (s : State) : State :=
  match s.occ with
  | .num n =>
    match s.core.running.find? fun q => q.id == n with
    | some q =>
      if q.stopped && !q.inFlight then
        match firstFault q.faults with
        | some f =>
          let q := { q with
            restart := q.firstLeft, faultAt := f.1, status := f.2.1, why := f.2.2, faults := [] }
          let s := s.onCore fun c => ({ c with
            running := c.running.map fun (p : Cmd) => if p.id = n then q else p }).completeToken q.f.tko (tokFaulted f.2.1)
          (match s.faultAnswer s.core.id q f.2.1 with
           | .retire => (s.onCore fun c => c.retireCmd q).settle
           | _ => s)
        | none => s
      else s
    | none => s
  | _ => s

/-- ENGINE_FAULT (R175). -/
def execEngineFault (s : State) : Host.Outcome State Fault Refusal := event (faultCmd s)

/-- FAULT_RESTART: the cause is removed, and the command is started again from its restart point (R328,
R373). -/
def restartCmd (s : State) : State :=
  match s.occ with
  | .num n =>
    match s.core.running.find? fun q => q.id == n with
    | some q =>
      if q.stopped && q.faults.isEmpty && s.core.mode != .idle && !(s.bankTaken s.core.id s.net.msgs q.startSpans) then
        match s.faultAnswer s.core.id q q.status with
        | .restart =>
          let ps := (s.piecesOf s.core.id q).map fun p =>
            if p.idx < q.restart then { p with stage := .done } else p
          let q' := { q with pieces := ps, stopped := false, status := if q.deadRead then 0x01 else 0, why := .home }
          (s.onCore fun c => ({ c with
            running := c.running.map fun (p : Cmd) => if p.id = n then q' else p }).completeToken q.f.tko tokBusy).pump
              s.core.id n
        | .retire => (s.onCore fun c => c.retireCmd q).settle
        | .wait => s
      else s
    | none => s
  | _ => s

/-- FAULT_RESTART (R328). -/
def execFaultRestart (s : State) : Host.Outcome State Fault Refusal := event (restartCmd s)

end Sys2Proof.Machine
end

