-- ==== Sys2Proof/Machine/Loader.lean ====
section
/-! DEFINITION. Loading a code object into a core's instruction store, also from another module's memory (R62, R225). -/

namespace Sys2Proof.Machine

open Sys2Proof

/-- The bundles of a code object's bytes (R62). -/
def bundlesOf (l : List Byte) : List Bundle :=
  let n := min 2048 (natOfBytes ((l.drop 8).take 4))
  (List.range n).map fun i => Vector.ofFn fun (k : Fin 8) =>
    BitVec.ofNat 64 (natOfBytes ((l.drop (64 + 64 * i + 8 * k.val)).take 8))

/-- The bundles of a code object in this module's memory (R62). The bytes are taken as they stand, and one that cannot
be read, or whose line is in error, as 0: the manual has no row for a dispatcher that meets an error (DESIGN CHOICE,
log 66). -/
def State.codeOf (s : State) (asid : BitVec 16) (code : Nat) : List Bundle :=
  let n := min 2048 (s.field asid (code + 8) 4)
  (List.range n).map fun i => Vector.ofFn fun (k : Fin 8) =>
    BitVec.ofNat 64 (s.field asid (code + 64 + 64 * i + 8 * k.val) 8)

/-- An address lies on a page of another module. -/
def State.isAway (s : State) (asid : BitVec 16) (va : Nat) : Bool :=
  match s.access asid va false false with
  | .ok (.remote _ _) => true
  | _ => false

/-- A code object may lie in part on another module: on a page that the longest object at its address reaches. -/
def State.codeAway (s : State) (asid : BitVec 16) (code : Nat) : Bool :=
  ([0, 0x10000, 0x20000, 64 + 64 * 2048 - 1] : List Nat).any fun o => s.isAway asid (code + o)

/-- The bytes that are read next: no more than a packet's, and none past a multiple of 64 KiB. -/
def CodeFetch.next (f : CodeFetch) (code : Nat) : Nat :=
  min (min 2048 (f.need - f.got.length)) (0x10000 - (code + f.got.length) % 0x10000)

/-- Bytes have come: with the header the object's length is known (R62). -/
def CodeFetch.take (f : CodeFetch) (l : List Byte) : CodeFetch :=
  let g := f.got ++ l
  ⟨if f.got.isEmpty then 64 + 64 * min 2048 (natOfBytes ((g.drop 8).take 4)) else f.need, g⟩

/-- The next bytes of a code object, where they lie on this module, as the dispatcher takes them. -/
def State.codeBytes (s : State) (asid : BitVec 16) (va n : Nat) : List Byte :=
  (List.range n).map fun i => BitVec.ofNat 8 (s.field asid (va + i) 1)

/-- A core's code object is read on: what lies here at once, what lies on another module by a read of the service, which
the answer continues; when all has come the store holds it (R225, R343). The number bounds the reads; bytes of a module
outside the peer set count as 0. (DESIGN CHOICE, log 66) -/
def State.fetchOn (s : State) (core : BitVec 10) : Nat → State
  | 0 => s
  | k + 1 =>
    let c := s.findCore core
    match c.fetch with
    | none => s
    | some f =>
      let va := c.codeVa.toNat + f.got.length
      let n := f.next c.codeVa.toNat
      if n = 0 then s.updCore core fun c => { c with code := bundlesOf f.got, fetch := none }
      else match s.access c.asid va false false with
        | .ok (.remote d b) =>
          if s.isPeer c.asid d then s.couchRead c.asid d (b / 8) n ⟨couchCode, 0, core.toNat, 0⟩
          else (s.updCore core fun c => { c with fetch := some (f.take (List.replicate n 0)) }).fetchOn core k
        | _ => (s.updCore core fun c => { c with fetch := some (f.take (s.codeBytes c.asid va n)) }).fetchOn core k

/-- Reads that a code object takes at most: its header, and the rest cut at 2048 bytes and at multiples of 64 KiB. -/
def fetchReads : Nat := 128

/-- The bytes a core waits for have come from another module; without them zeros count (R225). (DESIGN CHOICE, log 66)
-/
def State.codeArrived (s : State) (core : BitVec 10) (data : List Byte) : State :=
  let c := s.findCore core
  match c.fetch with
  | none => s
  | some f =>
    let n := f.next c.codeVa.toNat
    let l := if data.length = n then data else List.replicate n 0
    (s.updCore core fun c => { c with fetch := some (f.take l) }).fetchOn core fetchReads

/-- The dispatcher loads the code object that a core's task names into its store; from another module's memory the core
waits for it (R225). -/
def State.loadStore (s : State) (core : BitVec 10) : State :=
  let c := s.findCore core
  if s.codeAway c.asid c.codeVa.toNat then
    (s.updCore core fun c => { c with code := [], fetch := some ⟨64, []⟩ }).fetchOn core fetchReads
  else s.updCore core fun c => { c with code := s.codeOf c.asid c.codeVa.toNat }

end Sys2Proof.Machine
end

