-- ==== Sys2Proof/Machine/Phase.lean ====
section
/-! DEFINITION. The couch engines: the diff of two maps, the copy passes, the cut and the end of mirroring
(R232, R244 to R253). -/

namespace Sys2Proof.Machine

open Sys2Proof

/-! ### Copies (R245, R250) -/

/-- The couch engine of a context's transition has accesses in flight over the fabric. -/
def State.couchBusy (s : State) (asid : BitVec 16) : Bool :=
  let n := ((s.context? asid).map (·.trans)).getD 0
  s.net.msgs.any fun m => m.couch && m.asid == asid && m.cmd == n

/-- Accesses of an earlier, abandoned transition's couch engine are still in flight: the next one's diff waits for
them (R251; DESIGN CHOICE, log 79). -/
def State.couchStale (s : State) (x : Context) : Bool :=
  s.net.msgs.any fun m => m.couch && m.asid == x.asid && m.idx == couchCopy && m.cmd != x.trans

/-- Writes zeros over a range of this module's memory; its poison goes, and its frames are refreshed. -/
def State.zeroRange (s : State) (a n : Nat) : State :=
  { s with
    mem := Sparse.clear (fun k => decide (a ≤ k) && decide (k < a + n)) s.mem
    poisoned := s.poisoned.filter fun u => !(decide (a ≤ u) && decide (u < a + n))
    unrefreshed := s.unrefreshed.filter fun f =>
      !(decide (a ≤ f.toNat * 0x10000) && decide (f.toNat * 0x10000 < a + n)) }

/-- Writes a stretch's destination with zeros and fresh check bits (R232, R244). -/
def State.zeroPiece (s : State) (asid : BitVec 16) (d : DiffPiece) : State :=
  match frameLoc d.dst d.dstOff with
  | .phys b =>
    if s.mayWrite asid (b / 8) then s.zeroRange (b / 8) d.size
    else s.faultTransition asid 0x06 (BitVec.ofNat 56 d.va)
  | .remote m b =>
    if s.isPeer asid m then s.couchWrite asid m (cellsFrom (b / 8) (List.replicate d.size 0)) ⟨couchCopy, s.transNow asid, d.va, 0⟩
    else s.faultTransition asid 0x06 (BitVec.ofNat 56 d.va)
  | _ => s

/-- Data read for a page lands in its destination frame from an offset on. -/
def State.copyTo (s : State) (asid : BitVec 16) (m : PageMove) (off : Nat) (l : List Byte) : State :=
  match m.dst with
  | .phys b =>
    if s.mayWrite asid (b / 8 + off) then s.poke (cellsFrom (b / 8 + off) l)
    else s.faultTransition asid 0x06 m.va
  | .remote d b =>
    s.couchWrite asid d (cellsFrom (b / 8 + off) l) ⟨couchCopy, s.transNow asid, m.va.toNat + off / 4096 * 4096, 0⟩
  | _ => s

/-- A sub-block's copy: at once where the source is here, else by two reads of the remote frame (R245). A scratchpad
that holds another context's data is not read (R222, R223). -/
def State.copySub (s : State) (asid : BitVec 16) (m : PageMove) (b : Nat) : State :=
  match m.src with
  | .phys x =>
    let a := x / 8 + 4096 * b
    if !(s.mayWrite asid a) then s.faultTransition asid 0x06 m.va
    else if s.isPoisoned a 4096 then (s.logPoison a 4096).faultTransition asid 0x07 m.va
    else (s.touchAll a 4096).copyTo asid m (4096 * b) (s.peekBytes a 4096)
  | .remote d x =>
    if s.isPeer asid d then
      ([0, 2048] : List Nat).foldl (fun (s : State) o =>
        s.couchRead asid d (x / 8 + 4096 * b + o) 2048 ⟨couchCopy, s.transNow asid, m.va.toNat + 4096 * b, 0⟩) s
    else s.faultTransition asid 0x06 m.va
  | _ => s

/-- The page of a list whose source frame, on another module, holds a place, and the offset in it. -/
def pageFrom (l : List PageMove) (x : Loc) : Option (PageMove × Nat) :=
  l.findSome? fun p => match x with
    | .remote _ _ => (p.offsetOf x).map fun o => (p, o)
    | _ => none

/-- The written bytes of a line of a mirrored page, read where its frame lies, go to the second frame: no others, since
a command under the new map may have written there (R246, R287). -/
def State.secondLine (s : State) (asid : BitVec 16) (trans : Nat) (m : PageMove) (off : Nat) (bytes : BitVec 64)
    (l : List Byte) : State :=
  let cells := ((cellsFrom off l).zipIdx.filter fun c => bytes.getLsbD c.2).map (·.1)
  let t := s.secondCopy asid trans m cells
  match m.dst with
  | .phys b => if cells.all fun c => s.mayWrite asid (b / 8 + c.1) then t.store (cells.map fun c => (b / 8 + c.1, c.2)) else t
  | _ => t

/-- The virtual address of the page that a couch engine's access was for (R248). -/
def Context.faultPage (x : Context) (va : Nat) : VAddr :=
  match (x.moves ++ x.mirrors).find? fun p => decide (p.va.toNat ≤ va) && decide (va < p.va.toNat + p.size) with
  | some p => p.va
  | none => ((findPage (x.maps.getD x.tgt.toNat []) va).map (·.va)).getD (BitVec.ofNat 56 va)

/-- An answer to a couch engine's access: data goes on to the destination, a code faults the transition the access
belonged to; a copy of an abandoned transition is dropped (R246, R251). -/
def State.couchAnswer (s : State) (m : Msg) (data : List Byte) (code : BitVec 8) : State :=
  match s.context? m.asid with
  | none => s
  | some x =>
    if m.idx = couchCode then s.codeArrived (BitVec.ofNat 10 m.sub) data
    else if code ≠ 0 then s.secondFails m.asid m.cmd code (x.faultPage m.sub)
    else if m.op ≠ .readReq then s
    else if m.idx = couchLine then
      match pageFrom (x.mirrored.filter fun p => x.transOf p == m.cmd) m.loc with
      | some (p, off) => s.secondLine m.asid m.cmd p off (BitVec.ofNat 64 (natOfBytes m.data)) data
      | none => s
    else if m.cmd = x.trans then
      match pageFrom x.moves m.loc with
      | some (p, off) => s.copyTo m.asid p off data
      | none => s
    else s

/-! ### Writes to source frames on other modules (R245, R246) -/

/-- The bytes of a stretch of `n` bytes from a place, in its page: sub-blocks. -/
def subBlocks (o n : Nat) : List Nat := (List.range ((o + n - 1) / 4096 - o / 4096 + 1)).map (o / 4096 + ·)

/-- The bytes of a line that `n` bytes from an address are. -/
def lineBytes (line a n : Nat) : BitVec 64 :=
  BitVec.ofNat 64 ((List.range 64).foldl (fun m j => m + (if a ≤ 64 * line + j ∧ 64 * line + j < a + n then 2 ^ j else 0)) 0)

/-- A second copy of bytes of one line: the newest read of the line stands for all that were asked for (R246, R287). -/
def State.mirrorLine (s : State) (asid : BitVec 16) (trans : Nat) (d : BitVec 12) (line va : Nat) (bytes : BitVec 64) :
    State :=
  let old := s.net.msgs.filter fun m => m.couch && m.asid == asid && m.idx == couchLine && m.cmd == trans
    && m.loc == .remote d (512 * line)
  let all := old.foldl (fun (b : BitVec 64) m => b ||| BitVec.ofNat 64 (natOfBytes m.data)) bytes
  ((old.map (·.id)).foldl State.dropMsg s).couchRead asid d (64 * line) 64 ⟨couchLine, trans, va, all⟩

/-- A write of `n` bytes has been performed on another module: where it lies in a page that moves, it is dirty; where
in one that is mirrored, its bytes go to the second frame as their owner now holds them (R245, R246).
(DEDUCED, log 46) -/
def State.remoteWrote (s : State) (asid : BitVec 16) (l : Loc) (n : Nat) : State :=
  match s.context? asid, l with
  | some x, .remote d b =>
    let n := max 1 n
    let s := s.updContext asid fun x => { x with moves := x.moves.map fun m => match m.offsetOf l with
      | some o => { m with
          written := true
          dirty := if m.mirrored then m.dirty
            else (m.dirty ++ (subBlocks o n).filter fun k => !(m.todo.contains k)).dedup }
      | none => m }
    (x.mirrored.filter fun m => (m.offsetOf l).isSome).foldl (fun (s : State) m =>
      (List.range ((b / 8 + n - 1) / 64 - b / 8 / 64 + 1)).foldl (fun (s : State) i =>
        let line := b / 8 / 64 + i
        s.mirrorLine asid (x.transOf m) d line m.va.toNat (lineBytes line (b / 8) n)) s) s
  | _, _ => s

/-! ### Passes (R245) -/

/-- Whether the couch engine copies a sub-block early in a pass; the order is the implementation's (DESIGN CHOICE, log
5). (DESIGN CHOICE, log 3) -/
def State.early (s : State) (b : Nat) : Bool := (Config.freeValue 20 (s.free + b)).getLsbD 0

/-- A page whose copies go over the fabric. -/
def PageMove.overFabric (m : PageMove) : Bool :=
  match m.src, m.dst with
  | .remote _ _, _ => true
  | _, .remote _ _ => true
  | _, _ => false

/-- Sub-blocks of a context's transition that are being copied over the fabric. -/
def State.copying (s : State) (asid : BitVec 16) : Nat :=
  ((s.net.msgs.filter fun m => m.couch && m.asid == asid && m.idx == couchCopy).map (·.sub)).dedup.length

/-- The sub-blocks that start now: all that lie on this module, and of the others as many as there is room for. -/
def startNow : Nat → List (PageMove × Nat) → List (PageMove × Nat)
  | _, [] => []
  | room, w :: r =>
    if w.1.overFabric then (match room with
      | 0 => startNow 0 r
      | n + 1 => w :: startNow n r)
    else w :: startNow room r

/-- Copies the sub-blocks of the pass that `pick` selects, up to 64 at once: their dirty bits are clear from then on
(R245, R248). -/
def State.copyTodo (s : State) (asid : BitVec 16) (pick : Nat → Bool) : State :=
  match s.context? asid with
  | none => s
  | some x =>
    let work := x.moves.flatMap fun m => (m.todo.filter pick).map fun b => (m, b)
    let l := startNow (64 - s.copying asid) work
    let t := s.updContext asid fun x => { x with moves := x.moves.map fun (m : PageMove) =>
      { m with todo := m.todo.filter fun b => !(l.any fun w => w.1.va == m.va && w.2 == b) } }
    l.foldl (fun (t : State) w => t.copySub asid w.1 w.2) t

/-- A page of the transition still has sub-blocks its pass has not begun. -/
def Context.passLeft (x : Context) : Bool := x.moves.any fun m => !m.todo.isEmpty

/-- A pass begins: some of its sub-blocks are copied at once, the others by its end (R245). -/
def State.beginPass (s : State) (asid : BitVec 16) : State :=
  State.copyTodo { s with free := s.free + 1 } asid s.early

/-- The dirty sub-blocks of a page become its next pass's work. -/
def PageMove.next (m : PageMove) : PageMove :=
  if m.mirrored then m else { m with todo := m.todo ++ m.dirty, dirty := [] }

/-! ### Events (R248) -/

/-- The context of an occurrence when its couch engine is in a state. -/
def State.transition (s : State) (st : Couch) : Option Context :=
  match s.occ with
  | .context asid => (match s.context? asid with
    | some x => if x.eng = st then some x else none
    | none => none)
  | _ => none

/-- COUCH_ENGINE_FREE: a waiting transition takes one of its home die's four engines (R248). -/
def execCouchEngineFree (s : State) : Host.Outcome State Fault Refusal :=
  event (match s.transition .diffing with
    | some x =>
      if !x.hasEngine && decide ((s.contexts.filter fun y => y.hasEngine && y.home == x.home).length < 4) then
        s.updContext x.asid fun x => { x with hasEngine := true }
      else s
    | none => s)

/-- The couch engine reads the two maps of a transition (R233, R244). -/
def State.readMaps (s : State) (x : Context) : State :=
  [x.cur.toNat, x.tgt.toNat].foldl (fun (s : State) m =>
    (x.maps.getD m []).foldl (fun (s : State) p => s.cachePage (.couch x.asid) x m p) s) s

/-- The diff of a transition's two maps ends (R244, R248). -/
def diffEnds (s : State) (x : Context) : State :=
  let s := s.readMaps x
  let l := (diffPieces x.map (x.maps.getD x.tgt.toNat [])).map fun d => (d, d.work)
  match l.find? fun p => p.2 == .fault with
  | some p => s.faultTransition x.asid 0x05 (BitVec.ofNat 56 p.1.va)
  | none =>
    let zeros := (l.filter fun p => p.2 == .zero).map (·.1)
    let moves := (l.filter fun p => p.2 == .carry).map fun p => p.1.move
    if zeros.isEmpty && moves.isEmpty then s.updContext x.asid fun x => { x with eng := .complete }
    else
      let s := s.updContext x.asid fun x => { x with eng := .copying, moves := moves, prem := moves.length }
      (zeros.foldl (fun (s : State) d => s.zeroPiece x.asid d) s).beginPass x.asid

/-- DIFF_DONE (R248). -/
def execDiffDone (s : State) : Host.Outcome State Fault Refusal :=
  event (match s.transition .diffing with
    | some x => if x.hasEngine && !(s.couchStale x) then diffEnds s x else s
    | none => s)

/-- What a pass's end makes of a context (R245, R248). -/
def Context.passEnd (x : Context) : Context :=
  let moves := x.moves.map fun (m : PageMove) =>
    if !m.mirrored && m.dirty.isEmpty then { m with mirrored := true } else m
  let left := (moves.filter fun m => !m.mirrored).length
  let x : Context := { x with moves := moves, prem := left, pass := x.pass + 1 }
  if left = 0 then { x with eng := .complete }
  else if x.pass = 3 then { x with eng := .finalPass }
  else { x with moves := x.moves.map PageMove.next }

/-- PASS_END: the pass's last sub-blocks are copied; once their data has landed the pass ends (R245). -/
def execPassEnd (s : State) : Host.Outcome State Fault Refusal :=
  event (match s.transition .copying with
    | some x =>
      let s := s.copyTodo x.asid fun _ => true
      if s.couchBusy x.asid || ((s.transition .copying).map Context.passLeft).getD true then s
      else
        let s := s.updContext x.asid Context.passEnd
        if (s.transition .copying).isSome then s.beginPass x.asid else s
    | none => s)

/-- A packet of another module writes what its lines' places hold (R343). -/
def packetWrites (p : Packet) : Bool :=
  [0x01, 0x05, 0x07, 0x09, 0x0C].contains p.type.toNat
    || (p.type == 0x0B && (decide (p.aux.toNat ≤ 1) || decide (9 ≤ p.aux.toNat)))

/-- The packet asks for something, and answers nothing (R343). -/
def packetAsks (p : Packet) : Bool :=
  [0x01, 0x02, 0x05, 0x07, 0x09, 0x0A, 0x0C].contains p.type.toNat
    || (p.type == 0x0B && p.aux.toNat % 256 != auxParamResponse)

/-- A gateway holds a packet's write: its page stands in the final pass (R247). -/
def State.packetHeld (s : State) (p : Packet) : Bool :=
  packetWrites p && (List.range (max 1 p.lines.length)).any fun i => s.placeHeld (.phys (8 * s.forwarded (p.addr.toNat + 64 * i)))

/-- A write through a held page travels: a request of another module on its way to its home unit, or a decrement that no
token waits for (R247). -/
def State.msgHeld (s : State) (m : Msg) : Bool :=
  (match m.packet with
   | some p => !m.final.isTrepin && !m.op.answers && s.packetHeld p
   | none => false) || (m.op == .counter && m.bare && s.placeHeld m.loc)

/-- A write through a held page is in flight (R247). -/
def State.heldInFlight (s : State) : Bool :=
  ((s.core :: s.parked).any fun c => c.running.any fun q => q.pieces.any fun p =>
    (p.stage == .reading || p.stage == .writing) && s.writeHeld c.id q p.dst)
    || s.net.msgs.any s.msgHeld

/-- The writes that the final pass of a context holds (R247). -/
def State.heldNow (s : State) (x : Context) : List Held :=
  ((s.core :: s.parked).flatMap fun c => (c.running.filter fun q => q.asid == x.asid && !q.stopped).flatMap fun q =>
      (q.pieces.filter fun p => p.stage == .waiting && s.writeHeld c.id q p.dst).map fun p =>
        .piece c.who q.id p.idx)
    ++ (((s.fab.arrived.map (·.packet)).filter s.packetHeld).map .packet)
    ++ (s.pan.recs.filter fun r => r.active && !r.wrote.isEmpty && s.placeHeld (.phys (8 * r.pa))).map fun r =>
      .update r.pa

/-- A page of the final pass has still something to copy. -/
def Context.finalLeft (x : Context) : Bool :=
  x.moves.any fun m => !m.mirrored && (!m.todo.isEmpty || !m.dirty.isEmpty)

/-- FINAL_PASS_DONE: the writes in flight have been performed, the held pages are copied and mirrored, and
held writes go on, before the cut (R247, R254). -/
def execFinalPassDone (s : State) : Host.Outcome State Fault Refusal :=
  event (match s.transition .finalPass with
    | some x =>
      if s.heldInFlight then s
      else
        let s := s.updContext x.asid fun x => { x with moves := x.moves.map PageMove.next }
        let s := s.copyTodo x.asid fun _ => true
        if s.couchBusy x.asid || ((s.transition .finalPass).map Context.finalLeft).getD true then s
        else
          let held := s.heldNow x
          (s.updContext x.asid fun x => { x with
            eng := .complete, prem := 0, heldBack := held
            moves := x.moves.map fun (m : PageMove) => { m with mirrored := true } }).pumpAll
    | none => s)

/-- TRANSITION_FAULT (R250). -/
def execTransitionFault (s : State) : Host.Outcome State Fault Refusal :=
  event (match s.occ with
    | .couchFault asid code va =>
      if decide (5 ≤ code.toNat) && decide (code.toNat ≤ 8) then (s.faultTransition asid code va).pumpAll else s
    | _ => s)

/-- The context after the cut (R248, R249). (DEDUCED, log 56) -/
def Context.cut (x : Context) : Context :=
  { x with
    eng := .idle, cur := x.tgt, tip := false, pass := 0, prem := 0, hasEngine := false
    mirrors := x.mirrors ++ x.moves, moves := [], padvs := [], heldBack := [] }

/-- CUR has become a context's target: every PADV that is stalled toward it has its end (R252). -/
def Core.cutMet (c : Core) (asid : BitVec 16) (n : BitVec 6) : Core :=
  if c.padvWait.isSome && c.asid == asid && c.padvTgt == n && c.padvEnd == .none then { c with padvEnd := .met } else c

/-- CUT_DONE: CUR is the target, the context's cached translations are invalid, every hold is released, the PADVs'
tokens are done, and those stalled toward it end their wait (R234, R249, R252). (DEDUCED, log 46) -/
def execCutDone (s : State) : Host.Outcome State Fault Refusal :=
  event (match s.transition .cutting with
    | some x =>
      if s.couchBusy x.asid then s
      else
        let s := (s.updContext x.asid Context.cut).mapCores fun c => c.cutMet x.asid x.tgt
        let s := s.invalidate x.asid 0 (2 ^ 56) fun _ => true
        x.padvs.foldl (fun (s : State) p => s.updMember p.1 fun c => c.completeToken p.2 (tokDone 0)) s
    | none => s)

/-- No command that started under an earlier map is left (R246, R249). (DEDUCED, log 46) -/
def State.oldCommandsDone (s : State) (x : Context) : Bool :=
  (s.core :: s.parked ++ s.sched.images.map (·.core)).all fun c => c.running.all fun q => q.asid != x.asid || q.map == x.cur

/-- A physical address after a page's mirroring has ended. (DEDUCED, log 47) -/
def PageMove.follow (m : PageMove) (a : Nat) : Nat :=
  match m.offset? a, m.dst with
  | some o, .phys b => b / 8 + o
  | _, _ => a

/-- What the pan units hold of the module `me`, with the addresses of this module's memory changed.
(DEDUCED, log 47) -/
def Pan.relocate (p : Pan) (me : BitVec 12) (f : Nat → Nat) : Pan :=
  let own (m : BitVec 12) (a : Nat) : Nat := if m = me then f a else a
  { p with
    recs := p.recs.map fun (r : RecInfo) => { r with
      pa := f r.pa, wrote := r.wrote.map fun c => (f c.1, c.2), chain := r.chain.map fun c => (c.1, own c.1 c.2) }
    reports := p.reports.map fun (r : Report) => { r with cell := f r.cell, recPa := own r.home r.recPa }
    releases := p.releases.map fun r => (f r.1, r.2.1, own r.2.1 r.2.2.1, r.2.2.2)
    firing := p.firing.map f }

/-- MIRRORING_END (R246). (DEDUCED, log 46) -/
def execMirroringEnd (s : State) : Host.Outcome State Fault Refusal :=
  event (match s.occ with
    | .page asid va => (match s.context? asid with
      | some x => (match x.mirrors.find? fun m => m.va == va with
        | some m =>
          if s.oldCommandsDone x then
            { s.updContext asid fun x => { x with mirrors := x.mirrors.erase m } with pan := s.pan.relocate s.modid m.follow }
          else s
        | none => s)
      | none => s)
    | _ => s)

/-- A frame is dead under a context's current map, with no old command left (R232). (DEDUCED, log 47) -/
def State.frameDead (s : State) (f : BitVec 28) : Bool :=
  s.contexts.any fun x => s.oldCommandsDone x && x.map.any fun p =>
    MapE.kind p.entry == 2 && MapE.back p.entry == 5
      && decide ((MapE.frame p.entry).toNat ≤ f.toNat)
      && decide (f.toNat < (MapE.frame p.entry).toNat + MapE.size p.entry / 0x10000)

/-- DEAD_FRAME_REFRESH_STOP: the frame's contents are lost; what its bytes hold is open (R232; DESIGN CHOICE, log 3).
(DEDUCED, log 47) -/
def execDeadFrameRefreshStop (s : State) : Host.Outcome State Fault Refusal :=
  event (match s.occ with
    | .frame f =>
      if s.frameDead f && !(s.unrefreshed.contains f) then
        State.poke { s with unrefreshed := f :: s.unrefreshed, free := s.free + 1 }
          ((List.range 0x10000).map fun i =>
            (f.toNat * 0x10000 + i, (Config.freeValue (0x100000 + i) s.free).setWidth 8))
      else s
    | _ => s)

end Sys2Proof.Machine
end

