-- ==== Sys2Proof/Machine/Sync.lean ====
section
/-! DEFINITION. The SY slot: barrier objects, tokens, fences, phases, handles, task end and spawn, time,
events and requests (R196 to R219), with the checkpoint, the landing of results, the end of a stall, the
release of stores and the performing of arrivals. -/

namespace Sys2Proof.Machine

open Sys2Proof

/-- A status mask result with latency 1 (R68, R197). -/
def State.status (s : State) (i : Instr) (kd : BitVec 4) (first second : Bool) : State :=
  s.result i (.k kd (statusMask first second) (BitVec.allOnes 256))

/-! ### Barrier objects (R198 to R203) -/

/-- SNOP of the SY slot; a yield bundle's run is the sequencer's (R65, R196). -/
def execSySnop (s : State) : Host.Outcome State Fault Refusal := issue .sySnop id s

/-- WAIT: passed and stale, as the object's phase stands at issue (R203). -/
def waitEffect (kd : BitVec 4) (obj : ObjName) (sb : BitVec 6) (s : State) : State :=
  let r := tokenPassed (s.obj obj).phase ((s.core.rs sb).setWidth 16)
  s.status (.wait kd obj sb) kd r.1 r.2

/-- WAIT (R203). -/
def execWait (kd : BitVec 4) (obj : ObjName) (sb : BitVec 6) (s : State) :
    Host.Outcome State Fault Refusal := issue (.wait kd obj sb) (waitEffect kd obj sb) s

/-- The amount of an ARRIVE: 1 for `s0`, else s[sa]<23:0> (R201). -/
def arriveAmount (sa : BitVec 6) (c : Core) : BitVec 32 :=
  if sa = 0 then 1 else (bits (c.rs sa) 0 24).setWidth 32

/-- ARRIVE at an object (R201). -/
def execArrive (obj : ObjName) (sa : BitVec 6) (s : State) : Host.Outcome State Fault Refusal :=
  issue (.arrive obj sa) (fun s => s.arriveNow (.obj obj) (arriveAmount sa s.core)) s

/-- ARRIVE through a handle (R200, R201). -/
def execArriveHandle (h : BitVec 3) (sa : BitVec 6) (s : State) : Host.Outcome State Fault Refusal :=
  issue (.arriveHandle h sa) (fun s =>
    s.arriveNow (.counter ((s.core.handle h).setWidth 56)) (arriveAmount sa s.core)) s

/-- Marks an object usable by the task (R199). -/
def Core.prepare (c : Core) (o : ObjName) : Core := { c with usable := o :: c.usable.filter fun p => p != o }

/-- A pod barrier packet: object in OPND bits 5:0, amount, expected count or phase in bits 31:8; bit 63 a
notice, bit 62 an initialisation with its phase in bits 47:32, bit 61 a question or its answer, bit 60 an
initialised object (R342, R343; DESIGN CHOICE, log 14). -/
def podPacket (m : BitVec 12) (score : BitVec 10) (pcid : BitVec 16) (index : BitVec 6) (x : BitVec 24)
    (kind : BitVec 4) (phase : BitVec 16) : Packet :=
  { Packet.bare with
    dmod := m, score := score, type := 0x0A, pcid := pcid
    opnd := kind ++ 0#12 ++ phase ++ x ++ 0#2 ++ index }

/-- The root tells the other modules of the peer set, but for one, an object's phase: after a phase
completed, or with `fresh` after an initialisation (R309). -/
def State.notifyPhase (s : State) (asid : BitVec 16) (o : ObjName) (phase : BitVec 16) (fresh : Bool)
    (but : BitVec 12) : State :=
  match s.context? asid with
  | none => s
  | some x =>
    ((List.range (x.modHi.toNat + 1)).filter fun m =>
      decide (x.modLo.toNat ≤ m) && decide (m ≠ s.modid.toNat) && decide (m ≠ but.toNat)).foldl
        (fun (s : State) m =>
          s.sendBarrier (podPacket (BitVec.ofNat 12 m) 0x3FF x.pcid o.index (phase.setWidth 24)
            (if fresh then 0xC else 0x8) 0)) s

/-- The object a BARI writes (R198). (DEDUCED, log 24) -/
def bariObject (sa : BitVec 6) (e : Bool) (h : BitVec 3) (c : Core) : Barrier :=
  let x := c.rs sa
  { exp := bits x 0 24, cnt := 0, phase := bits x 24 16, init := true
    handle := if e then some ((c.handle h).setWidth 56) else none }

/-- What a bundle boundary finds of the pod objects whose root is another module. (DESIGN CHOICE, log 13) -/
inductive PodStage where
  | ready
  | hold (s : State)
  | trap (bundle : Nat)

/-- One BARI of a group at a pod object of another module: the root is asked, or told what the object now
holds, and the group is held until it answers (R198, R309; DESIGN CHOICE, log 13). -/
def podStage1 (s : State) (pc : Nat) (o : ObjName) (b : Option Barrier) : PodStage :=
  let c := s.core
  let root := s.podRoot c.asid o
  if root = s.modid then .ready
  else match c.podAsk.find? fun q => q.pc == pc with
    | some q => (match q.ok with
      | none => .hold s.hold
      | some true => .ready
      | some false => .trap pc)
    | none =>
      let x := b.getD Barrier.fresh
      let s := match b with
        | some x => s.setObj c.who o x
        | none => s
      let s := s.onCore fun c => { c with podAsk := ⟨pc, s.fab.nextPid, none⟩ :: c.podAsk }
      .hold (s.sendBarrier (podPacket root c.id (s.pcidOf c.asid) o.index x.exp
        (if b.isSome then 0x4 else 0x2) x.phase)).hold

/-- The first of a group's pod objects that is not ready. (DESIGN CHOICE, log 13) -/
def podStage (s : State) : List (Nat × Bundle) → PodStage
  | [] => .ready
  | (pc, b) :: r =>
    let stage := match b.decode .sy with
      | .ok (.bari o sa e h) => podStage1 s pc o (some (bariObject sa e h s.core))
      | .ok (.bariAtt o) => podStage1 s pc o none
      | _ => .ready
    match stage with
    | .ready => podStage s r
    | x => x

/-- BARI: expected count, arrival count 0, phase, and the counter address a handle holds (R198). An object
of another module has been written when the group's checks passed (`podStage`). -/
def bariEffect (obj : ObjName) (sa : BitVec 6) (e : Bool) (h : BitVec 3) (s : State) : State :=
  let b := bariObject sa e h s.core
  let s := s.onCore fun c => c.prepare obj
  if s.podRoot s.core.asid obj = s.modid then
    let s := s.setObj s.core.who obj b
    if obj.scope = 5 then s.notifyPhase s.core.asid obj b.phase true s.modid else s
  else s

/-- BARI with ATT = 0 (R198). -/
def execBari (obj : ObjName) (sa : BitVec 6) (e : Bool) (h : BitVec 3) (s : State) :
    Host.Outcome State Fault Refusal := issue (.bari obj sa e h) (bariEffect obj sa e h) s

/-- BARI with ATT = 1 (R198). -/
def execBariAtt (obj : ObjName) (s : State) : Host.Outcome State Fault Refusal :=
  issue (.bariAtt obj) (fun s => s.onCore fun c => c.prepare obj) s

/-- An object after arrivals of amount `n`, with the phases they complete (R200). -/
def Barrier.arrive (b : Barrier) (n : Nat) : Barrier × Nat :=
  let x := b.cnt.toNat + n
  if b.exp = 0 then (b, 0)
  else
    ({ b with cnt := BitVec.ofNat 24 (x % b.exp.toNat), phase := b.phase + BitVec.ofNat 16 (x / b.exp.toNat) },
      x / b.exp.toNat)

/-- `k` completion decrements of a captured counter, each on its way with the ordering of the arrival that
completed the phase (R194, R200). -/
def State.completions (s : State) (a : Arrival) (va : VAddr) (k : Nat) : State :=
  { s with arrivals := s.arrivals ++ List.replicate k { a with target := .counter va, amount := 1 } }

/-- An arrival performed at an object: phases advance, and each completion sends its decrement of the captured
counter (R200). One at a pod object of another module travels to its root, and is noted here for the decrements of this
module's copy (R8, R309). -/
def State.arriveAt (s : State) (a : Arrival) (o : ObjName) : State :=
  let root := s.podRoot a.who.asid o
  if root ≠ s.modid then
    State.sendBarrier { s with podSent := s.podSent ++ [a] }
      (podPacket root a.core (s.pcidOf a.who.asid) o.index (a.amount.setWidth 24) 0 0)
  else
    let b := s.objAt a.who o
    let r := b.arrive a.amount.toNat
    let s := s.setObj a.who o r.1
    let s := if o.scope = 5 && decide (0 < r.2) then s.notifyPhase a.who.asid o r.1.phase false s.modid else s
    match b.handle with
    | some va => s.completions a va r.2
    | none => s

/-- A member's commands issued before `n` have completed (R194). -/
def State.quietBefore (s : State) (w : Member) (n : Nat) : Bool :=
  ((s.member? w).map fun c => !(c.outstandingBefore n)).getD true

/-- The final pass holds a counter's place, or a frame's retirement does (R247, R368). -/
def State.counterHeld (s : State) (asid : BitVec 16) (va : VAddr) : Bool :=
  match s.access asid (va.toNat / 4 * 4) false true with
  | .ok l => s.placeHeld l
  | _ => false

/-- What an arrival follows has been performed: the released stores of its task, and for a decrement every access
of the commands issued earlier, and its counter is not held (R8, R194, R200, R202, R247). -/
def arrivalReady (s : State) (a : Arrival) : Bool :=
  (((s.member? a.who).map fun c => c.releasing.all fun e => decide (a.stores ≤ e.id)).getD true)
    && (match a.target with
        | .obj _ => true
        | .counter va => s.quietBefore a.who a.before && (a.after.all fun x => s.quietBefore x.1 x.2)
          && !(s.counterHeld a.who.asid va))

/-- One arrival on its way is performed, or its decrement leaves for the counter's home (R200, R202, R294). -/
def performArrival (s : State) : State :=
  match s.occ with
  | .num n =>
    match s.arrivals[n]? with
    | some a =>
      if arrivalReady s a then
        let s := { s with arrivals := s.arrivals.eraseIdx n }
        match a.target with
        | .obj o => s.arriveAt a o
        | .counter va => s.sendCounter a.core a.who va a.amount
      else s
    | none => s
  | _ => s

/-- Barrier arrival (R200). -/
def execBarrierArrival (s : State) : Host.Outcome State Fault Refusal := event (performArrival s)

/-! ### Tokens and fences (R204 to R206) -/

/-- TWAIT: its stall and its trap are its checks; it changes no token (R204). -/
def execTwait (a b c : BitVec 6) (s : State) : Host.Outcome State Fault Refusal :=
  issue (.twait a b c) id s

/-- TTEST: done and faulted (R205). -/
def execTtest (kd : BitVec 4) (a : BitVec 6) (s : State) : Host.Outcome State Fault Refusal :=
  issue (.ttest kd a) (fun s =>
    s.status (.ttest kd a) kd (tokReady (s.core.token a)) (tokIsFaulted (s.core.token a))) s

/-- FENCE: commands of its classes issued from now on wait (R206). -/
def execFence (mask : BitVec 16) (scope : BitVec 3) (s : State) : Host.Outcome State Fault Refusal :=
  issue (.fence mask scope) (fun s => s.onCore fun c => { c with
    fences := c.fences ++ [⟨c.nextId, if mask = 0 then BitVec.allOnes 16 else mask, scope, false⟩] }) s

/-! ### Phases (R207 to R211) -/

/-- PNEXT's table: the new context and the busy status (R208). -/
def pnextOn (x : Context) (n : BitVec 6) : Context × Bool :=
  if x.tip then (x, x.tgt != n) else if x.cur = n then (x, false) else (x.start n, false)

/-- PNEXT (R208). -/
def pnextEffect (kd : BitVec 4) (rf : Bool) (r n : BitVec 6) (s : State) : State :=
  match s.context? s.core.asid with
  | some x =>
    let p := pnextOn x (phaseTarget rf r n s.core)
    (s.updContext x.asid fun _ => p.1).status (.pnext kd rf r n) kd p.2 false
  | none => s

/-- PNEXT (R208). -/
def execPnext (kd : BitVec 4) (rf : Bool) (r n : BitVec 6) (s : State) :
    Host.Outcome State Fault Refusal := issue (.pnext kd rf r n) (pnextEffect kd rf r n) s

/-- PADV acts: nothing, an abandonment at its first evaluation alone, or the cut, whose token is done when the cut
is (R209, R249, R252). (DEDUCED, log 64) -/
def padvEffect (tko : BitVec 6) (rf : Bool) (r n : BitVec 6) (s : State) : State :=
  let t := phaseTarget rf r n s.core
  match s.context? s.core.asid, padvStage tko t s with
  | some x, .cut =>
    let s := s.onCore fun c => { c.setToken tko tokBusy with padvWait := none }
    s.updContext x.asid fun x => { x with eng := .cutting, padvs := x.padvs ++ [(s.core.who, tko)] }
  | some x, .done =>
    let fresh := s.core.padvWait.isNone
    let s := s.onCore fun c => { c.completeToken tko (tokDone 0) with padvWait := none }
    s.updContext x.asid fun x => if fresh && x.cur = t && x.tip then x.abandon else x
  | _, _ => s

/-- A phase operation that its group's boundary has made issues without another effect (R76, R209, R210). -/
def phaseIssued (s : State) : State := s.onCore fun c => { c with phasesMade := c.phasesMade - 1 }

/-- PADV: its wait on the transition holds the group (R209). -/
def execPadv (tko : BitVec 6) (rf : Bool) (r n : BitVec 6) (s : State) :
    Host.Outcome State Fault Refusal :=
  if 0 < s.core.phasesMade then issue (.padv tko rf r n) phaseIssued s
  else match check (.padv tko rf r n) s with
  | .go =>
    match padvStage tko (phaseTarget rf r n s.core) s with
    | .wait t => .next t.hold
    | .trap t => .next (s.takeTrap t s.core.slotPos)
    | _ => issue (.padv tko rf r n) (padvEffect tko rf r n) s
  | _ => issue (.padv tko rf r n) (padvEffect tko rf r n) s

/-- PCANCEL abandons the transition in flight (R210, R251). -/
def pcancelEffect (s : State) : State := s.updContext s.core.asid fun x => if x.tip then x.abandon else x

/-- PCANCEL (R210, R251). -/
def execPcancel (s : State) : Host.Outcome State Fault Refusal :=
  issue .pcancel (fun s => if 0 < s.core.phasesMade then phaseIssued s else pcancelEffect s) s

/-- What the phase operations of a group find at its boundary: all are made, or one holds the group, or one traps at
its bundle. -/
inductive PhaseVerdict where
  | ready (s : State)
  | hold (s : State)
  | trap (t : TrapCond) (bundle : Nat) (s : State)

/-- Makes the phase operations of a group one after another, before anything of it issues: each is held while the
context is cutting, a PADV as long as its table has it wait, and the next follows on the state that it leaves (R76,
R209, R210, R248). (DEDUCED, log 64) -/
def makePhases : List (Nat × Instr) → State → PhaseVerdict
  | [], s => .ready s
  | (pc, i) :: l, s =>
    let made (u : State) : State := u.onCore fun c => { c with phasesMade := c.phasesMade + 1 }
    if phaseHeld i s then .hold s.hold
    else match i with
      | .padv tko rf r n =>
        (match (if s.core.padvWait.isNone then outTrap s.core tko else []) with
         | t :: _ => .trap t pc s
         | [] => match padvStage tko (phaseTarget rf r n s.core) s with
           | .wait u => .hold u.hold
           | .trap t => .trap t pc s
           | _ => makePhases l (made (padvEffect tko rf r n s)))
      | .pcancel => makePhases l (made (pcancelEffect s))
      | _ => makePhases l s

/-- The status word of PSTATQ (R211). -/
def phaseStatus (x : Option Context) : Word :=
  match x with
  | none => 0
  | some x =>
    0#8 ++ BitVec.ofNat 24 x.prem ++ 0#5 ++ x.fcode ++ BitVec.ofBool x.flt ++ BitVec.ofNat 2 x.pass
      ++ x.eng.code ++ x.tgt ++ BitVec.ofBool x.tip ++ x.cur

/-- PSTATQ (R211). -/
def execPstatq (sd : BitVec 6) (s : State) : Host.Outcome State Fault Refusal :=
  issue (.pstatq sd) (fun s =>
    s.result (.pstatq sd) (.s sd (phaseStatus (s.context? s.core.asid)))) s

/-! ### Handles, task end and spawn (R212 to R214) -/

/-- The value HSET writes: invalid for 0, else valid with its address (R25, R212). -/
def handleWord (x : Word) : Word := if x = 0 then 0 else 1#1 ++ 0#7 ++ bits x 0 56

/-- HSET (R212). -/
def execHset (h : BitVec 3) (sa : BitVec 6) (s : State) : Host.Outcome State Fault Refusal :=
  issue (.hset h sa) (fun s => s.result (.hset h sa) (.h h (handleWord (s.core.rs sa)))) s

/-- The cores that run the same task: the members of its gang that are not saved in an image (R318). -/
def State.gangCores (s : State) (t : TaskInfo) : List Core :=
  (s.core :: s.parked).filter fun c => match c.task with
    | some u => u.asid == t.asid && u.recVa == t.recVa && c.mode != .idle
    | none => false

/-- A freeze asked for is dropped, of every member of the task. -/
def State.dropFreeze (s : State) : State :=
  { s with
    core := { s.core with freeze := none }
    parked := s.parked.map fun c =>
      if c.task.isSome && c.asid == s.core.asid && c.who.recVa == s.core.who.recVa then { c with freeze := none } else c }

/-- TEND: the core finishes the task after this group; a freeze asked for and not yet taken is dropped, and the
loop around it ends (R112, R213, R329). -/
def execTend (s : State) : Host.Outcome State Fault Refusal :=
  issue .tend (fun s => (s.onCore fun c => { c with mode := .ending, loop := none }).dropFreeze) s

/-- Steps 1 and 2 of R213 have nothing left to wait for: results, arrivals, array, engine, tokens. A faulted token
whose command is unresolved still stands among the commands (R328; one that SVC faulted has none,
DESIGN CHOICE, log 36). -/
def endReady (c : Core) : Bool :=
  c.mx.isEmpty && c.queue.isEmpty && c.running.isEmpty && c.releasing.isEmpty && c.inflight.isEmpty
    && c.posts.isEmpty && !(c.arrs.any PendArr.due) && !(c.tokens.toList.any tokIsBusy)

/-- One group in which only results land: the results due become visible, then their flags reach FPC (R54, R69). -/
def Core.landGroup (c : Core) : Core :=
  let c := c.land
  { c with fpc := orFpc c.fpc c.flagsDue, flagsDue := 0 }

/-- Every result in flight lands as it would over the groups still to pass: by the groups that remain, those of one
group in issue order, with its flags and STAT bits (R54, R69). -/
def Core.landResults (c : Core) : Core := Nat.repeat Core.landGroup ((c.inflight.map (·.rem)).foldl max 0) c

/-- Every result in flight lands, and arrivals that waited for group starts are due (R213 step 1, R321). -/
def Core.landAll (c : Core) : Core :=
  let c := c.landResults
  { c with arrs := c.arrs.map fun p => match p.on with
      | .groups _ => { p with on := .groups 0 }
      | _ => p }

/-- The decrements of a member's arrivals have left for their counters (R194, R213). -/
def State.arrivalsGone (s : State) (w : Member) : Bool :=
  s.arrivals.all fun a => a.who != w || match a.target with
    | .obj _ => true
    | .counter _ => false

/-- Every member of a gang of `n` stands in TEND with nothing left to wait for (R213, R315). -/
def State.gangReady (s : State) (t : TaskInfo) : Bool :=
  let l := s.gangCores t
  decide (max 1 t.gang.toNat ≤ l.length)
    && l.all fun c => c.mode == .ending && endReady c && s.arrivalsGone c.who

/-- The successor counters of a record: SUCC0 to SUCC5 up to a 0, and when all six are used the list at
OVF (R310, R337; DEDUCED, log 15). -/
def State.successors (s : State) (asid : BitVec 16) (rec : VAddr) : List VAddr :=
  let read (a : Nat) : VAddr := BitVec.ofNat 56 (s.field asid a 8)
  let first := ((List.range 6).map fun i => read (rec.toNat + 56 + 8 * i)).takeWhile (· != 0)
  let ovf := s.field asid (rec.toNat + 104) 8
  if first.length = 6 ∧ ovf ≠ 0 then
    first ++ ((List.range 256).map fun i => read (ovf + 8 * i)).takeWhile (· != 0)
  else first

/-- A core gives up its task: banks released and zeroed, latches and handles invalid (R16, R213). -/
def Core.free (c : Core) : Core :=
  { c with
    mode := .idle, task := none, own := 0, acc := [], poisonedBanks := 0, poisonedWords := []
    trap := none, freeze := none, incoming := none, succSent := false
    wb0 := Latch.cleared, wb1 := Latch.cleared, handles := Vector.replicate 8 0, counts := []
    lastAsid := (c.task.map (·.asid)).orElse fun _ => c.lastAsid }

/-- Step 3 of R213: the successors are decremented once, by the last member to come, unless the final pass holds one of
them (R213, R247, R315). -/
def State.sendSuccessors (s : State) (t : TaskInfo) : State :=
  let l := s.successors t.asid t.recVa
  if l.any (s.counterHeld t.asid) then s.hold
  else
    let s := l.foldl (fun (s : State) va => s.sendCounter s.core.id s.core.who va 1) s
    (s.gangCores t).foldl (fun (s : State) c => s.updCore c.id fun c => { c with succSent := true }) s

/-- The decrements of a task's cores have been performed, or dropped (R213). -/
def State.decrementsDone (s : State) (t : TaskInfo) : Bool :=
  !(s.net.msgs.any fun m => m.op == .counter && m.bare && !m.unit && (s.gangCores t).any fun c => c.id == m.core)

/-- Step 4 of R213: the record is ended and every member's core freed (R213, R315). -/
def State.endTask (s : State) (t : TaskInfo) : State :=
  (s.gangCores t).foldl (fun (s : State) c => s.updCore c.id Core.free) (s.setTaskState t.asid t.recVa 6)

/-- The first step of R213 on the focused core: what is in flight lands, and what a checkpoint released is performed
or made. -/
def State.finishWork (s : State) : State :=
  (((s.onCore Core.landAll).releaseStores.makeArrivals).flushPosts).flushSpawns

/-- TEND_COMPLETE: the core lands what is in flight, waits for its array and engine, and the last member
of the gang ends the task (R213). -/
def tendStep (s : State) : State :=
  let s := s.finishWork
  match s.core.task with
  | none => s.onCore Core.free
  | some t =>
    if !(s.gangReady t) then s.hold
    else if !s.core.succSent then s.sendSuccessors t
    else if s.decrementsDone t then s.endTask t
    else s.hold

/-- TEND_COMPLETE (R213). -/
def execTendComplete (s : State) : Host.Outcome State Fault Refusal :=
  event (match s.core.mode with
    | .ending => tendStep s
    | _ => s)

/-- TSPAWN: status at issue; with room, the next ring entry is reserved (R214, R313). A queue that is closing or
refuses rings answers as a full ring does (DESIGN CHOICE, log 84). -/
def tspawnEffect (kd : BitVec 4) (sa sb : BitVec 6) (s : State) : State :=
  let qid : BitVec 14 := (s.core.rs sa).setWidth 14
  match s.queue? qid with
  | none => s
  | some q =>
    if q.rsz ≤ (q.tail - q.head).toNat || q.closing || q.refuse then
      s.status (.tspawn kd sa sb) kd false true
    else
      let s' := s.updQueue qid fun q => { q with
        tail := q.tail + 1
        reserved := q.reserved ++ [⟨q.tail, s.core.who, (s.core.rs sb).setWidth 56, s.core.nextId⟩] }
      (s'.status (.tspawn kd sa sb) kd true false).flushSpawns

/-- TSPAWN (R214). -/
def execTspawn (kd : BitVec 4) (sa sb : BitVec 6) (s : State) : Host.Outcome State Fault Refusal :=
  issue (.tspawn kd sa sb) (tspawnEffect kd sa sb) s

/-! ### Time, events and requests (R215 to R219) -/

/-- A TRAP or BRK that the service has asked to pass as SNOP (R217). -/
def passTrap (s : State) : State := s.onCore fun c => { c with skipBrk := none }

/-- TRAP (R217). -/
def execTrap (code : BitVec 16) (s : State) : Host.Outcome State Fault Refusal :=
  issue (.trap code) passTrap s

/-- BRK (R217). -/
def execBrk (code : BitVec 16) (s : State) : Host.Outcome State Fault Refusal :=
  issue (.brk code) passTrap s

/-- LIVE (R215). -/
def execLive (f : LiveF) (s : State) : Host.Outcome State Fault Refusal :=
  issue (.live f) (fun s => s.onCore fun c => { c with live := some f }) s

/-- TSLOT: its stall is its effect (R216). -/
def execTslot (sa : BitVec 6) (s : State) : Host.Outcome State Fault Refusal := issue (.tslot sa) id s

/-- NOTIFY: the post is withheld until a checkpoint commits it (R218). -/
def execNotify (sa : BitVec 6) (s : State) : Host.Outcome State Fault Refusal :=
  issue (.notify sa) (fun s => s.onCore fun c => { c with
    posts := c.posts ++ [⟨c.rs sa, c.nextId, false⟩] }) s

/-- The request codes a task may pass (R361). (DEDUCED, log 36, log 50) -/
def taskCode (code : BitVec 10) : Bool := code == 0x008 || code == 0x00A || code == 0x00C

/-- The message that takes a task's request to a service core of the core's die (R294; which of the two is not given:
DESIGN CHOICE, log 43). -/
def callMsg (r : SvcReq) : Msg :=
  { Msg.bare' .control r.core (corePort r.core) (servicePort (coreDie r.core) (Config.serviceSecond r.asid)) with
    cmd := r.tok.toNat, idx := r.gidx.toNat, asid := r.asid, sub := r.code.toNat, unit := true
    data := bytesOfNat 8 r.recVa.toNat ++ bytesOfNat 8 r.arg.toNat }

/-- The request a message brings. -/
def Msg.call (m : Msg) : SvcReq :=
  ⟨m.core, BitVec.ofNat 56 (natOfBytes (m.data.take 8)), BitVec.ofNat 3 m.idx, BitVec.ofNat 6 m.cmd, BitVec.ofNat 10 m.sub,
    BitVec.ofNat 64 (natOfBytes (m.data.drop 8)), m.asid, 0⟩

/-- The task of a request runs on a core. -/
def SvcReq.runsOn (r : SvcReq) (c : Core) : Bool :=
  match c.task with
  | some t => t.asid == r.asid && t.recVa == r.recVa && t.gidx == r.gidx
  | none => false

/-- A task's request ends: its token changes where the task is, on a core or in an image (R219). -/
def State.endCall (s : State) (r : SvcReq) (tok : BitVec 16) : State :=
  let s := { s with sched := { s.sched with images := s.sched.images.map fun (m : SaveImage) =>
    (if r.runsOn m.core then { m with core := m.core.completeToken r.tok tok } else m) } }
  ((s.core :: s.parked).filter r.runsOn).foldl (fun (s : State) c =>
    s.updCore c.id fun c => c.completeToken r.tok tok) s

/-- A request comes to the service, which serves those of a context in the order they come (R361); a poisoned one is not
performed (R296). -/
def State.takeCall (s : State) (m : Msg) : State :=
  if m.psn then s.endCall m.call (tokFaulted 0x07)
  else if (s.context? m.asid).isNone then s
  else { s with svc := { s.svc with
    requests := s.svc.requests ++ [{ m.call with stamp := s.svc.nextStamp }], nextStamp := s.svc.nextStamp + 1 } }

/-- SVC: the token is busy until the service, to which the request travels, answers; a code no task may request faults
with 0x06 (R219, R361). (DEDUCED, log 36) -/
def svcEffect (tko sa : BitVec 6) (code : BitVec 10) (s : State) : State :=
  if taskCode code then
    (s.onCore fun c => c.setToken tko tokBusy).sendMsg (callMsg
      ⟨s.core.id, s.core.recVa, ((s.core.task.map (·.gidx)).getD 0), tko, code, s.core.rs sa, s.core.asid, 0⟩)
  else s.onCore fun c => c.completeToken tko (tokFaulted 0x06)

/-- SVC (R219). -/
def execSvc (tko sa : BitVec 6) (code : BitVec 10) (s : State) : Host.Outcome State Fault Refusal :=
  issue (.svc tko sa code) (svcEffect tko sa code) s

/-! ### Events of the core (R8, R69, R74, R157) -/

/-- CHECKPOINT of the focused core (R74). -/
def execCheckpoint (s : State) : Host.Outcome State Fault Refusal := event s.checkpoint.flushSpawns

/-- RESULT_VISIBLE: a group starts, and the results due become visible (R69). -/
def execResultVisible (s : State) : Host.Outcome State Fault Refusal := event s.groupStart

/-- The error behind a memory-error trap that a bundle's check finds is logged (R236). -/
def State.logBundleTrap (s : State) (t : TrapCond) (slot bundle : Nat) : State :=
  match s.core.bundle? bundle, Slot.all.find? fun k => k.position == slot with
  | some b, some k => (match b.decode k with
    | .ok i => s.logMemTrap i t
    | .error _ => s)
  | _, _ => s

/-- The group or bundle at the boundary begins to issue; a group's first adds one to GRPC (R8, R29). -/
def Core.begin (c : Core) (irrev : Bool) : Core :=
  { c with passed := true, grpIrrev := irrev, grpc := if c.gpos = 0 then c.grpc + 1 else c.grpc }

/-- A trap that a boundary finds in a slot of a bundle. -/
def State.trapAt (s : State) (t : TrapCond) (slot bundle : Nat) : State :=
  (s.onCore fun c => { c with pc := bundle }).takeTrap t slot

/-- What the decision at a bundle boundary does to the core (R8, R76, R93). (DEDUCED, log 37) -/
def boundary (s : State) : State :=
  let l := if s.core.gpos = 0 then groupBundles s.core 8 s.core.pc else []
  let pods := podStage s (l.zipIdx.map fun p => (s.core.pc + p.2, p.1))
  let sy := Slot.position .sy
  match bundleAction s with
  | .trap t slot bundle => (s.logBundleTrap t slot bundle).trapAt t slot bundle
  | .hold t => t
  | .force => s.forcedCheckpoint
  | .commit => s.checkpoint
  | .go irrev =>
    (match pods with
     | .ready => s.onCore fun c => c.begin irrev
     | .hold t => t
     | .trap pc => s.trapAt ⟨.illegalEncoding, BitVec.ofNat 64 sy⟩ sy pc)
  | .phases =>
    (match pods with
     | .ready => (match makePhases (pendingPhases s.core l) s with
       | .ready t => t.onCore fun c => c.begin true
       | .hold t => t
       | .trap t pc u => u.trapAt t sy pc)
     | .hold t => t
     | .trap pc => s.trapAt ⟨.illegalEncoding, BitVec.ofNat 64 sy⟩ sy pc)

/-- STALL_UNTIL: a group that waits issues once its condition holds; until then it is held (R8). -/
def execStallUntil (s : State) : Host.Outcome State Fault Refusal := event (boundary s)

/-- WITHHELD_STORE_RELEASE: released stores that waited on a tile's bits are written once they clear
(R157). -/
def execWithheldStoreRelease (s : State) : Host.Outcome State Fault Refusal :=
  event (s.releaseStores.makeArrivals)

end Sys2Proof.Machine
end

