-- ==== Sys2Proof/Machine/Fabric.lean ====
section
/-! DEFINITION. The Trepin fabric: links and their units, what a gateway does with a packet it receives,
multicast, timeouts, retries, key slots and the pod time base (R309, R339 to R358). -/

namespace Sys2Proof.Machine

open Sys2Proof

/-! ### Links (R339, R340) -/

/-- A link. -/
def State.link (s : State) (p : BitVec 4) : LinkState := s.fab.links[p.toNat]'(p.isLt)

/-- ASEQ covers units: they leave the window, and waiting flits are sent (R340). -/
def LinkState.covered (l : LinkState) (aseq : BitVec 12) : LinkState :=
  match l.window.findIdx? fun u => u.fseq == aseq with
  | some i =>
    let l := { l with window := l.window.drop (i + 1), asked := 0 }
    let room := replayWindow - l.window.length
    (l.waiting.take room).foldl (fun l f => l.sendUnit 1 f) { l with waiting := l.waiting.drop room }
  | none => l

/-- A unit that carries no flit: idle, replay request or retrain (R339). -/
def LinkState.control (l : LinkState) (lt : BitVec 4) : LinkState := l.sendUnit lt (List.replicate 64 0)

/-- An idle unit follows what has been received, so that ASEQ reaches the peer (R339). The stream of units is
continuous; the model sends one for each unit it accepts, while the replay window has room (DESIGN CHOICE, log 87). -/
def LinkState.idle (l : LinkState) : LinkState := if l.window.length < replayWindow then l.control 0 else l

/-- DETAIL of a Trepin link event; the lane group and the peer's port are not given (R367; DESIGN CHOICE, log 3). -/
def linkDetail (p : BitVec 4) (fseq : BitVec 12) : Nat :=
  fseq.toNat + 2 ^ 12 * (Config.laneGroup p fseq).toNat + 2 ^ 16 + 2 ^ 20 * (Config.linkPeer p).toNat

/-- Logs an event of a port: its die is the port's (R291). -/
def State.logLink (s : State) (p : BitVec 4) (code : BitVec 8) (fseq : BitVec 12) : State :=
  s.addLog 2 code (bits p 2 2) (p.setWidth 8) (linkDetail p fseq)

/-- A unit in error or out of order is dropped and a replay is asked for; the eighth request in a row for one
unit makes the link retrain (R340). -/
def State.askReplay (s : State) (p : BitVec 4) : State :=
  let l := s.link p
  let s := (s.updLink p fun l => { l.control 2 with retries := l.retries + 1 }).logLink p 0x01 l.expect
  if 8 ≤ l.retries + 1 then { s with agenda := .event .retrain (.port p) :: s.agenda } else s

/-! ### Packets from flits (R342) -/

/-- A little-endian field of a header. -/
def hdr (l : List Byte) (o n : Nat) : Nat := natOfBytes ((l.drop o).take n)

/-- Data flits the header announces. -/
def hdrNdat (l : List Byte) : Nat := hdr l 19 1

/-- Flits of the packet whose header this is; a header with NDAT past 32 stands alone. -/
def packetSize (l : List Byte) : Nat :=
  let n := hdrNdat l
  if n ≤ 32 then 1 + n + (n + 3) / 4 else 1

/-- The reserved bits of a header are zero. -/
def hdrResZero (l : List Byte) : Bool :=
  decide (hdr l 0 2 < 2 ^ 12) && decide (hdr l 2 2 < 2 ^ 12) && decide (hdr l 4 2 < 2 ^ 10)
    && decide (hdr l 7 1 < 8) && decide (hdr l 8 8 < 2 ^ 44) && decide (hdr l 18 1 < 128)
    && decide (hdr l 40 8 < 2 ^ 56) && hdr l 48 8 == 0 && decide (hdrNdat l ≤ 32)

/-- The packet of a whole list of flits. -/
def packetOf (flits : List (List Byte)) : Packet :=
  let h := flits.headD []
  let n := hdrNdat h
  let data := (flits.drop 1).take n
  let tags := (flits.drop (1 + n)).flatten
  let f := hdr h 7 1
  { dmod := BitVec.ofNat 12 (hdr h 0 2), smod := BitVec.ofNat 12 (hdr h 2 2)
    score := BitVec.ofNat 10 (hdr h 4 2), type := BitVec.ofNat 8 (hdr h 6 1)
    kix := f % 2 == 1, mc := f / 2 % 2 == 1, psn := f / 4 % 2 == 1
    addr := BitVec.ofNat 44 (hdr h 8 8), pcid := BitVec.ofNat 16 (hdr h 16 2)
    cls := BitVec.ofNat 4 (hdr h 18 1), scope := BitVec.ofNat 3 (hdr h 18 1 / 16)
    pid := BitVec.ofNat 32 (hdr h 20 4), slot := BitVec.ofNat 32 (hdr h 24 4)
    aux := BitVec.ofNat 32 (hdr h 28 4), opnd := BitVec.ofNat 64 (hdr h 32 8)
    fcid := BitVec.ofNat 56 (hdr h 40 8), resZero := hdrResZero h
    lines := data.mapIdx fun i d =>
      ⟨BitVec.ofNat 64 (hdr tags (16 * i) 8), BitVec.ofNat 64 (hdr tags (16 * i + 8) 8), d⟩
    htag := BitVec.ofNat 64 (hdr h 56 8) }

/-- Adds units received by a port. -/
def addSeen (l : List (BitVec 4 × Nat)) (p : BitVec 4) (n : Nat) : List (BitVec 4 × Nat) :=
  if l.any fun x => x.1 == p then l.map fun x => if x.1 = p then (p, x.2 + n) else x else l ++ [(p, n)]

/-- A whole packet has come in by a port: it waits for its gateway, and its units count toward the release
of an old key slot (R346). -/
def State.packetIn (s : State) (port : BitVec 4) (flits : List (List Byte)) : State :=
  let p := packetOf flits
  (s.inbound port p).updPeer p.smod fun q => if p.kix = q.recvIx then { q with seen := addSeen q.seen port flits.length } else q

/-- A flit of a unit accepted in order (R340). -/
def State.acceptFlit (s : State) (p : BitVec 4) (u : LinkUnit) : State :=
  let rx := (s.link p).rx ++ [u.flit]
  let whole := decide (packetSize (rx.headD []) ≤ rx.length)
  let s := s.updLink p fun l => { l with rx := if whole then [] else rx }
  if whole then s.packetIn p rx else s

/-- LINK_UNIT: a unit of any kind is taken in FSEQ order, or dropped with a replay request (R340). -/
def takeUnit (s : State) (p : BitVec 4) (u : LinkUnit) : State :=
  let l := s.link p
  if !l.up then s
  else if u.crc ≠ unitCrc u ∨ u.fseq ≠ l.expect then s.askReplay p
  else
    let s := s.updLink p fun l =>
      (LinkState.covered { l with expect := l.expect + 1, acked := u.fseq, retries := 0 } u.aseq).idle
    match u.lt.toNat with
    | 1 => s.acceptFlit p u
    | 2 => { s with agenda := .event .replayRequest (.replay p (u.aseq + 1)) :: s.agenda }
    | 3 => { s with agenda := .event .retrain (.port p) :: s.agenda }
    | _ => s

/-- LINK_UNIT (R340). -/
def execLinkUnit (s : State) : Host.Outcome State Fault Refusal :=
  event (match s.occ with
    | .unit p u => takeUnit s p u
    | _ => s)

/-- REPLAY_REQUEST: every unit from the named one onward is resent as first sent; the eighth request in a row
for it makes the link retrain (R340). -/
def replayFrom (s : State) (p : BitVec 4) (first : BitVec 12) : State :=
  let l := s.link p
  let n := if l.askedFor = first ∧ 0 < l.asked then l.asked + 1 else 1
  let s := (s.updLink p fun l => { l with
    out := l.out ++ l.window.dropWhile fun u => u.fseq != first
    asked := n, askedFor := first }).logLink p 0x01 first
  if 8 ≤ n then { s with agenda := .event .retrain (.port p) :: s.agenda } else s

/-- REPLAY_REQUEST (R340). -/
def execReplayRequest (s : State) : Host.Outcome State Fault Refusal :=
  event (match s.occ with
    | .replay p first => if (s.link p).up then replayFrom s p first else s
    | _ => s)

/-- RETRAIN (R340). -/
def execRetrain (s : State) : Host.Outcome State Fault Refusal :=
  event (match s.occ with
    | .port p =>
      if (s.link p).up then
        (s.updLink p fun l => { l.control 3 with retries := 0, asked := 0 }).logLink p 0x02 (s.link p).expect
      else s
    | _ => s)

/-- The modules of the route table that no port reaches. -/
def State.lostModules (s : State) : List (BitVec 12) :=
  (s.fab.routes.map (·.1)).filter fun m => (s.routePorts m).isEmpty

/-- LINK_DOWN: the port leaves routing, and what it had not delivered is lost (R340, R373). -/
def execLinkDown (s : State) : Host.Outcome State Fault Refusal :=
  event (match s.occ with
    | .port p =>
      if (s.link p).up then
        let s := (s.updLink p fun l => { l with up := false, window := [], waiting := [], rx := [], retries := 0, asked := 0
          }).logLink p 0x03 (s.link p).next
        { s with svc := { s.svc with unreachable := (s.svc.unreachable ++ s.lostModules).dedup } }
      else s
    | _ => s)

/-! ### The gateway's checks (R343, R345, R346) -/

/-- DETAIL of a fabric event (R367). -/
def fabDetail (m : BitVec 12) (a : Nat) : Nat := m.toNat + 2 ^ 12 * (a % 2 ^ 44)

/-- Logs a fabric event at a unit, given by its die and its core, stack or port (R366, R367). -/
def State.logFabric (s : State) (u : BitVec 2 × BitVec 8) (code : BitVec 8) (m : BitVec 12) (a : Nat) : State :=
  s.addLog 4 code u.1 u.2 (fabDetail m a)

/-- The die and the number of a port (R366). -/
def portUnit (port : BitVec 4) : BitVec 2 × BitVec 8 := (bits port 2 2, port.setWidth 8)

/-- The die and the number of a core (R366). -/
def coreUnit (id : BitVec 10) : BitVec 2 × BitVec 8 := (coreDie id, bits id 0 8)

/-- TYPE and the reserved bits are as R343 wants them. -/
def packetForm (p : Packet) : Bool := decide (1 ≤ p.type.toNat) && decide (p.type.toNat ≤ 0x0C) && p.resZero

/-- HTAG verifies under the slot KIX names; an empty slot counts as a failure (R345, R346). -/
def State.headerOk (s : State) (p : Packet) : Bool :=
  match s.recvKey p with
  | some k => headerTag k p == p.htag
  | none => false

/-- The bound context of a packet's PCID whose peer set holds its source (R346). -/
def State.boundContext (s : State) (p : Packet) : Option Context :=
  s.contexts.find? fun x => x.pcid == p.pcid && decide (x.modLo.toNat ≤ p.smod.toNat)
    && decide (p.smod.toNat ≤ x.modHi.toNat)

/-- What a gateway finds in a packet: it is dropped, refused with 0x06, or admitted for a context. -/
inductive Gate where
  | drop (s : State)
  | refuse (s : State)
  | admits (s : State) (x : Context) (k : KeySlot)

/-- A module lies in the peer set of an open context (R346). -/
def State.isKnown (s : State) (m : BitVec 12) : Bool :=
  s.contexts.any fun x => decide (x.modLo.toNat ≤ m.toNat) && decide (m.toNat ≤ x.modHi.toNat)

/-- The gateway's port at which a packet stands. -/
def State.portFor (s : State) (p : Packet) : BitVec 4 :=
  ((s.fab.arrived.find? fun i => i.packet == p).map (·.port)).getD 0

/-- A packet leaves the list of those that wait. -/
def State.takeOut (s : State) (p : Packet) : State :=
  { s with fab := { s.fab with arrived := s.fab.arrived.eraseP fun i => i.packet == p } }

/-- The checks of every packet (R343 to R346): one of a module outside every peer set is refused whatever its tag. -/
def State.gate (s : State) (p : Packet) : Gate :=
  let port := s.portFor p
  let s := s.takeOut p
  let log (s : State) (code : BitVec 8) : State := s.logFabric (portUnit port) code p.smod p.addr.toNat
  if !packetForm p then .drop (log s 0x02)
  else if !(s.isKnown p.smod) then .refuse (State.refusePacket (log s 0x05) port p)
  else match s.recvKey p with
    | some k =>
      if headerTag k p = p.htag then
        match s.boundContext p with
        | some x => .admits s x k
        | none => .refuse (State.refusePacket (log s 0x05) port p)
      else .drop (log (log s 0x01) 0x02)
    | none => .drop (log (log s 0x01) 0x02)

/-! ### Between gateway and home (R294, R307, R341, R344) -/

/-- The operation that takes a request from its gateway to the home unit (R294, R343). -/
def homeOp (p : Packet) : NetOp :=
  match p.type.toNat with
  | 0x02 => .readReq | 0x05 => .atomic | 0x07 | 0x09 => .counter | 0x0B => .paramReq | _ => .write

/-- The bits a request asks for from its address on. -/
def packetWidth (p : Packet) : Nat :=
  match p.type.toNat with
  | 0x02 => 8 * min 2048 p.aux.toNat
  | 0x05 => 128
  | 0x07 | 0x09 => 32
  | 0x0B => 512
  | _ => 512 * p.lines.length

/-- A request whose checks have passed travels from its gateway to the home unit as it came, in cipher text (R307,
R344). -/
def State.toHome (s : State) (port : BitVec 4) (x : Context) (p : Packet) : State :=
  s.sendMsg { Msg.bare' (homeOp p) 0 (trepinPort port) (homePort (s.forwarded p.addr.toNat)) with
    loc := .phys (8 * s.forwarded p.addr.toNat), width := packetWidth p, asid := x.asid, packet := some p, unit := true }

/-- A request at its gateway: dropped, refused, or on its way to its home unit (R343 to R346). -/
def takeRequest (s : State) (p : Packet) : State :=
  match s.gate p with
  | .drop t => t
  | .refuse t => t
  | .admits t x _ => t.toHome (s.portFor p) x p

/-! ### the range table and the home (R347) -/

/-- A byte address lies in a range of R347. -/
def rangeHolds (a : Nat) (r : OpenRange) : Bool := decide (r.base ≤ a) && decide (a < r.base + r.size)

/-- the range table's answer for a list of addresses (R347); the service's range answers every program access with 0x06
(R226). -/
def Context.rangeCode (x : Context) (l : List Nat) (write : Bool) : BitVec 8 :=
  if l.any fun a => placeOf a == .service then 0x06
  else if l.any fun a => !(x.ranges.any (rangeHolds a)) then 0x05
  else if write && l.any fun a => !(x.ranges.any fun (r : OpenRange) => r.writable && rangeHolds a r) then 0x06
  else 0

/-- the range table and the home unit's answer for `n` bytes: scratchpads serve the context whose data they hold, and
a unit in error answers 0x07 where its content is needed (R222, R236, R347). Another module names an address by the
frame it had, also when that frame has been retired (R370). (DEDUCED, log 44) -/
def State.admitCode (s : State) (x : Context) (a n : Nat) (write reads : Bool) : BitVec 8 :=
  let c := x.rangeCode ((List.range n).map (a + ·)) write
  let bad := reads && (s.forwardRuns a n).any fun r => s.isPoisoned r.1 r.2
  if c ≠ 0 then c
  else match placeOf (s.forwarded a) with
    | .spad core => if !(s.holds core x.asid) then 0x06 else if bad then 0x07 else 0
    | .stack _ => if bad then 0x07 else 0
    | _ => 0x05

/-- The error an access of another module meets at its home is logged there (R236). (DEDUCED, log 44) -/
def State.admitLog (s : State) (x : Context) (a n : Nat) (write : Bool) : State :=
  if s.admitCode x a n write true = 0x07 then (s.forwardRuns a n).foldl (fun (s : State) r => s.logPoison r.1 r.2) s
  else s

/-- A packet in error of its tag is logged at the unit that finds it (R345). -/
def State.logTag (s : State) (p : Packet) : State :=
  s.logFabric (placeUnit (s.forwarded p.addr.toNat)) 0x01 p.smod p.addr.toNat

/-! ### The receiver's counts (R348) -/

/-- Marks in the acknowledgement of a packet refused for a full table: store counts, landing (DESIGN CHOICE, log 14). -/
def auxCountFull : BitVec 32 := 0x100
def auxLandingFull : BitVec 32 := 0x200
/-- The mark of a request that was not performed because it came poisoned (R296, R373; DESIGN CHOICE, log 14). -/
def auxUnperformed : BitVec 32 := 0x400

/-- AUX of an answer: a code, with the mark of a request that came poisoned. -/
def codeAux (p : Packet) (code : BitVec 8) : BitVec 32 :=
  code.setWidth 32 ||| (if p.psn then auxUnperformed else 0)

/-- The key of a counted packet matches an entry. -/
def RecvCount.isFor (e : RecvCount) (p : Packet) : Bool :=
  e.smod == p.smod && e.pcid == p.pcid && e.fcid == p.fcid && e.cls == p.cls

/-- An access that needs a new entry finds the table full; packets of no task are not counted (R342, R348).
(DEDUCED, log 44) -/
def State.countFull (s : State) (p : Packet) : Bool :=
  p.fcid != 0 && !(s.fab.recv.any fun e => e.isFor p) && decide (65536 ≤ s.fab.recv.length)

/-- The receiver's count of a packet's key advances. -/
def State.countRecv (s : State) (p : Packet) (n : Nat) : State :=
  let l := s.fab.recv
  let l := if p.fcid = 0 then l else if l.any fun e => e.isFor p then
      l.map fun (e : RecvCount) => if e.isFor p then { e with count := e.count + BitVec.ofNat 32 n } else e
    else l ++ [⟨p.smod, p.pcid, p.fcid, p.cls, BitVec.ofNat 32 n⟩]
  { s with fab := { s.fab with recv := l } }

/-! ### Writes and scheduled blocks (R343, R345, R354) -/

/-- The landing entry of a packet takes its bytes (R354). -/
def State.land (s : State) (p : Packet) (cells : List (Nat × Byte)) : State :=
  let l := s.fab.landing
  let l := if l.any fun e => e.smod == p.smod && e.slot == p.slot then l
    else l ++ [⟨p.smod, p.slot, 0, p.aux.toNat, []⟩]
  { s with fab := { s.fab with landing := l.map fun (e : Landing) =>
      if e.smod = p.smod ∧ e.slot = p.slot then
        { e with bytes := e.bytes + cells.length, place := e.place ++ cells }
      else e } }

/-- The landing table has no entry for a packet and no room (R354). -/
def State.landingFull (s : State) (p : Packet) : Bool :=
  !(s.fab.landing.any fun e => e.smod == p.smod && e.slot == p.slot) && decide (1024 ≤ s.fab.landing.length)

/-- A byte of a scratchpad that holds another context's data (R222). -/
def State.foreignSpad (s : State) (asid : BitVec 16) (a : Nat) : Bool :=
  match placeOf a with
  | .spad core => !(s.holds core asid)
  | _ => false

/-- A write's code at its home: tags, poison, range table, scratchpads. -/
def State.writeCode (s : State) (x : Context) (k : KeySlot) (p : Packet) : BitVec 8 :=
  if !(linesOk k p s.modid) then 0x08
  else if p.psn then 0x07
  else
    let l := (plainCells k p s.modid).map (·.1)
    let c := x.rangeCode l true
    if c ≠ 0 then c
    else if l.any fun a => s.foreignSpad x.asid (s.forwarded a) then 0x06 else 0

/-- A write or scheduled block at its home unit: performed whole or not at all, and acknowledged. -/
def homeWrite (sched : Bool) (t : State) (p : Packet) (x : Context) (k : KeySlot) : State :=
  let code := t.writeCode x k p
  if code ≠ 0 then (if code = 0x08 then t.logTag p else t).answerPacket p 0x04 (codeAux p code) 0 []
  else if t.countFull p then t.answerPacket p 0x04 auxCountFull 0 []
  else if sched && t.landingFull p then t.answerPacket p 0x04 auxLandingFull 0 []
  else
    let cells := (plainCells k p t.modid).map fun c => (t.forwarded c.1, c.2)
    let u := t.store cells
    let u := if sched then u.land p cells else u
    (u.countRecv p p.lines.length).answerLater t.net.nextMsg p (answerTo p 0x04 0 0) []

/-- A gateway holds a packet: the start of a request of a context whose cut is under way, or a write to a page in the
final pass (R247, R249). -/
def State.packetWaits (s : State) (p : Packet) : Bool :=
  (packetAsks p && ((s.boundContext p).map fun x => x.eng == .cutting).getD false) || s.packetHeld p

/-- The packet of an event, of the types it takes, when nothing holds it. -/
def State.packetOf? (s : State) (types : List (BitVec 8)) : Option Packet :=
  match s.occ with
  | .packet p => if types.contains p.type && !(s.packetWaits p) then some p else none
  | _ => none

/-- TREPIN_WRITE (R343). -/
def execTrepinWrite (s : State) : Host.Outcome State Fault Refusal :=
  event (match s.packetOf? [0x01] with
    | some p => takeRequest s p
    | none => s)

/-- SCHEDULED_BLOCK (R354). -/
def execScheduledBlock (s : State) : Host.Outcome State Fault Refusal :=
  event (match s.packetOf? [0x0C] with
    | some p => takeRequest s p
    | none => s)

/-! ### Reads (R343) -/

/-- A read at its home unit (R343): a response without the data carries PSN (R345). (DEDUCED, log 45) -/
def homeRead (t : State) (p : Packet) (x : Context) (_ : KeySlot) : State :=
  let a := p.addr.toNat
  let n := min 2048 p.aux.toNat
  let code : BitVec 8 := if p.psn then 0x07 else t.admitCode x a n false true
  if code ≠ 0 then
    (if p.psn then t else t.admitLog x a n false).sendAs (homePort (t.forwarded a)) .readResp
      { answerTo p 0x03 (codeAux p code) 0 with psn := code == 0x07 } t.modid []
  else t.answerPacket p 0x03 0 0 ((t.forwardRuns a n).flatMap fun r => t.peekBytes r.1 r.2)

/-- TREPIN_READ_REQUEST (R343). -/
def execTrepinReadRequest (s : State) : Host.Outcome State Fault Refusal :=
  event (match s.packetOf? [0x02] with
    | some p => takeRequest s p
    | none => s)

/-! ### At-memory operations (R185, R343) -/

/-- ENQ of another module's engine: the node and the tail's place that its block names; when the list's tail is no
longer that one, nothing is done and the sender tries again (R186, R343; DESIGN CHOICE, log 41). -/
def State.fabEnq (s : State) (x : Context) (a : Nat) (blk : List Byte) : AtResult :=
  let word (i : Nat) : Nat := natOfBytes ((blk.drop (8 * i)).take 8)
  let places := [a, a + 8, word 1] ++ (if word 2 = 0 then [] else [word 3])
  let codes := (places.map fun b => s.admitCode x b 8 true true).filter (· != 0)
  match codes with
  | c :: _ => ⟨places.foldl (fun (s : State) b => s.admitLog x b 8 true) s, [], c⟩
  | [] =>
    let b := s.forwarded a
    if places.any fun c => homeUnit (s.forwarded c) != homeUnit b then ⟨s, [], 0x06⟩
    else if s.peekNat (b + 8) 8 ≠ word 2 then ⟨s, bytesOfNat 16 0, 0⟩
    else
      let r := s.enqueue' b (b + 8) (s.forwarded (word 1)) (word 0) (word 2, s.forwarded (word 3))
      ⟨r.state, r.data ++ bytesOfNat 8 1, r.code⟩

/-- A fabric at-memory operation at its home: state, answer, code. -/
def State.fabAtomic (s : State) (x : Context) (k : KeySlot) (p : Packet) : AtResult :=
  let a := p.addr.toNat
  let h := s.forwarded a
  let sub := p.aux.toNat % 16
  let blk := packetBlock k p s.modid
  let w := if sub ≤ 10 then amoWidth sub else if sub = subCas4 then 4 else if sub = subCasw then 16 else 8
  let read := s.admitCode x a w (decide (sub ≤ 10)) true
  let own : BitVec 8 := bits p.aux 8 8
  let wcode := if own ≠ 0 then own else x.rangeCode ((List.range w).map (a + ·)) true
  if !(linesOk k p s.modid) then ⟨s, [], 0x08⟩
  else if p.psn then ⟨s, [], 0x07⟩
  else if p.aux.getLsbD 6 then s.fabEnq x a blk
  else if read ≠ 0 then ⟨s.admitLog x a w (decide (sub ≤ 10)), [], read⟩
  else if sub ≤ 10 then
    let r := s.amoAt h sub p.opnd
    ⟨r.1, bytesOfNat w r.2.toNat, 0⟩
  else if sub = subDcas then
    let b := a / 4096 * 4096 + p.opnd.toNat % 4096 / 8 * 8
    let second := s.admitCode x b 8 false true
    if second ≠ 0 then ⟨s.admitLog x b 8 false, [], second⟩
    else s.dcasAt h (s.forwarded b) blk (if wcode ≠ 0 then wcode else x.rangeCode ((List.range 8).map (b + ·)) true)
  else if sub = 15 then ⟨s, s.peekBytes h 8, 0⟩
  else s.casAt h w blk wcode

/-- An at-memory operation at its home unit: performed alone, counted when it succeeds, and answered (R343, R348). -/
def homeAtomic (t : State) (p : Packet) (x : Context) (k : KeySlot) : State :=
  if t.countFull p then t.answerPacket p 0x04 auxCountFull 0 []
  else
    let r := t.fabAtomic x k p
    let u := if r.code = 0x08 then r.state.logTag p else r.state
    let u := if r.code = 0 then u.countRecv p 1 else u
    u.answerLater t.net.nextMsg p (answerTo p 0x06 (codeAux p r.code) 0)
      [(p.addr.toNat / 64, BitVec.allOnes 64, padTo 64 (r.data.take 64))]

/-- TREPIN_AT_MEMORY_OPERATION (R343). -/
def execTrepinAtMemoryOperation (s : State) : Host.Outcome State Fault Refusal :=
  event (match s.packetOf? [0x05] with
    | some p => takeRequest s p
    | none => s)

/-! ### Fences (R349) -/

/-- The receiver's sum for a fence's masked classes. -/
def State.fenceRecv (s : State) (p : Packet) (mask : BitVec 16) : BitVec 32 :=
  (s.fab.recv.filter fun e => e.smod == p.smod && e.pcid == p.pcid && e.fcid == p.fcid
    && mask.getLsbD e.cls.toNat).foldl (fun a e => a + e.count) 0

/-- FENCE_PACKET: the gateway compares the sums and resets the counts; a counter address that fails the range table is
answered with its code whatever the comparison gives, and with equal sums the counter is decremented at its home. The
classes stand in OPND<47:32> (R347, R349; DESIGN CHOICE, log 14). -/
def takeFence (s : State) (p : Packet) : State :=
  match s.gate p with
  | .drop t => t
  | .refuse t => t
  | .admits t x _ =>
    let port := s.portFor p
    let mask : BitVec 16 := bits p.opnd 32 16
    let same := t.fenceRecv p mask == p.aux
    let t := { t with fab := { t.fab with recv := t.fab.recv.filter fun e =>
      !(e.smod == p.smod && e.pcid == p.pcid && e.fcid == p.fcid && mask.getLsbD e.cls.toNat) } }
    let t := if same then t else t.logFabric (portUnit port) 0x03 p.smod p.addr.toNat
    let code := x.rangeCode ((List.range 4).map (p.addr.toNat + ·)) true
    if code ≠ 0 then t.answerFrom (trepinPort port) p 0x08 (code.setWidth 32) 0 []
    else if same then t.toHome port x p
    else t.answerFrom (trepinPort port) p 0x08 0x03 0 []

/-- A counter at its home unit, for a decrement or a fence whose sums agree (R200, R343, R349). -/
def homeCounter (type : BitVec 8) (t : State) (p : Packet) (x : Context) (_ : KeySlot) : State :=
  let code : BitVec 8 := if p.psn then 0x07 else t.admitCode x p.addr.toNat 4 true true
  if code ≠ 0 then
    (if p.psn then t else t.admitLog x p.addr.toNat 4 true).answerPacket p type (codeAux p code) 0 []
  else
    let u := t.decrementAt (t.forwarded p.addr.toNat) (p.addr.setWidth 56) (p.opnd.setWidth 32)
    u.answerLater t.net.nextMsg p (answerTo p type 0 0) []

/-- FENCE_PACKET (R349). -/
def execFencePacket (s : State) : Host.Outcome State Fault Refusal :=
  event (match s.packetOf? [0x07] with
    | some p => takeFence s p
    | none => s)

/-! ### Counters and barriers (R200, R309, R343) -/

/-- TREPIN_COUNTER_DECREMENT (R343). -/
def execTrepinCounterDecrement (s : State) : Host.Outcome State Fault Refusal :=
  event (match s.packetOf? [0x09] with
    | some p => takeRequest s p
    | none => s)

/-- A pod object of a context, as no one task of it. -/
def Context.anyone (x : Context) : Member := ⟨x.asid, 0, 0⟩

/-- An arrival of a packet, which follows no command of this module. -/
def Context.arrival (x : Context) (o : ObjName) (n : BitVec 32) : Arrival := ⟨0, x.anyone, .obj o, n, 0, 0, []⟩

/-- A notice's arrival at this module's copy of a pod object: what it completes follows the commands that the cores of
this module issued before their arrivals at the object (R8, R194). -/
def State.noticed (s : State) (x : Context) (o : ObjName) : Arrival :=
  { x.arrival o 1 with
    after := (s.podSent.filter fun a => a.who.asid == x.asid && a.target == .obj o).map fun a => (a.who, a.before) }

/-- A module's copy of a pod object takes a notice: a re-initialised object's phase, or a later phase, each
completion of which decrements the counter the object's initialiser captured here (R200, R309).
(DESIGN CHOICE, log 13) -/
def State.podNotice (s : State) (x : Context) (o : ObjName) (phase : BitVec 16) (fresh : Bool) : State :=
  let b := s.objAt x.anyone o
  if fresh then s.setObj x.anyone o { b with phase := phase, init := true, handle := none }
  else
    let n := phase - b.phase
    if n.msb then s
    else
      let a := s.noticed x o
      let s := s.setObj x.anyone o { b with phase := phase, init := true }
      let s := if n = 0 then s
        else { s with podSent := s.podSent.filter fun a => !(a.who.asid == x.asid && a.target == .obj o) }
      match b.handle with
      | some va => s.completions a va n.toNat
      | none => s

/-- A core's question about a pod object is answered (R198). -/
def Core.podAnswer (c : Core) (pid : BitVec 32) (ok : Bool) : Core :=
  { c with podAsk := c.podAsk.map fun q => if q.pid = pid then { q with ok := some ok } else q }

/-- The answer reaches the task that asked, on its core or in its image (R198, R329). -/
def State.podAnswered (s : State) (pid : BitVec 32) (ok : Bool) : State :=
  { s with
    core := s.core.podAnswer pid ok
    parked := s.parked.map fun c => c.podAnswer pid ok
    sched := { s.sched with images := s.sched.images.map fun m => { m with core := m.core.podAnswer pid ok } } }

/-- POD_BARRIER_ARRIVAL: an arrival, an initialisation or a question at the root, which answers the last two
to the core that sent them, or a notice to this module's copy (R198, R309). -/
def takeBarrier (s : State) (p : Packet) : State :=
  match s.gate p with
  | .drop t => t
  | .refuse t => t
  | .admits t x _ =>
    let o : ObjName := ⟨5, bits p.opnd 0 6⟩
    let v : BitVec 24 := bits p.opnd 8 24
    let init := p.opnd.getLsbD 62
    let ask := p.opnd.getLsbD 61
    if p.opnd.getLsbD 63 then
      if ask then
        let ok := p.opnd.getLsbD 60
        let t := if ok && !(t.objAt x.anyone o).init then t.podNotice x o (v.setWidth 16) true else t
        t.podAnswered p.aux ok
      else t.podNotice x o (v.setWidth 16) init
    else if init || ask then
      let t := if init then
          (t.setObj x.anyone o ⟨v, 0, bits p.opnd 32 16, true, none⟩).notifyPhase x.asid o
            (bits p.opnd 32 16) true p.smod
        else t
      let b := t.objAt x.anyone o
      let q := podPacket p.smod 0x3FF x.pcid o.index (b.phase.setWidth 24) (if b.init then 0xB else 0xA) 0
      t.sendBarrier { q with opnd := q.opnd ||| ((p.score.setWidth 64) <<< 48), aux := p.pid }
    else t.arriveAt (x.arrival o (v.setWidth 32)) o

/-- POD_BARRIER_ARRIVAL (R309). -/
def execPodBarrierArrival (s : State) : Host.Outcome State Fault Refusal :=
  event (match s.packetOf? [0x0A] with
    | some p => takeBarrier s p
    | none => s)

/-! ### Answers at the requester (R343, R345, R348) -/

/-- The message a packet answers: one whose packet has left. -/
def State.answered (s : State) (p : Packet) : Option Msg :=
  s.net.msgs.find? fun m => m.away && match m.pid with
    | some pid => decide ((p.pid - pid).toNat < max 1 m.replicas)
    | none => false

/-- The message by which a gateway passes an answer on to the core it is for (R294). -/
def NetOp.answerOp : NetOp → NetOp
  | .readReq => .readResp
  | .merge | .atomic => .atResp
  | .paramReq => .paramResp
  | _ => .writeAck

/-- The places on another module that an access wrote, with their bytes (R343). -/
def fabWrites (m : Msg) : List (Loc × Nat) :=
  let word (d : BitVec 12) (o : Nat) : Loc × Nat := (.remote d (8 * natOfBytes ((m.data.drop o).take 8)), 8)
  match m.op, m.loc with
  | .write, _ => [(m.loc, m.data.length)]
  | .merge, .remote d _ | .atomic, .remote d _ =>
    if m.sub = subChase then []
    else if m.sub = subDcas then [(m.loc, 8), word d 32]
    else if m.sub = subEnq then [(m.loc, 16), word d 8, word d 24]
    else [(m.loc, accessBytes m.width)]
  | .counter, _ | .control, _ => [(m.loc, 4)]
  | .paramReq, _ => if m.sub ≤ subPconBf then [(m.loc, recordSize)] else []
  | _, _ => []

/-- The access may have been performed: it was, or its answer is lost (R245, R296, R350). -/
def mayHaveWritten (code : BitVec 8) (why : FaultWhy) : Bool := code == 0 || why == .response || why == .packet

/-- An access over the fabric ends at its requester: its answer reaches its command, or the couch engine or pan unit
that made the access. What it may have written counts for a page that moves (R245, R246). -/
def State.finishFabric (s : State) (m : Msg) (data : List Byte) (code : BitVec 8) (why : FaultWhy) (link : Word := 0) :
    State :=
  let t := s.dropMsg m.id
  if m.couch then (t.couchAnswer m data code).settleOwed m.id
  else
    let t := if mayHaveWritten code why then (fabWrites m).foldl (fun (t : State) w => t.remoteWrote m.asid w.1 w.2) t else t
    if m.op = .counter ∧ m.bare = true then t.dropLog m code
    else if m.unit then t.panAnswer m link code
    else t.deliver { m with op := m.op.answerOp } data code why

/-- What the cause of a code in an answer is (R373). -/
def answerWhy (p : Packet) (code : BitVec 8) : FaultWhy :=
  if p.aux &&& auxUnperformed ≠ 0 then .unperformed else if code = 0x08 then .tag else .home

/-- An answer's bytes, or the code it brings with its cause: its own code, poison, or a bad tag (R296, R345, R373). -/
def State.answerData (s : State) (m : Msg) (k : KeySlot) (p : Packet) : State × List Byte × BitVec 8 × FaultWhy :=
  let code : BitVec 8 := p.aux.setWidth 8
  if code ≠ 0 then (s, [], code, answerWhy p code)
  else if p.psn then (s, [], 0x07, .response)
  else if !(linesOk k p p.smod) then (s.logFabric (coreUnit m.core) 0x01 p.smod p.addr.toNat, [], 0x08, .response)
  else (s, (plainCells k p p.smod).map (·.2), 0, .home)

/-- A refusal that came without a tag, from a module that holds no key for this one (R346; DESIGN CHOICE, log 45). -/
def bareRefusal (p : Packet) : Bool :=
  packetForm p && p.htag == 0 && p.lines.isEmpty && (if p.type = 0x0B then p.aux == 0x608 else p.aux == 0x06)

/-- The port of the requester of an access: its core, its couch engine, or the pan unit of its record. -/
def State.askerPort (s : State) (m : Msg) : Port :=
  if m.couch then s.couchPort m.asid else if m.unit then homePort m.cmd else corePort m.core

/-- An answer travels from its gateway to its requester as it came, in cipher text (R307, R344). -/
def State.toAsker (s : State) (port : BitVec 4) (m : Msg) (p : Packet) : State :=
  s.sendMsg { Msg.bare' m.op.answerOp 0 (trepinPort port) (s.askerPort m) with
    asid := m.asid, packet := some p, unit := true }

/-- An answer at its gateway: dropped, or on its way to the access it answers (R343 to R346). -/
def takeAnswerPacket (s : State) (p : Packet) : State :=
  let pass (t : State) : State := match t.answered p with
    | some m => t.toAsker (s.portFor p) m p
    | none => t
  if bareRefusal p then pass (s.takeOut p)
  else match s.gate p with
    | .drop t => t
    | .refuse t => t
    | .admits t _ _ => pass t

/-- The answers' events at a gateway: TREPIN_READ_RESPONSE, TREPIN_WRITE_ACK, TREPIN_AT_MEMORY_RESPONSE, FENCE_RESPONSE
(R343). -/
def answerEvent (s : State) (type : BitVec 8) : Host.Outcome State Fault Refusal :=
  event (match s.packetOf? [type] with
    | some p => takeAnswerPacket s p
    | none => s)

/-- TREPIN_READ_RESPONSE (R343). -/
def execTrepinReadResponse (s : State) : Host.Outcome State Fault Refusal := answerEvent s 0x03

/-- TREPIN_WRITE_ACK (R343, R348). -/
def execTrepinWriteAck (s : State) : Host.Outcome State Fault Refusal := answerEvent s 0x04

/-- TREPIN_AT_MEMORY_RESPONSE (R343). -/
def execTrepinAtMemoryResponse (s : State) : Host.Outcome State Fault Refusal := answerEvent s 0x06

/-- FENCE_RESPONSE (R349). -/
def execFenceResponse (s : State) : Host.Outcome State Fault Refusal := answerEvent s 0x08

/-! ### Answers at the requester (R343, R345, R348, R349) -/

/-- A write acknowledgement: a full table makes the access wait for its retry; the last acknowledgement of a
multicast write, or the one of another access, ends it (R348, R351, R354). -/
def ackOf (t : State) (m : Msg) (p : Packet) : State :=
  if p.aux = auxCountFull ∨ p.aux = auxLandingFull then
    { t with fab := { t.fab with refused := t.fab.refused ++
        [⟨m.id, p.pid, p.smod, p.addr, p.aux == auxLandingFull, t.ptb⟩] } }
  else
    let first := m.status ≠ 0
    let code : BitVec 8 := if first then m.status else p.aux.setWidth 8
    let why := if first then m.why else answerWhy p code
    if max 1 m.replicas ≤ m.acks + 1 then t.finishFabric m [] code why p.opnd
    else t.updMsg m.id fun m => { m with acks := m.acks + 1, status := code, why := why }

/-- Bytes of an at-memory answer: ENQ's hold the old tail and whether it was done. -/
def answerWidth (m : Msg) : Nat :=
  if m.sub ≤ 10 then amoWidth m.sub
  else if m.sub ≤ subCas8 then 16 else if m.sub ≤ subDcas then 24 else if m.sub = subEnq then 16 else 8

/-- An at-memory answer as its engine takes it: a hop of CHASE is one step of its walk (R186). -/
def answerBytes (m : Msg) (data : List Byte) : List Byte :=
  if m.sub = subChase then
    let w := Walk.ofBytes (m.data.drop 8)
    Walk.bytes ⟨natOfBytes (data.take 8), w.left - 1, w.seen ++ [w.p]⟩
  else data.take (answerWidth m)

/-! ### Parameter packets (R191 to R193, R265; DESIGN CHOICE, log 14) -/

/-- The request that a parameter packet makes of a record, as a message of its own module would. -/
def paramMsg (k : KeySlot) (p : Packet) (asid : BitVec 16) (home : BitVec 12) (a : Nat) : Msg :=
  { Msg.bare' .paramReq 0 (servicePort 0 false) (servicePort 0 false) with
    loc := .phys (8 * a), width := 512, asid := asid
    sub := p.aux.toNat, data := padTo 64 (bytesOfNat 4 p.opnd.toNat) ++ packetBlock k p home }

/-- A parameter request at its home, in the message that brought it: answered, the code in AUX<15:8>, or it goes on
waiting. -/
def homeParam (n : Msg) (t : State) (p : Packet) (x : Context) (k : KeySlot) : State :=
  let reply (u : State) (data : List Byte) (code : BitVec 8) : State :=
    (u.dropMsg n.id).answerLater t.net.nextMsg p
      (answerTo p 0x0B (BitVec.ofNat 32 (auxParamResponse + 256 * code.toNat) ||| (if p.psn then 0x10000 else 0))
        (BitVec.ofNat 64 (natOfBytes (data.drop 2048)))) (linesOf p.addr.toNat (data.take 2048))
  let code := t.admitCode x p.addr.toNat 64 (decide (p.aux.toNat ≤ 1)) false
  if !(linesOk k p t.modid) then reply (t.logTag p) [] 0x08
  else if p.psn then reply t [] 0x07
  else if code ≠ 0 then reply t [] code
  else match t.paramAt (paramMsg k p x.asid t.modid (t.forwarded p.addr.toNat)) with
    | .wait => t
    | .answer u data code => reply u data code

/-- A parameter response at the requester. -/
def paramResponse (t : State) (m : Msg) (k : KeySlot) (p : Packet) : State :=
  let code : BitVec 8 := bits p.aux 8 8
  if code ≠ 0 then
    t.finishFabric m [] code (if p.aux.getLsbD 16 then .unperformed else if code = 0x08 then .tag else .home)
  else if p.psn then t.finishFabric m [] 0x07 .response
  else if !(linesOk k p p.smod) then
    (t.logFabric (coreUnit m.core) 0x01 p.smod p.addr.toNat).finishFabric m [] 0x08 .response
  else
    let d := packetBlock k p p.smod
    t.finishFabric m (if d.length = 2048 then d ++ bytesOfNat 8 p.opnd.toNat else d) 0 .home

/-- A norm report or release of another module (R265): it is checked against the range table (R347), one that fails its
tag is answered with 0x08, and a report is answered when its cell has performed it. (DEDUCED, log 45) -/
def homeNorm (t : State) (p : Packet) (x : Context) (k : KeySlot) : State :=
  let code := t.admitCode x p.addr.toNat 64 true false
  let a := t.forwarded p.addr.toNat
  if !(linesOk k p t.modid) || p.psn then (t.logTag p).ackPacket p 0x08
  else if code ≠ 0 then t.ackPacket p code
  else if p.aux.toNat = auxRelease then
    let isRec := ((t.recAt a).map fun r => !r.cell).getD false
    if isRec then
      (t.releaseRec a (p.opnd.setWidth 32)).answerLater t.net.nextMsg p (answerTo p 0x04 0 0) []
    else t.ackPacket p 0x06
  else if !((t.recAt a).map (·.cell)).getD false then t.ackPacket p 0x06
  else
    let d := packetBlock k p t.modid
    let e : BitVec 64 := BitVec.ofNat 64 (natOfBytes ((d.drop 56).take 8))
    { t with pan := { t.pan with reports := t.pan.reports ++
        [⟨a, natOfBytes (d.take 48), e.toInt, BitVec.ofNat 32 (natOfBytes ((d.drop 48).take 8)), p.smod,
          p.opnd.toNat, 0, some p⟩] } }

/-- TREPIN_PARAMETER at its gateway (R343). -/
def takeParameter (s : State) (p : Packet) : State :=
  if p.aux.toNat % 256 = auxParamResponse then takeAnswerPacket s p else takeRequest s p

/-- TREPIN_PARAMETER (R343). -/
def execTrepinParameter (s : State) : Host.Outcome State Fault Refusal :=
  event (match s.packetOf? [0x0B] with
    | some p => takeParameter s p
    | none => s)

/-! ### The ends of packets on the die network (R294, R296, R307, R344) -/

/-- A request at its home unit, as it came or poisoned on the way; for a context closed since, or under a key released
since, it is refused (R296, R346). -/
def State.atHome (s : State) (m : Msg) (p : Packet) (f : State → Packet → Context → KeySlot → State) : State :=
  let p := { p with psn := p.psn || m.psn }
  match s.context? m.asid, s.recvKey p, answerType p.type with
  | some x, some k, _ => f s p x k
  | _, _, some t => (s.dropMsg m.id).answerPacket p t (if t = 0x0B then 0x608 else 0x06) 0 []
  | _, _, none => s.dropMsg m.id

/-- An answer at its requester, which decrypts its lines: the access it answers ends; one poisoned on the way, or whose
key is gone, faults it (R296, R344, R345). -/
def State.takeReply (s : State) (n : Msg) (p : Packet) : State :=
  let s := s.dropMsg n.id
  match s.answered p with
  | none => s
  | some m =>
    if n.psn then s.finishFabric m [] 0x07 .response
    else if bareRefusal p then s.finishFabric m [] 0x06 .home
    else match s.recvKey p with
      | none => (s.logFabric (coreUnit m.core) 0x01 p.smod p.addr.toNat).finishFabric m [] 0x08 .response
      | some k =>
        match p.type.toNat with
        | 0x03 =>
          let r := s.answerData m k p
          r.1.finishFabric m r.2.1 r.2.2.1 r.2.2.2
        | 0x06 =>
          let r := s.answerData m k p
          r.1.finishFabric m (if r.2.2.1 = 0 then answerBytes m r.2.1 else []) r.2.2.1 r.2.2.2
        | 0x08 => s.finishFabric m [] (p.aux.setWidth 8) (answerWhy p (p.aux.setWidth 8))
        | 0x0B => paramResponse s m k p
        | _ => ackOf s m p

/-- A message that carries a packet stands at a home unit or at a requester: the unit decrypts it and does what it asks
for (R294, R344). -/
def State.packetEnd (s : State) (m : Msg) (p : Packet) : State :=
  let whole (f : State → Packet → Context → KeySlot → State) : State :=
    s.atHome m p fun t p x k => f (t.dropMsg m.id) p x k
  match p.type.toNat with
  | 0x01 => whole (homeWrite false)
  | 0x02 => whole homeRead
  | 0x05 => whole homeAtomic
  | 0x07 => whole (homeCounter 0x08)
  | 0x09 => whole (homeCounter 0x04)
  | 0x0C => whole (homeWrite true)
  | 0x0B =>
    if p.aux.toNat % 256 = auxParamResponse then s.takeReply m p
    else if p.aux.toNat < auxParamResponse then s.atHome m p (homeParam m)
    else whole homeNorm
  | _ => s.takeReply m p

/-- A parameter packet at its home unit still waits there (R271). -/
def State.packetParks (s : State) (m : Msg) (p : Packet) : Bool :=
  p.type == 0x0B && decide (p.aux.toNat < auxParamResponse) && !m.psn && !p.psn
    && match s.context? m.asid, s.recvKey p with
       | some x, some k => linesOk k p s.modid && s.admitCode x p.addr.toNat 64 (decide (p.aux.toNat ≤ 1)) false == 0
         && (match s.paramAt (paramMsg k p x.asid s.modid (s.forwarded p.addr.toNat)) with
             | .wait => true
             | .answer _ _ _ => false)
       | _, _ => false

/-- TREPIN_PACKET_DISCARD: a packet of bad type, reserved bits or HTAG is discarded and logged (R343). -/
def execTrepinPacketDiscard (s : State) : Host.Outcome State Fault Refusal :=
  event (match s.occ with
    | .packet p =>
      (match s.gate p with
       | .drop t => t
       | _ => s)
    | _ => s)

/-- The event that takes a packet. -/
def State.packetEvent (s : State) (p : Packet) : Instr :=
  if !(packetForm p && (s.headerOk p || bareRefusal p || !(s.isKnown p.smod))) then .trepinPacketDiscard
  else match p.type.toNat with
    | 0x01 => .trepinWrite | 0x02 => .trepinReadRequest | 0x03 => .trepinReadResponse
    | 0x04 => .trepinWriteAck | 0x05 => .trepinAtMemoryOperation | 0x06 => .trepinAtMemoryResponse
    | 0x07 => .fencePacket | 0x08 => .fenceResponse | 0x09 => .trepinCounterDecrement
    | 0x0A => .podBarrierArrival | 0x0B => .trepinParameter | _ => .scheduledBlock

/-! ### Multicast (R351, R352) -/

/-- The entry of a group. -/
def State.group? (s : State) (g : BitVec 8) : Option McGroup := s.fab.groups.find? fun e => e.g == g

/-- The group of a multicast address (R351). -/
def groupOf (bit : Nat) : BitVec 8 := BitVec.ofNat 8 (bit / 8 / 2 ^ 32)

/-- The destinations of a multicast address: its group's snapshot with the offset; none when the group is
invalid. -/
def State.replicas (s : State) (bit : Nat) : Option (List (BitVec 12 × Nat)) :=
  let a := bit / 8
  match s.group? (groupOf bit) with
  | some e => if e.valid then some (e.dests.map fun d => (d.1, d.2 + a % 2 ^ 32)) else none
  | none => none

/-- The sender counts every replica toward its module; none when an entry must be awaited. -/
def Core.countReplicas (c : Core) (cls : BitVec 4) (n : Nat) : List (BitVec 12 × Nat) → Option Core
  | [] => some c
  | d :: r => match c.countStore d.1 cls n with
    | some c => c.countReplicas cls n r
    | none => none

/-- A write to a multicast address that stands whole at a gateway and has not been replicated. -/
def State.unreplicated (s : State) (n : Nat) : Option (Msg × Nat) :=
  match s.msg? n with
  | some m => (match m.loc with
    | .remote d b =>
      if m.arrived && m.dst == m.final && m.packet.isNone && m.final.isTrepin && s.isMulticast (.remote d b) then
        some (m, b)
      else none
    | _ => none)
  | none => none

/-- MULTICAST_REPLICATION: one replica to each destination of the snapshot; one toward a module outside the peer set
is neither sent nor counted, and the command faults with 0x06 (R348, R351). A replica's keys and tweak are its
destination's, which the gateway's snapshot alone tells, and gateways hold no plain text: the network interface of the
sending core seals the replicas when the snapshot has been taken, and the gateway sends them (R344; DESIGN CHOICE, log
45). -/
def replicate (s : State) (m : Msg) (b : Nat) : State :=
  match s.cmd? m.core m.cmd, s.replicas b with
  | none, _ => s.dropMsg m.id
  | some _, none => s.finishFabric m [] 0x06 .home
  | some q, some all =>
    let ds := all.filter fun d => s.isPeer m.asid d.1
    if ds.isEmpty then s.finishFabric m [] 0x06 .home
    else if ds.any fun d => (s.findCore m.core).fenceUnderWay q d.1 m.cls then s
    else match (s.findCore m.core).countReplicas m.cls (fabStores m) ds with
    | none => s
    | some c =>
      let s := s.updCore m.core fun _ => c
      let m' : Msg := { m with
        pid := some s.fab.nextPid, replicas := ds.length, away := true, arrived := false, since := s.ptb
        status := if ds.length < all.length then 0x06 else 0 }
      let s := s.updMsg m.id fun _ => m'
      ds.foldl (fun (s : State) d =>
        let p := s.fabPacket { m' with loc := .remote d.1 (8 * d.2) } q d.1 (8 * d.2)
        s.takePid.sendAs m.final .write { p.1 with pid := s.fab.nextPid, mc := true } d.1 p.2) s

/-- MULTICAST_REPLICATION (R351). -/
def execMulticastReplication (s : State) : Host.Outcome State Fault Refusal :=
  event (match s.occ with
    | .num n => (match s.unreplicated n with
      | some (m, b) => replicate s m b
      | none => s)
    | _ => s)

/-- The header of a message has come to its gateway: its first flit is in the reassembly table or the store (R304,
R352). -/
def State.headerIn (s : State) (m : Msg) : Bool :=
  m.arrived || m.away || (s.net.reasm.any fun e => e.src == m.src && some e.mid == m.mid && e.seen.getLsbD 0)
    || s.net.store.any fun f => f.mid == m.id && f.seq == 0

/-- A command is replicating to a group: the header of one of its packets to it has come to a gateway, or a packet has
been replicated, and not every one is done. -/
def State.replicatingTo (s : State) (core : BitVec 10) (q : Cmd) (g : BitVec 8) : Bool :=
  let hit (l : Loc) : Bool := match l with
    | .remote m b => s.isMulticast (.remote m b) && groupOf b == g
    | _ => false
  let l := q.pieces.filter fun p => hit p.dst
  !q.stopped && (l.any fun p => p.stage != .done)
    && ((l.any fun p => p.stage == .done)
      || s.net.msgs.any fun m => m.core == core && m.cmd == q.id && !m.unit && hit m.loc && s.headerIn m)

/-- A write of a group waits until every command that has taken the old entry has sent all its replicas: no packet, and
no command, mixes the two (R352, R356 case 5). -/
def State.groupBusy (s : State) (g : BitVec 8) : Bool :=
  (s.core :: s.parked).any fun c => c.running.any fun q => s.replicatingTo c.id q g

/-- The service writes a group's entry; a valid one has 1 to 64 destinations (R351). Writes of the group that waited are
over with it, but for those that came after one of them that is written now. -/
def State.writeGroup (s : State) (e : McGroup) : State :=
  let ok := e.valid && decide (1 ≤ e.dests.length) && decide (e.dests.length ≤ 64)
  let first := (s.fab.writes.find? fun w => w.g == e.g) == some e
  { s with fab := { s.fab with
      groups := ⟨e.g, ok, e.dests⟩ :: s.fab.groups.filter fun w => w.g != e.g
      writes := if first then s.fab.writes.erase e else s.fab.writes.filter fun w => w.g != e.g } }

/-- MULTICAST_GROUP_WRITE: headers that come later meet the new entry (R351, R352). -/
def execMulticastGroupWrite (s : State) : Host.Outcome State Fault Refusal :=
  event (match s.occ with
    | .group g valid dests =>
      if !(s.groupBusy g) then s.writeGroup ⟨g, valid, dests⟩
      else if s.fab.writes.contains ⟨g, valid, dests⟩ then s
      else { s with fab := { s.fab with writes := s.fab.writes ++ [⟨g, valid, dests⟩] } }
    | _ => s)

/-! ### Timeouts and retries (R348, R350, R354) -/

/-- FABRIC_TIMEOUT: no acknowledgement for 200 µs (R350). -/
def execFabricTimeout (s : State) : Host.Outcome State Fault Refusal :=
  event (match s.occ with
    | .num n => (match s.msg? n with
      | some m =>
        if m.pid.isSome && decide (200000 ≤ (s.ptb - m.since).toNat) then
          let s := { s with fab := { s.fab with refused := s.fab.refused.filter fun r => r.mid != n } }
          let d := match m.loc with
            | .remote d _ => d
            | _ => s.modid
          (s.finishFabric m [] 0x08 .packet).logFabric (coreUnit m.core) 0x04 d m.loc.byte
        else s
      | none => s)
    | _ => s)

/-- An LXRED of the focused core faults when its block has not landed within 1 ms of its slot (R354). -/
def landingTimeout (s : State) (n : Nat) : State :=
  match s.core.queue.find? fun q => q.id == n with
  | some q =>
    if s.lacksBlock q && s.startable s.core q && decide (256 * q.rb.toNat + 1000000 ≤ s.ptb.toNat) then
      let q := { q with map := ((s.context? q.asid).map (·.cur)).getD 0, faults := [(0, 0x08, .landing)], stopped := true }
      s.onCore fun c => { c with queue := c.queue.filter fun p => p.id != n, running := c.running ++ [q] }
    else s
  | none => s

/-- LXRED_LANDING_TIMEOUT (R354). -/
def execLxredLandingTimeout (s : State) : Host.Outcome State Fault Refusal :=
  event (match s.occ with
    | .num n => landingTimeout s n
    | _ => s)

/-- A refused packet is sent again as it was, under its packet id. -/
def State.resend (s : State) (r : Refused) : State :=
  match s.msg? r.mid with
  | some m => (match s.cmd? m.core m.cmd with
    | some q =>
      let bit := 8 * r.addr.toNat
      let p := s.fabPacket { m with loc := .remote r.dmod bit } q r.dmod bit
      (s.updMsg m.id fun m => { m with since := s.ptb }).sendAs (corePort m.core) (if m.op = .merge then .atomic else m.op)
        { p.1 with pid := r.pid, mc := s.isMulticast m.loc } r.dmod p.2
    | none => s)
  | none => s

/-- A retry of the n-th refused packet, of the kind and at the time given. -/
def retry (s : State) (landing : Bool) (due : Refused → Bool) : State :=
  match s.occ with
  | .num n =>
    match s.fab.refused[n]? with
    | some r =>
      if r.landing == landing && due r then
        State.resend { s with fab := { s.fab with refused := s.fab.refused.eraseIdx n } } r
      else s
    | none => s
  | _ => s

/-- A refused packet's retry is due: the next slot boundary, or 1 µs later. -/
def State.retryDue (s : State) (r : Refused) : Bool :=
  if r.landing then decide (r.when'.toNat / 256 < s.ptb.toNat / 256)
  else decide (1000 ≤ (s.ptb - r.when').toNat)

/-- SCHEDULED_BLOCK_RETRY (R354). -/
def execScheduledBlockRetry (s : State) : Host.Outcome State Fault Refusal :=
  event (retry s true s.retryDue)

/-- FENCE_COUNT_RETRY (R348). -/
def execFenceCountRetry (s : State) : Host.Outcome State Fault Refusal :=
  event (retry s false s.retryDue)

/-! ### Key slots and the pod time base (R346, R353) -/

/-- An old slot of a peer may be dropped: a link that is down is used no more (R340, R346). -/
def State.slotReleasable (s : State) (peer : BitVec 12) (ix : Bool) : Bool :=
  match s.fab.peers.find? fun p => p.id == peer with
  | some q =>
    ix != q.recvIx && decide (100000 ≤ (s.ptb - q.lastOld).toNat)
      && (s.routePorts peer).all fun port => q.seen.any fun x => x.1 == port && decide (256 ≤ x.2)
  | none => false

/-- KEY_SLOT_RELEASE (R346). -/
def execKeySlotRelease (s : State) : Host.Outcome State Fault Refusal :=
  event (match s.occ with
    | .key peer ix =>
      if s.slotReleasable peer ix then
        { s with fab := { s.fab with keys := s.fab.keys.filter fun k =>
            !(k.peer == peer && !k.send && k.ix == ix) } }
      else s
    | _ => s)

/-- POD_TIME_BASE: PTB follows the root and never decreases; an error over 16 ns is logged (R353). -/
def execPodTimeBase (s : State) : Host.Outcome State Fault Refusal :=
  awake s (match s.occ with
    | .podTime ns err =>
      let s := { s with ptb := if s.ptb.toNat ≤ ns.toNat then ns else s.ptb }
      if 16 < err then s.logFabric (0, 0) 0x06 s.modid 0 else s
    | _ => s)

end Sys2Proof.Machine
end

