-- ==== Sys2Proof/Machine/Network.lean ====
section
/-! DEFINITION. The on-die network: a router's cycle, credits, throttling, and what an end does with a
complete message (R291 to R307). -/

namespace Sys2Proof.Machine

open Sys2Proof

/-! ### Routes (R291, R295, R297) -/

/-- Row and column of a router. (DEDUCED, log 43) -/
def rowOf (r : BitVec 6) : Nat := r.toNat / 8
def colOf (r : BitVec 6) : Nat := r.toNat % 8

/-- The mesh ports a router has: N 0, E 1, S 2, W 3 (R291). -/
def meshPorts (r : BitVec 6) : List Nat :=
  (if 0 < rowOf r then [0] else []) ++ (if colOf r < 7 then [1] else [])
    ++ (if rowOf r < 7 then [2] else []) ++ (if 0 < colOf r then [3] else [])

/-- The router a mesh port leads to. -/
def meshNext (r : BitVec 6) (port : Nat) : BitVec 6 :=
  match port with
  | 0 => r - 8 | 1 => r + 1 | 2 => r + 8 | _ => r - 1

/-- The mesh ports that reduce the distance to a router, the one along the row first (R297).
(DEDUCED, log 43) -/
def wantPorts (here dst : BitVec 6) : List Nat :=
  (if colOf here < colOf dst then [1] else if colOf dst < colOf here then [3] else [])
    ++ (if rowOf here < rowOf dst then [2] else if rowOf dst < rowOf here then [0] else [])

/-- An edge router (R291). -/
def isEdge (r : BitVec 6) : Bool := rowOf r == 0 || rowOf r == 7 || colOf r == 0 || colOf r == 7

/-- Output ports by number: mesh ports 0 to 3, ejection ports from 4. -/
def ejectPort (p : BitVec 3) : Nat := 4 + p.toNat

/-- The ports of a router's units: its four cores, at the edge unit A, and at router 55 of dies 0 and 1 unit B, the
Ultra Ethernet port (R291). -/
def unitPorts (die : BitVec 2) (r : BitVec 6) : List (BitVec 3) :=
  ([0, 1, 2, 3] : List (BitVec 3)) ++ (if isEdge r then [4] else []) ++ (if r = 55 ∧ die.toNat ≤ 1 then [5] else [])

/-- The ejection ports of a router (R291). -/
def ejectPorts (die : BitVec 2) (r : BitVec 6) : List Nat := (unitPorts die r).map ejectPort

/-! ### What a flit carries (R293, R301) -/

/-- The header without its check bits: bits 63 to 8 (R293). -/
def Flit.headerBits (f : Flit) : BitVec 56 :=
  f.dst.router ++ f.dst.port ++ f.src.router ++ f.src.port ++ f.hmid ++ BitVec.ofNat 5 f.seq ++ BitVec.ofNat 5 f.len
    ++ f.age ++ f.op.code ++ f.mcnt ++ BitVec.ofBool f.psn ++ 0#1

/-- The header of a flit (R293). The check code is not given (DESIGN CHOICE, log 77). -/
def Flit.header (f : Flit) : BitVec 64 := f.headerBits ++ Config.headerCheck f.headerBits

/-- A source entry in the payload (R301). -/
def AmoEntry.bytes (e : AmoEntry) : List Byte :=
  bytesOfNat 8 e.operand.toNat ++ bytesOfNat 2 e.src.toNat ++ bytesOfNat 1 e.mid.toNat ++ bytesOfNat 1 e.order.toNat

/-- What a request says of itself: the header of the packet it carries, or address, byte count, class, scope and
sub-operation (R294). The places of these fields are not given (DESIGN CHOICE, log 77). -/
def Msg.head (m : Msg) : List Byte :=
  match m.packet with
  | some p => headerFlit p
  | none => bytesOfNat 8 (m.loc.byte % 2 ^ 44) ++ bytesOfNat 4 (accessBytes m.width) ++ bytesOfNat 1 m.cls.toNat
      ++ bytesOfNat 1 m.scope.toNat ++ bytesOfNat 1 m.sub ++ bytesOfNat 1 m.status.toNat

/-- What the flit of a message at a place in it holds: SEQ 0 of a write or of a request with data its head, the other
flits, and those of a response, the data lines in order (R294). A message of one flit without a packet holds its head
and its operands; an answer without data holds its status (DESIGN CHOICE, log 77). -/
def Msg.payloadAt (m : Msg) (seq : Nat) : List Byte :=
  padTo 64 (if m.op.leads then (if seq = 0 then m.head else m.lines.getD (seq - 1) [])
    else match m.op with
      | .readResp | .paramResp => m.lines.getD seq (bytesOfNat 1 m.status.toNat)
      | .writeAck | .atResp => if m.packet.isSome then m.head else bytesOfNat 1 m.status.toNat ++ m.data
      | _ => m.head ++ m.data)

/-- The payload of a flit, a mergeable operation's as R301 has it: ADDR is the byte address of the word there.
(DEDUCED, log 77) -/
def State.payload (s : State) (f : Flit) : List Byte :=
  if f.op = .merge then padTo 64 (bytesOfNat 8 (f.loc.byte % 2 ^ 44) ++ bytesOfNat 1 f.sub ++ bytesOfNat 7 0
    ++ f.entries.flatMap AmoEntry.bytes)
  else ((s.msg? f.mid).map fun m => m.payloadAt f.seq).getD (padTo 64 [])

/-- The check bytes a link carries beside a payload, one for each 8-byte word (R293; DESIGN CHOICE, log 77). -/
def checkBytes (l : List Byte) : List Byte :=
  (List.range 8).map fun i => Config.wordCheck (BitVec.ofNat 64 (natOfBytes ((l.drop (8 * i)).take 8)))

/-- What a flit wants at the router it stands at. -/
def Flit.want (f : Flit) : List Nat :=
  if f.dst.router = f.here then [ejectPort f.dst.port] else wantPorts f.here f.dst.router

/-- A flit precedes another (R295). -/
def Flit.precedes (a b : Flit) : Bool :=
  let d := (b.age - a.age).toNat
  if d = 0 then
    let key (f : Flit) : Nat := ((sourceId f.src).toNat * 256 + f.hmid.toNat) * 32 + f.seq
    decide (key a < key b)
  else decide (d ≤ 511)

/-- Inserts a flit by priority, and sorts. -/
def insertFlit (f : Flit) : List Flit → List Flit
  | [] => [f]
  | g :: r => if f.precedes g then f :: g :: r else g :: insertFlit f r

def sortFlits : List Flit → List Flit
  | [] => []
  | f :: r => insertFlit f (sortFlits r)

/-! ### Merging (R300) -/

/-- Two flits of one router, plane and cycle may merge. -/
def mergeable (a b : Flit) : Bool :=
  a.op == .merge && b.op == .merge && a.sub == b.sub && a.loc == b.loc
    && decide (a.mcnt.toNat + b.mcnt.toNat + 2 ≤ 4)

/-- The older flit with the younger one's sources after its own. -/
def Flit.join (a b : Flit) : Flit :=
  { a with
    mcnt := a.mcnt + b.mcnt + 1, msgs := a.msgs ++ b.msgs, entries := a.entries ++ b.entries, psn := a.psn || b.psn }

/-- The first eligible partner of a flit among younger ones, and the rest. -/
def takePartner (a : Flit) : List Flit → Option (Flit × List Flit)
  | [] => none
  | b :: r => if mergeable a b then some (b, r) else (takePartner a r).map fun x => (x.1, b :: x.2)

/-- Merges a sorted list, the oldest pair first; the count bounds the merges. (DEDUCED, log 43) -/
def mergeAll : Nat → List Flit → List Flit
  | 0, l => l
  | _, [] => []
  | n + 1, a :: r =>
    match takePartner a r with
    | some (b, rest) => mergeAll n (a.join b :: rest)
    | none => a :: mergeAll n r

/-! ### Injection (R292, R299) -/

/-- The routers a flit's merged sources injected from: one credit each. -/
def State.flitSources (s : State) (f : Flit) : List (BitVec 6) :=
  (if f.inj then f.msgs.drop 1 else f.msgs).filterMap fun n => (s.msg? n).map fun m => m.src.router

/-- Flits of a router's own injection in flight on a plane, as the router knows it. -/
def State.inFlightOf (s : State) (die : BitVec 2) (plane : BitVec 2) (r : BitVec 6) : Nat :=
  ((s.net.flits.filter fun f => f.plane == plane && f.src.die == die).flatMap s.flitSources).count r
    + s.net.credits.count (die, plane, r)

/-- A router of a die. -/
def State.router (s : State) (die : BitVec 2) (r : BitVec 6) : RouterState :=
  (s.net.routers[die.toNat]'(die.isLt))[r.toNat]'(r.isLt)

/-- The cycle count of a die's network. -/
def State.dieCycle (s : State) (die : BitVec 2) : Nat := s.net.cycle[die.toNat]'(die.isLt)

/-- The throttle lets a source inject on a plane in this cycle; edge units are not throttled (R299). -/
def State.throttleAllows (s : State) (p : Port) (plane : BitVec 2) : Bool :=
  decide (4 ≤ p.port.toNat)
    || match s.net.lastInj.find? fun x => x.1 == (p, plane) with
       | some x => decide (x.2 + 2 ^ (s.router p.die p.router).level.toNat ≤ s.dieCycle p.die)
       | none => true

/-- The lowest plane a source may use (R292); `taken` holds the planes other sources of its router take in
this cycle. -/
def State.planeFor (s : State) (p : Port) (taken : List (BitVec 2)) : Option (BitVec 2) :=
  ([0, 1, 2, 3] : List (BitVec 2)).find? fun plane =>
    decide (s.inFlightOf p.die plane p.router + taken.count plane < 4) && s.throttleAllows p plane

/-- The next flit of each source of a router, with its plane and epoch (R292, R293). (DEDUCED, log 43) -/
def State.injectors (s : State) (die : BitVec 2) (r : BitVec 6) : List Flit :=
  ((unitPorts die r).foldl (fun (a : List Flit) port =>
    let p : Port := ⟨die, r, port⟩
    match s.net.flits.find? fun f => f.inj && f.src == p with
    | some f =>
      (match s.planeFor p (a.map (·.plane)) with
       | some plane => a ++ [{ f with plane := plane, age := BitVec.ofNat 10 (s.cyc.toNat / 8) }]
       | none => a)
    | none => a) [])

/-! ### A router's cycle (R297) -/

/-- What a router makes of its flits: those that stay on the die, those ejected, deflections and refusals. -/
structure RouterOut where
  stay : List Flit
  eject : List Flit
  count : Nat
  deriving DecidableEq, Repr

/-- Sends a flit by an output port. -/
def RouterOut.send (o : RouterOut) (f : Flit) (port : Nat) : RouterOut :=
  let f := { f with inj := false }
  if 4 ≤ port then { o with eject := o.eject ++ [f] }
  else { o with stay := o.stay ++ [{ f with here := meshNext f.here port }] }

/-- The flits in transit, oldest first: each leaves in this cycle. -/
def routeTransit : List Flit → List Nat → RouterOut → RouterOut × List Nat
  | [], free, o => (o, free)
  | f :: r, free, o =>
    match f.want.find? (free.contains ·) with
    | some p => routeTransit r (free.erase p) (o.send f p)
    | none =>
      match free.find? (· < 4) with
      | some p => routeTransit r (free.erase p) { o.send f p with count := o.count + 1 }
      | none => routeTransit r free { o with stay := o.stay ++ [f] }

/-- The flits at their sources, oldest first: each leaves by a wanted port or is refused. -/
def routeInject : List Flit → List Nat → RouterOut → RouterOut
  | [], _, o => o
  | f :: r, free, o =>
    match f.want.find? (free.contains ·) with
    | some p => routeInject r (free.erase p) (o.send f p)
    | none => routeInject r free { o with stay := o.stay ++ [f], count := o.count + 1 }

/-- One router and plane: merge, route, deflect, eject, inject. -/
def routePlane (die : BitVec 2) (here : BitVec 6) (transit inject : List Flit) : RouterOut :=
  let l := sortFlits (transit ++ inject)
  let l := mergeAll l.length l
  let free := meshPorts here ++ ejectPorts die here
  let a := routeTransit (l.filter fun f => !f.inj) free ⟨[], [], 0⟩
  routeInject (l.filter (·.inj)) a.2 a.1

/-- A flit reaches its port (R302 to R304); its sources' credits are on their way (R292). A poisoned flit poisons its
message (R296). (DEDUCED, log 77) -/
def State.ejectFlit (s : State) (die : BitVec 2) (f : Flit) : State :=
  let credits := (s.flitSources f).map fun r => (die, f.plane, r)
  let s := s.updMsg f.mid fun m => { m with psn := m.psn || f.psn }
  let r := State.takeFlit { s with net := { s.net with credits := s.net.credits ++ credits } } f
  if r.2 then State.drainStore r.1.net.store.length r.1 f.dst else r.1

/-- Adds to a router's count of deflections and refusals. -/
def State.countRouter (s : State) (die : BitVec 2) (r : BitVec 6) (n : Nat) : State :=
  let x := s.router die r
  let row := (s.net.routers[die.toNat]'(die.isLt)).set r.toNat { x with count := x.count + n } r.isLt
  { s with net := { s.net with routers := s.net.routers.set die.toNat row die.isLt } }

/-- The flits after a router's work in its place in the list: changed, merged away, or gone. -/
def replaceFlits (old new : List Flit) : List Flit → List Flit
  | [] => new
  | f :: r =>
    if old.any fun g => g.mid == f.mid && g.seq == f.seq then replaceFlits old new r
    else f :: replaceFlits old new r

/-- The work of one router in a cycle, from the flits as the cycle began. A source injects on a plane with each flit
that leaves or merges into another (R299, R300). -/
def State.routerWork (s t : State) (die : BitVec 2) (r : BitVec 6) : State :=
  let inj := s.injectors die r
  ([0, 1, 2, 3] : List (BitVec 2)).foldl (fun (t : State) plane =>
    let c := s.net.flits.filter fun f => !f.inj && f.src.die == die && f.plane == plane && f.here == r
    let j := inj.filter fun f => f.plane == plane
    if c.isEmpty && j.isEmpty then t
    else
      let o := routePlane die r c j
      let sent := j.filter fun f => !(o.stay.any fun g => g.inj && g.mid == f.mid && g.seq == f.seq)
      let last := sent.map fun f => ((f.src, plane), s.dieCycle die)
      let t := { t with net := { t.net with
          flits := replaceFlits (c ++ j) o.stay t.net.flits
          lastInj := last ++ t.net.lastInj.filter fun x => !(last.any fun y => y.1 == x.1) } }
      let t := o.eject.foldl (fun (t : State) f => t.ejectFlit die f) t
      t.countRouter die r o.count) t

/-- One cycle of a die's four planes; at the end of a window its throttle levels are due (R299). -/
def routerCycleOn (s : State) : State :=
  match s.occ with
  | .die d =>
    let t := (List.range 64).foldl (fun (t : State) r => s.routerWork t d (BitVec.ofNat 6 r)) s
    let n := s.dieCycle d + 1
    let t := { t with net := { t.net with cycle := t.net.cycle.set d.toNat n d.isLt } }
    if n % 1024 = 0 then { t with agenda := .event .throttleWindow (.die d) :: t.agenda } else t
  | _ => s

/-- DETAIL of a network event: router, plane, and the low bits of the source id (R367). -/
def flitDetail (router : BitVec 6) (plane : BitVec 2) (src : Nat) : Nat :=
  router.toNat + 64 * plane.toNat + 256 * (src % 256)

/-- Without its flit a message that no command waits for is lost (R296): a request for the service faults its token, as
one poisoned does (DESIGN CHOICE, log 36), and a decrement over the fabric is noted until its answer is late. -/
def State.loseBare (s : State) (n : Nat) : State :=
  match s.msg? n with
  | some m =>
    if !m.bare || (m.op == .counter && m.pid.isSome) then s
    else if m.op = .control ∧ m.packet = none then (s.dropMsg n).endCall m.call (tokFaulted 0x07)
    else s.dropMsg n
  | none => s

/-- A router's check of a flit in transit finds an error (R296): corrected and logged; or its payload is marked
poisoned; or, with a header in error, it is discarded, and its sources' credits are free again.
(DEDUCED, log 43) -/
def flitErrorOn (s : State) (mid seq : Nat) (what : FlitError) : State :=
  match s.net.flits.find? fun f => f.mid == mid && f.seq == seq && !f.inj with
  | some f =>
    let log (t : State) (code : BitVec 8) : State :=
      t.addLog 3 code f.src.die (f.here.setWidth 8) (flitDetail f.here f.plane (sourceId f.src).toNat)
    let keep (g : Flit) : Bool := !(g.mid == mid && g.seq == seq && !g.inj)
    match what with
    | .corrected => log s 0x01
    | .payload =>
      log { s with net := { s.net with flits := s.net.flits.map fun g => if keep g then g else { g with psn := true } } } 0x02
    | .header =>
      log (f.msgs.foldl State.loseBare { s with net := { s.net with flits := s.net.flits.filter keep } }) 0x03
  | none => s

/-- ROUTER_CYCLE (R296, R297). -/
def execRouterCycle (s : State) : Host.Outcome State Fault Refusal :=
  event (match s.occ with
    | .flitError mid seq what => flitErrorOn s mid seq what
    | _ => routerCycleOn s)

/-- CREDIT_RETURN: one ejection is told to its router (R292). -/
def execCreditReturn (s : State) : Host.Outcome State Fault Refusal :=
  event (match s.occ with
    | .num n => { s with net := { s.net with credits := s.net.credits.eraseIdx n } }
    | _ => s)

/-- The level after a window with `d` deflections and refusals (R299). -/
def nextLevel (level : BitVec 3) (d : Nat) : BitVec 3 :=
  let t := if d < 64 then 0 else min 7 (1 + Nat.log2 (d / 64))
  if level.toNat ≤ t then BitVec.ofNat 3 t else level - 1

/-- THROTTLE_WINDOW of a die (R299). -/
def execThrottleWindow (s : State) : Host.Outcome State Fault Refusal :=
  event (match s.occ with
    | .die d =>
      let row := (s.net.routers[d.toNat]'(d.isLt)).map fun (x : RouterState) => ⟨nextLevel x.level x.count, 0⟩
      { s with net := { s.net with routers := s.net.routers.set d.toNat row d.isLt } }
    | _ => s)

/-! ### The ends of messages (R294, R296, R303) -/

/-- What an answer's delivery uses of its core's scratchpad (R221). -/
def State.answerSpans (s : State) (m : Msg) : List (Nat × Nat) :=
  let asker : Option Msg := match m.packet with
    | some p => s.answered p
    | none => some m
  match asker with
  | some n => (match s.cmd? n.core n.cmd with
    | some q => ((q.pieces.find? fun p => p.idx == n.idx).map (ownSpans q)).getD []
    | none => [])
  | none => []

/-- The core of a port; an edge unit's port stands for none. -/
def Port.core (p : Port) : BitVec 10 := p.die ++ p.router ++ bits p.port 0 2

/-- It is the message's turn at its end: older requests there are served first (R221, R228). -/
def State.turn (s : State) (m : Msg) : Bool :=
  if m.op.answers then !(s.bankTaken m.final.core (s.before m) (s.answerSpans m)) else s.firstServed m

/-- A complete message of an operation at its end, whose turn it is there (R221, R228). -/
def State.received (s : State) (op : NetOp) : Option Msg :=
  match s.occ with
  | .num n => match s.msg? n with
    | some m => if m.op = op ∧ m.arrived = true ∧ m.dst = m.final ∧ s.turn m = true then some m else none
    | none => none
  | _ => none

/-- The Trepin port of a gateway (R291). -/
def Port.trepin (p : Port) : BitVec 4 := p.die ++ BitVec.ofNat 2 ((p.router.toNat - 15) / 8)

/-- Accesses to places in stack memory activate their rows (R231). -/
def State.activate (s : State) (l : List (Nat × Nat)) : State := l.foldl (fun s p => s.touchAll p.1 p.2) s

/-- A packet poisoned on its way to the gateway leaves with PSN, under a header tag made for it (R296, R342). -/
def State.poisonPacket (s : State) (p : Packet) : Packet :=
  let q := { p with psn := true }
  match s.keySlot p.dmod true p.kix with
  | some k => { q with htag := headerTag k q }
  | none => q

/-- A Trepin gateway sends the packet a message brings, and an access waits for its answer (R307, R341, R343). -/
def State.takeOver (s : State) (m : Msg) (p : Packet) : State :=
  let t := s.emitBy m.final.trepin (if m.psn then s.poisonPacket p else p)
  if m.pid.isNone then t.dropMsg m.id
  else t.updMsg m.id fun m => { m with arrived := false, away := true }

/-- A message's end takes it: a Trepin gateway sends the packet it carries, or keeps a write that is still to be
replicated there (R307, R341, R351); the unit a packet is for opens it (R344); a home unit serves a request, which
activates the rows it asks for (R231). -/
def State.takeMsg (s : State) (m : Msg) (home : State) : State :=
  let rows (t : State) : State := if m.op.asks then t.activate (s.places m) else t
  match m.packet with
  | some p => if m.final.isTrepin then s.takeOver m p else rows (s.packetEnd m p)
  | none => if m.final.isTrepin then s else rows home

/-- What BVEC finds on the base die: its operands in error (R190, R236). -/
def State.serveBvec (s : State) (m : Msg) : State :=
  match s.cmd? m.core m.cmd with
  | some q =>
    if m.psn then s.reply m .readResp [] 0x07 .unperformed
    else if s.bvecPoison m.core q then (s.bvecLog m.core q).reply m .readResp [] 0x07
    else s.reply m .readResp [] (s.homeCode m)
  | none => s.dropMsg m.id

/-- The rows B's elements lie in (R231). -/
def State.bvecRows (s : State) (m : Msg) : List (Nat × Nat) :=
  match s.cmd? m.core m.cmd with
  | some q => (s.bvecLocs m.core q).filterMap fun l => match l with
    | .phys b => some (b / 8, Bvec.esize q.nest)
    | _ => none
  | none => []

/-- NET_READ_REQUEST (R294). -/
def execNetReadRequest (s : State) : Host.Outcome State Fault Refusal :=
  event (match s.received .readReq with
    | some m => s.takeMsg m (if m.sub = 1 then (s.serveBvec m).activate (s.bvecRows m) else s.serveRead m)
    | none => s)

/-- NET_WRITE: a complete write is performed and acknowledged (R294, R303). -/
def execNetWrite (s : State) : Host.Outcome State Fault Refusal :=
  event (match s.received .write with
    | some m => s.takeMsg m (s.serveWrite m)
    | none => s)

/-- MERGEABLE_AT_MEMORY_OPERATION (R302). -/
def execMergeableAtMemoryOperation (s : State) : Host.Outcome State Fault Refusal :=
  event (match s.received .merge with
    | some m => s.takeMsg m (s.serveMerge m)
    | none => s)

/-- UNMERGEABLE_AT_MEMORY_OPERATION (R228). -/
def execUnmergeableAtMemoryOperation (s : State) : Host.Outcome State Fault Refusal :=
  event (match s.received .atomic with
    | some m => s.takeMsg m (s.serveAtomic m)
    | none => s)

/-- A parameter request at its home: answered, with the second copies of what it wrote, or it waits at the pan unit
(R246, R263, R271). -/
def State.serveParam (s : State) (m : Msg) : State :=
  if m.psn then s.reply m .paramResp [] 0x07 .unperformed
  else match s.paramAt m with
    | .wait => s
    | .answer t data code => t.replyLater s.net.nextMsg m .paramResp data code

/-- PARAMETER_REQUEST (R263, R271). -/
def execParameterRequest (s : State) : Host.Outcome State Fault Refusal :=
  event (match s.received .paramReq with
    | some m => s.takeMsg m (s.serveParam m)
    | none => s)

/-- COUNTER_DECREMENT at its counter's home (R194, R200, R314). -/
def execCounterDecrement (s : State) : Host.Outcome State Fault Refusal :=
  event (match s.received .counter with
    | some m => s.takeMsg m (s.serveCounter m)
    | none => s)

/-- An answer reaches its requester: a poisoned one faults the command (R296). -/
def State.takeAnswer (s : State) (op : NetOp) : State :=
  match s.received op with
  | some m =>
    let t := s.dropMsg m.id
    s.takeMsg m (if m.psn then t.deliver m [] 0x07 .response else t.deliver m m.data m.status m.why)
  | none => s

/-- NET_READ_RESPONSE (R294). -/
def execNetReadResponse (s : State) : Host.Outcome State Fault Refusal := event (s.takeAnswer .readResp)

/-- NET_WRITE_ACKNOWLEDGEMENT (R306). -/
def execNetWriteAcknowledgement (s : State) : Host.Outcome State Fault Refusal :=
  event (s.takeAnswer .writeAck)

/-- AT_MEMORY_RESPONSE (R294). -/
def execAtMemoryResponse (s : State) : Host.Outcome State Fault Refusal := event (s.takeAnswer .atResp)

/-- PARAMETER_RESPONSE (R294). -/
def execParameterResponse (s : State) : Host.Outcome State Fault Refusal := event (s.takeAnswer .paramResp)

/-- SERVICE_CONTROL: a control message is taken by its end: a task's request by the service, a packet of a couch engine
or a fence by the gateway it leaves by (R219, R294). -/
def execServiceControl (s : State) : Host.Outcome State Fault Refusal :=
  event (match s.received .control with
    | some m => s.takeMsg m ((s.dropMsg m.id).takeCall m)
    | none => s)

/-- FLIT_UNKNOWN_OP: the flit is discarded and logged with its source (R294). -/
def execFlitUnknownOp (s : State) : Host.Outcome State Fault Refusal :=
  event (match s.occ with
    | .flit die router plane src =>
      s.addLog 3 0x04 die (router.setWidth 8) (flitDetail router plane src.toNat)
    | _ => s)

/-- The message stands whole at a UCIe gateway. -/
def Msg.atUcie (m : Msg) : Bool := m.arrived && m.dst != m.final

/-- No message that came before to the gateway waits for the same module: a module keeps their order (R307; the
module is the implementation's choice: DESIGN CHOICE, log 43). -/
def State.moduleNext (s : State) (m : Msg) : Bool :=
  (s.net.msgs.takeWhile fun x => x.id != m.id).all fun x =>
    !(x.atUcie && x.dst == m.dst && Config.ucieModule x.id == Config.ucieModule m.id)

/-- UCIE_MESSAGE: the peer gateway re-injects a message that has arrived whole at a gateway, under a new message id
and, once it leaves, a new age; a retry on the way is logged (R307). (DEDUCED, log 43) -/
def execUcieMessage (s : State) : Host.Outcome State Fault Refusal :=
  event (match s.occ with
    | .num n => (match s.msg? n with
      | some m =>
        if m.atUcie && s.moduleNext m then
          let peer : Port := ⟨m.final.die, gatewayRouter m.final.die m.dst.die (m.final.router.getLsbD 0), 4⟩
          let m' : Msg := { m with src := peer, dst := m.final, mid := none, arrived := false }
          State.launch { s with net := { s.net with
              msgs := (s.net.msgs.filter fun x => x.id != n) ++ [m'] } } m'
        else s
      | none => s)
    | .retry die router lane unit peer =>
      s.addLog 2 0x04 die router (unit.toNat + 2 ^ 12 * lane.toNat + 2 ^ 20 * peer.toNat)
    | _ => s)

/-- Nanoseconds an access has been outstanding. (DESIGN CHOICE, log 4) -/
def State.waited (s : State) (m : Msg) : Nat := (s.ptb - m.since).toNat

/-- The access goes over the fabric, loopback included (R296, R350, R358). -/
def Msg.overFabric (m : Msg) : Bool :=
  m.pid.isSome || match m.loc with
    | .remote _ _ => true
    | _ => false

/-- An access of an engine to this module's memory has had no response for 64 µs (R296). -/
def State.accessLate (s : State) (m : Msg) : Bool := !m.bare && !m.overFabric && decide (64000 ≤ s.waited m)

/-- ACCESS_TIMEOUT: an access to this module's memory without a response for 64 µs faults with 0x07
(R296). -/
def execAccessTimeout (s : State) : Host.Outcome State Fault Refusal :=
  event (match s.occ with
    | .num n => (match s.msg? n with
      | some m =>
        if s.accessLate m then
          ((s.dropMsg n).deliver m [] 0x07 .response).addLog 3 0x05 (coreDie m.core) (bits m.core 0 8)
            (flitDetail (corePort m.core).router 0 (sourceId (corePort m.core)).toNat)
        else s
      | none => s)
    | _ => s)

end Sys2Proof.Machine
end

