-- ==== Sys2Proof/Machine/Image.lean ====
section
/-! DEFINITION. The bytes of a save slot (R330, R331). A task resumes from the image the model holds; the slot's
memory gets the same image in the layout of the manual (DESIGN CHOICE, log 32). -/

namespace Sys2Proof.Machine

open Sys2Proof

/-! ### Replay entries (R330) -/

/-- FILE, IDX and SZ of a result; none for one that writes no register of a file R330 lists. -/
def ResVal.fileOf : ResVal → Option (BitVec 4 × BitVec 6 × BitVec 2)
  | .s i _ => some (0, i, 0)
  | .k i _ _ => some (1, i.setWidth 6, 1)
  | .v i _ _ => some (2, i, 2)
  | .cb i _ => some (3, i.setWidth 6, 1)
  | .cr i _ => some (4, i, 0)
  | .h _ _ | .none => Option.none

/-- The header of a replay entry (R330). -/
def Result.header (r : Result) : Option Word :=
  r.val.fileOf.map fun x =>
    x.1 ++ x.2.1 ++ BitVec.ofNat 4 r.rem ++ r.flags ++ x.2.2 ++ 0#3 ++ BitVec.ofNat 40 r.seq

/-- Bytes of a mask or codebook, of a vector register. -/
def rowBytes (x : BitVec 256) : List Byte := bytesOfNat 32 x.toNat
def vregBytes (x : VReg) : List Byte := x.toList.flatMap rowBytes

/-- The core as the results in flight that become visible before `r` leave it (R69). -/
def Core.before (c : Core) (r : Result) : Core :=
  let sooner (x : Result) : Bool := decide (x.rem < r.rem) || (x.rem == r.rem && decide (x.seq < r.seq))
  Core.landResults { c with inflight := c.inflight.filter sooner }

/-- The value of a replay entry: what the register holds once the result has become visible, after those in flight
that come before it (R329 step 4, R330). -/
def Result.valueBytes (c : Core) (r : Result) : List Byte :=
  let c := c.before r
  match r.val with
  | .s _ x | .cr _ x => bytesOfNat 8 x.toNat
  | .k i x en => rowBytes ((x &&& en) ||| (c.rk i &&& ~~~en))
  | .v i x en => (List.range 8).flatMap fun j =>
    let m : VRow := en.toList.getD j 0
    rowBytes ((x.toList.getD j 0 &&& m) ||| ((c.rv i).toList.getD j 0 &&& ~~~m))
  | .cb _ x => rowBytes x
  | .h _ _ | .none => []

/-- The replay entries of a core, packed in issue order. -/
def Core.replayBytes (c : Core) : List Byte :=
  c.inflight.flatMap fun r => match r.header with
    | some h => bytesOfNat 8 h.toNat ++ r.valueBytes c
    | none => []

/-! ### The header and the regions (R331) -/

/-- The bits of a barrier object (R26). -/
def Barrier.word (b : Barrier) : Word := b.exp ++ b.cnt ++ b.phase

/-- SOPS of the LIVE in force; 0 while everything is live. -/
def liveWord (f : Option LiveF) : Word :=
  match f with
  | some f => (bits (encode (.live f)) 0 23).setWidth 64
  | none => 0

/-- The 64 bytes of the image header before its reserved part. -/
def SaveImage.header (m : SaveImage) (spxb : Nat) (rec : VAddr) : List Byte :=
  let c := m.core
  bytesOfNat 4 1 ++ bytesOfNat 1 (if m.freeze then 2 else 1)
    ++ bytesOfNat 1 (if m.midg then 1 + 2 * c.gpos else 0) ++ bytesOfNat 2 c.feat.toNat ++ bytesOfNat 4 c.pc
    ++ bytesOfNat 4 ((c.inflight.filter fun r => r.header.isSome).length)
    ++ bytesOfNat 4 (c.running.length + c.queue.length)
    ++ bytesOfNat 4 c.stores.length ++ bytesOfNat 4 c.own.toNat ++ bytesOfNat 4 spxb
    ++ bytesOfNat 8 rec.toNat ++ bytesOfNat 8 (liveWord c.live).toNat ++ bytesOfNat 4 m.cost ++ bytesOfNat 4 c.rstc
    ++ bytesOfNat 4 m.handover.toNat ++ bytesOfNat 4 m.lost.toNat

/-- The control registers by index, then the shadow FPC, SHAPE, MDEF, STAT and PLIM. -/
def State.cregBytes (s : State) (c : Core) : List Byte :=
  let t : State := { s with core := c }
  ((List.range 0x12).flatMap fun i => bytesOfNat 8 ((t.readCr i).getD 0).toNat)
    ++ bytesOfNat 8 c.shadow.fpc.toNat ++ bytesOfNat 8 c.shadow.shape.toNat ++ bytesOfNat 8 c.shadow.mdef.toNat
    ++ bytesOfNat 8 c.shadow.stat.toNat ++ bytesOfNat 8 c.shadow.plim.toNat

/-- One entry of the store-count table. -/
def StoreCount.bytes (e : StoreCount) : List Byte :=
  bytesOfNat 2 e.dmod.toNat ++ bytesOfNat 1 e.cls.toNat ++ [0x80] ++ bytesOfNat 4 e.count.toNat ++ bytesOfNat 8 0

/-- A list as words of `n` bytes, then its shadow. -/
def pairBytes {w : Nat} (n : Nat) (a b : List (BitVec w)) : List Byte :=
  (a ++ b).flatMap fun x => bytesOfNat n x.toNat

/-- What a LIVE in force declares for an image: everything, for a freeze or without one (R215). -/
def SaveImage.declared (m : SaveImage) : LiveF :=
  let all : LiveF := ⟨64, 63, true, true, true, true, true, 24⟩
  if m.freeze then all else m.core.live.getD all

/-- The bytes of the first `n` values of a list, `w` bytes each. -/
def firstBytes {k : Nat} (n w : Nat) (l : List (BitVec k)) : List Byte := (l.take n).flatMap fun x => bytesOfNat w x.toNat

/-- The bytes a latch holds: 96 bytes of K by 48 columns in code order, then valid bit, format, K elements, scale and
codebook (R17). -/
def Latch.bytes (l : Latch) : List Byte :=
  let w := if l.fmt = 1 then 2 else 1
  padTo 4608 ((List.range (48 * l.kel)).flatMap fun k => bytesOfNat w (Sparse.get 0 l.w k).toNat)
    ++ bytesOfNat 1 l.valid.toNat ++ bytesOfNat 1 l.fmt.toNat ++ bytesOfNat 2 l.kel ++ bytesOfNat 4 l.scale.toNat
    ++ rowBytes l.cb

/-- A pending branch: the bundles left of its delay, whether it is taken, and its target (R74). -/
def delayBytes (d : Option Delay) : List Byte :=
  match d with
  | some d => bytesOfNat 1 d.left ++ bytesOfNat 1 d.target.isSome.toNat ++ bytesOfNat 4 (d.target.getD 0)
  | none => bytesOfNat 6 0

/-- The checkpoint record: next group with its pending branch, and the loop's body and position (R74). -/
def Shadow.bytes (h : Shadow) : List Byte :=
  bytesOfNat 4 h.pc ++ delayBytes h.delay ++ match h.loop with
    | some l => bytesOfNat 4 l.first ++ bytesOfNat 4 l.len ++ (l.counts ++ l.idx).flatMap (bytesOfNat 4)
    | none => []

/-- The group write set as bits: `s`, `k`, `v`, `cb`, control registers (R331). -/
def writeSetBytes (l : List RegName) : List Byte :=
  let n : Nat := l.foldl (fun a r => a ||| match r with
    | .s i => 2 ^ i.toNat
    | .k i => 2 ^ (64 + i.toNat)
    | .v i => 2 ^ (80 + i.toNat)
    | .cb i => 2 ^ (144 + i.toNat)
    | .cr i => 2 ^ (152 + i.toNat)
    | _ => 0) 0
  bytesOfNat 27 n

/-- The captured FPC.RM and F8SAT of a command (R172). -/
def FpEnv.byte (v : FpEnv) : Nat := v.mode.code + 8 * v.f8sat.toNat

/-- An engine queue entry: slot, captured values with FPC's, record, restart point, token's code (R172, R331). -/
def Cmd.bytes (q : Cmd) : List Byte :=
  bytesOfNat 8 (encode q.op).toNat ++ bytesOfNat 8 q.ra.toNat ++ bytesOfNat 8 q.rb.toNat ++ bytesOfNat 8 q.rc.toNat
    ++ bytesOfNat 2 q.mod.toNat ++ bytesOfNat 1 q.env.byte ++ (q.nest.toList.flatMap fun x => bytesOfNat 8 x.toNat)
    ++ bytesOfNat 8 q.restart ++ bytesOfNat 1 q.released.toNat ++ bytesOfNat 1 q.status.toNat

/-- A store buffer entry: address, enable and data of each byte or element it writes (R28). -/
def StoreEntry.image (e : StoreEntry) : List Byte :=
  (e.bytes.flatMap fun b => bytesOfNat 4 b.1 ++ [1, b.2])
    ++ e.elems.flatMap fun x => bytesOfNat 4 x.1 ++ [15] ++ bytesOfNat 4 x.2.toNat

/-- A withheld arrival's target. -/
def ArrTarget.bytes (t : ArrTarget) : List Byte :=
  match t with
  | .obj o => bytesOfNat 1 o.scope.toNat ++ bytesOfNat 8 o.index.toNat
  | .counter a => bytesOfNat 1 0 ++ bytesOfNat 8 a.toNat

/-- Arrivals not made and posts not committed. -/
def Core.withheldBytes (c : Core) : List Byte :=
  (c.arrs.flatMap fun p => p.target.bytes) ++ c.posts.flatMap fun p => bytesOfNat 8 p.value.toNat

/-- An entry of a reassembly table (R304). -/
def Reasm.bytes (r : Reasm) : List Byte :=
  bytesOfNat 2 (sourceId r.src).toNat ++ bytesOfNat 1 r.mid.toNat ++ bytesOfNat 1 r.len ++ bytesOfNat 4 r.seen.toNat

/-- What the regions hold whose inner layout the manual does not give, by offset, with their sizes: checkpoint
record, group write set, weight latches, engine queue, store buffer, reassembly, withheld arrivals and posts,
ejection store. (DESIGN CHOICE, log 32) -/
def State.openRegions (s : State) (m : SaveImage) : List (Nat × Nat × List Byte) :=
  let c := m.core
  let p := corePort c.id
  let w := [(0xA000, 0x3000, c.wb0.bytes ++ c.wb1.bytes)]
  if m.freeze then
    w ++ [(0xE80, 128, c.shadow.bytes), (0xF00, 64, writeSetBytes c.gws),
      (0x10000, 0x1000, (c.running ++ c.queue).flatMap Cmd.bytes),
      (0x11000, 0x4000, c.stores.flatMap StoreEntry.image),
      (0x15000, 1024, (s.net.reasm.filter fun r => r.port == p).flatMap Reasm.bytes),
      (0x15400, 1024, c.withheldBytes),
      (0x60000, 0x20000, (s.net.store.filter fun f => f.dst == p).flatMap fun f =>
        bytesOfNat 8 f.header.toNat ++ s.payload f)]
  else if m.declared.w then w else []

/-- The regions of an image with their offsets: at a yield switch those that are always saved and those its LIVE
declares (R215, R331). (DESIGN CHOICE, log 32) -/
def State.slotRegions (s : State) (m : SaveImage) (spxb : Nat) (rec : VAddr) : List (Nat × List Byte) :=
  let c := m.core
  let h := c.shadow
  let f := m.declared
  let n := if c.loop.isSome then 64 else f.shi.toNat + 1
  let if' (b : Bool) (l : List (Nat × List Byte)) : List (Nat × List Byte) := if b then l else []
  [(0, padTo 256 (m.header spxb rec)), (0x100, firstBytes n 8 c.s.toList), (0x300, firstBytes n 8 h.s.toList),
    (0x900, padTo 512 (s.cregBytes c)), (0xD00, padTo 256 (pairBytes 2 c.tokens.toList h.tokens.toList)),
    (0xE00, pairBytes 8 c.handles.toList (c.bars.toList.map Barrier.word)),
    (0x15800, padTo 1024 (c.counts.flatMap StoreCount.bytes)),
    (0x2000, (c.v.toList.take f.vcnt.toNat).flatMap vregBytes),
    (0x6000, (h.v.toList.take f.vcnt.toNat).flatMap vregBytes)]
    ++ if' f.k [(0x500, pairBytes 32 c.k.toList h.k.toList)]
    ++ if' f.c [(0xB00, pairBytes 32 c.cb.toList h.cb.toList)]
    ++ if' f.t [(0x1000, pairBytes 16 c.tiles.toList h.tiles.toList)]
    ++ if' m.freeze [(0x20000, c.replayBytes)]
    ++ (s.openRegions m).map fun r => (r.1, padTo r.2.1 ((Config.imageRegion r.1 r.2.2).take r.2.1))

/-- The owned banks of an image, by offset in its accumulator region. -/
def Core.bankCells (c : Core) : List (Nat × Byte) :=
  (c.acc.filter fun e => c.own.getLsbD (e.1 / 6144)).flatMap fun e => cellsFrom (0x80000 + 4 * e.1) (bytesOfNat 4 e.2.toNat)

/-- The owned banks with their offsets; none when a LIVE leaves them out (R215, R331). -/
def SaveImage.bankParts (m : SaveImage) : List (Nat × Nat) :=
  if m.declared.a then ((List.range 32).filter fun n => m.core.own.getLsbD n).map fun n => (0x80000 + 24576 * n, 24576)
  else []

/-- The cells of an image, by offset in its slot. (DESIGN CHOICE, log 8) -/
def State.slotCells (s : State) (m : SaveImage) (spxb : Nat) (rec : VAddr) : List (Nat × Byte) :=
  ((s.slotRegions m spxb rec).flatMap fun r => cellsFrom r.1 r.2)
    ++ (if m.declared.a then m.core.bankCells else []) ++ m.spad.map fun c => (0x140000 + c.1, c.2)

/-- The parts of a slot an image covers: what it writes there replaces what they held.
(DESIGN CHOICE, log 32) -/
def State.slotParts (s : State) (m : SaveImage) (spxb : Nat) (rec : VAddr) : List (Nat × Nat) :=
  ((s.slotRegions m spxb rec).map fun r => (r.1, r.2.length)) ++ m.bankParts ++ [(0x140000, spxb)]

/-- Sets LOST in the slot at `base` (R333). (DEDUCED, log 49) -/
def State.markLost (s : State) (base : Nat) : State := s.poke [(base + 0x3C, 1)]

/-- Writes an image into its slot (R329, R331). (DESIGN CHOICE, log 32) -/
def State.writeImage (s : State) (base spxb : Nat) (rec : VAddr) (m : SaveImage) : State :=
  let cells := s.slotCells m spxb rec
  let s := (s.slotParts m spxb rec).foldl (fun (s : State) r => s.zeroRange (base + r.1) r.2) s
  (s.poke ((cells.filter fun c => c.2 != 0).map fun c => (base + c.1, c.2)))

end Sys2Proof.Machine
end

