-- ==== Sys2Proof/Machine/Sched.lean ====
section
/-! DEFINITION. Queues, the hardware queue scheduler, dispatch, yields and switches (R36, R310 to R323,
R331 to R334). -/

namespace Sys2Proof.Machine

open Sys2Proof

/-! ### Doorbells (R313) -/

/-- DOORBELL_TAIL: a write of TAIL rings the queue; one too far ahead is clamped and logged (R313). -/
def ringTail (s : State) (q : Queue) (x : BitVec 32) : State :=
  if q.qst == .closed || q.closing || q.refuse then s
  else
    let far := decide (q.rsz < (x - q.head).toNat)
    let tail := if far then q.head + BitVec.ofNat 32 q.rsz else x
    let s := if far then s.addLog 7 0x03 q.die 0 q.qid.toNat else s
    (s.updQueue q.qid fun q => { q with tail := tail }).bindQueue q.qid

/-- DOORBELL_TAIL (R313). -/
def execDoorbellTail (s : State) : Host.Outcome State Fault Refusal :=
  event (match s.occ with
    | .ring qid x => (match s.queue? qid with
      | some q => ringTail s q x
      | none => s)
    | _ => s)

/-- Waiting posts enter a ring while it has room, in their order (R313). -/
def State.admitPosts (s : State) (qid : BitVec 14) : List (Word × VAddr) → State
  | [] => s
  | p :: r =>
    match s.queue? qid with
    | some q =>
      if q.ringFull then s
      else ((s.updQueue qid fun q => { q with waiting := r }).postNow q p.1 p.2).admitPosts qid r
    | none => s

/-- DOORBELL_CHEAD: entries are free, and waiting posts enter (R313). -/
def execDoorbellChead (s : State) : Host.Outcome State Fault Refusal :=
  event (match s.occ with
    | .ring qid x => (match s.queue? qid with
      | some q => (s.updQueue qid fun q => { q with chead := x }).admitPosts qid q.waiting
      | none => s)
    | _ => s)

/-! ### Consuming a record (R311, R313, R314) -/

/-- The value of a completion entry for a rejected record, an unreadable one, a lost context, and a task
retired without a record. -/
def postRejected : Word := 0xFFFFFFFFFFFFFFFF
def postUnreadable : Word := 0xFFFFFFFFFFFFFFFC
def postLost : Word := 0xFFFFFFFFFFFFFFFD
def postNoRecord : Word := 0xFFFFFFFFFFFFFFFE

/-- The record's bytes can be read in memory of this module (R311). -/
def State.recordReadable (s : State) (asid : BitVec 16) (va : Nat) : Bool :=
  decide (va % 128 = 0) && decide (va < 2 ^ 56)
    && match s.access asid va false false with
       | .ok (.phys b) => (match placeOf (b / 8) with
         | .stack _ => !(s.isPoisoned (b / 8) 128)
         | _ => false)
       | _ => false

/-- A field of a code object's header: as it stands in this module's memory, or as the service loaded it where it lies
on another module (R62, R311; DESIGN CHOICE, log 66). -/
def State.headerField (s : State) (asid : BitVec 16) (code o n : Nat) : Nat :=
  if s.isAway asid code then
    match (s.context? asid).bind fun x => x.codes.find? fun c => c.va.toNat == code with
    | some c => natOfBytes ((c.bytes.drop o).take n)
    | none => 0
  else s.field asid (code + o) n

/-- What R311 rejects in a readable record. -/
def State.recordRejected (s : State) (q : Queue) (va : Nat) : Bool :=
  let f (o n : Nat) : Nat := s.field q.asid (va + o) n
  let code := f 16 8
  let featw := f 10 2
  let gang := f 6 1
  let flg := f 7 1
  let known := match s.context? q.asid with
    | some x => x.codes.any fun c => c.va.toNat == code
    | none => false
  let nbun := s.headerField q.asid code 8 4
  let need := s.headerField q.asid code 6 2
  decide (gang < 1) || decide (4 < gang) || decide (256 ≤ featw) || f 40 4 == 0
    || f 8 2 != q.asid.toNat || decide (16 ≤ f 5 1) || decide (8 ≤ flg) || f 4 1 != 0 || f 44 4 != 0
    || f 112 4 != 0 || f 116 4 != 0 || f 120 8 != 0
    || !known || decide (nbun ≤ f 12 4) || need.land featw != need

/-- HQS_CONSUME: the next entry is skipped, rejected, left waiting or readied (R311, R313, R314). -/
def consume (s : State) (q : Queue) : State :=
  let entry := q.ring.toNat + 8 * (q.head.toNat % q.rsz)
  let va := s.field q.asid entry 8
  let recVa := BitVec.ofNat 56 va
  let s := s.updQueue q.qid fun q => { q with head := q.head + 1 }
  if !(s.recordReadable q.asid va) then
    let s := match s.access q.asid va false false with
      | .ok (.phys b) => if decide (va % 128 = 0) && decide (va < 2 ^ 56) then s.logPoison (b / 8) 128 else s
      | _ => s
    (s.post q.qid postUnreadable recVa).addLog 7 0x07 q.die 0 entry
  else if s.recordRejected q va then
    ((s.setTaskState q.asid recVa 7).orTaskFlag q.asid recVa 8).post q.qid postRejected recVa
  else
    let s := s.setField q.asid (va + 44) 4 q.qid.toNat
    let armed := s.field q.asid (va + 7) 1 / 2 % 2 == 1
    if s.field q.asid va 4 == 0 || armed then s.readyTask q.asid recVa q.qid none
    else
      let s := s.setTaskState q.asid recVa 1
      { s with sched := { s.sched with waiting := s.sched.waiting ++ [(q.asid, recVa, q.qid)] } }

/-- A bound queue has an entry whose address is written (R313). -/
def Queue.canConsume (q : Queue) : Bool :=
  q.qst == .bound && q.head != q.tail && !(q.reserved.any fun r => r.place == q.head)

/-- HQS_CONSUME (R313). -/
def execHqsConsume (s : State) : Host.Outcome State Fault Refusal :=
  event (match s.occ with
    | .queue qid => (match s.queue? qid with
      | some q => if q.canConsume then consume s q else s
      | none => s)
    | _ => s)

/-! ### Slots (R316) -/

/-- The pending queue of a die that takes a slot: highest rank, then rung earliest. -/
def State.pendingQueue (s : State) (die : BitVec 2) : Option Queue :=
  minQueue (fun q => (15 - q.qrk.toNat, q.stamp)) (s.sched.queues.filter fun q => q.die == die && q.qst == .pending)

/-- A pending queue takes a slot that is free or idle. -/
def State.takeSlot (s : State) (die : BitVec 2) : State :=
  match s.pendingQueue die with
  | none => s
  | some q =>
    match s.freeSlot die with
    | some n => s.bindTo q.qid n
    | none =>
      match minQueue (fun p => (p.qrk.toNat, p.stamp)) ((s.boundOn die).filter s.queueIdle) with
      | some p => (s.updQueue p.qid fun p => { p with qst := .unbound }).bindTo q.qid p.slot.toNat
      | none => s

/-- SLOT_TAKEOVER of a die (R316). -/
def execSlotTakeover (s : State) : Host.Outcome State Fault Refusal :=
  event (match s.occ with
    | .die d => if s.svc.drained.contains d then s else s.takeSlot d
    | _ => s)

/-- QUEUE_CLOSE_COMPLETE: a queue asked to close is idle, and its slot is free (R316). -/
def execQueueCloseComplete (s : State) : Host.Outcome State Fault Refusal :=
  event (match s.occ with
    | .queue qid => (match s.queue? qid with
      | some q =>
        if q.closing && s.queueIdle q then s.updQueue qid fun q => { q with qst := .closed } else s
      | none => s)
    | _ => s)

/-- The chained task that enters the pool next: the oldest by RDY of those it takes (R317). -/
def oldestEntry : List PoolEntry → Option PoolEntry
  | [] => none
  | e :: r => match oldestEntry r with
    | some f => if f.rdy.toNat < e.rdy.toNat then some f else some e
    | none => some e

/-- POOL_OVERFLOW_ENTRY: a chained task enters the pool, and the chain closes behind it (R317). -/
def enterPool (s : State) (die : BitVec 2) : State :=
  match oldestEntry ((s.chain die).filter (s.poolTakes die)) with
  | some e =>
    (((s.setLink e 0).updChain die fun l => l.erase e).relink die).updPool die fun l => l ++ [e]
  | none => s

/-- POOL_OVERFLOW_ENTRY (R317). -/
def execPoolOverflowEntry (s : State) : Host.Outcome State Fault Refusal :=
  event (match s.occ with
    | .die d => enterPool s d
    | _ => s)

/-! ### Eligibility and order (R318, R319) -/

/-- Lexicographic order of keys. -/
def lexLt : List Nat → List Nat → Bool
  | a :: r, b :: t => decide (a < b) || (a == b && lexLt r t)
  | [], _ :: _ => true
  | _, [] => false

/-- The first element of least key. -/
def minBy {α : Type} (key : α → List Nat) : List α → Option α
  | [] => none
  | x :: r => match minBy key r with
    | some y => if lexLt (key y) (key x) then some y else some x
    | none => some x

/-- The aged rank of a ready task (R319). (DEDUCED, log 48) -/
def State.agedRank (s : State) (e : PoolEntry) : Nat :=
  let slice := ((s.queue? e.queue).map (·.slice)).getD 1024
  min 15 (e.rank.toNat + (s.cyc.toNat - e.since) / (64 * slice))

/-- RANK of a die's ready tasks follows their ages (R310, R319). -/
def State.agePool (s : State) (die : BitVec 2) : State :=
  (s.pool die ++ s.chain die).foldl (fun (s : State) e =>
    let r := e.rank.toNat + 16 * s.agedRank e
    if s.field e.asid (e.recVa.toNat + 5) 1 = r then s else s.setField e.asid (e.recVa.toNat + 5) 1 r) s

/-- The gang size of a task's record. -/
def State.gangOf (s : State) (e : PoolEntry) : Nat := s.field e.asid (e.recVa.toNat + 6) 1 % 8

/-- The tags of a task's declared tile list (R310). (DEDUCED, log 72) -/
def State.tileTags (s : State) (asid : BitVec 16) (rec : VAddr) : List Nat :=
  let a := s.field asid (rec.toNat + 24) 8
  if a = 0 then [] else (List.range (min 128 (s.field asid a 4))).map fun i => s.field asid (a + 4 + 4 * i) 4

/-- Tile affinity of a core for a task, from the context last on it (R318). -/
def State.affinity (s : State) (c : Core) (last : Option (BitVec 16)) (e : PoolEntry) : Bool :=
  last == some e.asid && (s.tileTags e.asid e.recVa).all fun t =>
    c.tiles.toList.any fun x => (TileE.tag x).toNat == t

/-- The core's features cover the task's, and no image of the task is still being handed over or held (R32, R318,
R332, R338). -/
def State.covers (s : State) (c : Core) (e : PoolEntry) : Bool :=
  (s.needOf e &&& c.feat) == s.needOf e && (s.imagesOf e.asid e.recVa).all fun m => !m.handover && !m.nddb

/-- The image of a task's member `i`. -/
def State.imageOf (s : State) (e : PoolEntry) (i : Nat) : Option SaveImage :=
  (s.imagesOf e.asid e.recVa).find? fun m => (m.core.task.map fun (t : TaskInfo) => t.gidx.toNat) == some i

/-- The member `i` may resume on the core: its image, when it stopped inside a group, has the core's width (R334). -/
def State.fits (s : State) (e : PoolEntry) (c : Core) (i : Nat) : Bool :=
  match s.imageOf e i with
  | some m => !m.midg || m.core.feat.getLsbD 8 == c.feat.getLsbD 8
  | none => true

/-- The core is in the dispatch set of the task's die (R318, R368). -/
def State.eligible (s : State) (c : Core) (e : PoolEntry) : Bool :=
  ((s.queue? e.queue).map fun q => q.die == coreDie c.id).getD false
    && !(s.svc.retiredCores.contains c.id) && !(s.svc.drained.contains (coreDie c.id)) && s.covers c e

/-- A handover of the core is open (R332). -/
def State.handoverOpen (s : State) (id : BitVec 10) : Bool :=
  s.sched.images.any fun m => m.handover && m.core.id == id

/-- A core free for dispatch. -/
def State.idleCore (s : State) (c : Core) : Bool :=
  c.mode == .idle && !s.svc.coolantLost && !(s.handoverOpen c.id) && c.queue.isEmpty && c.running.isEmpty

/-- The idle cores of a quad that a task is eligible for, by COREID. -/
def State.quadFor (s : State) (core : BitVec 10) (e : PoolEntry) : List Core :=
  ((List.range 4).map fun i => s.findCore (BitVec.ofNat 10 (core.toNat / 4 * 4 + i))).filter fun c =>
    s.idleCore c && s.eligible c e

/-- Seats members on cores that stand by COREID: each takes the first core left that it fits (R116, R334). -/
def State.seat (s : State) (e : PoolEntry) : List Core → List Nat → List Core
  | _, [] => []
  | [], _ => []
  | c :: l, i :: r => if s.fits e c i then c :: s.seat e l r else s.seat e l (i :: r)

/-- The cores of a quad that the members of a gang of `n` take, in ascending COREID (R116, R318). -/
def State.seatsFor (s : State) (core : BitVec 10) (e : PoolEntry) (n : Nat) : List Core :=
  s.seat e (s.quadFor core e) (List.range n)

/-- A task may start on an idle core: alone, or with the rest of its gang in the core's quad (R318). -/
def State.startableOn (s : State) (c : Core) (e : PoolEntry) : Bool :=
  let n := s.gangOf e
  s.idleCore c && s.eligible c e
    && (if n ≤ 1 then s.fits e c 0 else decide ((s.seatsFor c.id e n).length = n))

/-- The dispatcher's order of tasks for a core (R318). -/
def State.taskKey (s : State) (c : Core) (last : Option (BitVec 16)) (e : PoolEntry) : List Nat :=
  let r := s.agedRank e
  [15 - r, if r < 15 && !(s.affinity c last e) then 1 else 0, e.rdy.toNat, e.recVa.toNat]

/-- The dispatcher's order of cores for a task: one with NET set takes a quad at level 4 or above only when no other
eligible core is idle (R318). -/
def State.coreKey (s : State) (e : PoolEntry) (c : Core) : List Nat :=
  let n := (s.nthr c.id).toNat
  let net := s.field e.asid (e.recVa.toNat + 7) 1 % 2 == 1
  [if net && decide (4 ≤ n) then 1 else 0, if s.affinity c c.lastAsid e then 0 else 1, n, c.id.toNat]

/-- The task an idle core takes (R318). -/
def State.taskFor (s : State) (c : Core) : Option PoolEntry :=
  minBy (s.taskKey c c.lastAsid) ((s.pool (coreDie c.id)).filter (s.startableOn c))

/-- The cores a task starts on: the preferred one, or its gang's quad (R116, R318). -/
def State.coresFor (s : State) (die : BitVec 2) (e : PoolEntry) : List Core :=
  let idle := ((List.range 256).map fun i => s.findCore (die ++ BitVec.ofNat 8 i)).filter fun c => s.startableOn c e
  match minBy (s.coreKey e) idle with
  | none => []
  | some c => if s.gangOf e ≤ 1 then [c] else s.seatsFor c.id e (s.gangOf e)

/-! ### Starting and restoring (R36, R225, R331, R334) -/

/-- A core's scratchpad written to zero. -/
def State.zeroSpad (s : State) (id : BitVec 10) : State := s.zeroRange (spadBase id) (spadSizeOf id)

/-- The quad objects of a gang that starts are uninitialised (R26, R309). (DEDUCED, log 30) -/
def State.clearObjs (s : State) (asid : BitVec 16) (rec : VAddr) : State :=
  { s with quadBars := s.quadBars.filter fun p => !(p.1.1 == asid && p.1.2.1 == rec) }

/-- The tile table a fresh task finds (R36). (DEDUCED, log 72) -/
def keptTiles (c : Core) (same : Bool) (tags : List Nat) : Vector (BitVec 128) 128 :=
  c.tiles.map fun t =>
    if same && TileE.state t == TileE.ready && TileE.tag t != 0 && tags.contains (TileE.tag t).toNat then t else 0

/-- A fresh task's core (R10, R36). -/
def State.freshCore (s : State) (c : Core) (e : PoolEntry) (t : TaskInfo) (q : Queue) : Core :=
  let f (o n : Nat) : Nat := s.field e.asid (e.recVa.toNat + o) n
  let c' : Core := { Core.reset c.id with
    feat := c.feat
    s := (Vector.replicate 64 (0 : Word)).set 1 (BitVec.ofNat 64 (f 32 8))
    tiles := keptTiles c (c.lastAsid == some e.asid) (s.tileTags e.asid e.recVa)
    ygrace := q.ygr
    mode := .running, codeVa := BitVec.ofNat 56 (f 16 8), pc := f 12 4
    nextId := c.nextId
    task := some t, lastAsid := some e.asid, declared := f 40 4, slice := q.slice }
  { c' with shadow := c'.snapshot }

/-- Starts a fresh task on a core, whose instruction store takes the task's code object (R36, R225). -/
def State.startFresh (s : State) (id : BitVec 10) (e : PoolEntry) (t : TaskInfo) (q : Queue) : State :=
  let c := s.findCore id
  let s := if c.lastAsid == some e.asid then s else s.zeroSpad id
  (s.updCore id fun c => s.freshCore c e t q).loadStore id

/-- The image's core as it resumes on another core (R334). -/
def SaveImage.resumed (m : SaveImage) (c : Core) (t : TaskInfo) (declared : Nat) (q : Queue) (cost : Nat) :
    Core :=
  let narrow := m.core.feat.getLsbD 8 != c.feat.getLsbD 8
  { m.core with
    id := c.id, feat := c.feat, mode := .running, task := some t, lastAsid := some t.asid
    stat := m.core.stat ||| (if m.freeze then statFrz else 0) ||| (if narrow then statNwr else 0)
    frozenSince := m.freeze, narrowSince := m.freeze && narrow
    declared := declared, sinceYield := 0, slice := q.slice, grpcStart := m.core.grpc
    padvWait := none, freeze := none, incoming := none, overrun := false, rstc := cost, needFeat := 0 }

/-- Restores an image on a core: its scratchpad and everything it saved, with RSTC in the slot (R331, R334).
(DEDUCED, log 57) -/
def State.restore (s : State) (id : BitVec 10) (m : SaveImage) (t : TaskInfo) (declared : Nat) (q : Queue) :
    State :=
  let cost := (Config.freeValue 31 s.free).toNat
  let s := { s with free := s.free + 1 }.zeroSpad id
  let s := s.poke (m.spad.map fun (c : Nat × Byte) => (spadBase id + c.1, c.2))
  let s := s.updCore id fun c => m.resumed c t declared q cost
  let s := s.poke (cellsFrom (q.slotBase m.slot + 0x34) (bytesOfNat 4 cost))
  { s with sched := { s.sched with images := s.sched.images.filter fun x =>
      !(x.queue == m.queue && x.slot == m.slot) } }

/-- The core is left by its task: nothing of it stays but the scratchpad and the context it belongs to.
(DEDUCED, log 48, log 72) -/
def Core.vacate (c : Core) : Core :=
  { Core.reset c.id with feat := c.feat, lastAsid := some c.asid, nextId := c.nextId }

/-- A lost context: its images are lost and their cores free, the task failed, its queue refuses rings, its completion
says so (R333). (DEDUCED, log 49) -/
def State.loseContext (s : State) (q : Queue) (asid : BitVec 16) (rec : VAddr) : State :=
  let s := (s.setTaskState asid rec 7).orTaskFlag asid rec 8
  let s := (s.imagesOf asid rec).foldl (fun (s : State) m =>
    (if m.handover then s.updCore m.core.id Core.vacate else s).markLost (q.slotBase m.slot)) s
  let s := { s with sched := { s.sched with images := s.sched.images.filter fun m =>
    !((s.imagesOf asid rec).contains m) } }
  let s := s.updQueue q.qid fun q => { q with refuse := true }
  (s.post q.qid postLost rec).addLog 7 0x01 q.die 0 rec.toNat

/-- STATE 3 and the aged rank of a task that starts running (R314, R319). -/
def State.markRunning (s : State) (e : PoolEntry) (aged : Nat) : State :=
  (s.setTaskState e.asid e.recVa 3).setField e.asid (e.recVa.toNat + 5) 1 (e.rank.toNat + 16 * aged)

/-- Puts the member `i` of a task of `n` on a core, fresh or from its image (R318, R334). -/
def State.startMember (s : State) (e : PoolEntry) (q : Queue) (aged n : Nat) (id : BitVec 10) (i : Nat) :
    State :=
  let t : TaskInfo := ⟨e.asid, e.recVa, e.queue, BitVec.ofNat 3 n, BitVec.ofNat 3 i, BitVec.ofNat 4 aged⟩
  match s.imageOf e i with
  | some m => s.restore id m t (s.field e.asid (e.recVa.toNat + 40) 4) q
  | none => if e.save.isSome then s else s.startFresh id e t q

/-- Puts every member of a task on its core; an error in an image that is restored loses the context (R318, R333). -/
def State.startMembers (s : State) (e : PoolEntry) (q : Queue) (aged : Nat) (cores : List (BitVec 10)) : State :=
  match (s.imagesOf e.asid e.recVa).find? fun m => s.isPoisoned (q.slotBase m.slot) saveSlotSize with
  | some m => (s.logPoison (q.slotBase m.slot) saveSlotSize).loseContext q e.asid e.recVa
  | none =>
    let s := if e.save.isNone then s.clearObjs e.asid e.recVa else s
    (cores.zipIdx).foldl (fun (s : State) (x : BitVec 10 × Nat) =>
      s.startMember e q aged cores.length x.1 x.2) s

/-- Starts a ready task on its cores. -/
def State.startTask (s : State) (e : PoolEntry) (cores : List Core) : State :=
  match s.queue? e.queue with
  | none => s
  | some q =>
    let aged := s.agedRank e
    (((s.updPool q.die fun l => l.erase e).markRunning e aged).startMembers e q aged
      (cores.map (·.id))).tellUncovered q.die

/-- DISPATCH: an idle core takes the best task it may, which starts on the core or quad the dispatcher
prefers for it (R318). -/
def dispatchOn (s : State) (id : BitVec 10) : State :=
  let c := s.findCore id
  match s.taskFor c with
  | some e => s.startTask e (s.coresFor (coreDie id) e)
  | none => s

/-- The idle cores of a die that have a task to take take it, before any yield arbitration (R321). -/
def State.dispatchAll : Nat → State → BitVec 2 → State
  | 0, s, _ => s
  | n + 1, s, die =>
    if (s.pool die).isEmpty then s
    else match ((List.range 256).map fun i => die ++ BitVec.ofNat 8 i).find? fun id =>
        s.idleCore (s.findCore id) && (s.taskFor (s.findCore id)).isSome with
      | some id => (dispatchOn s id).dispatchAll n die
      | none => s

/-- DISPATCH (R318). -/
def execDispatch (s : State) : Host.Outcome State Fault Refusal :=
  event (match s.occ with
    | .core id => dispatchOn s id
    | _ => s)

/-! ### Yields and switches (R215, R321, R322) -/

/-- The state a LIVE declares, the rest as R215 leaves it. -/
def Core.liveOnly (c : Core) (f : LiveF) : Core :=
  let c : Core := { c with
    v := c.v.mapIdx fun i x => if i < f.vcnt.toNat then x else VReg.zero
    s := c.s.mapIdx fun i x =>
      if i ≤ f.shi.toNat || (decide (58 ≤ i) && c.loop.isSome) then x else 0
    k := if f.k then c.k else masksReset
    tiles := if f.t then c.tiles else Vector.replicate 128 0
    cb := if f.c then c.cb else Vector.replicate 8 0
    wb0 := if f.w then c.wb0 else Latch.cleared
    wb1 := if f.w then c.wb1 else Latch.cleared
    acc := if f.a then c.acc else []
    own := if f.a then c.own else 0
    poisonedBanks := if f.a then c.poisonedBanks else 0
    poisonedWords := if f.a then c.poisonedWords else [] }
  { c with shadow := c.snapshot }

/-- Scratchpad bytes a LIVE declares. -/
def liveSpad (f : Option LiveF) (id : BitVec 10) : Nat :=
  match f with
  | some f => min (f.spx.toNat * 0x20000) (spadSizeOf id)
  | none => spadSizeOf id

/-- The first `n` bytes of a scratchpad that are not zero, by offset. -/
def State.spadCells (s : State) (id : BitVec 10) (n : Nat) : List (Nat × Byte) :=
  (s.mem.filter fun c => decide (spadBase id ≤ c.1) && decide (c.1 < spadBase id + n)).map fun c =>
    (c.1 - spadBase id, c.2)

/-- The free save slots of a queue. -/
def State.freeSlots (s : State) (q : Queue) : List Nat :=
  (List.range q.nsave).filter fun n => !(s.sched.images.any fun m => m.queue == q.qid && m.slot == n)

/-- The first free save slot of a queue. -/
def State.firstSlot (s : State) (q : Queue) : Option Nat := (s.freeSlots q).head?

/-- A queue has `n` save slots that are free and that no task which is being switched out counts on (R321, R329). -/
def State.slotsFor (s : State) (q : Queue) (n : Nat) : Bool :=
  decide (n + ((s.core :: s.parked).filter fun c =>
    c.mode == .switching && (c.task.map fun t => t.queue == q.qid).getD false).length ≤ (s.freeSlots q).length)

/-- Owned banks of a core that hold an unread error. -/
def Core.badBanks (c : Core) : List Nat :=
  (List.range 32).filter fun n => c.own.getLsbD n
    && (c.poisonedBanks.getLsbD n || c.poisonedWords.any fun k => k / 6144 == n)

/-- A save meets an uncorrectable error, in the scratchpad or the banks it reads or the slot it writes (R333).
(DEDUCED, log 49) -/
def State.saveBad (s : State) (q : Queue) (c : Core) (n slot : Nat) : Bool :=
  s.isPoisoned (spadBase c.id) n || s.isPoisoned (q.slotBase slot) saveSlotSize || !c.badBanks.isEmpty

/-- The errors a save meets are logged (R236). -/
def State.saveLog (s : State) (q : Queue) (c : Core) (n slot : Nat) : State :=
  c.badBanks.foldl (fun (s : State) b =>
    s.addLog 1 0x08 (coreDie c.id) (bits c.id 0 8) (2 ^ 54 + b * 24576))
    ((s.logPoison (spadBase c.id) n).logPoison (q.slotBase slot) saveSlotSize)

/-- Saves the focused core's task at a yield switch: FRUN, SVSL, state 4, back to the pool (R314, R321).
(DEDUCED, log 48) -/
def State.saveYield (s : State) (t : TaskInfo) (q : Queue) (slot : Nat) : State :=
  let id := s.core.id
  let n := liveSpad s.core.live id
  let c : Core := { s.core with incoming := none }
  let c := match c.live with
    | some f => c.liveOnly f
    | none => c
  if s.saveBad q c n slot then
    (((s.saveLog q c n slot).markLost (q.slotBase slot)).onCore Core.vacate).loseContext q t.asid t.recVa
  else
    let m : SaveImage := {
      queue := q.qid, slot := slot, freeze := false, midg := false, core := c
      spad := s.spadCells id n, handover := false, lost := false, nddb := false
      cost := (Config.freeValue 30 s.free).toNat, stopped := 0 }
    let s := s.writeImage (q.slotBase slot) n t.recVa m
    let s := { s with free := s.free + 1, sched := { s.sched with images := s.sched.images ++ [m] } }
    let s := ((s.setField t.asid (t.recVa.toNat + 40) 4 c.declared).setField t.asid (t.recVa.toNat + 116) 4
      slot).setTaskState t.asid t.recVa 4
    (s.onCore Core.vacate).readyTask t.asid t.recVa t.queue (some slot)

/-- The effective slice of a switch and whether the cost exceeds the incoming queue's SLICE (R322).
(DEDUCED, log 67) -/
def effectiveSlice (slice cost : Nat) : Nat × Bool := (max slice cost, decide (slice < cost))

/-- The incoming task takes the core with its effective slice (R322). (DEDUCED, log 48, log 67) -/
def State.takeIncoming (s : State) (e : PoolEntry) (saveCost : Nat) : State :=
  match s.queue? e.queue with
  | none => s
  | some q =>
    let last := (((s.imagesOf e.asid e.recVa).head?).map fun m => m.core.rstc).getD 0
    let x := effectiveSlice q.slice (saveCost + last)
    let aged := s.agedRank e
    let s := (s.markRunning e aged).startMembers e q aged [s.core.id]
    let s := s.onCore fun c => { c with slice := x.1, stat := if x.2 then c.stat ||| statSfl else c.stat }
    if x.2 then s.updQueue q.qid fun q => { q with nflr := q.nflr + 1 } else s

/-- The switch, once the outgoing task's work has completed (R321). -/
def switchNow (s : State) : State :=
  let s := s.finishWork
  if !(endReady s.core) then s.hold
  else match s.core.task, s.core.incoming with
    | some t, some e =>
      (match s.queue? t.queue with
       | some q => (match s.firstSlot q with
         | some slot =>
           let cost := (Config.freeValue 30 s.free).toNat
           (s.saveYield t q slot).takeIncoming e cost
         | none => s.hold)
       | none => s.hold)
    | _, _ => s

/-- The task a yield switches to: eligible for this core, of the running task's aged rank or more, with a
first run its queue's slice covers (R321). -/
def State.switchTask (s : State) (t : TaskInfo) : Option PoolEntry :=
  let c := s.core
  minBy (s.taskKey c (some t.asid)) ((s.pool (coreDie c.id)).filter fun e =>
    s.gangOf e ≤ 1 && s.eligible c e && s.fits e c 0 && decide (t.rank.toNat ≤ s.agedRank e)
      && ((s.queue? e.queue).map fun q =>
          decide (s.field e.asid (e.recVa.toNat + 40) 4 ≤ q.slice)).getD false)

/-- A fresh effective slice: the queue's SLICE from here on (R321). -/
def Core.freshSlice (c : Core) (q : Queue) : Core := { c with slice := q.slice, grpcStart := c.grpc }

/-- The arbiter at a yield point that declares a run of `r` groups; the idle cores of the die have taken their tasks
before (R321). A task that is asked to freeze is not switched: the request stands and takes effect at the next bundle
boundary (R329, R338, R369). (DEDUCED, log 71) -/
def arbitrate (s : State) (r : Nat) : State :=
  let s := (s.onCore fun c => { c with declared := r, sinceYield := 0 }).dispatchAll 256 (coreDie s.core.id)
  let c := s.core
  match c.task with
  | none => s
  | some t =>
    match s.queue? t.queue with
    | none => s
    | some q =>
      if c.freeze.isSome || s.svc.coolantLost then s
      else if 1 < t.gang.toNat then s.onCore fun c => c.freshSlice q
      else if (c.grpc - c.grpcStart).toNat + r ≤ c.slice then s
      else match s.switchTask t, s.slotsFor q 1 with
        | some e, true =>
          (s.updPool (coreDie c.id) fun l => l.erase e).onCore fun c => { c with
            mode := .switching, incoming := some e }
        | _, _ => s.onCore fun c => c.freshSlice q

/-- YIELD_POINT: a checkpoint, then the arbiter; a task that switches out leaves once its work is done
(R78, R321). -/
def execYieldPoint (s : State) : Host.Outcome State Fault Refusal :=
  event (match s.core.mode with
    | .switching => switchNow s
    | .running => (match s.occ with
      | .run r => arbitrate s.checkpoint.flushSpawns r.toNat
      | _ => s)
    | _ => s.checkpoint.flushSpawns)

end Sys2Proof.Machine
end

