-- ==== Sys2Proof/Machine/Freeze.lean ====
section
/-! DEFINITION. Freezes, handovers and the service's answer to a trap (R209, R323, R326 to R334, R338). -/

namespace Sys2Proof.Machine

open Sys2Proof

/-! ### Requests (R323, R329) -/

/-- A request stands on a core; one of nddb stays nddb's (R329, R338). -/
def Core.askFreeze (c : Core) (why : FreezeWhy) (late : Bool) : Core :=
  { c with freeze := if c.freeze = some .nddb then c.freeze else some why, overrun := c.overrun || late }

/-- A member of the task has issued TEND: a request to freeze it is dropped, and the task ends (R329). (DEDUCED, log
71) -/
def State.gangEnding (s : State) (t : TaskInfo) : Bool := (s.gangCores t).any fun c => c.mode == .ending

/-- A core that a yield was to switch keeps its task; the incoming one goes back to the pool while it has room, else
onto the overflow chain (R317). (DEDUCED, log 71) -/
def State.keepTask (s : State) (c : Core) : State :=
  match c.mode, c.incoming with
  | .switching, some e =>
    (s.poolPush (coreDie c.id) e).updCore c.id fun c => { c with mode := .running, incoming := none }
  | _, _ => s

/-- Asks every member of a task to freeze; the request is dropped once TEND has issued (R323, R329). -/
def State.askFreeze (s : State) (t : TaskInfo) (why : FreezeWhy) (late : Bool) : State :=
  if s.gangEnding t then s
  else (s.gangCores t).foldl (fun (s : State) c => (s.keepTask c).updCore c.id fun c => c.askFreeze why late) s

/-- OVERRUN_FREEZE: the focused core's task, gang and all, is to freeze; NFRZ counts it (R323). -/
def execOverrunFreeze (s : State) : Host.Outcome State Fault Refusal :=
  event (match s.core.task with
    | some t =>
      if s.gangEnding t then s
      else (s.askFreeze t .service true).updQueue t.queue fun q => { q with nfrz := q.nfrz + 1 }
    | none => s)

/-- nddb holds the images of a task that is frozen already (R338). -/
def State.holdFrozen (s : State) (t : TaskInfo) (why : FreezeWhy) : State :=
  if why ≠ .nddb then s
  else
    let mine := s.imagesOf t.asid t.recVa
    { s with sched := { s.sched with images := s.sched.images.map fun m =>
        if m.handover && mine.contains m then { m with nddb := true } else m } }

/-- FREEZE_REQUEST by the service or nddb (R329, R338). (DEDUCED, log 71) -/
def execFreezeRequest (s : State) : Host.Outcome State Fault Refusal :=
  event (match s.occ with
    | .freeze id why => (match (s.findCore id).task with
      | some t => if (s.findCore id).mode = .idle then s.holdFrozen t why else s.askFreeze t why false
      | none => s)
    | _ => s)

/-! ### The stop and the handover (R329, R331, R332) -/

/-- The core stands at a bundle boundary where a freeze takes effect, its MX operations complete (R329). -/
def Core.atStop (c : Core) : Bool :=
  c.mode == .running && !c.passed && c.slot == 0 && !c.unit && c.mx.isEmpty

/-- A group that a PADV stalls is left as if it had not been evaluated: the token is as before (R329, R335). -/
def Core.dropPadv (c : Core) : Core :=
  match c.padvWait, groupPadv (groupOps (groupBundles c 8 c.pc)) c with
  | some _, some (tko, _) =>
    let c := { c with padvWait := none }
    if h : tko.toNat < 63 then c.setToken tko (c.shadow.tokens[tko.toNat]'h) else c
  | _, _ => c

/-- The image of a core at its stop point, its handover open. -/
def State.frozenImage (s : State) (q : Queue) (slot : Nat) : SaveImage :=
  { queue := q.qid, slot := slot, freeze := true, midg := decide (0 < s.core.gpos), core := s.core, spad := []
    handover := true, lost := false, nddb := s.core.freeze == some .nddb, cost := 0, stopped := s.cyc.toNat }

/-- One member stops: its image is in its slot, its handover open, the record frozen (R314, R329). -/
def State.freezeMember (s : State) (q : Queue) (id : BitVec 10) : State :=
  let s := s.focus id
  match s.core.task, s.firstSlot q with
  | some t, some slot =>
    let s := ((s.releaseStores.makeArrivals).pumpCore id).onCore Core.dropPadv
    let m := s.frozenImage q slot
    let s := s.writeImage (q.slotBase slot) 0 t.recVa m
    let s := { s with sched := { s.sched with images := s.sched.images ++ [m] } }
    let s := s.onCore fun c => { c with mode := .idle, freeze := none }
    (s.setTaskState t.asid t.recVa 5).setField t.asid (t.recVa.toNat + 116) 4 slot
  | _, _ => s

/-- FREEZE_STOP at a bundle boundary: a core waits there until its MX operations have completed and every member of
its gang has come to such a point, and then all of them stop (R323, R329). -/
def freezeNow (s : State) : State :=
  match s.core.task with
  | none => s
  | some t =>
    match s.queue? t.queue with
    | none => s
    | some q =>
      let gang := s.gangCores t
      if !(s.slotsFor q gang.length) then s
      else if !(gang.all fun c => c.atStop && c.freeze.isSome) then s
      else (gang.foldl (fun (s : State) c => s.freezeMember q c.id) s).focus s.core.id

/-- FREEZE_STOP (R329). -/
def execFreezeStop (s : State) : Host.Outcome State Fault Refusal :=
  event (match s.core.mode, s.core.freeze with
    | .running, some _ => freezeNow s
    | _, _ => s)

/-- Messages and packets toward the core's scratchpad or of its commands are still on their way (R332). -/
def State.trafficFor (s : State) (id : BitVec 10) : Bool :=
  (s.net.msgs.any fun m => (!m.unit && m.core == id) || match m.loc with
    | .phys b => placeOf (b / 8) == .spad id
    | _ => false)
    || s.fab.arrived.any fun i => placeOf i.packet.addr.toNat == .spad id

/-- The handover's conditions: started commands completed or faulted, 3584 cycles passed, nothing of the
context left in the network (R332). -/
def State.handoverDone (s : State) (m : SaveImage) : Bool :=
  let c := s.findCore m.core.id
  c.running.all (fun q => q.stopped && q.faults.isEmpty) && decide (m.stopped + 3584 ≤ s.cyc.toNat)
    && !(s.trafficFor c.id)

/-- Every member of a task has its image closed and none is held by nddb. -/
def State.allClosed (s : State) (asid : BitVec 16) (rec : VAddr) (n : Nat) : Bool :=
  let l := s.imagesOf asid rec
  decide (n ≤ l.length) && l.all fun m => !m.handover && !m.nddb

/-- A task whose images are all closed goes back to the pool (R314). -/
def State.poolFrozen (s : State) (asid : BitVec 16) (rec : VAddr) (queue : BitVec 14) (n slot : Nat) : State :=
  if s.allClosed asid rec n then s.readyTask asid rec queue (some slot) else s

/-- HANDOVER_CLOSE: the image takes what the core holds, the core is free, and the task is ready again (R332,
R333). -/
def closeHandover (s : State) (m : SaveImage) : State :=
  let c := s.findCore m.core.id
  match c.task with
  | none => s
  | some t =>
    match s.queue? m.queue with
    | none => s
    | some q =>
      let bad := s.saveBad q c (spadSizeOf c.id) m.slot
      let m' : SaveImage := { m with
        core := c, spad := s.spadCells c.id (spadSizeOf c.id), handover := false
        cost := (Config.freeValue 30 s.free).toNat }
      let s := if bad then s else s.writeImage (q.slotBase m.slot) (spadSizeOf c.id) t.recVa m'
      let s := { s with free := s.free + 1, sched := { s.sched with images := s.sched.images.map fun (x : SaveImage) =>
        if x.queue = m.queue ∧ x.slot = m.slot then m' else x } }
      let s := s.updCore c.id Core.vacate
      if bad then (s.saveLog q c (spadSizeOf c.id) m.slot).loseContext q t.asid t.recVa
      else s.poolFrozen t.asid t.recVa t.queue (max 1 t.gang.toNat) m.slot

/-- HANDOVER_CLOSE of a core (R332). -/
def execHandoverClose (s : State) : Host.Outcome State Fault Refusal :=
  event (match s.occ with
    | .core id => (match s.sched.images.find? fun m => m.handover && m.core.id == id with
      | some m => if s.handoverDone m then closeHandover s m else s
      | none => s)
    | _ => s)

/-- RELEASE_BY_NDDB: a frozen task that nddb held enters the pool (R338). -/
def execReleaseByNddb (s : State) : Host.Outcome State Fault Refusal :=
  event (match s.occ with
    | .num n => (match s.sched.images[n]? with
      | some m => (match m.core.task with
        | some t =>
          if m.nddb then
            let mine := s.imagesOf t.asid t.recVa
            let images := s.sched.images.map fun (x : SaveImage) =>
              if mine.contains x then { x with nddb := false } else x
            let s := { s with sched := { s.sched with images := images } }
            s.poolFrozen t.asid t.recVa t.queue (max 1 t.gang.toNat) m.slot
          else s
        | none => s)
      | none => s)
    | _ => s)

/-! ### Traps (R326, R327) -/

/-- Bytes 8 to 63 of a trap area (R326). -/
def trapBytes (s : State) (c : Core) (r : TrapRec) : List Byte :=
  bytesOfNat 2 r.cause.code.toNat ++ bytesOfNat 1 r.slot
    ++ bytesOfNat 1 (c.frozenSince.toNat + 2 * c.narrowSince.toNat) ++ bytesOfNat 4 r.rept
    ++ bytesOfNat 4 r.bidx ++ bytesOfNat 4 r.ckidx ++ bytesOfNat 8 r.grpc.toNat ++ bytesOfNat 8 r.ptb.toNat
    ++ bytesOfNat 8 r.info.toNat
    ++ bytesOfNat 8 (s.modid.toNat * 2 ^ 12 + (coreDie c.id).toNat * 2 ^ 8 + c.id.toNat % 256)
    ++ bytesOfNat 8 0

/-- The trap area of a task: its address, 0 for none. -/
def State.trapArea (s : State) (t : TaskInfo) : Nat := s.field t.asid (t.recVa.toNat + 48) 8

/-- The trap area with the record written, or none when there is no area or it cannot be written (R326). -/
def State.writeTrap (s : State) (c : Core) (t : TaskInfo) (r : TrapRec) : Option State :=
  let a := s.trapArea t
  if a = 0 ∨ a % 64 ≠ 0 ∨ 2 ^ 56 ≤ a then none else s.writeVa t.asid (a + 8) (trapBytes s c r)

/-- What the service does about a trap (R327). -/
inductive TrapAnswer where
  | resume | replace | retire | wait
  deriving DecidableEq, Repr

/-- A core of the die could take the task with the missing feature (R327). (DEDUCED, log 48) -/
def State.featureExists (s : State) (c : Core) (t : TaskInfo) (bit : BitVec 9) : Bool :=
  let need := BitVec.ofNat 9 (s.field t.asid (t.recVa.toNat + 10) 2 % 256) ||| bit
  (List.range 256).any fun i =>
    let d := s.findCore (coreDie c.id ++ BitVec.ofNat 8 i)
    !(s.svc.retiredCores.contains d.id) && (need &&& d.feat) == need

/-- The answer to this trap is given under nddb, which is outside the machine: the event names it (DESIGN CHOICE, log
75). -/
def State.underNddb (s : State) (c : Core) : Bool :=
  match s.occ with
  | .freeze id .nddb => id == c.id
  | _ => false

/-- The answer by cause (R325, R327, R328). (DESIGN CHOICE, log 75) -/
def State.trapAnswer (s : State) (c : Core) (t : TaskInfo) (r : TrapRec) : TrapAnswer :=
  if 16 < r.rept then .retire
  else match r.cause with
    | .phaseLate => .resume
    | .featureAbsent => if s.featureExists c t (r.info.setWidth 9) then .replace else .retire
    | .breakpoint => if s.underNddb c then .resume else .retire
    | .tokenFaulted =>
      let k : BitVec 6 := r.info.setWidth 6
      if c.unresolved k then .wait
      else if tokIsFaulted (c.token k) then .retire else .resume
    | _ => .retire

/-- Submits a handler's record to the task's queue as TSPAWN does (R214, R327). -/
def State.submitHandler (s : State) (t : TaskInfo) (hndl : Nat) : State :=
  match s.queue? t.queue with
  | some q =>
    if hndl = 0 ∨ q.rsz ≤ (q.tail - q.head).toNat ∨ q.closing = true ∨ q.refuse = true then s
    else
      let s := s.setField q.asid (q.ring.toNat + 8 * (q.tail.toNat % q.rsz)) 8 hndl
      (s.updQueue q.qid fun q => { q with tail := q.tail + 1 }).bindQueue q.qid
  | none => s

/-- A core whose task was retired: its work is dropped and it is free (R16, R327). -/
def Core.retired (c : Core) : Core := { c.vacate with acc := [], own := 0 }

/-- The task is failed: record, completion entry, and every core of it free (R314, R327). -/
def State.failTask (s : State) (t : TaskInfo) (value : Word) : State :=
  let s := ((s.setTaskState t.asid t.recVa 7).orTaskFlag t.asid t.recVa 8).post t.queue value t.recVa
  (s.gangCores t).foldl (fun (s : State) c => s.updCore c.id Core.retired) s

/-- The other members of a retired gang stop, rolled back, and wait with it. (DEDUCED, log 48) -/
def State.stopGang (s : State) (t : TaskInfo) : State :=
  (s.gangCores t).foldl (fun (s : State) c => s.updCore c.id fun c =>
    if c.mode = .trapped then c else { c.rollback with mode := .trapped, trap := none }) s

/-- No command or MX operation of a task's cores is left. (DEDUCED, log 48) -/
def State.gangQuiet (s : State) (t : TaskInfo) : Bool :=
  (s.gangCores t).all fun c => c.mx.isEmpty && c.queue.isEmpty && c.running.isEmpty && c.releasing.isEmpty

/-- The completion value of a task retired with a cause (R327). -/
def postCause (c : Cause) : Word := 0xFFFF000000000000 + c.code.setWidth 64

/-- Retires the focused core's task; its released commands complete first (R77, R327). -/
def State.retireTask (s : State) (t : TaskInfo) (r : TrapRec) : State :=
  let s := s.stopGang t
  if s.gangQuiet t then
    match s.writeTrap s.core t r with
    | some u =>
      let hndl := u.field t.asid (u.trapArea t) 8
      (u.failTask t (postCause r.cause)).submitHandler t hndl
    | none => (s.failTask t postNoRecord).addLog 7 0x04 (coreDie s.core.id) (bits s.core.id 0 8) t.recVa.toNat
  else s

/-- The resumed core: BRK and TRAP pass once at their bundle when the service asks (R217, R327).
(DESIGN CHOICE, log 75) -/
def Core.resumeAfter (c : Core) (r : TrapRec) : Core :=
  { c.resume with skipBrk := if r.cause = .breakpoint then some r.bidx else c.skipBrk }

/-- The service ends a trap (R327). (DEDUCED, log 71) -/
def answerTrap (s : State) (t : TaskInfo) (r : TrapRec) : State :=
  match s.trapAnswer s.core t r with
  | .wait => s
  | .retire => s.retireTask t r
  | .resume =>
    (match s.writeTrap s.core t r with
     | some u => u.onCore fun c => c.resumeAfter r
     | none => s.retireTask t r)
  | .replace =>
    (match s.writeTrap s.core t r with
     | some u =>
       (u.onCore fun c => { c.resume with needFeat := c.needFeat ||| r.info.setWidth 9 }).askFreeze t .service false
     | none => s.retireTask t r)

/-- TRAP_RECORD of the focused core (R326, R327). -/
def execTrapRecord (s : State) : Host.Outcome State Fault Refusal :=
  event (match s.core.mode, s.core.trap, s.core.task with
    | .trapped, some r, some t => answerTrap s t r
    | .trapped, some _, none => s.onCore fun c => { c with mode := .idle, trap := none }
    | _, _, _ => s)

/-! ### PADV's limit (R34, R209) -/

/-- The focused core's PADV has stalled for its limit. -/
def padvLate (c : Core) : Bool :=
  match c.padvWait with
  | some w => c.plim != 0 && decide (256 * c.plim.toNat ≤ w + 1)
  | none => false

/-- The bundle of the PADV that a group waits for. -/
def padvBundle (c : Core) : Nat :=
  (((pendingPhases c (groupBundles c 8 c.pc)).find? fun p => p.2 != .pcancel).map (·.1)).getD c.pc

/-- PHASE_LATE: the stall has lasted 256 × PLIM.LIM cycles, no cut is made, and phase-late is taken (R209). -/
def execPhaseLate (s : State) : Host.Outcome State Fault Refusal :=
  event (if padvLate s.core then
      match groupPadv (groupOps (groupBundles s.core 8 s.core.pc)) s.core with
      | some (_, n) => s.trapAt ⟨.phaseLate, n.setWidth 64⟩ 7 (padvBundle s.core)
      | none => s
    else s)

end Sys2Proof.Machine
end

