-- ==== Sys2Proof/Machine/Request.lean ====
section
/-! DEFINITION. The messages hosts and the service exchange: a request's header and payload to what it asks, and a
response to its bytes (R360 to R362). -/

namespace Sys2Proof.Machine

open Sys2Proof

/-! ### Fields -/

/-- The little-endian field of `n` bytes at an offset. -/
def argField (l : List Byte) (o n : Nat) : Nat := natOfBytes ((l.drop o).take n)

/-- A field as bits. -/
def argBits (w : Nat) (l : List Byte) (o : Nat) : BitVec w := BitVec.ofNat w (argField l o (w / 8))

/-- The bytes of a field are zero, as `res0` and padding are (R362; DESIGN CHOICE, log 50). -/
def argZero (l : List Byte) (o n : Nat) : Bool := ((l.drop o).take n).all (· == 0)

/-- The zeros that fill `n` bytes to a multiple of 8. -/
def padOf (n : Nat) : Nat := (8 - n % 8) % 8

/-- The first `n` bytes and the rest, when there are that many. -/
def cutBytes (n : Nat) (l : List Byte) : Option (List Byte × List Byte) :=
  if n ≤ l.length then some (l.take n, l.drop n) else none

/-- `n` items one after another. -/
def parseMany {α : Type} (p : List Byte → Option (α × List Byte)) : Nat → List Byte → Option (List α × List Byte)
  | 0, l => some ([], l)
  | n + 1, l => (p l).bind fun a => (parseMany p n a.2).map fun r => (a.1 :: r.1, r.2)

/-- An item of fixed size, read by `f`, which refuses a malformed one. -/
def parseItem {α : Type} (size : Nat) (f : List Byte → Option α) (l : List Byte) : Option (α × List Byte) :=
  (cutBytes size l).bind fun c => (f c.1).map fun a => (a, c.2)

/-- A count and `res0`, then so many items (R362). -/
def parseCounted {α : Type} (p : List Byte → Option (α × List Byte)) (l : List Byte) :
    Option (List α × List Byte) :=
  (cutBytes 8 l).bind fun c => if argZero c.1 4 4 then parseMany p (argField c.1 0 4) c.2 else none

/-- Nothing is left over. -/
def whole {α : Type} (r : Option (α × List Byte)) : Option α :=
  r.bind fun p => if p.2.isEmpty then some p.1 else none

/-- A virtual address of eight bytes. -/
def vaField (l : List Byte) (o : Nat) : Option VAddr :=
  if argField l o 8 < 2 ^ 56 then some (BitVec.ofNat 56 (argField l o 8)) else none

/-! ### Payloads (R362) -/

/-- A range of the table of R347: bits 43:16 of the base, bit 0 writable; a base with other bits is refused with the
range. -/
def rangeItem (l : List Byte) : Option OpenRange :=
  let b := argField l 0 8
  some ⟨b / 2 * 2, argField l 8 8, b % 2 == 1⟩

/-- A page entry. -/
def pageItem (l : List Byte) : Option MapPage := (vaField l 0).map fun va => ⟨va, argBits 64 l 8⟩

/-- A data image: its head, and its bytes padded with zeros. -/
def parseImage (l : List Byte) : Option (DataImage × List Byte) :=
  (cutBytes 16 l).bind fun h =>
    let n := argField h.1 8 4
    (cutBytes (n + padOf n) h.2).bind fun b =>
      if argZero h.1 12 4 && argZero b.1 n (padOf n) then
        (vaField h.1 0).map fun va => (⟨va, b.1.take n⟩, b.2)
      else none

/-- Code 0x110. -/
def parseOpen (l : List Byte) : Option Occ :=
  (cutBytes 16 l).bind fun h =>
    if !(argZero h.1 11 5) then none
    else (parseMany (parseItem 16 rangeItem) (argField h.1 10 1) h.2).bind fun rs =>
      (parseMany (parseCounted (parseItem 16 pageItem)) (argField h.1 2 1) rs.2).bind fun ms =>
        (whole (parseCounted parseImage ms.2)).map fun images => .openReq
          { asid := argBits 16 h.1 0, nmap := argBits 8 h.1 2, home := argBits 8 h.1 3, pcid := argBits 16 h.1 4
            firstModule := argBits 16 h.1 6, lastModule := argBits 16 h.1 8, ranges := rs.1, maps := ms.1, images }

/-- Code 0x112. -/
def parseCode (asid : BitVec 16) (l : List Byte) : Option Occ :=
  (cutBytes 8 l).map fun c => .codeReq ⟨asid, argBits 64 c.1 0, c.2⟩

/-- A rule entry with its index (R266). -/
def ruleItem (l : List Byte) : Option (BitVec 6 × RuleEntry) :=
  let e := l.drop 8
  if argField l 0 1 < 64 && argZero l 1 7 && argZero e 2 2 && argZero e 32 32 then
    some (BitVec.ofNat 6 (argField l 0 1),
      { tmpl := argBits 8 e 0, fpol := argBits 8 e 1, lr := argBits 32 e 4, b1 := argBits 32 e 8
        b2 := argBits 32 e 12, eps := argBits 32 e 16, wd := argBits 32 e 20, clip := argBits 32 e 24
        fscl := argBits 32 e 28 })
  else none

/-- Code 0x113. -/
def parseRules (l : List Byte) : Option Occ := (whole (parseCounted (parseItem 72 ruleItem) l)).map .rules

/-- Code 0x114. -/
def parseQueue (asid : BitVec 16) (l : List Byte) : Option Occ :=
  if l.length = 48 ∧ argZero l 1 3 ∧ argZero l 41 7 then
    (vaField l 24).bind fun ring => (vaField l 32).map fun cring => .queueReq
      { asid, qrk := argBits 8 l 0, slice := argBits 32 l 4, rsz := argBits 32 l 8, csz := argBits 32 l 12
        ygr := argBits 32 l 16, nsave := argBits 32 l 20, ring, cring, die := argBits 8 l 40 }
  else none

/-- A module id of two bytes. -/
def moduleItem (l : List Byte) : Option (BitVec 12) :=
  if argField l 0 2 < 4096 then some (BitVec.ofNat 12 (argField l 0 2)) else none

/-- Code 0x115. -/
def parseKeys (l : List Byte) : Option Occ :=
  (cutBytes 8 l).bind fun h =>
    let n := argField h.1 2 2
    if argField h.1 0 1 ≤ 1 && argZero h.1 1 1 && argZero h.1 4 4 then
      (parseMany (parseItem 2 moduleItem) n h.2).bind fun r =>
        if r.2.length = padOf (2 * n) ∧ argZero r.2 0 8 then some (.keyReq (argField h.1 0 1 == 1) r.1) else none
    else none

/-- An entry of code 0x117. -/
def recordItem (l : List Byte) : Option LoadRecordReq :=
  if argZero l 11 1 then (vaField l 0).map fun va =>
    { va, kind := argBits 8 l 8, rule := argBits 8 l 9, e := argBits 8 l 10, exp := argBits 32 l 12
      nrm := argBits 64 l 16, ntf := argBits 64 l 24 }
  else none

/-- Code 0x117. -/
def parseRecords (asid : BitVec 16) (l : List Byte) : Option Occ :=
  (whole (parseCounted (parseItem 32 recordItem) l)).map (.records asid)

/-- Code 0x121. -/
def parseLog (l : List Byte) : Option Occ :=
  if l.length = 16 ∧ argZero l 12 4 then some (.logRange (argBits 64 l 0) (argBits 32 l 8)) else none

/-- Code 0x130. -/
def parseFirmware (l : List Byte) : Option Occ :=
  (cutBytes 16 l).bind fun h =>
    if h.2.length = argField h.1 8 8 then some (.firmware (argBits 64 h.1 0) h.2) else none

/-- A die number. -/
def dieField (l : List Byte) (o : Nat) : Option (BitVec 2) :=
  if argField l o 1 < 4 then some (BitVec.ofNat 2 (argField l o 1)) else none

/-- Code 0x131. -/
def parseRetire (l : List Byte) : Option Occ :=
  if l.length = 8 ∧ argZero l 3 5 then
    (dieField l 0).map fun d => .retireUnit d (argBits 8 l 1) (argBits 8 l 2)
  else none

/-- Code 0x132. -/
def parseFrame (l : List Byte) : Option Occ :=
  let a := argField l 0 8
  if l.length = 16 ∧ argZero l 8 8 ∧ a % 0x10000 = 0 ∧ a < 2 ^ 44 then
    some (.frame (BitVec.ofNat 28 (a / 0x10000)))
  else none

/-- Code 0x133. -/
def parseDrain (l : List Byte) : Option Occ :=
  if l.length = 8 ∧ argZero l 2 6 then (dieField l 0).bind fun d => (dieField l 1).map fun e => .drain d e
  else none

/-- Code 0x134. -/
def parseRestore (l : List Byte) : Option Occ :=
  if l.length = 8 ∧ argZero l 1 7 then (dieField l 0).map .die else none

/-- Code 0x140. -/
def parseLife (l : List Byte) : Option Occ :=
  (cutBytes 8 l).bind fun h =>
    let c := argField h.1 4 4
    if argZero h.1 1 3 && h.2.length == c + padOf c + 114 && argZero h.2 c (padOf c) then
      some (.life (argBits 8 h.1 0) (h.2.take c) (h.2.drop (c + padOf c)))
    else none

/-! ### Messages (R360) -/

/-- Bytes of a header. -/
def headerSize : Nat := 64

/-- The header of a request: CODE, LEN, RTAG, CTX, and its `res0` are zero. -/
structure MsgHeader where
  code : BitVec 16
  len : Nat
  rtag : Word
  ctx : BitVec 32
  clean : Bool
  deriving DecidableEq, Repr

/-- The header of a message; a shorter message has none. -/
def msgHeader (l : List Byte) : Option MsgHeader :=
  if l.length < headerSize then none
  else some ⟨argBits 16 l 0, argField l 4 4, argBits 64 l 8, argBits 32 l 16, argZero l 20 44⟩

/-- The codes of the catalogue that a host may use (R361). -/
def hostCodes : List (BitVec 16) :=
  [0x100, 0x110, 0x111, 0x112, 0x113, 0x114, 0x115, 0x117, 0x120, 0x121, 0x130, 0x131, 0x132, 0x133, 0x134, 0x140]

/-- The handle of a context, which the response to its open request returns: not 0, and no other context's (R360, R362);
which number it is else is the service's (DESIGN CHOICE, log 3). -/
def handleOf (asid : BitVec 16) : BitVec 32 :=
  (Config.freeValue 25 asid.toNat).setWidth 15 ++ BitVec.ofNat 17 (asid.toNat + 1)

/-- The context a handle names. -/
def State.handleContext (s : State) (h : BitVec 32) : Option (BitVec 16) :=
  (s.contexts.find? fun x => handleOf x.asid == h).map (·.asid)

/-- What a request asks: none for a payload that breaks R362, or a handle that names no context. -/
def State.asks (s : State) (code : BitVec 16) (ctx : BitVec 32) (l : List Byte) : Option Occ :=
  match code.toNat with
  | 0x100 => if l.isEmpty then some .none else none
  | 0x110 => parseOpen l
  | 0x111 => if l.isEmpty then (s.handleContext ctx).map .context else none
  | 0x112 => (s.handleContext ctx).bind fun a => parseCode a l
  | 0x113 => parseRules l
  | 0x114 => (s.handleContext ctx).bind fun a => parseQueue a l
  | 0x115 => parseKeys l
  | 0x117 => (s.handleContext ctx).bind fun a => parseRecords a l
  | 0x120 => if l.length ≠ 32 then none
      else if ctx = 0 then some (.attest none l) else (s.handleContext ctx).map fun a => .attest (some a) l
  | 0x121 => parseLog l
  | 0x130 => parseFirmware l
  | 0x131 => parseRetire l
  | 0x132 => parseFrame l
  | 0x133 => parseDrain l
  | 0x134 => parseRestore l
  | 0x140 => parseLife l
  | _ => none

/-- The context whose request it is (R361): of a message, the one its header's CTX names. -/
def State.requester (s : State) : Occ → Option (BitVec 16)
  | .message l => (msgHeader l).bind fun h => s.handleContext h.ctx
  | .context a => some a
  | .codeReq r => some r.asid
  | .queueReq r => some r.asid
  | .records a _ => some a
  | .attest a _ => a
  | _ => none

/-- The event of a host's request (R361). -/
def hostEvent (code : BitVec 16) : Instr :=
  match code.toNat with
  | 0x100 => .readCapabilityList | 0x110 => .openContext | 0x111 => .closeContext | 0x112 => .loadCodeObject
  | 0x113 => .loadRuleTableEntries | 0x114 => .createAndMapQueue | 0x115 => .keyExchange
  | 0x117 => .loadParameterRecords | 0x120 => .attestModuleOrContext | 0x121 => .readErrorLog
  | 0x130 => .updateFirmwareLive | 0x131 => .retireCoreOrPipeline | 0x132 => .retireHbmFrame | 0x133 => .drainDie
  | 0x134 => .restoreDie | _ => .lifeCycleChange

/-- The message a response is sent as: the header with STATUS filled in, and the payload (R360). -/
def HostResp.message (r : HostResp) : List Byte :=
  bytesOfNat 2 r.code.toNat ++ bytesOfNat 2 r.status.toNat ++ bytesOfNat 4 r.payload.length
    ++ bytesOfNat 8 r.rtag.toNat ++ bytesOfNat 4 r.ctx.toNat ++ bytesOfNat 44 0 ++ r.payload

end Sys2Proof.Machine
end

