-- ==== Sys2Proof/Machine/Service.lean ====
section
/-! DEFINITION. The resident service: answers to hosts and tasks, the capability list, attestation and the
log, contexts, code objects, rule entries, queues, keys and records (R359 to R367). -/

namespace Sys2Proof.Machine

open Sys2Proof

/-! ### Answers (R360, R361, R364) -/

/-- STATUS of a response (R360). -/
def stDone : BitVec 16 := 0
def stMalformed : BitVec 16 := 1
def stBusy : BitVec 16 := 2
def stNotPermitted : BitVec 16 := 3
def stExhausted : BitVec 16 := 4
def stUnverified : BitVec 16 := 5

/-- A response leaves toward the host, with the tag and the context of the request served (R360). (DEDUCED, log 50) -/
def State.respond (s : State) (code status : BitVec 16) (payload : List Byte) : State :=
  { s with svc := { s.svc with
      responses := s.svc.responses ++ [⟨code, status, s.svc.asker.tag, s.svc.asker.ctx, payload⟩] } }

/-- Who asked for what is served now. -/
def State.serving (s : State) (a : Asker) : State := { s with svc := { s.svc with asker := a } }

/-- The response of an open names the context (R362). -/
def State.naming (s : State) (h : BitVec 32) : State := s.serving ⟨s.svc.asker.tag, h⟩

/-- A request is handled: held in reset only 0x100 is answered, and outside the deployed state only 0x100 and
0x140 (R359, R364). -/
def State.host (s : State) (code : BitVec 16) (f : State → State) : State :=
  if s.svc.holdReset && code != 0x100 then s
  else if s.svc.life != .deployed && code != 0x100 && code != 0x140 then s.respond code stNotPermitted []
  else f s

/-! ### The order of requests (R361, R365, R368) -/

/-- A request that came at a place in the order, for a context or none, waits: for an earlier request of its context, a
task's or a host's, for a load of its context whose writes are on their way, and for a firmware update asked for before
(R361, R365, R368). (DEDUCED, log 50) -/
def State.mustWait (s : State) (stamp : Nat) (asid : Option (BitVec 16)) : Bool :=
  ((s.svc.update.map fun u => decide (u.stamp < stamp)).getD false)
    || match asid with
       | some a =>
         (s.svc.requests.any fun r => r.asid == a && decide (r.stamp < stamp))
           || (s.svc.inbox.any fun r => r.asid == some a && decide (r.stamp < stamp))
           || s.svc.loads.any fun l => l.asid == a
       | none => false

/-- A message of a host is handled as its code's request: what it asks goes to `f`, or STATUS 1 where its form is wrong
(R360 to R362). -/
def State.handle (s : State) (code : BitVec 16) (f : State → State) : State :=
  match s.occ with
  | .message l =>
    match msgHeader l with
    | none => s
    | some h => (s.serving ⟨h.rtag, h.ctx⟩).host code fun s =>
      match if h.clean && l.length == headerSize + h.len then s.asks code h.ctx (l.drop headerSize) else none with
      | some o => f { s with occ := o }
      | none => s.respond code stMalformed []
  | _ => s.host code f

/-- A request arrives: it is handled, or waits for its turn (R361). -/
def State.arrives (s : State) (code : BitVec 16) (f : State → State) : State :=
  let asid := s.requester s.occ
  if s.mustWait s.svc.nextStamp asid && !s.svc.holdReset then
    { s with svc := { s.svc with
        inbox := s.svc.inbox ++ [⟨s.svc.nextStamp, code, asid, s.occ, s.svc.asker⟩], nextStamp := s.svc.nextStamp + 1 } }
  else s.handle code f

/-- A host's request of a code (R360 to R362), as it arrives or when its turn has come: a code no host may use is
answered STATUS 1 by whichever event takes it, and a message too short for a header is dropped. What is no message is
the request itself. (DESIGN CHOICE, log 50) -/
def State.request (s : State) (code : BitVec 16) (f : State → State) : State :=
  match s.occ with
  | .inbox n =>
    match s.svc.inbox[n]? with
    | some q =>
      if q.code = code ∧ !(s.mustWait q.stamp q.asid) then
        State.handle { s with occ := q.occ, svc := { s.svc with inbox := s.svc.inbox.eraseIdx n, asker := q.asker } } code f
      else s
    | none => s
  | .message l =>
    match msgHeader l with
    | none => s
    | some h =>
      if h.code = code then s.arrives code f
      else if hostCodes.contains h.code || s.svc.holdReset then s
      else (s.serving ⟨h.rtag, h.ctx⟩).respond h.code stMalformed []
  | _ => s.arrives code f

/-- The task request the occurrence names, when its turn has come and it has the code. -/
def State.taskRequest (s : State) (code : BitVec 10) : Option (Nat × SvcReq) :=
  match s.occ with
  | .num n => (match s.svc.requests[n]? with
    | some r => if r.code = code ∧ !(s.mustWait r.stamp (some r.asid)) then some (n, r) else none
    | none => none)
  | _ => none

/-- The response to a load: at once, or when the writes to other modules sent since the message numbered `since` are
answered (R365). (DESIGN CHOICE, log 50) -/
def State.respondAfter (s : State) (asid : BitVec 16) (since : Nat) (code status : BitVec 16) : State :=
  let w := (s.net.msgs.filter fun m => m.couch && m.idx == couchImage && decide (since ≤ m.id)).map (·.id)
  if w.isEmpty then s.respond code status []
  else { s with svc := { s.svc with
    loads := s.svc.loads ++ [⟨asid, w, ⟨code, status, s.svc.asker.tag, s.svc.asker.ctx, []⟩⟩] } }

/-- A task request ends with its token (R219). -/
def State.endRequest (s : State) (n : Nat) (r : SvcReq) (tok : BitVec 16) : State :=
  State.endCall { s with svc := { s.svc with requests := s.svc.requests.eraseIdx n } } r tok

/-- Serves a task request: the argument block is read, the answer is written into the context, and a block or
destination outside it faults the token with 0x06 (R219, R362). (DEDUCED, log 50) -/
def State.serveTask (s : State) (code : BitVec 10) (size : Nat)
    (f : State → SvcReq → List Byte → Option State) : State :=
  match s.taskRequest code with
  | none => s
  | some (n, r) =>
    match s.readVa r.asid r.arg.toNat size with
    | none => s.endRequest n r (tokFaulted 0x06)
    | some arg =>
      match f s r arg with
      | some t => t.endRequest n r (tokDone 0)
      | none => s.endRequest n r (tokFaulted 0x06)

/-! ### The capability list (R363) -/

/-- The limits of R1, in its order: bundles of an instruction store, modules of a pod and bits of their ids, ASIDs,
bits of a virtual and of a physical address, the four page sizes, maps of a context, queues and hardware queue slots
of a die, tasks of a ready pool, watts of the module (R363). -/
def r1Limits : List Nat :=
  [2048, 4096, 12, 2048, 56, 44, 0x10000, 0x200000, 0x40000000, 0x200000000, 64, 16384, 64, 4096, 2400]

/-- What an entry of the list tells. (DESIGN CHOICE, log 10) -/
def State.capItems (s : State) (id : Nat) : List Byte :=
  match id with
  | 1 => bytesOfNat 8 (Config.identity 0).toNat ++ bytesOfNat 8 (Config.identity 1).toNat
      ++ bytesOfNat 2 s.modid.toNat
  | 2 => (List.range 1024).flatMap fun i =>
      let c := BitVec.ofNat 10 i
      bytesOfNat 2 (s.findCore c).feat.toNat ++ bytesOfNat 1 (s.svc.retiredCores.contains c).toNat
  | 3 => s.svc.retiredFrames.flatMap fun f => bytesOfNat 4 f.toNat
  | 4 => bytesOfNat 8 s.svc.imageA.toNat ++ bytesOfNat 8 s.svc.imageB.toNat ++ bytesOfNat 1 s.svc.activeB.toNat
  | 5 => bytesOfNat 1 (match s.svc.life with
      | .blank => 0 | .provisioned => 1 | .deployed => 2 | .returned => 3) ++ bytesOfNat 1 s.svc.bootOk.toNat
  | 6 => r1Limits.flatMap (bytesOfNat 8)
  | _ => []

/-- One entry at an offset: ID, VER, LEN, NEXT and the body; the last has NEXT 0. (DESIGN CHOICE, log 10) -/
def State.capEntry (s : State) (id ofs : Nat) : List Byte :=
  let body := Config.capabilityBody id (s.capItems id)
  let len := 16 + body.length
  bytesOfNat 2 id ++ bytesOfNat 2 (Config.identity (16 + id)).toNat ++ bytesOfNat 4 len
    ++ bytesOfNat 8 (if id = 6 then 0 else ofs + len) ++ body

/-- The chain of the six entries. (DEDUCED, log 50) -/
def State.capabilityList (s : State) : List Byte :=
  ([1, 2, 3, 4, 5, 6] : List Nat).foldl (fun l id => l ++ s.capEntry id l.length) []

/-- READ_CAPABILITY_LIST, code 0x100 (R363). -/
def execReadCapabilityList (s : State) : Host.Outcome State Fault Refusal :=
  event (s.request 0x100 fun s => s.respond 0x100 stDone s.capabilityList)

/-- TASK_READ_CAPABILITY_LIST, code 0x008 (R362). -/
def execTaskReadCapabilityList (s : State) : Host.Outcome State Fault Refusal :=
  event (s.serveTask 0x008 16 fun s r arg =>
    if argField arg 12 4 ≠ 0 then none
    else
      let l := s.capabilityList.take (argField arg 8 4)
      (s.writeVa r.asid (argField arg 0 8) l).bind fun t =>
        t.writeVa r.asid (r.arg.toNat + 16) (bytesOfNat 8 l.length))

/-! ### Attestation (R365) -/

/-- The code of a life-cycle state (R362). -/
def Life.code : Life → Nat
  | .blank => 0 | .provisioned => 1 | .deployed => 2 | .returned => 3

/-- A rule entry's 64 bytes (R266). -/
def ruleBytes (r : RuleEntry) : List Byte :=
  bytesOfNat 1 r.tmpl.toNat ++ bytesOfNat 1 r.fpol.toNat ++ bytesOfNat 2 0 ++ bytesOfNat 4 r.lr.toNat
    ++ bytesOfNat 4 r.b1.toNat ++ bytesOfNat 4 r.b2.toNat ++ bytesOfNat 4 r.eps.toNat
    ++ bytesOfNat 4 r.wd.toNat ++ bytesOfNat 4 r.clip.toNat ++ bytesOfNat 4 r.fscl.toNat ++ bytesOfNat 32 0

/-- A context's maps, code objects, rule entries and open ranges as loaded. -/
def State.contextItems (s : State) (x : Context) : List Byte :=
  (x.loaded.flatMap fun m => m.flatMap fun p => bytesOfNat 8 p.va.toNat ++ bytesOfNat 8 p.entry.toNat)
    ++ (x.codes.flatMap fun c => c.bytes)
    ++ (s.pan.rules.toList.flatMap ruleBytes)
    ++ (x.ranges.flatMap fun r => bytesOfNat 8 r.base ++ bytesOfNat 8 r.size ++ bytesOfNat 1 r.writable.toNat)

/-- The version of the active image, and its bytes. -/
def Service.version (v : Service) : BitVec 64 := if v.activeB then v.imageB else v.imageA
def Service.image (v : Service) : List Byte := if v.activeB then v.bytesB else v.bytesA

/-- The module's signature of a digest by its identity key, of 114 bytes; zeros without a key (R365). -/
def Service.sign (v : Service) (digest : List Byte) : List Byte :=
  match v.identity with
  | some n => edSign (bytesOfNat 57 (Config.identityKey n)) digest
  | none => List.replicate 114 0

/-- The 240 bytes of a report over a nonce, of the module or of a context (R362, R365). -/
def State.report (s : State) (x : Option Context) (nonce : List Byte) : List Byte :=
  let head := bytesOfNat 8 (Config.identity 2).toNat ++ bytesOfNat 8 s.svc.version.toNat
    ++ bytesOfNat 1 s.svc.life.code ++ bytesOfNat 7 0 ++ nonce
  let items := match x with
    | some x => s.contextItems x
    | none => []
  let digest := shake256 (Config.attestedBytes (head ++ s.svc.image ++ items))
  head ++ digest ++ s.svc.sign digest ++ bytesOfNat 6 0

/-- ATTEST_MODULE_OR_CONTEXT, code 0x120 (R365). -/
def execAttestModuleOrContext (s : State) : Host.Outcome State Fault Refusal :=
  event (s.request 0x120 fun s => match s.occ with
    | .attest none nonce => if nonce.length = 32 then s.respond 0x120 stDone (s.report none nonce)
      else s.respond 0x120 stMalformed []
    | .attest (some asid) nonce => match s.context? asid with
      | some x => if nonce.length = 32 then s.respond 0x120 stDone (s.report (some x) nonce)
        else s.respond 0x120 stMalformed []
      | none => s.respond 0x120 stMalformed []
    | _ => s)

/-- ATTEST_CALLING_CONTEXT, code 0x00A (R362, R365). -/
def execAttestCallingContext (s : State) : Host.Outcome State Fault Refusal :=
  event (s.serveTask 0x00A 40 fun s r arg =>
    (s.context? r.asid).bind fun x =>
      s.writeVa r.asid (argField arg 32 8) (s.report (some x) (arg.take 32)))

/-! ### The error log (R366) -/

/-- A record's 32 bytes. -/
def logBytes (r : LogRec) : List Byte :=
  bytesOfNat 8 r.seq.toNat ++ bytesOfNat 8 r.ptb.toNat ++ bytesOfNat 2 r.kind.toNat ++ bytesOfNat 1 r.sev.toNat
    ++ bytesOfNat 1 0 ++ bytesOfNat 4 r.loc.toNat ++ bytesOfNat 8 r.detail.toNat

/-- Records from a sequence number on, in SEQ order, at most `n`. -/
def State.logFrom (s : State) (first : BitVec 64) (n : Nat) : List LogRec :=
  (s.svc.log.filter fun r => decide (first.toNat ≤ r.seq.toNat)).take n

/-- READ_ERROR_LOG, code 0x121 (R366). -/
def execReadErrorLog (s : State) : Host.Outcome State Fault Refusal :=
  event (s.request 0x121 fun s => match s.occ with
    | .logRange first n =>
      let l := s.logFrom first n.toNat
      s.respond 0x121 stDone (bytesOfNat 4 l.length ++ bytesOfNat 4 0 ++ l.flatMap logBytes)
    | _ => s)

/-- TASK_READ_ERROR_LOG, code 0x00C (R362). -/
def execTaskReadErrorLog (s : State) : Host.Outcome State Fault Refusal :=
  event (s.serveTask 0x00C 24 fun s r arg =>
    if argField arg 12 4 ≠ 0 then none
    else
      let l := s.logFrom (BitVec.ofNat 64 (argField arg 0 8)) (argField arg 8 4)
      (s.writeVa r.asid (argField arg 16 8) (l.flatMap logBytes)).bind fun t =>
        t.writeVa r.asid (r.arg.toNat + 24) (bytesOfNat 8 l.length))

/-! ### Key slots of a peer (R346, R362) -/

/-- A key slot as the two services agree it: one key for a direction, at its sender and its receiver (R346). -/
def State.agreedSlot (s : State) (m : BitVec 12) (send ix : Bool) (n : Nat) : KeySlot :=
  let k := if send then Config.agreedKeys s.modid m ix n else Config.agreedKeys m s.modid ix n
  ⟨m, send, ix, bytesOfNat 64 k.1, bytesOfNat 32 k.2⟩

/-- Loads a slot, in place of the one before it. -/
def State.loadSlot (s : State) (k : KeySlot) : State :=
  { s with fab := { s.fab with
      keys := k :: s.fab.keys.filter fun q => !(q.peer == k.peer && q.send == k.send && q.ix == k.ix) } }

/-- A peer known to the fabric. -/
def State.peer? (s : State) (m : BitVec 12) : Option Peer := s.fab.peers.find? fun p => p.id == m

/-- The keys of a new peer: slot 0 of either direction (R346). -/
def State.firstKeys (s : State) (m : BitVec 12) : State :=
  let s := (s.loadSlot (s.agreedSlot m true false 0)).loadSlot (s.agreedSlot m false false 0)
  { s with fab := { s.fab with
      peers := ⟨m, false, false, 0, [], s.ptb, 0⟩ :: s.fab.peers.filter fun p => p.id != m } }

/-! ### Opening a context (R26, R239 to R242, R347, R362) -/

/-- A range of the table of R347 is well formed and touches neither a hole nor the service's range. -/
def rangeOk (r : OpenRange) : Bool :=
  r.base % 0x10000 == 0 && decide (r.base + r.size ≤ 2 ^ 44)
    && allFrames r.base r.size fun p => p != .hole && p != .service

/-- The place of a data image's byte through map 0: in a page that is neither absent nor dead (R256). -/
def imagePlace (map : List MapPage) (a : Nat) : Option Loc :=
  match findPage map a with
  | some p =>
    let b := 8 * (MapE.pa p.entry + (a - p.va.toNat))
    match (MapE.back p.entry).toNat with
    | 1 | 2 | 3 => some (.phys b)
    | 4 => some (.remote (MapE.mod p.entry) b)
    | _ => none
  | none => none

/-- A data image's bytes with their places; none when one has no place. -/
def imageCells (map : List MapPage) (d : DataImage) : Option (List (Loc × Byte)) :=
  (d.bytes.mapIdx fun i b => (d.va.toNat + i, b)).mapM fun c => (imagePlace map c.1).map fun a => (a, c.2)

/-- The bytes that go to this module's memory, and those that go to another module. -/
def localCells (l : List (Loc × Byte)) : List (Nat × Byte) :=
  l.filterMap fun c => match c.1 with
    | .phys b => some (b / 8, c.2)
    | _ => none
def remoteCells (m : BitVec 12) (l : List (Loc × Byte)) : List (Nat × Byte) :=
  l.filterMap fun c => match c.1 with
    | .remote d b => if d = m then some (b / 8, c.2) else none
    | _ => none

/-- The checks of an open request (R242, R347, R357, R362). (DESIGN CHOICE, log 11) -/
def State.openOk (s : State) (r : OpenContextReq) : Bool :=
  let pages := r.maps.flatten
  decide (r.asid.toNat < 2048) && decide (1 ≤ r.nmap.toNat) && decide (r.nmap.toNat ≤ 64)
    && r.maps.length == r.nmap.toNat && decide (r.home.toNat < 4)
    && decide (r.firstModule.toNat ≤ s.modid.toNat) && decide (s.modid.toNat ≤ r.lastModule.toNat)
    && decide (r.lastModule.toNat < 4096) && (s.context? r.asid).isNone
    && decide (r.ranges.length ≤ 64) && r.ranges.all rangeOk
    && pages.all (pageOk r.home.toNat) && r.maps.all mapDisjoint
    && (pages.all fun p => pages.all fun q => framesOk s.modid p q)
    && r.images.all fun d => (imageCells (r.maps.headD []) d).isSome

/-- The context a request describes, at map 0 with no transition. -/
def openedContext (r : OpenContextReq) : Context where
  asid := r.asid
  nmap := r.nmap.toNat
  home := r.home.setWidth 2
  cur := 0
  eng := .idle
  pass := 0
  trans := 0
  flt := false
  tip := false
  tgt := 0
  fcode := 0
  prem := 0
  fltva := 0
  hasEngine := false
  moves := []
  mirrors := []
  padvs := []
  heldBack := []
  maps := r.maps
  loaded := r.maps
  tables := []
  pcid := r.pcid
  modLo := r.firstModule.setWidth 12
  modHi := r.lastModule.setWidth 12
  ranges := r.ranges
  codes := []
  images := r.images
  objs := []

/-- The route table of a peer not yet known (R341; DESIGN CHOICE, log 9). -/
def State.loadRoute (s : State) (m : BitVec 12) : State :=
  if s.fab.routes.any fun r => r.1 == m then s
  else { s with fab := { s.fab with routes := s.fab.routes ++ [(m, Config.peerPorts m)] } }

/-- The modules of a peer set. -/
def peerSet (lo hi : Nat) : List (BitVec 12) :=
  ((List.range 4096).filter fun m => decide (lo ≤ m) && decide (m ≤ hi)).map fun m => BitVec.ofNat 12 m

/-- A module of a context's peer set becomes known: its route table, and first key slots where it has none. The
module itself is one, for its loopback (R341, R346, R357, R358). -/
def State.loadPeer (s : State) (m : BitVec 12) : State :=
  let s := if m = s.modid then s else s.loadRoute m
  if (s.peer? m).isSome then s else s.firstKeys m

/-- The images of a request, as placed bytes. -/
def requestCells (r : OpenContextReq) : List (Loc × Byte) :=
  r.images.flatMap fun d => (imageCells (r.maps.headD []) d).getD []

/-- The service writes placed bytes for a context: to this module's memory, where those of a held place wait, and to
other modules of its peer set over the fabric. Bytes on a module outside the peer set are not written (R241, R247,
R256; DESIGN CHOICE, log 50). -/
def State.place (s : State) (asid : BitVec 16) (cells : List (Loc × Byte)) : State :=
  let mods := (cells.filterMap fun c => match c.1 with
    | .remote d _ => some d
    | _ => none).dedup
  (mods.filter fun m => s.isPeer asid m).foldl (fun (s : State) m =>
    s.couchWrite asid m (remoteCells m cells) ⟨couchImage, 0, 0, 0⟩) (s.writeOrHold (localCells cells))

/-- The service writes a context's images (R241, R256). Bytes of an image on a page of a module outside the context's
peer set are left out, and the request is answered STATUS 0 all the same (DESIGN CHOICE, log 50). -/
def State.loadImages (s : State) (r : OpenContextReq) : State := s.place r.asid (requestCells r)

/-- A context opens: its maps, images and ranges are loaded and its names bound (R26, R362). A bad request, an image
whose page is absent or dead among the causes, is malformed. (DESIGN CHOICE, log 11) -/
def openNow (s : State) (r : OpenContextReq) : State :=
  if !(s.openOk r) then s.respond 0x110 stMalformed []
  else
    let ok := Config.bindSucceeds s.free
    let s := { s with free := s.free + 1 }
    if !ok then s.respond 0x110 stExhausted []
    else
      let bad := s.svc.retiredFrames.map fun f => (f.toNat * 0x10000, 0x10000)
      let s := { s with contexts := placeTables bad (s.contexts ++ [openedContext r]) }
      let s := (peerSet r.firstModule.toNat r.lastModule.toNat).foldl State.loadPeer s
      ((s.loadImages r).naming (handleOf r.asid)).respondAfter r.asid s.net.nextMsg 0x110 stDone

/-- OPEN_CONTEXT, code 0x110 (R242). (DEDUCED, log 50) -/
def execOpenContext (s : State) : Host.Outcome State Fault Refusal :=
  event (s.request 0x110 fun s => match s.occ with
    | .openReq r => openNow s r
    | _ => s)

/-! ### Closing a context (R248, R316, R361) -/

/-- A core runs a task of a context. -/
def State.contextRuns (s : State) (asid : BitVec 16) : Bool :=
  (s.core :: s.parked).any fun c => c.mode != .idle && c.asid == asid && c.task.isSome

/-- A queued task is retired: its record fails (R314, R361). -/
def State.retireQueued (s : State) (asid : BitVec 16) (rec : VAddr) : State :=
  (s.setTaskState asid rec 7).orTaskFlag asid rec 8

/-- The tasks of a context that wait, are ready, or are switched out or frozen, save areas freed. -/
def State.dropTasks (s : State) (asid : BitVec 16) : State :=
  let mine (l : List PoolEntry) : List PoolEntry := l.filter fun e => e.asid == asid
  let entries := (s.sched.pools.toList ++ s.sched.chains.toList).flatMap mine
  let waits := s.sched.waiting.filter fun w => w.1 == asid
  let s := entries.foldl (fun (s : State) e => s.retireQueued asid e.recVa) s
  let s := waits.foldl (fun (s : State) w => s.retireQueued asid w.2.1) s
  { s with sched := { s.sched with
      pools := s.sched.pools.map fun l => l.filter fun e => e.asid != asid
      chains := s.sched.chains.map fun l => l.filter fun e => e.asid != asid
      waiting := s.sched.waiting.filter fun w => w.1 != asid
      images := s.sched.images.filter fun m => m.handover || m.core.asid != asid } }

/-- The queues of a context close: at once when idle, else when they become idle (R316). -/
def State.closeQueues (s : State) (asid : BitVec 16) : State :=
  let close (q : Queue) : Queue :=
    if q.asid ≠ asid then q
    else if s.queueHasTask q.qid then { q with closing := true, head := q.tail, reserved := [] }
    else { q with closing := true, head := q.tail, qst := .closed, reserved := [] }
  { s with sched := { s.sched with queues := s.sched.queues.map close } }

/-- Everything of a context leaves, its records and what the pan units have of them among it. -/
def State.forget (s : State) (x : Context) : State :=
  let mine := (s.pan.recs.filter fun r => r.asid == x.asid).map (·.pa)
  { s with
    contexts := s.contexts.filter fun y => y.asid != x.asid
    caches := s.caches.filter fun c => c.asid != x.asid
    sched := { s.sched with queues := s.sched.queues.filter fun q => q.asid != x.asid }
    pan := { s.pan with
      recs := s.pan.recs.filter fun r => r.asid != x.asid
      reports := s.pan.reports.filter fun r => !(mine.contains r.cell)
      releases := s.pan.releases.filter fun r => !(mine.contains r.1)
      firing := s.pan.firing.filter fun pa => !(mine.contains pa) }
    fab := { s.fab with recv := s.fab.recv.filter fun c => c.pcid != x.pcid }
    svc := { s.svc with
      requests := s.svc.requests.filter fun r => r.asid != x.asid
      loads := s.svc.loads.filter fun l => l.asid != x.asid } }

/-- CLOSE_CONTEXT: the transition is abandoned, queued tasks are retired, save areas are freed; while a core
still runs a task of the context the answer is busy (R361). -/
def closeNow (s : State) (x : Context) : State :=
  let s := if x.tip then s.updContext x.asid Context.abandon else s
  let s := ((s.dropTasks x.asid).closeQueues x.asid).pumpAll
  if s.contextRuns x.asid || s.sched.images.any fun m => m.core.asid == x.asid then
    s.respond 0x111 stBusy []
  else (s.forget x).respond 0x111 stDone []

/-- CLOSE_CONTEXT, code 0x111 (R361). (DEDUCED, log 50) -/
def execCloseContext (s : State) : Host.Outcome State Fault Refusal :=
  event (s.request 0x111 fun s => match s.occ with
    | .context asid => match s.context? asid with
      | some x => closeNow s x
      | none => s.respond 0x111 stMalformed []
    | _ => s)

/-! ### Code objects (R62, R225) -/

/-- Bytes the service writes for a context, placed: through its current map, whatever W says. -/
def State.serviceCells (s : State) (asid : BitVec 16) (va : Nat) (l : List Byte) : Option (List (Loc × Byte)) :=
  (l.mapIdx fun i b => (va + i, b)).mapM fun c => match s.access asid c.1 false false with
    | .ok l => some (l, c.2)
    | _ => none

/-- Some byte is placed on a module outside the context's peer set. -/
def State.outsidePeers (s : State) (asid : BitVec 16) (l : List (Loc × Byte)) : Bool :=
  l.any fun c => match c.1 with
    | .remote m _ => !(s.isPeer asid m)
    | _ => false

/-- NAME holds ASCII characters and is zero-padded (R62). -/
def nameOk (l : List Byte) : Bool :=
  l.all (fun b => decide (b.toNat < 128)) && (l.dropWhile (· != 0)).all (· == 0)

/-- An object's header and length keep R62's table. -/
def objectOk (l : List Byte) : Bool :=
  let n := argField l 8 4
  argField l 0 4 == 0x4F435A4D && argField l 4 2 == 1 && decide (argField l 6 2 < 256)
    && decide (1 ≤ n) && decide (n ≤ 2048) && decide (argField l 12 4 < n) && argField l 56 8 == 0
    && nameOk ((l.drop 16).take 8) && l.length == 64 + 64 * n

/-- Loads a code object; an object on a page of a module outside the context's peer set is not permitted (R62, R225).
(DEDUCED, log 50, log 66) -/
def loadCode (s : State) (r : LoadCodeReq) : State :=
  if (s.context? r.asid).isNone || r.va.toNat % 64 != 0 || decide (2 ^ 56 ≤ r.va.toNat) || !(objectOk r.object) then
    s.respond 0x112 stMalformed []
  else if (shake256 (r.object.drop 64)).take 32 ≠ (r.object.drop 24).take 32 then
    s.respond 0x112 stUnverified []
  else match s.serviceCells r.asid r.va.toNat r.object with
    | none => s.respond 0x112 stMalformed []
    | some cells =>
      if s.outsidePeers r.asid cells then s.respond 0x112 stNotPermitted []
      else
        let va : VAddr := r.va.setWidth 56
        ((s.place r.asid cells).updContext r.asid fun x => { x with
          codes := ⟨va, r.object⟩ :: x.codes.filter fun c => c.va != va }).respondAfter r.asid s.net.nextMsg 0x112 stDone

/-- LOAD_CODE_OBJECT, code 0x112 (R62). -/
def execLoadCodeObject (s : State) : Host.Outcome State Fault Refusal :=
  event (s.request 0x112 fun s => match s.occ with
    | .codeReq r => loadCode s r
    | _ => s)

/-! ### Rule entries (R266, R273) -/

/-- A NaN of FP32. -/
def nan32 (x : Word32) : Bool := decide (0x7F800000 < x.toNat % 2 ^ 31)

/-- An entry the service accepts (R266). -/
def ruleOk (r : RuleEntry) : Bool :=
  decide (r.tmpl.toNat ≤ 4) && decide (r.fpol.toNat < 4)
    && !([r.lr, r.b1, r.b2, r.eps, r.wd, r.clip, r.fscl].any nan32)
    && (!(r.clip.getLsbD 31) || r.clip == 0x80000000) && (!(r.fpol.getLsbD 1) || scaleOk r.fscl)

/-- Loads rule entries; records whose step is complete and waited for a rule fire (R273). -/
def loadRules (s : State) (l : List (BitVec 6 × RuleEntry)) : State :=
  if !(l.all fun p => ruleOk p.2) then s.respond 0x113 stMalformed []
  else
    let rules := l.foldl (fun (v : Vector RuleEntry 64) p => v.set p.1.toNat p.2 p.1.isLt) s.pan.rules
    let s := { s with pan := { s.pan with rules := rules } }
    let s := s.pan.recs.foldl (fun (s : State) (r : RecInfo) =>
      if !r.cell && l.any fun p => p.1.toNat == s.recRule r.pa then s.fireIfDue r else s) s
    s.respond 0x113 stDone []

/-- LOAD_RULE_TABLE_ENTRIES, code 0x113 (R266). -/
def execLoadRuleTableEntries (s : State) : Host.Outcome State Fault Refusal :=
  event (s.request 0x113 fun s => match s.occ with
    | .rules l => loadRules s l
    | _ => s)

/-! ### Queues (R312) -/

/-- A ring size: a power of two from 64 to 65536. -/
def ringSizeOk (n : Nat) : Bool := (List.range 11).any fun k => n == 64 * 2 ^ k

/-- A request to create a queue keeps R312's limits. -/
def queueReqOk (r : CreateQueueReq) : Bool :=
  decide (r.qrk.toNat < 16) && decide (1024 ≤ r.slice.toNat) && decide (r.slice.toNat ≤ 2 ^ 31)
    && ringSizeOk r.rsz.toNat && ringSizeOk r.csz.toNat && r.ring.toNat % 64 == 0 && r.cring.toNat % 64 == 0
    && (decide (r.die.toNat < 4) || r.die == 0xFF)

/-- A queue number not in use, chosen by the service (R312; DESIGN CHOICE, log 3). -/
def State.freeQid (s : State) : Option (BitVec 14) :=
  let base := (Config.freeValue 26 s.free).toNat
  ((List.range 16384).map fun i => BitVec.ofNat 14 (base + i)).find? fun q => (s.queue? q).isNone

/-- The die of a new queue: the preferred one, or one of the service's choice, not a drained one.
(DESIGN CHOICE, log 3) -/
def State.queueDie (s : State) (want : BitVec 8) : Option (BitVec 2) :=
  let base := (Config.freeValue 27 s.free).toNat
  ((if want = 0xFF then [] else [want.setWidth 2]) ++ (List.range 4).map fun i => BitVec.ofNat 2 (base + i)).find?
    fun d => !(s.svc.drained.contains d)

/-- The descriptor of a new queue. (DESIGN CHOICE, log 8) -/
def newQueue (r : CreateQueueReq) (qid : BitVec 14) (die : BitVec 2) (save dbell : Nat) : Queue where
  qid := qid
  die := die
  qst := .unbound
  qrk := r.qrk.setWidth 4
  slot := 0
  asid := r.asid
  ring := r.ring
  rsz := r.rsz.toNat
  head := 0
  tail := 0
  slice := r.slice.toNat
  cring := r.cring
  csz := r.csz.toNat
  ctail := 0
  ygr := r.ygr
  nsave := r.nsave.toNat
  save := save
  dbell := dbell
  chead := 0
  nflr := 0
  nfrz := 0
  ndrop := 0
  closing := false
  refuse := false
  stamp := 0
  waiting := []
  reserved := []
  uncovered := false

/-- Creates a queue: number, die, save area and doorbell line (R312; logs 3, 8). -/
def createQueue (s : State) (r : CreateQueueReq) : State :=
  if (s.context? r.asid).isNone || !(queueReqOk r) then s.respond 0x114 stMalformed []
  else match s.freeQid, s.queueDie r.die with
    | some qid, some die =>
      let save := (Config.reservedFrame s.svc.spare).toNat * 0x10000
      let dbell := (Config.reservedFrame (s.svc.spare + 1)).toNat * 0x10000
      let s := { s with
        free := s.free + 1
        svc := { s.svc with spare := s.svc.spare + 2 }
        sched := { s.sched with queues := s.sched.queues ++ [newQueue r qid die save dbell] } }
      s.respond 0x114 stDone (bytesOfNat 2 qid.toNat ++ bytesOfNat 1 die.toNat ++ bytesOfNat 5 0
        ++ bytesOfNat 8 dbell)
    | _, _ => s.respond 0x114 stExhausted []

/-- CREATE_AND_MAP_QUEUE, code 0x114 (R312). -/
def execCreateAndMapQueue (s : State) : Host.Outcome State Fault Refusal :=
  event (s.request 0x114 fun s => match s.occ with
    | .queueReq r => createQueue s r
    | _ => s)

/-! ### Keys (R346, R362) -/

/-- A rotation begins: the receiving slot takes the new key (R346, step 1). (DEDUCED, log 50) -/
def State.rotateKeys (s : State) (m : BitVec 12) : State :=
  match s.peer? m with
  | none => s
  | some p =>
    (s.loadSlot (s.agreedSlot m false (!p.recvIx) (p.rotations + 1))).updPeer m fun p => { p with
      recvIx := !p.recvIx, seen := [], lastOld := s.ptb, rotating := 1 }

/-- A rotation goes on: the sending slot takes the new key, and then the sender's index changes (R346, steps 2 and 3).
When no rotation is left the request is answered. (DEDUCED, log 50) -/
def State.rotateOn (s : State) (m : BitVec 12) : State :=
  match s.peer? m with
  | none => s
  | some p =>
    match p.rotating with
    | 0 => s
    | 1 =>
      (s.loadSlot (s.agreedSlot m true (!p.sendIx) (p.rotations + 1))).updPeer m fun p => { p with rotating := 2 }
    | _ =>
      let s := s.updPeer m fun p => { p with sendIx := !p.sendIx, rotations := p.rotations + 1, rotating := 0 }
      if s.fab.peers.any fun p => p.rotating != 0 then s
      else (s.serving s.svc.rotation).respond 0x115 stDone []

/-- A rotation is under way, or the old receiving slot of an earlier one is still held (R346). -/
def State.slotHeld (s : State) (m : BitVec 12) : Bool :=
  match s.peer? m with
  | some p => (s.keySlot m false (!p.recvIx)).isSome
  | none => false

/-- KEY_EXCHANGE for a peer set. (DEDUCED, log 50) -/
def exchangeKeys (s : State) (rotate : Bool) (l : List (BitVec 12)) : State :=
  if !rotate then (l.foldl State.firstKeys s).respond 0x115 stDone []
  else if l.any fun m => (s.peer? m).isNone then s.respond 0x115 stMalformed []
  else if (s.fab.peers.any fun p => p.rotating != 0) || l.any s.slotHeld then s.respond 0x115 stBusy []
  else if l.isEmpty then s.respond 0x115 stDone []
  else l.foldl State.rotateKeys { s with svc := { s.svc with rotation := s.svc.asker } }

/-- KEY_EXCHANGE, code 0x115, and the steps of a rotation (R346). -/
def execKeyExchange (s : State) : Host.Outcome State Fault Refusal :=
  event (match s.occ with
    | .peer m => s.rotateOn m
    | _ => s.request 0x115 fun s => match s.occ with
      | .keyReq rotate l => exchangeKeys s rotate l
      | _ => s)

/-! ### Parameter records and norm cells (R257, R260, R264) -/

/-- The physical place of a record or cell: aligned, within one PAR = 1 page of this module's stacks (R257). -/
def State.recordPlace (s : State) (asid : BitVec 16) (va size align : Nat) : Option Nat :=
  if va % align ≠ 0 then none
  else match s.access asid va true false, s.access asid (va + size - 1) true false with
    | .ok (.phys b), .ok (.phys e) =>
      (match placeOf (b / 8), (s.context? asid).bind fun x => findPage x.map va with
       | .stack _, some p =>
         if decide (va + size ≤ p.va.toNat + MapE.size p.entry) && e / 8 == b / 8 + size - 1 then some (b / 8)
         else none
       | _, _ => none)
    | _, _ => none

/-- NRM names no cell, a loaded cell, a cell of the same request, or one a peer module's service says is there
(R259, R260; DESIGN CHOICE, log 80).
(DEDUCED, log 50) -/
def State.nrmOk (s : State) (asid : BitVec 16) (l : List LoadRecordReq) (nrm : BitVec 64) : Bool :=
  if nrm = 0 then true
  else match normLink nrm.toNat with
    | (some m, a) => s.isPeer asid m && Config.remoteCell m a s.free
    | (none, va) => decide (nrm.toNat < 2 ^ 56)
        && ((l.any fun e => e.kind == 1 && e.va.toNat == va)
          || match s.access asid va true false with
             | .ok (.phys b) => (s.recAt (b / 8)).any fun c => c.cell
             | .ok (.remote m b) => s.isPeer asid m && Config.remoteCell m (b / 8) s.free
             | _ => false)

/-- One entry of a load request keeps R257 and R260. -/
def State.recordOk (s : State) (asid : BitVec 16) (l : List LoadRecordReq) (e : LoadRecordReq) : Bool :=
  match e.kind.toNat with
  | 0 => decide (e.rule.toNat < 64) && (s.pan.rules.toList.getD e.rule.toNat RuleEntry.empty).tmpl != 0
      && decide (1 ≤ e.exp.toNat) && decide (e.exp.toNat ≤ 2 ^ 24) && s.nrmOk asid l e.nrm
      && (s.recordPlace asid e.va.toNat recordSize 128).isSome
  | 1 => e.nrm == 0 && e.ntf == 0 && (s.recordPlace asid e.va.toNat 64 64).isSome
  | _ => false

/-- The record's header as loaded, but for the scale (R259). -/
def headerCells (pa : Nat) (e : LoadRecordReq) : List (Nat × Byte) :=
  cellsFrom pa (bytesOfNat 1 e.rule.toNat ++ bytesOfNat 1 0 ++ bytesOfNat 1 e.e.toNat ++ bytesOfNat 1 0
    ++ bytesOfNat 4 e.exp.toNat ++ bytesOfNat 8 0 ++ bytesOfNat 4 1 ++ bytesOfNat 4 1 ++ bytesOfNat 8 0
    ++ bytesOfNat 8 e.nrm.toNat ++ bytesOfNat 8 e.ntf.toNat ++ bytesOfNat 8 0 ++ bytesOfNat 4 0
    ++ bytesOfNat 4 0x3F800000 ++ bytesOfNat 64 0)

/-- The byte that a context's data images place at an address; 0 where none is placed (R256, R260). -/
def Context.imageByte (x : Context) (a : Nat) : Byte :=
  x.images.foldl (fun b d => if decide (d.va.toNat ≤ a) && decide (a < d.va.toNat + d.bytes.length)
    then d.bytes.getD (a - d.va.toNat) b else b) 0

/-- The 256 initial master values of a record at a virtual address (R260). -/
def State.initialMasters (s : State) (asid : BitVec 16) (va : Nat) : List Byte :=
  match s.context? asid with
  | some x => (List.range 1024).map fun i => x.imageByte (va + 128 + i)
  | none => []

/-- Everything the service writes for a record: header, initial master values, zeros, and version 1's copies
(R260, R269). -/
def recordCells (s : State) (asid : BitVec 16) (pa : Nat) (e : LoadRecordReq) : List (Nat × Byte) :=
  let rule := s.pan.rules.toList.getD e.rule.toNat RuleEntry.empty
  let mst := s.initialMasters asid e.va.toNat
  let ws := (List.range 256).map fun i => BitVec.ofNat 32 (natOfBytes ((mst.drop (4 * i)).take 4))
  headerCells pa e ++ cellsFrom (pa + 128) mst ++ cellsFrom (pa + 1152) (List.replicate 6144 0)
    ++ cellsFrom (pa + wbOffset 1) (List.replicate 512 0) ++ cellsFrom (pa + f8Offset 1) (List.replicate 256 0)
    ++ cellsFrom (pa + 8832) (List.replicate 384 0) ++ (publishCells pa 0 rule ws).1

/-- The 64 bytes of a norm cell as loaded (R264). -/
def cellCells (pa : Nat) (e : LoadRecordReq) : List (Nat × Byte) :=
  cellsFrom pa (bytesOfNat 8 0 ++ bytesOfNat 1 e.e.toNat ++ bytesOfNat 3 0 ++ bytesOfNat 4 e.exp.toNat
    ++ bytesOfNat 4 0 ++ bytesOfNat 4 1 ++ bytesOfNat 40 0)

/-- Loads one entry: the memory it names and the pan units' view of it. (DEDUCED, log 50) -/
def State.loadRecord (s : State) (asid : BitVec 16) (e : LoadRecordReq) : State :=
  let cell := e.kind == 1
  match s.recordPlace asid e.va.toNat (if cell then 64 else recordSize) (if cell then 64 else 128) with
  | none => s
  | some pa =>
    let s := s.writeOrHold (if cell then cellCells pa e else recordCells s asid pa e)
    let r : RecInfo := ⟨pa, asid, e.va, cell, none, 0, false, false, [], []⟩
    { s with pan := { s.pan with
        recs := r :: s.pan.recs.filter fun q => q.pa != pa
        firing := s.pan.firing.filter fun q => q != pa } }

/-- LOAD_PARAMETER_RECORDS: a bad entry rejects the request, and nothing is written (R260). -/
def loadRecords (s : State) (asid : BitVec 16) (l : List LoadRecordReq) : State :=
  if (s.context? asid).isNone || !(l.all (s.recordOk asid l)) then s.respond 0x117 stMalformed []
  else (l.foldl (fun (s : State) e => s.loadRecord asid e) s).respond 0x117 stDone []

/-- LOAD_PARAMETER_RECORDS, code 0x117 (R260). -/
def execLoadParameterRecords (s : State) : Host.Outcome State Fault Refusal :=
  event (s.request 0x117 fun s => match s.occ with
    | .records asid l => loadRecords s asid l
    | _ => s)

end Sys2Proof.Machine
end

