-- ==== Sys2Proof/Machine/Life.lean ====
section
/-! DEFINITION. Boot, live service, life cycle, power and cooling (R359, R364, R368 to R373). -/

namespace Sys2Proof.Machine

open Sys2Proof

/-! ### Images and boot (R359) -/

/-- An image verifies: its last 114 bytes are Meloz's signature over the digest of the rest (R359, R362). -/
def imageVerifies (l : List Byte) : Bool :=
  decide (114 ≤ l.length)
    && edVerify (bytesOfNat 57 Config.melozKey) (shake256 (l.take (l.length - 114))) (l.drop (l.length - 114))

/-- What a reset keeps of the service: the fuses, the two keys, the image slots, what is retired (R359, R363, R364). -/
def Service.kept (v : Service) : Service :=
  { Service.reset with
    life := v.life, identity := v.identity, credential := v.credential, imageA := v.imageA, imageB := v.imageB
    bytesA := v.bytesA, bytesB := v.bytesB, retiredCores := v.retiredCores, retiredFrames := v.retiredFrames
    spare := v.spare }

/-- A host's request, or a reset: what comes from outside and is met after a reset too (R359). -/
def Act.outlasts : Act → Bool
  | .event i _ => i == .reset || hostCodes.any fun c => hostEvent c == i
  | _ => false

/-- A core after reset keeps its features: a retired pipeline stays retired (R32, R368). -/
def keptCore (c : Core) : Core := { Core.reset c.id with feat := c.feat }

/-- The module as reset leaves it, before its image starts: memory wiped, no context, queue, rule table or
key (R359); what hosts ask from then on is still to be met. -/
def State.wiped (s : State) : State :=
  { State.reset with
    core := keptCore s.core, parked := s.parked.map keptCore, agenda := s.agenda.filter Act.outlasts, modid := s.modid
    svc := s.svc.kept, tick := s.tick, free := s.free + 1 }

/-- A step of the boot sequence other than the verification succeeds: the fuses are read, memory is wiped, the image
starts and the links train, the endpoint opens; whether one does is the module's (R359; DESIGN CHOICE, log 51). -/
def bootSteps (free : Nat) : Bool := ([1, 2, 4, 5] : List Nat).all (Config.bootStepOk free)

/-- A link that has not trained. -/
def LinkState.down : LinkState := { LinkState.reset with up := false }

/-- RESET: the first image that verifies starts, A before B; a module that fails a step stays in reset, with no link
trained (R359). What a failed boot leaves in memory nothing can read. (DESIGN CHOICE, log 51) -/
def boot (s : State) : State :=
  let a := imageVerifies s.svc.bytesA
  let b := imageVerifies s.svc.bytesB
  let ok := (a || b) && bootSteps s.free
  let t := s.wiped
  { t with
    fab := if ok then t.fab else { t.fab with links := Vector.replicate 16 LinkState.down }
    svc := { t.svc with activeB := !a && b, bootOk := ok, holdReset := !ok } }

/-- RESET (R359). -/
def execReset (s : State) : Host.Outcome State Fault Refusal := event (boot s)

/-! ### Firmware (R368) -/

/-- Requests that came before a place in the order are in progress (R368). -/
def State.inProgress (s : State) (stamp : Nat) : Bool :=
  !s.svc.retiring.isEmpty || !s.svc.retiringFrames.isEmpty || !s.svc.draining.isEmpty || !s.svc.loads.isEmpty
    || (s.fab.peers.any fun p => p.rotating != 0) || (s.svc.requests.any fun r => decide (r.stamp < stamp))
    || s.svc.inbox.any fun r => decide (r.stamp < stamp)

/-- All service cores switch at once when the requests in progress have finished (R368). -/
def State.goOnUpdate (s : State) : State :=
  match s.svc.update with
  | some u =>
    if s.inProgress u.stamp then s
    else
      let s := { s with svc := { s.svc with activeB := !s.svc.activeB, lastSwitch := some s.ptb, update := none } }
      ((s.addLog 9 0x01 0 0 s.svc.version.toNat).serving u.asker).respond 0x130 stDone []
  | none => s

/-- UPDATE_FIRMWARE_LIVE: a verified image goes to the inactive slot; new requests wait until those in progress have
finished and all service cores have switched. -/
def updateFirmware (s : State) (version : BitVec 64) (image : List Byte) : State :=
  if !(imageVerifies image) then s.respond 0x130 stUnverified []
  else
    let v := s.svc
    let v : Service := if v.activeB then { v with imageA := version, bytesA := image }
      else { v with imageB := version, bytesB := image }
    State.goOnUpdate { s with svc := { v with
      update := some ⟨v.nextStamp, v.asker⟩, nextStamp := v.nextStamp + 1 } }

/-- UPDATE_FIRMWARE_LIVE, code 0x130 (R368). -/
def execUpdateFirmwareLive (s : State) : Host.Outcome State Fault Refusal :=
  event (match s.occ with
    | .none => s.goOnUpdate
    | _ => s.request 0x130 fun s => match s.occ with
      | .firmware v l => updateFirmware s v l
      | _ => s)

/-- FIRMWARE_REVERT: a start that fails within 1 ms of the switch brings the old image back (R368). -/
def revertFirmware (s : State) : State :=
  match s.svc.lastSwitch with
  | some t =>
    if (s.ptb - t).toNat ≤ 1000000 then
      let s := { s with svc := { s.svc with activeB := !s.svc.activeB, lastSwitch := none } }
      s.addLog 9 0x02 0 0 s.svc.version.toNat
    else s
  | none => s

/-- FIRMWARE_REVERT (R368). -/
def execFirmwareRevert (s : State) : Host.Outcome State Fault Refusal := event (revertFirmware s)

/-! ### Retiring a core or a pipeline (R32, R368, R370) -/

/-- Asks the task of a core to freeze, gang and all. -/
def State.askCore (s : State) (id : BitVec 10) : State :=
  let c := s.findCore id
  match c.task with
  | some t => if c.mode = .idle then s else s.askFreeze t .service false
  | none => s

/-- A core with nothing on it and no handover open. -/
def State.coreQuiet (s : State) (id : BitVec 10) : Bool := (s.findCore id).mode == .idle && !(s.handoverOpen id)

/-- A core to retire leaves the dispatch set, and its task is asked to freeze. The list names a core once for each
retirement of it that is under way or holds. -/
def State.beginRetire (s : State) (id : BitVec 10) (pipeline : Bool) : State :=
  let s := { s with svc := { s.svc with
    retiring := s.svc.retiring ++ [(id, pipeline, s.svc.asker)], retiredCores := s.svc.retiredCores ++ [id] } }
  (s.askCore id).tellUncovered (coreDie id)

/-- DETAIL of 0x03 (R367). -/
def retireDetail (id : BitVec 10) (pipeline : Bool) : Nat := id.toNat + 1024 * pipeline.toNat

/-- The retirement completes: a core stays out; one with a retired pipeline returns, unless it was retired before, with
FEAT.NW set. -/
def State.endRetire (s : State) (id : BitVec 10) (pipeline : Bool) (by' : Asker) : State :=
  let s := { s with svc := { s.svc with
    retiring := s.svc.retiring.filter fun p => p.1 != id
    retiredCores := if pipeline then s.svc.retiredCores.erase id else s.svc.retiredCores } }
  let s := if pipeline then s.updCore id fun c => { c with feat := c.feat ||| 0x100 } else s
  (((s.tellUncovered (coreDie id)).addLog 9 0x03 (coreDie id) (bits id 0 8) (retireDetail id pipeline)).serving
    by').respond 0x131 stDone []

/-- A retirement under way completes once its core is quiet (R370). -/
def State.goOnRetire (s : State) (id : BitVec 10) : State :=
  match s.svc.retiring.find? fun p => p.1 == id with
  | some (_, pipeline, by') => if s.coreQuiet id then s.endRetire id pipeline by' else s
  | none => s

/-- RETIRE_CORE_OR_PIPELINE: at once on a quiet core, else when its handover has closed (R370). A second request for
a core that is retiring is answered busy. (DESIGN CHOICE, log 53) -/
def retireUnit (s : State) (id : BitVec 10) (pipeline : Bool) : State :=
  if s.svc.retiring.any fun p => p.1 == id then s.respond 0x131 stBusy []
  else (s.beginRetire id pipeline).goOnRetire id

/-- RETIRE_CORE_OR_PIPELINE, code 0x131 (R368). -/
def execRetireCoreOrPipeline (s : State) : Host.Outcome State Fault Refusal :=
  event (match s.occ with
    | .core id => s.goOnRetire id
    | _ => s.request 0x131 fun s => match s.occ with
      | .retireUnit die core kind =>
        if kind = 0 ∨ kind = 1 then retireUnit s (die ++ core) (kind == 1) else s.respond 0x131 stMalformed []
      | _ => s)

/-! ### Retiring a frame (R247, R368, R370) -/

/-- A place lies in a stretch of physical memory. -/
def Loc.within (l : Loc) (base size : Nat) : Bool :=
  match l with
  | .phys b => decide (base ≤ b / 8) && decide (b / 8 < base + size)
  | _ => false

/-- Nothing on its way touches a stretch: no message, by any place it asks for, and no element of a command. A packet
that still stands at its gateway goes on to where the frame has moved (R370). (DEDUCED, log 53) -/
def State.regionQuiet (s : State) (base size : Nat) : Bool :=
  !(s.net.msgs.any fun m => m.loc.within base size
      || (!m.away && m.op.asks && (s.places m).any fun p => decide (base ≤ p.1) && decide (p.1 < base + size)))
    && (s.core :: s.parked).all fun c => c.running.all fun q => q.pieces.all fun p =>
      !((p.stage == .reading || p.stage == .writing) && (p.src.within base size || p.dst.within base size))

/-- A place after its stretch has moved. -/
def Loc.moved (l : Loc) (base size to' : Nat) : Loc :=
  match l with
  | .phys b => if Loc.within (.phys b) base size then .phys (b - 8 * base + 8 * to') else l
  | l => l

/-- A map entry on its new frame. (DEDUCED, log 53) -/
def movedEntry (e : BitVec 64) (base to' : Nat) : BitVec 64 :=
  if MapE.kind e = 2 ∧ (MapE.back e = 1 ∨ MapE.back e = 2 ∨ MapE.back e = 5) ∧ MapE.pa e = base then
    (e &&& ~~~(0xFFFFFFF000#64)) ||| (BitVec.ofNat 64 (to' / 0x10000) <<< 12)
  else e

/-- A context's maps and transition on the new frame. -/
def Context.moved (x : Context) (base size to' : Nat) : Context :=
  let page (m : PageMove) : PageMove := { m with src := m.src.moved base size to', dst := m.dst.moved base size to' }
  { x with
    maps := x.maps.map fun l => l.map fun (p : MapPage) => { p with entry := movedEntry p.entry base to' }
    moves := x.moves.map page, mirrors := x.mirrors.map page
    tables := x.tables.map fun (t : MapTable) => { t with base := movedAddr t.base base size to' }
    heldBack := x.heldBack.map fun h => match h with
      | .update pa => .update (movedAddr pa base size to')
      | h => h }

/-- A core's commands on the new frame. -/
def Core.moved (c : Core) (base size to' : Nat) : Core :=
  let piece (p : Piece) : Piece := { p with src := p.src.moved base size to', dst := p.dst.moved base size to' }
  { c with running := c.running.map fun (q : Cmd) => { q with pieces := q.pieces.map piece } }

/-- A stretch's bytes and poison are copied to a new one. -/
def State.copyRegion (s : State) (base size to' : Nat) : State :=
  let cells := (s.mem.filter fun c => decide (base ≤ c.1) && decide (c.1 < base + size)).map fun c =>
    (c.1 - base + to', c.2)
  let bad := (s.poisoned.filter fun u => decide (base ≤ u) && decide (u < base + size)).map fun u => u - base + to'
  let s := (s.zeroRange to' size).poke cells
  { s with poisoned := bad ++ s.poisoned }

/-- The frame moves to a spare one of the service (DESIGN CHOICE, log 8): data, entries and what refers to them, which
the translation caches drop (R234); a save area, a doorbell line or a table moves with it. (DEDUCED, log 53) -/
def State.moveFrame (s : State) (f : BitVec 28) : State :=
  let r := s.frameRegion f
  let to' := (Config.reservedFrame s.svc.spare).toNat * 0x10000
  let used := (s.contexts.any fun x => x.maps.any fun l => l.any fun p => MapE.pa p.entry == r.1)
    || s.serviceStretches.contains r
  let s := if used then s.copyRegion r.1 r.2 to' else s
  { s with
    core := s.core.moved r.1 r.2 to', parked := s.parked.map fun c => c.moved r.1 r.2 to'
    contexts := s.contexts.map fun x => x.moved r.1 r.2 to'
    caches := s.caches.filter fun c => movedEntry c.page.entry r.1 to' == c.page.entry
    pan := s.pan.relocate s.modid fun a => movedAddr a r.1 r.2 to'
    held := s.held.map fun c => (movedAddr c.1 r.1 r.2 to', c.2)
    sched := { s.sched with queues := s.sched.queues.map fun q => { q with
      save := movedAddr q.save r.1 r.2 to', dbell := movedAddr q.dbell r.1 r.2 to' } }
    svc := { s.svc with spare := s.svc.spare + 1, forward := s.svc.forward ++ [(r.1, r.2, to')] } }

/-- A frame whose retirement is under way moves once nothing is on its way to the page; held writes then go on.
(DEDUCED, log 53) -/
def State.goOnFrame (s : State) (f : BitVec 28) : State :=
  let r := s.frameRegion f
  match s.svc.retiringFrames.find? fun p => p.1 == f with
  | some (_, by') =>
    if s.regionQuiet r.1 r.2 then
      let s := s.moveFrame f
      let s := { s with svc := { s.svc with
        retiringFrames := s.svc.retiringFrames.filter fun p => p.1 != f
        retiredFrames := s.svc.retiredFrames ++ [f] } }
      let u := placeUnit (f.toNat * 0x10000)
      (((s.addLog 1 0x06 u.1 u.2 (f.toNat * 0x10000)).pumpAll).serving by').respond 0x132 stDone []
    else s
  | none => s

/-- RETIRE_HBM_FRAME: writes to the page are held; once none is on its way the page moves, the frame is retired,
and held writes go on (R247, R368). A second request for the frame is answered busy. (DESIGN CHOICE, log 53) -/
def retireFrame (s : State) (f : BitVec 28) : State :=
  match placeOf (f.toNat * 0x10000) with
  | .stack _ =>
    if s.svc.retiringFrames.any fun p => p.1 == f then s.respond 0x132 stBusy []
    else State.goOnFrame { s with svc := { s.svc with
      retiringFrames := s.svc.retiringFrames ++ [(f, s.svc.asker)] } } f
  | _ => s.respond 0x132 stMalformed []

/-- RETIRE_HBM_FRAME, code 0x132 (R368). -/
def execRetireHbmFrame (s : State) : Host.Outcome State Fault Refusal :=
  event (match s.occ with
    | .num f => s.goOnFrame (BitVec.ofNat 28 f)
    | _ => s.request 0x132 fun s => match s.occ with
      | .frame f => retireFrame s f
      | _ => s)

/-! ### Draining and restoring a die (R361, R368) -/

/-- The cores of a die that hold something. -/
def State.busyCores (s : State) (die : BitVec 2) : List Core :=
  (s.core :: s.parked).filter fun c => coreDie c.id == die && !(s.coreQuiet c.id)

/-- A queue's save area, with the images in it, moves to reserved memory of another die (R368; DESIGN CHOICE, log 8). -/
def State.moveSave (s : State) (q : Queue) : State :=
  let to' := (Config.reservedFrame s.svc.spare).toNat * 0x10000
  let s := (s.copyRegion q.save (q.nsave * saveSlotSize) to').updQueue q.qid fun q => { q with save := to' }
  { s with svc := { s.svc with spare := s.svc.spare + 1 } }

/-- A die's queues with their save images, and the tasks in its pool and chain, go to another die (R368). -/
def State.moveQueues (s : State) (die dest : BitVec 2) : State :=
  let pool := s.pool die ++ s.chain die
  let mine := s.sched.queues.filter fun q => q.die == die
  let shift (q : Queue) : Queue :=
    if q.die = die then { q with die := dest, qst := if q.qst = .closed then .closed else .unbound } else q
  let s := { s with sched := { s.sched with queues := s.sched.queues.map shift } }
  let s := mine.foldl State.moveSave ((s.updPool die fun _ => []).updChain die fun _ => [])
  let s := mine.foldl (fun (s : State) q =>
    if q.head != q.tail || pool.any fun e => e.queue == q.qid then s.bindQueue q.qid else s) s
  pool.foldl (fun (s : State) e => s.poolPush dest e) s

/-- A die is power-gated: its cores lose what they hold, a scratchpad serves no context, and its engines' caches are
empty (R368). Its stacks, routers and gateways go on, for pages of other dies lie there (DESIGN CHOICE, log 53). -/
def State.gateDie (s : State) (die : BitVec 2) : State :=
  let off (c : Core) : Core := if coreDie c.id = die then { keptCore c with nextId := c.nextId } else c
  { s with
    core := off s.core, parked := s.parked.map off
    caches := s.caches.filter fun c => match c.unit with
      | .engine core => coreDie core != die
      | .couch _ => true }

/-- A drain under way ends once the die is quiet: its queues move, and it is power-gated. -/
def State.goOnDrain (s : State) (die : BitVec 2) : State :=
  match s.svc.draining.find? fun p => p.1 == die with
  | some (_, dest, by') =>
    if (s.busyCores die).isEmpty then
      let s := { s with svc := { s.svc with draining := s.svc.draining.filter fun p => p.1 != die } }
      ((((s.moveQueues die dest).gateDie die).addLog 9 0x04 die 0 die.toNat).serving by').respond 0x133 stDone []
    else s
  | none => s

/-- DRAIN_DIE: bindings are refused and tasks freeze; when the die is quiet its queues move and it is off. A die that
is draining or drained is answered busy or malformed, and so is a destination that is off. (DESIGN CHOICE, log 53) -/
def drainDie (s : State) (die dest : BitVec 2) : State :=
  if s.svc.draining.any fun p => p.1 == die then s.respond 0x133 stBusy []
  else if die = dest ∨ s.svc.drained.contains dest ∨ s.svc.drained.contains die then s.respond 0x133 stMalformed []
  else
    let s := { s with svc := { s.svc with
      drained := die :: s.svc.drained, draining := s.svc.draining ++ [(die, dest, s.svc.asker)] } }
    ((s.busyCores die).foldl (fun (s : State) c => s.askCore c.id) s).goOnDrain die

/-- DRAIN_DIE, code 0x133 (R368). -/
def execDrainDie (s : State) : Host.Outcome State Fault Refusal :=
  event (match s.occ with
    | .die d => s.goOnDrain d
    | _ => s.request 0x133 fun s => match s.occ with
      | .drain die dest => drainDie s die dest
      | _ => s)

/-- RESTORE_DIE: a drained die serves again (R361). -/
def restoreDie (s : State) (die : BitVec 2) : State :=
  if s.svc.drained.contains die && !(s.svc.draining.any fun p => p.1 == die) then
    let s := { s with svc := { s.svc with drained := s.svc.drained.filter fun d => d != die } }
    (s.addLog 9 0x05 die 0 die.toNat).respond 0x134 stDone []
  else s.respond 0x134 stMalformed []

/-- RESTORE_DIE, code 0x134 (R361). -/
def execRestoreDie (s : State) : Host.Outcome State Fault Refusal :=
  event (s.request 0x134 fun s => match s.occ with
    | .die d => restoreDie s d
    | _ => s)

/-! ### The life cycle (R364) -/

/-- Wipes scratchpads, accumulators and stack memory (R359 step 2). -/
def State.wipe (s : State) : State :=
  let clear (c : Core) : Core := { c with acc := [], poisonedBanks := 0, poisonedWords := [] }
  { s with
    mem := [], poisoned := [], unrefreshed := [], core := clear s.core, parked := s.parked.map clear }

/-- The table of R364: the state a request leads to. -/
def lifeNext (now : Life) (target : BitVec 8) : Option Life :=
  match now, target.toNat with
  | .blank, 1 | .returned, 1 => some .provisioned
  | .provisioned, 2 => some .deployed
  | .deployed, 3 => some .returned
  | _, _ => none

/-- The public key that must have signed a request which leads to a state: Meloz's; the credential that the request
itself brings; the operator's that the module holds (R364). (DEDUCED, log 51) -/
def Service.lifeKey (v : Service) (to' : Life) (credential : List Byte) : List Byte :=
  match to' with
  | .provisioned | .blank => bytesOfNat 57 Config.melozKey
  | .deployed => credential
  | .returned => v.credential

/-- The service after the change: provisioning gives the module an identity key, deployment the operator's
credential, and a return erases both (R364). -/
def Service.lifeMoved (v : Service) (to' : Life) (credential : List Byte) (free : Nat) : Service :=
  match to' with
  | .provisioned | .blank => { v with life := to', identity := some free }
  | .deployed => { v with life := to', credential }
  | .returned => { v with life := to', identity := none, credential := [] }

/-- The bytes of a life-cycle payload that its signature covers (R362). -/
def lifePayload (target : BitVec 8) (credential : List Byte) : List Byte :=
  bytesOfNat 1 target.toNat ++ bytesOfNat 3 0 ++ bytesOfNat 4 credential.length ++ credential
    ++ List.replicate (padOf credential.length) 0

/-- LIFE_CYCLE_CHANGE: the fused state moves as the table gives, with a wipe (R364). (DEDUCED, log 51) -/
def lifeChange (s : State) (target : BitVec 8) (credential sig : List Byte) : State :=
  if !s.contexts.isEmpty then s.respond 0x140 stNotPermitted []
  else match lifeNext s.svc.life target with
    | none => s.respond 0x140 (if 1 ≤ target.toNat ∧ target.toNat ≤ 3 then stNotPermitted else stMalformed) []
    | some l =>
      if edVerify (s.svc.lifeKey l credential) (shake256 (lifePayload target credential)) sig then
        let s := s.wipe
        State.respond { s with free := s.free + 1, svc := s.svc.lifeMoved l credential s.free } 0x140 stDone []
      else s.respond 0x140 stUnverified []

/-- LIFE_CYCLE_CHANGE, code 0x140 (R364). (DEDUCED, log 51) -/
def execLifeCycleChange (s : State) : Host.Outcome State Fault Refusal :=
  event (s.request 0x140 fun s => match s.occ with
    | .life target cred sig => lifeChange s target cred sig
    | _ => s)

/-! ### Power and cooling (R367, R369) -/

/-- Logs a power event: the clock in MHz and the hottest sensor, whose reading is the sensor's (DESIGN CHOICE, log 3).
-/
def State.logPower (s : State) (code : BitVec 8) : State :=
  State.addLog { s with free := s.free + 1 } 8 code 0 0
    (s.svc.clock + 2 ^ 16 * ((Config.freeValue 28 s.free).toNat % 2 ^ 16))

/-- CLOCK_STEP_DOWN: 125 MHz down, to no lower than 1.5 GHz; at that floor the cap is logged (R369).
(DEDUCED, log 52) -/
def execClockStepDown (s : State) : Host.Outcome State Fault Refusal :=
  awake s (if 1500 + 125 ≤ s.svc.clock then
      State.logPower { s with svc := { s.svc with clock := s.svc.clock - 125 } } 0x01
    else s.logPower 0x04)

/-- CLOCK_STEP_UP: 125 MHz up, to no higher than 2.25 GHz (R367). (DEDUCED, log 52) -/
def execClockStepUp (s : State) : Host.Outcome State Fault Refusal :=
  awake s (if s.svc.clock + 125 ≤ 2250 then
      State.logPower { s with svc := { s.svc with clock := s.svc.clock + 125 } } 0x02
    else s)

/-- Every core of the module is quiet. -/
def State.allQuiet (s : State) : Bool := (s.core :: s.parked).all fun c => s.coreQuiet c.id

/-- COOLANT_FLOW_LOST: every task is asked to freeze and the event is logged; once all have stopped the module
holds in reset (R369). (DEDUCED, log 52) -/
def loseCoolant (s : State) : State :=
  let s := if s.svc.coolantLost then s
    else
      let s := State.logPower { s with svc := { s.svc with coolantLost := true } } 0x03
      (s.core :: s.parked).foldl (fun (s : State) c => s.askCore c.id) s
  if s.allQuiet then { s with svc := { s.svc with holdReset := true } } else s

/-- COOLANT_FLOW_LOST (R369). (DEDUCED, log 52) -/
def execCoolantFlowLost (s : State) : Host.Outcome State Fault Refusal := awake s (loseCoolant s)

/-! ### A route again (R373) -/

/-- The down ports toward a module of which at least one is up again; which ones is open (DESIGN CHOICE, log 3).
(DEDUCED, log 54) -/
def State.returning (s : State) (m : BitVec 12) : List (BitVec 4) :=
  let l := (((s.fab.routes.find? fun r => r.1 == m).map (·.2)).getD []).filter fun p =>
    !((s.fab.links[p.toNat]'(p.isLt)).up)
  let pick := l.filter fun p => (Config.freeValue 24 s.free).getLsbD p.toNat
  if pick.isEmpty then l.take 1 else pick

/-- ROUTE_EXISTS_AGAIN: ports toward a module carry traffic again, and the modules they reach are reachable
(R340, R373). (DEDUCED, log 54) -/
def routeAgain (s : State) (m : BitVec 12) : State :=
  let s := (s.returning m).foldl (fun (s : State) p => s.updLink p fun _ => LinkState.reset)
    { s with free := s.free + 1 }
  { s with svc := { s.svc with unreachable := s.svc.unreachable.filter fun d => (s.routePorts d).isEmpty } }

/-- ROUTE_EXISTS_AGAIN (R373). -/
def execRouteExistsAgain (s : State) : Host.Outcome State Fault Refusal :=
  awake s (match s.occ with
    | .peer m => routeAgain s m
    | _ => s)

end Sys2Proof.Machine
end

