-- ==== Sys2Proof/Machine/Matrix.lean ====
section
/-! DEFINITION. The MX slot: weight latches, streams, drains and the scoreboard (R144 to R163), with the
completions of its operations. -/

namespace Sys2Proof.Machine

open Sys2Proof

/-! ### Operands (R46, R146 to R148) -/

/-- A scale register's scale; `s0` means 1.0 (R149, R153, R158). -/
def mxScale (f : MxF) (c : Core) : Word32 := if f.scl = 0 then 0x3F800000 else (c.rs f.scl).setWidth 32
/-- MDRAINT's second scale, in bits 63:32 (R159). -/
def mxScale2 (f : MxF) (c : Core) : Word32 := if f.scl = 0 then 0x3F800000 else bits (c.rs f.scl) 32 32

/-- The element of a tile's logical grid as the array reads it (R147, R148). -/
def State.tileElem (s : State) (t : BitVec 7) (tr : Bool) (r col : Nat) : Code :=
  let e := s.core.tile t
  s.rawElem s.core.id (TileE.bitAddr e tr r col) (TileE.width e)

/-- A weight of a latch as a value: past `kel` an exact zero, a C4 code its codebook entry (R44, R149). -/
def Latch.value (w : Latch) (k j : Nat) : XR :=
  if w.kel ≤ k then .fin 0 false
  else
    let x : Code := (Sparse.get 0 w.w (48 * k + j)).setWidth 64
    if w.fmt = 7 then decodeFp .bf16 (cbEntry w.cb x.toNat)
    else decodeFp ((Fmt.ofCode w.fmt.toNat).getD .bf16) x

/-! ### Operations in flight (R156) -/

/-- An MX operation starts: its busy bits stand until it completes. -/
def State.startMx (s : State) (kind : MxKind) (bank : BitVec 5) (band : Nat × Nat) (aligned : Bool)
    (reads writes drains : List (BitVec 7)) (bytes : List (Nat × Byte)) (flags : Flags) (sums : AccBlock) : State :=
  s.onCore fun c => { c with
    mx := c.mx ++ [⟨c.nextId, kind, bank, band.1, band.2, aligned, reads, writes, drains, bytes, flags, sums⟩]
    nextId := c.nextId + 1 }

/-- The block of an operation that reads no accumulator word. -/
def noBlock : AccBlock := ⟨0, 0, 0, 0⟩

/-- A latch operation starts. -/
def State.startLatch (s : State) (reads writes : List (BitVec 7)) (bytes : List (Nat × Byte)) : State :=
  s.startMx .latch 0 (0, 0) false reads writes [] bytes 0 noBlock

/-! ### Weight latches (R149 to R152) -/

/-- The image MLDW leaves in `wb1`: C4 keeps the latch's codebook (R149). (DEDUCED, log 25) -/
def loadLatch (f : MxF) (s : State) : Latch :=
  let old := s.core.wb1
  { valid := true, kel := kel f, fmt := f.fmt, scale := mxScale f s.core
    cb := if f.fmt = 7 then old.cb else 0
    w := Sparse.setAll 0 [] ((List.range (kel f)).flatMap fun k => (List.range 48).map fun j =>
      (48 * k + j, (s.tileElem f.tile f.tr k j).setWidth 16)) }

/-- A nibble of the scratchpad, by its bit address, after elements have been set: the last one set there, or the nibble
that stands there. -/
def State.nibbleAfter (s : State) (l : List (Nat × Code)) (bit : Nat) : Nat :=
  match lastOf l bit with
  | some x => x.toNat % 16
  | none => (s.peek (spadBase s.core.id + bit / 8)).toNat / 2 ^ (bit % 8) % 16

/-- Bytes that set elements of width `w` at bit addresses; neighbours of a nibble are kept. -/
def State.elemBytes (s : State) (w : Nat) (l : List (Nat × Code)) : List (Nat × Byte) :=
  l.flatMap fun p =>
    if w = 4 then
      let a := p.1 / 8
      [(a, BitVec.ofNat 8 (s.nibbleAfter l (8 * a) + 16 * s.nibbleAfter l (8 * a + 4)))]
    else cellsFrom (p.1 / 8) (bytesOfNat (w / 8) p.2.toNat)

/-- MLDWT's copy: logical (j, k) of TILE2 receives w[k][j] (R150). -/
def copyBytes (f : MxF) (s : State) : List (Nat × Byte) :=
  let e := s.core.tile f.tile2
  s.elemBytes (TileE.width e) ((List.range (kel f)).flatMap fun k => (List.range 48).map fun j =>
    (TileE.bitAddr e false j k, s.tileElem f.tile f.tr k j))

/-- MLDW (R149). -/
def execMldw (f : MxF) (s : State) : Host.Outcome State Fault Refusal :=
  issue (.mldw f) (fun s =>
    (s.onCore fun c => { c with wb1 := loadLatch f s }).startLatch [f.tile] [] []) s

/-- MLDWT: MLDW and the transposed copy (R150). -/
def execMldwt (f : MxF) (s : State) : Host.Outcome State Fault Refusal :=
  issue (.mldwt f) (fun s =>
    (s.onCore fun c => { c with wb1 := loadLatch f s }).startLatch [f.tile] [f.tile2] (copyBytes f s)) s

/-- MSWAP (R17, R151). -/
def execMswap (f : MxF) (s : State) : Host.Outcome State Fault Refusal :=
  issue (.mswap f) (fun s =>
    (s.onCore fun c => { c with wb0 := c.wb1, wb1 := c.wb0 }).startLatch [] [] []) s

/-- MCBL: codebook `cbN` into `wb1`'s (R151). -/
def execMcbl (f : MxF) (s : State) : Host.Outcome State Fault Refusal :=
  issue (.mcbl f) (fun s =>
    (s.onCore fun c => { c with wb1 := { c.wb1 with cb := c.rcb (f.tile.setWidth 3) } }).startLatch [] [] []) s

/-- MCLR (R151). -/
def execMclr (f : MxF) (s : State) : Host.Outcome State Fault Refusal :=
  issue (.mclr f) (fun s =>
    (s.onCore fun c => { c with wb0 := Latch.cleared, wb1 := Latch.cleared }).startLatch [] [] []) s

/-! ### Streams (R57, R153, R154) -/

/-- sum(i, j) of a stream ow its K slice, scaled; none when a scale breaks R46. -/
def streamSum (f : MxF) (s : State) (i j : Nat) : Option XR :=
  let w := s.core.wb0
  let sa := mxScale f s.core
  if scaleOk sa && scaleOk w.scale then
    let fmt := (Fmt.ofCode f.fmt.toNat).getD .bf16
    some (((List.range (kel f)).foldl (fun a k =>
      XR.add .rne a ((decodeFp fmt (s.tileElem f.tile f.tr i k)).mul (w.value k j))) (.fin 0 false)).divQ
        (scaleVal sa * scaleVal w.scale))
  else none

/-- An accumulator element after a stream adds to it, rounded once to FP32 with RNE (R57). (DEDUCED, log 22)
A VAM write withheld in its own group is not seen (R142; DEDUCED, log 62). -/
def streamElem (f : MxF) (s : State) (ow : Bool) (i j key : Nat) : Word32 × Flags :=
  match streamSum f s i j with
  | none => (0x7FC00000, Flags.nv)
  | some x =>
    let old := if ow then .fin 0 false else decodeFp .f32 ((s.core.accRaw key).setWidth 64)
    let r := roundFp (envRne true) .f32 (XR.add .rne old x)
    (r.1.setWidth 32, r.2)

/-- Accumulator elements written, with flags. -/
def accApply (l : List (Nat × (Word32 × Flags))) (c : Core) : Core :=
  c.setAcc (l.map fun p => (p.1, p.2.1))

/-- Flags of the elements written. -/
def accFlags (l : List (Nat × (Word32 × Flags))) : Flags := l.foldl (fun a p => a ||| p.2.2) 0

/-- The elements a stream writes: acc[ROW + i][j], or acc[ROW + j][i] (R153, R154). -/
def streamCells (f : MxF) (ow trans : Bool) (s : State) : List (Nat × (Word32 × Flags)) :=
  (List.range (mxRows f)).flatMap fun i => (List.range 48).map fun j =>
    let key := if trans then accKey f.bank (f.row.toNat + j) i else accKey f.bank (f.row.toNat + i) j
    (key, streamElem f s ow i j key)

/-- A stream: its writes are applied in issue order, and its flags when it completes (R54, R155). -/
def streamStart (f : MxF) (ow trans : Bool) (s : State) : State :=
  let l := streamCells f ow trans s
  (s.onCore (accApply l)).startMx .accWrite f.bank
    (bandOf f.row.toNat (if trans then 48 else mxRows f)) false [f.tile] [] [] [] (accFlags l)
    (if ow then noBlock else sumBlock f trans)

/-- MMUL (R153). -/
def execMmul (f : MxF) (s : State) : Host.Outcome State Fault Refusal :=
  issue (.mmul f) (streamStart f false false) s

/-- MMULZ: the prior value counts as 0 (R153). -/
def execMmulz (f : MxF) (s : State) : Host.Outcome State Fault Refusal :=
  issue (.mmulz f) (streamStart f true false) s

/-- MMULT: into the transposed position (R154). -/
def execMmult (f : MxF) (s : State) : Host.Outcome State Fault Refusal :=
  issue (.mmult f) (streamStart f false true) s

/-- MZERO: +0 in all columns of the rows (R155). -/
def zeroRows (f : MxF) (s : State) : State :=
  let lo := accKey f.bank f.row.toNat 0
  let hi := accKey f.bank (f.row.toNat + mxRows f) 0
  (s.onCore fun c => { c with
    acc := Sparse.clear (fun k => decide (lo ≤ k) && decide (k < hi)) c.acc
    poisonedWords := c.poisonedWords.filter fun k => !(decide (lo ≤ k) && decide (k < hi)) }).startMx
    .accWrite f.bank (bandOf f.row.toNat (mxRows f)) false [] [] [] [] 0 noBlock

/-- MZERO (R155). -/
def execMzero (f : MxF) (s : State) : Host.Outcome State Fault Refusal := issue (.mzero f) (zeroRows f) s

/-! ### Drains (R158 to R160) -/

/-- One accumulator element quantised into a drain format (R158). (DEDUCED, log 34) -/
def drainElem (fpc : BitVec 13) (t : Fmt) (k : Word32) (x : Word32) : Code × Flags :=
  if t = .f32 then (x.setWidth 64, 0)
  else if !(scaleOk k) then badScale t
  else
    let y := (decodeFp .f32 (x.setWidth 64)).mulQ (scaleVal k)
    convertExact (envNoFlush fpc) t y

/-- The elements a drain writes into a tile: logical (i, j), or (j, i) for the transposed copy. -/
def drainCells (f : MxF) (t : BitVec 7) (k : Word32) (trans : Bool) (s : State) :
    List (Nat × (Code × Flags)) :=
  let e := s.core.tile t
  (List.range (mxRows f)).flatMap fun i => (List.range 48).map fun j =>
    (if trans then TileE.bitAddr e false j i else TileE.bitAddr e false i j,
      drainElem s.core.fpc (TileE.fmt e) k (s.core.accRaw (accKey f.bank (f.row.toNat + i) j)))

/-- The bytes and flags of a drain into one tile. -/
def drainInto (f : MxF) (t : BitVec 7) (k : Word32) (trans : Bool) (s : State) :
    List (Nat × Byte) × Flags :=
  let l := drainCells f t k trans s
  (s.elemBytes (TileE.width (s.core.tile t)) (l.map fun p => (p.1, p.2.1)),
    l.foldl (fun a p => a ||| p.2.2) 0)

/-- A drain starts: its tiles go to draining, PTOK 0 (R21, R158). -/
def drainStart (f : MxF) (tiles : List (BitVec 7)) (b : List (Nat × Byte) × Flags) (s : State) : State :=
  let s := s.onCore fun c => tiles.foldl (fun c t => c.setTile t TileE.draining 0) c
  s.startMx .drain f.bank (bandOf f.row.toNat (mxRows f)) (f.row.toNat % 8 == 0 && mxRows f % 8 == 0)
    [] [] tiles b.1 b.2 (sumBlock f false)

/-- MDRAIN (R158). -/
def execMdrain (f : MxF) (s : State) : Host.Outcome State Fault Refusal :=
  issue (.mdrain f) (fun s =>
    drainStart f [f.tile] (drainInto f f.tile (mxScale f s.core) false s) s) s

/-- MDRAINT: a second copy, transposed and quantised on its own (R159). -/
def execMdraint (f : MxF) (s : State) : Host.Outcome State Fault Refusal :=
  issue (.mdraint f) (fun s =>
    let a := drainInto f f.tile (mxScale f s.core) false s
    let b := drainInto f f.tile2 (mxScale2 f s.core) true s
    drainStart f [f.tile, f.tile2] (a.1 ++ b.1, a.2 ||| b.2) s) s

/-! ### Fence, status, no-op (R161, R162) -/

/-- MNOP (R63). -/
def execMnop (s : State) : Host.Outcome State Fault Refusal := issue .mnop id s

/-- MFENCE: it holds its group until earlier MX operations have completed, and changes nothing (R161). -/
def execMfence (f : MxF) (s : State) : Host.Outcome State Fault Refusal := issue (.mfence f) id s

/-- The status word of a bank (R162). -/
def mxStatus (c : Core) (bank : BitVec 5) : Word :=
  let busy := if c.owns bank then
      (List.range 16).foldl (fun (a : Nat) b =>
        a + (if c.bandWriteBit bank b b || c.bandReadBit bank b b then 2 ^ b else 0)) 0
    else 0
  let ndr := (c.mx.filter fun o => o.kind == .drain).length
  c.own ++ c.wb1.fmt ++ c.wb0.fmt ++ BitVec.ofBool c.wb1.valid ++ BitVec.ofBool c.wb0.valid
    ++ BitVec.ofNat 4 ndr ++ 0#4 ++ BitVec.ofNat 16 busy

/-- MSTAT (R162). -/
def execMstat (f : MxF) (s : State) : Host.Outcome State Fault Refusal :=
  issue (.mstat f) (fun s => s.result (.mstat f) (.s f.scl (mxStatus s.core f.bank))) s

/-! ### Completions (R54, R163) -/

/-- An operation of the array completes: its bytes are written, its flags reach FPC, its busy bits clear, its
arrivals are made and the stores it held are released. (DEDUCED, log 22) -/
def State.finishMx (s : State) (o : MxOp) : State :=
  let s := s.store (o.bytes.map fun b => (spadBase s.core.id + b.1, b.2))
  let s := s.onCore fun c =>
    let c : Core := { c with
      mx := c.mx.filter fun p => p.id != o.id
      fpc := orFpc c.fpc o.flags
      shadow := { c.shadow with fpc := orFpc c.shadow.fpc o.flags } }
    let c := o.drains.foldl (fun c t => c.setTile t TileE.ready 0) c
    (c.retire (.mx o.id)).takeTiles
  (s.releaseStores).makeArrivals

/-- An MX operation that is not a drain, by the number the occurrence names. -/
def mxComplete (drain : Bool) (s : State) : State :=
  match s.occ with
  | .num n =>
    match s.core.mx.find? fun o => o.id == n && (o.kind == .drain) == drain with
    | some o => s.finishMx o
    | none => s
  | _ => s

/-- MX operation complete (R163). -/
def execMxOperationComplete (s : State) : Host.Outcome State Fault Refusal := event (mxComplete false s)

/-- Drain complete: its tiles become ready (R21, R163). -/
def execDrainComplete (s : State) : Host.Outcome State Fault Refusal := event (mxComplete true s)

end Sys2Proof.Machine
end

