-- ==== Sys2Proof/Machine/Stacks.lean ====
section
/-! DEFINITION. Events of the stacks and of the memories' error correction: patrol scrub and refresh
management (R230, R231, R236, R367). -/

namespace Sys2Proof.Machine

open Sys2Proof

/-- Accumulator words as the scrub names them: a core's banks lie from here on, 2^20 bytes a core and 24576
bytes a bank (DESIGN CHOICE, log 17). -/
def accScrubBase : Nat := 0x10200000000

/-- Bundles of a core's instruction store as the scrub names them: from here on, 2^20 bytes a core and 64
bytes a bundle (DESIGN CHOICE, log 17). -/
def codeScrubBase : Nat := 0x10300000000

/-- DETAIL of an SRAM event: memory and byte offset (R367). (DESIGN CHOICE, log 17) -/
def sramDetail (mem off : Nat) : Nat := mem * 2 ^ 54 + off % 2 ^ 22

/-- Logs a memory event at an address the scrub names. (DEDUCED, log 55) -/
def State.logMemory (s : State) (a : Nat) (stackCode sramCode : BitVec 8) : State :=
  if accScrubBase ≤ a ∧ a < codeScrubBase then
    let o := a - accScrubBase
    let core := BitVec.ofNat 10 (o / 2 ^ 20)
    s.addLog 1 sramCode (coreDie core) (bits core 0 8) (sramDetail 1 (o % 2 ^ 20))
  else s.logUnit a stackCode sramCode

/-- An accumulator word becomes poisoned; with an operation of the array in flight that reads it, the whole bank
(R236). -/
def Core.poisonAcc (c : Core) (o : Nat) : Core :=
  if c.mx.any fun m => m.sums.holds m.bank (o / 4) then { c with poisonedBanks := c.poisonedBanks ||| (1 <<< (o / 24576)) }
  else { c with poisonedWords := o / 4 :: c.poisonedWords.filter fun k => k != o / 4 }

/-- The unit at an address becomes poisoned: a line, a scratchpad word, or an accumulator word (R236).
(DEDUCED, log 55, log 59) -/
def State.poisonAt (s : State) (a : Nat) : State :=
  if accScrubBase ≤ a ∧ a < codeScrubBase then
    let o := a - accScrubBase
    s.updCore (BitVec.ofNat 10 (o / 2 ^ 20)) fun c => c.poisonAcc (o % 2 ^ 20)
  else { s with poisoned := poisonUnit a :: s.poisoned.filter fun u => u != poisonUnit a }

/-- An error in a bundle of the instruction store: logged; an uncorrectable one rolls the task back, and the
service reloads the code object before the task runs on (R236). -/
def State.bundleError (s : State) (a : Nat) (lost : Bool) : State :=
  let o := a - codeScrubBase
  let core := BitVec.ofNat 10 (o / 2 ^ 20)
  let s := s.addLog 1 (if lost then 0x08 else 0x07) (coreDie core) (bits core 0 8) (sramDetail 2 (o % 2 ^ 20 / 64))
  if lost && (s.findCore core).task.isSome then
    (s.updCore core fun c => if c.mode = .running then c.rollback else c).loadStore core
  else s

/-- PATROL_SCRUB: a line or word is visited, corrected and logged, or poisoned and logged; an error that a read
met and corrected is told here too (R230, R236; DEDUCED, log 55). -/
def execPatrolScrub (s : State) : Host.Outcome State Fault Refusal :=
  awake s (match s.occ with
    | .scrub line found =>
      if codeScrubBase ≤ line.toNat then
        (match found with
         | .clean => s
         | .corrected | .readCorrected => s.bundleError line.toNat false
         | .uncorrectable => s.bundleError line.toNat true)
      else (match found with
       | .clean => s
       | .corrected => s.logMemory line.toNat 0x03 0x07
       | .readCorrected => s.logMemory line.toNat 0x01 0x07
       | .uncorrectable => (s.poisonAt line.toNat).logMemory line.toNat 0x04 0x08)
    | _ => s)

/-- The address of a row's first line: in its stack, and on its pseudo-channel (R227). Which granule comes first in a
row is the base die's own (DESIGN CHOICE, log 3). -/
def Row.firstLine (r : Row) : Nat :=
  let v := Config.rowLine r.pc r.bank r.row
  r.stack.toNat * 0x2000000000 + v / 64 % 38146 * 2 ^ 21 + v % 64 * 2 ^ 15 + (v % 64).xor r.pc.toNat * 2 ^ 9

/-- REFRESH_MANAGEMENT: the row's count has reached 2048 in a refresh window and is cleared; when it was cleared before
in that window, an alert is raised, which the service logs with the row's first line (R231, R367). -/
def execRefreshManagement (s : State) : Host.Outcome State Fault Refusal :=
  awake s (match s.occ with
    | .row stack pc bank row =>
      let r : Row := ⟨stack, pc, bank, row⟩
      let window := Config.refreshWindow stack s.tick
      let again := (rowIn r window s.activations).refreshed
      let t : State := { s with
        activations := ⟨r, 0, true, window⟩ :: s.activations.filter fun x => x.row != r }
      if again then t.addLog 1 0x05 (bits stack 1 2) (stack.setWidth 8) r.firstLine else t
    | _ => s)

end Sys2Proof.Machine
end

