-- ==== Sys2Proof/Machine/Agenda.lean ====
section
/-! DEFINITION. What moves next: the sequencer of a core between its operations, and which agents may
move (R8, R61, R66, R78, R292 to R332, R368). -/

namespace Sys2Proof.Machine

open Sys2Proof

/-- The four dies. -/
def allDies : List (BitVec 2) := [0, 1, 2, 3]

/-! ### The sequencer (R61, R66, R76) -/

/-- What a core does in its next step: an operation in a state, or a state alone. -/
inductive Todo where
  | exec (i : Instr) (s : State)
  | next (s : State)

/-- A requested freeze takes effect at this bundle boundary: not inside a group that has issued an
irrevocable operation, and only with a save slot for every member of the task (R329). -/
def freezeDue (s : State) : Bool :=
  let c := s.core
  c.freeze.isSome && !c.unit
    && (match c.task with
        | some t => ((s.queue? t.queue).map fun q => s.slotsFor q (s.gangCores t).length).getD false
        | none => false)

/-- The groups issued exceed the declared run by more than the grace (R323). (DEDUCED, log 68) -/
def overrunDue (s : State) : Bool :=
  s.core.freeze.isNone && decide (s.core.declared + s.core.ygrace.toNat < s.core.sinceYield)
    && !((s.core.task.map s.gangEnding).getD false)

/-- The operation of the slot that issues; none for one that does not decode. -/
def Core.slotOp (c : Core) : Option Instr :=
  match c.bundle.decode (Slot.all.getD c.slot .sy) with
  | .ok i => some i
  | .error _ => none

/-- The slot that issues, with the arrivals its bundle's control fields select for it (R64). -/
def slotTodo (s : State) : Todo :=
  let c := s.core
  match c.slotOp with
  | some i => .exec i (s.onCore fun d => d.atSlot c.bundle c.slot)
  | none => .next (s.takeTrap ⟨.illegalEncoding, BitVec.ofNat 64 c.slotPos⟩ c.slotPos)

/-- The bundle's checks have passed, and its slots issue one after another. -/
def Core.midBundle (c : Core) : Bool := c.passed || c.slot != 0

/-- What a core does (R8, R61, R66, R69, R209, R323, R329). (DEDUCED, log 68) -/
def runTodo (s : State) : Todo :=
  let c := s.core
  match c.mode with
  | .idle => .exec .dispatch { s with occ := .core c.id }
  | .trapped => .exec .trapRecord { s with occ := .none }
  | .ending => .exec .tendComplete s
  | .switching => .exec .yieldPoint s
  | .running =>
    if c.midBundle then slotTodo s
    else if padvLate c then .exec .phaseLate s
    else if overrunDue s then .exec .overrunFreeze s
    else if freezeDue s then .exec .freezeStop s
    else if c.gpos == 0 && !c.landed then .exec .resultVisible s
    else .exec .stallUntil s

/-- After the last slot the bundle ends: the sequencer moves on, and at STOP the group ends with the
checkpoint or yield point its control fields ask for, or the one of R76 (R65, R66, R74, R76, R78). -/
def endBundle (s : State) : State :=
  let c := s.core
  if c.slot < 9 then s
  else
    let b := c.bundle
    let c : Core := { c.nextBundle with slot := 0, passed := false, gpos := c.gpos + 1, padvWait := none }
    if b.stop then
      { s with
        core := c.endGroup
        agenda := (if b.yld then [.event .yieldPoint (.run b.run)]
          else if b.ckpt || s.core.grpIrrev then [.event .checkpoint .none] else []) ++ s.agenda }
    else { s with core := c }

/-- Time passes: cycles and nanoseconds as the implementation has them (DESIGN CHOICE, log 4). -/
def State.elapse (s : State) : State :=
  { s with
    tick := s.tick + 1
    cyc := s.cyc + BitVec.ofNat 64 (Config.stepCycles s.tick)
    ptb := s.ptb + BitVec.ofNat 64 (Config.stepNanoseconds s.tick) }

/-- The responses to loads whose writes have all been answered leave (R365). -/
def State.releaseLoads (s : State) : State :=
  let due (l : LoadAnswer) : Bool := l.waits.all fun n => (s.msg? n).isNone
  { s with svc := { s.svc with
      loads := s.svc.loads.filter fun l => !(due l)
      responses := s.svc.responses ++ (s.svc.loads.filter due).map (·.resp) } }

/-- Time passes with a step, ready tasks age with it, writes that are no longer held are performed, and loads are
answered (R247, R310, R319, R365). -/
def tock (s : State) : State := (allDies.foldl State.agePool s.elapse).releaseHeld.releaseLoads

/-- What follows an operation of a core. -/
def afterExec : Host.Outcome State Fault Refusal → Host.Outcome State Fault Refusal
  | .next t => .next (tock (endBundle t))
  | r => r

/-! ### Who may move -/

/-- The acts `f` gives for the elements that satisfy `p`. -/
def actsOf {α : Type} (l : List α) (p : α → Bool) (f : α → Act) : List Act := (l.filter p).map f

/-- The same for the elements' positions. -/
def actsAt {α : Type} (l : List α) (p : α → Bool) (f : Nat → Act) : List Act :=
  (l.zipIdx.filter fun x => p x.1).map fun x => f x.2

/-- Every core with something on it. -/
def State.cores (s : State) : List Core := s.core :: s.parked

/-- The acts of a core: its sequencer, its engine, its array, its store buffer. -/
def coreActs (s : State) (c : Core) : List Act :=
  let act (i : Instr) (n : Nat) : Act := .core c.id i (.num n)
  (if c.mode = .idle || c.fetch.isSome then [] else [.run c.id])
    ++ actsOf c.queue (s.canStart c) (fun q => act .engineCommandStart q.id)
    ++ actsOf c.running (fun q => q.pieces.any fun p => s.pieceReady c.id q p)
      (fun q => act .engineCommandStart q.id)
    ++ actsOf c.running (s.finished c.id) (fun q => act .engineCommandComplete q.id)
    ++ actsOf c.running (fun q => q.stopped && !q.inFlight && !q.faults.isEmpty) (fun q => act .engineFault q.id)
    ++ actsOf c.running (fun q => q.stopped && q.faults.isEmpty && c.mode != .idle
        && s.faultAnswer c.id q q.status != .wait) (fun q => act .faultRestart q.id)
    ++ actsOf c.queue (fun q => s.lacksBlock q && s.startable c q
        && decide (256 * q.rb.toNat + 1000000 ≤ s.ptb.toNat)) (fun q => act .lxredLandingTimeout q.id)
    ++ actsOf c.mx (fun _ => true)
      (fun o => act (if o.kind = .drain then .drainComplete else .mxOperationComplete) o.id)
    ++ (match c.releasing with
        | e :: _ => if c.storeBlocked e then [] else [.core c.id .withheldStoreRelease .none]
        | [] => [])

/-- The event that ends a message of an operation. -/
def NetOp.endEvent : NetOp → Instr
  | .readReq => .netReadRequest | .readResp => .netReadResponse | .write => .netWrite
  | .writeAck => .netWriteAcknowledgement | .merge => .mergeableAtMemoryOperation
  | .atResp => .atMemoryResponse | .atomic => .unmergeableAtMemoryOperation
  | .paramReq => .parameterRequest | .paramResp => .parameterResponse | .counter => .counterDecrement
  | .control => .serviceControl

/-- A parameter request its pan unit does not answer yet. -/
def State.paramWaits (s : State) (m : Msg) : Bool :=
  m.op == .paramReq && !m.final.isTrepin && match m.packet with
    | some p => s.packetParks m p
    | none => !m.psn && match s.paramAt m with
      | .wait => true
      | .answer _ _ _ => false

/-- The die's network has something to do: flits on it or in its stores, or throttle windows to count down (R299). -/
def State.netBusy (s : State) (d : BitVec 2) : Bool :=
  (s.net.flits.any fun f => f.src.die == d) || (s.net.store.any fun f => f.src.die == d)
    || (s.net.routers[d.toNat]'(d.isLt)).any fun r => r.level != 0 || r.count != 0

/-- A message that has come to its end and is the next to be served there (R228, R263, R351). -/
def State.ends (s : State) (m : Msg) : Bool :=
  m.arrived && m.dst == m.final && s.turn m && !(s.paramWaits m) && (s.unreplicated m.id).isNone

/-- The acts of the on-die networks (R292, R294, R296, R297, R307). -/
def netActs (s : State) : List Act :=
  actsOf allDies s.netBusy (fun d => .event .routerCycle (.die d))
    ++ actsAt s.net.credits (fun _ => true) (fun n => .event .creditReturn (.num n))
    ++ actsOf s.net.msgs s.ends (fun m => .event m.op.endEvent (.num m.id))
    ++ actsOf s.net.msgs (fun m => m.atUcie && s.moduleNext m) (fun m => .event .ucieMessage (.num m.id))
    ++ actsOf s.net.msgs s.accessLate (fun m => .event .accessTimeout (.num m.id))
    ++ actsOf s.activations (fun r => decide (2048 ≤ r.count))
      (fun r => .event .refreshManagement (.row r.row.stack r.row.pc r.row.bank r.row.row))

/-- The acts of the fabric (R343, R346, R348, R350, R351, R354). -/
def fabActs (s : State) : List Act :=
  actsOf (s.fab.arrived.map (·.packet)) (fun p => !(s.packetWaits p)) (fun p => .event (s.packetEvent p) (.packet p))
    ++ actsOf s.net.msgs (fun m => (s.unreplicated m.id).isSome)
      (fun m => .event .multicastReplication (.num m.id))
    ++ actsOf s.fab.writes (fun w => !(s.groupBusy w.g)) (fun w => .event .multicastGroupWrite (.group w.g w.valid w.dests))
    ++ actsOf s.net.msgs (fun m => m.pid.isSome && decide (200000 ≤ s.waited m))
      (fun m => .event .fabricTimeout (.num m.id))
    ++ actsAt s.fab.refused (fun r => r.landing && s.retryDue r) (fun n => .event .scheduledBlockRetry (.num n))
    ++ actsAt s.fab.refused (fun r => !r.landing && s.retryDue r) (fun n => .event .fenceCountRetry (.num n))
    ++ actsOf s.fab.keys (fun k => !k.send && s.slotReleasable k.peer k.ix)
      (fun k => .event .keySlotRelease (.key k.peer k.ix))

/-- A frame of a dead page that is still refreshed. -/
def State.deadFrame (s : State) (x : Context) : Option (BitVec 28) :=
  x.map.findSome? fun p =>
    if MapE.kind p.entry == 2 && MapE.back p.entry == 5 then
      ((List.range (MapE.size p.entry / 0x10000)).map fun i => MapE.frame p.entry + BitVec.ofNat 28 i).find? fun f =>
        !(s.unrefreshed.contains f) && s.frameDead f
    else none

/-- The acts of a context's couch engine (R232, R245 to R249). -/
def phaseActs (s : State) (x : Context) : List Act :=
  (match x.eng with
   | .diffing =>
     if !x.hasEngine then [.event .couchEngineFree (.context x.asid)]
     else if s.couchStale x then [] else [.event .diffDone (.context x.asid)]
   | .copying => if s.couchBusy x.asid && !x.passLeft then [] else [.event .passEnd (.context x.asid)]
   | .finalPass => if s.heldInFlight then [] else [.event .finalPassDone (.context x.asid)]
   | .cutting => if s.couchBusy x.asid then [] else [.event .cutDone (.context x.asid)]
   | _ => [])
    ++ (if s.oldCommandsDone x then x.mirrors.map fun m => .event .mirroringEnd (.page x.asid m.va) else [])
    ++ (match s.deadFrame x with
        | some f => [.event .deadFrameRefreshStop (.frame f)]
        | none => [])

/-- A pan unit's write to an address is not held (R247). -/
def State.panMay (s : State) (pa : Nat) : Bool := !(s.placeHeld (.phys (8 * pa)))

/-- The acts of the pan units (R265, R268 to R272). -/
def panActs (s : State) : List Act :=
  actsAt s.pan.reports (fun r => s.panMay r.cell) (fun n => .event .normReport (.num n))
    ++ actsAt s.pan.releases (fun r => s.panMay r.1 && s.panMay r.2.2.1) (fun n => .event .releaseFromCell (.num n))
    ++ actsOf s.pan.firing s.panFree (fun pa => .event .panUpdateStart (.num pa))
    ++ actsOf s.pan.recs (fun r => s.panDue r recUpdating) (fun r => .event .updateWritesDone (.num r.pa))
    ++ actsOf s.pan.recs (fun r => s.panDue r recPublishing) (fun r => .event .flip (.num r.pa))

/-- A pending queue of a die can take a slot (R316). -/
def State.slotOpens (s : State) (d : BitVec 2) : Bool :=
  !(s.svc.drained.contains d) && (s.pendingQueue d).isSome
    && ((s.freeSlot d).isSome || (s.boundOn d).any s.queueIdle)

/-- The idle cores that may take a task (R318). -/
def dispatchActs (s : State) : List Act :=
  if s.sched.pools.toList.all List.isEmpty then []
  else actsOf ((List.range 1024).map fun i => BitVec.ofNat 10 i)
    (fun id => (s.findCore id).mode == .idle && (s.taskFor (s.findCore id)).isSome)
    (fun id => .event .dispatch (.core id))

/-- The acts of the scheduler (R313 to R318, R332). -/
def schedActs (s : State) : List Act :=
  actsOf s.sched.queues Queue.canConsume (fun q => .event .hqsConsume (.queue q.qid))
    ++ actsOf allDies s.slotOpens (fun d => .event .slotTakeover (.die d))
    ++ actsOf s.sched.queues (fun q => q.closing && q.qst != .closed && s.queueIdle q)
      (fun q => .event .queueCloseComplete (.queue q.qid))
    ++ actsOf allDies (fun d => (s.chain d).any (s.poolTakes d)) (fun d => .event .poolOverflowEntry (.die d))
    ++ dispatchActs s
    ++ actsOf s.sched.images (fun m => m.handover && s.handoverDone m)
      (fun m => .event .handoverClose (.core m.core.id))

/-- The event that serves a task request. -/
def SvcReq.event (r : SvcReq) : Instr :=
  if r.code = 0x008 then .taskReadCapabilityList
  else if r.code = 0x00A then .attestCallingContext else .taskReadErrorLog

/-- The acts of the service: requests whose turn has come, a firmware switch, and what waits for a core, a frame or a
die (R361, R368, R369). -/
def serviceActs (s : State) : List Act :=
  ((s.svc.requests.zipIdx.filter fun x => !(s.mustWait x.1.stamp (some x.1.asid))).map fun x =>
      .event x.1.event (.num x.2))
    ++ ((s.svc.inbox.zipIdx.filter fun x => !(s.mustWait x.1.stamp x.1.asid)).map fun x =>
      .event (hostEvent x.1.code) (.inbox x.2))
    ++ (match s.svc.update with
        | some u => if s.inProgress u.stamp then [] else [.event .updateFirmwareLive .none]
        | none => [])
    ++ actsOf s.svc.retiring (fun p => s.coreQuiet p.1) (fun p =>
      .event .retireCoreOrPipeline (.core p.1))
    ++ actsOf s.svc.retiringFrames (fun p => s.regionQuiet (s.frameRegion p.1).1 (s.frameRegion p.1).2)
      (fun p => .event .retireHbmFrame (.num p.1.toNat))
    ++ actsOf s.svc.draining (fun p => (s.busyCores p.1).isEmpty) (fun p => .event .drainDie (.die p.1))
    ++ actsOf s.fab.peers (fun p => p.rotating != 0) (fun p => .event .keyExchange (.peer p.id))
    ++ (if s.svc.coolantLost && s.allQuiet then [.event .coolantFlowLost .none] else [])

/-- The agents that may move now. (DESIGN CHOICE, log 1) -/
def candidates (s : State) : List Act :=
  s.cores.flatMap (coreActs s)
    ++ actsAt s.arrivals (arrivalReady s) (fun n => .event .barrierArrival (.num n))
    ++ netActs s ++ fabActs s ++ s.contexts.flatMap (phaseActs s) ++ panActs s ++ schedActs s ++ serviceActs s

/-- The focused core is inside a bundle, and the slot it has come to does not wait, or between two bundles of a group
that issues as a unit (R76). (DESIGN CHOICE, log 5) -/
def goesOn (s : State) : Bool :=
  s.core.mode == .running && s.core.fetch.isNone
    && (if s.core.midBundle then
          (match s.core.slotOp with
           | some i => check i (s.onCore fun d => d.atSlot s.core.bundle s.core.slot) != .wait
           | none => true)
        else decide (0 < s.core.gpos) && s.core.grpIrrev)

/-- The agent that moves, by the implementation's schedule (DESIGN CHOICE, log 5); inside a bundle its core goes on.
(DESIGN CHOICE, log 1, log 76) -/
def State.nextAct (s : State) : Option Act :=
  if goesOn s then some (.run s.core.id)
  else
    let l := candidates s
    l[Config.schedule s.tick % l.length]?

end Sys2Proof.Machine
end

