-- ==== Sys2Proof/Machine/LocalMem.lean ====
section
/-! DEFINITION. The LD and ST slots: the core's own scratchpad (R165 to R170). -/

namespace Sys2Proof.Machine

open Sys2Proof

/-! ### Loads (R166, R167) -/

/-- A vector load: guarded elements from scratchpad bit addresses, with withheld stores applied. -/
def loadGrid (i : Instr) (vd : BitVec 6) (gm : BitVec 4) (addr : Nat → Nat → Nat) (s : State) : State :=
  let g := s.core.grid
  let cells := gridCells g (guarded (s.core.rk gm) false fun r c => (s.spadElem (addr r c) g.w, 0))
  let p := packGrid g.w cells
  s.result i (.v vd p.1 p.2)

/-- LNOP (R63). -/
def execLnop (s : State) : Host.Outcome State Fault Refusal := issue .lnop id s

/-- VLD (R166, R167). -/
def execVld (f : LsF) (s : State) : Host.Outcome State Fault Refusal :=
  issue (.vld f) (fun s =>
    loadGrid (.vld f) f.rg f.gm (fun r c => 8 * lsElemAddr f s.core s.core.grid r c) s) s

/-- VLDT: logical elements of a tile (R169). -/
def execVldt (f : LsF) (s : State) : Host.Outcome State Fault Refusal :=
  issue (.vldt f) (fun s => loadGrid (.vldt f) f.sr f.gm (tileBit f s.core) s) s

/-- The element SLD reads, sign-extended for the integer types (R167). -/
def sldValue (f : LsF) (s : State) : Word :=
  let x := s.spadElem (8 * lsEa f s.core) (8 * lsBytes f)
  if [4, 5, 6].contains f.ty.toNat then BitVec.ofInt 64 (intOf (8 * lsBytes f) x) else x

/-- SLD (R167). -/
def execSld (f : LsF) (s : State) : Host.Outcome State Fault Refusal :=
  issue (.sld f) (fun s => s.result (.sld f) (.s f.rg (sldValue f s))) s

/-- VLDG: an index register gives each element's address (R170). -/
def execVldg (f : LsF) (s : State) : Host.Outcome State Fault Refusal :=
  issue (.vldg f) (fun s =>
    loadGrid (.vldg f) f.rg f.gm (fun r c => 8 * lsIndexAddr f s.core s.core.grid r c) s) s

/-- KLD: 32 bytes into a mask (R167). -/
def execKld (f : LsF) (s : State) : Host.Outcome State Fault Refusal :=
  issue (.kld f) (fun s => s.result (.kld f)
    (.k (f.rg.setWidth 4) (BitVec.ofNat 256 (natOfBytes (s.spadBytes (lsEa f s.core) 32)))
      (BitVec.allOnes 256))) s

/-! ### Stores (R28, R168) -/

/-- A store takes one entry of the store buffer (R28, R168). -/
def withhold (bytes : List (Nat × Byte)) (s : State) : State :=
  s.onCore fun c => { c with
    stores := c.stores ++ [⟨c.nextId, bytes, [], 0⟩], nextId := c.nextId + 1 }

/-- SNOP of the ST slot (R63). -/
def execStSnop (s : State) : Host.Outcome State Fault Refusal := issue .stSnop id s

/-- VST (R168). -/
def execVst (f : LsF) (s : State) : Host.Outcome State Fault Refusal :=
  issue (.vst f) (fun s => withhold (vstBytes f s.core) s) s

/-- VSTT (R168, R169). -/
def execVstt (f : LsF) (s : State) : Host.Outcome State Fault Refusal :=
  issue (.vstt f) (fun s => withhold (vsttBytes f s.core) s) s

/-- SST (R168). -/
def execSst (f : LsF) (s : State) : Host.Outcome State Fault Refusal :=
  issue (.sst f) (fun s => withhold (sstBytes f s.core) s) s

/-- VSTS: of elements that share an address the highest index is kept (R170). -/
def execVsts (f : LsF) (s : State) : Host.Outcome State Fault Refusal :=
  issue (.vsts f) (fun s => withhold (vstsBytes f s.core) s) s

/-- KST (R168). -/
def execKst (f : LsF) (s : State) : Host.Outcome State Fault Refusal :=
  issue (.kst f) (fun s => withhold (kstBytes f s.core) s) s

end Sys2Proof.Machine
end

