-- ==== Sys2Proof/Machine/Transc.lean ====
section
/-! DEFINITION. The transcendental functions of R130: the exact value rounded once. A value is enclosed
between two rationals, at growing precision, until both ends round alike; every argument at which the
function is rational is handled exactly first. -/

namespace Sys2Proof.Machine

/-- An interval of non-negative reals at scale 2^P. -/
abbrev Iv := Nat × Nat

def ivOfRat (p : Nat) (q : ℚ) : Iv :=
  let n := q.num.natAbs * 2 ^ p / q.den
  (n, if n * q.den = q.num.natAbs * 2 ^ p then n else n + 1)
def ivAdd (a b : Iv) : Iv := (a.1 + b.1, a.2 + b.2)
/-- Difference of an interval and a smaller one. -/
def ivSub (a b : Iv) : Iv := (a.1 - b.2, a.2 - b.1)
def ivMul (p : Nat) (a b : Iv) : Iv := (a.1 * b.1 / 2 ^ p, a.2 * b.2 / 2 ^ p + 1)
def ivDivNat (a : Iv) (n : Nat) : Iv := (a.1 / n, a.2 / n + 1)
def ivDiv (p : Nat) (a b : Iv) : Iv := (a.1 * 2 ^ p / b.2, a.2 * 2 ^ p / b.1 + 1)

/-- Σ z^(2k+1)/(2k+1), `alt` alternating: atanh or atan of z, z ≤ 1/2, with its remainder. -/
def ivAtan (p : Nat) (alt : Bool) (z : Iv) : Iv :=
  let z2 := ivMul p z z
  let n := p / 2 + 8
  let r := (List.range n).foldl (fun (a : Iv × Iv × Iv) k =>
    let t := ivDivNat a.1 (2 * k + 1)
    let s := if alt && k % 2 = 1 then (a.2.1, ivAdd a.2.2 t) else (ivAdd a.2.1 t, a.2.2)
    (ivMul p a.1 z2, s.1, s.2)) (z, (0, 0), (0, 0))
  let s := ivSub r.2.1 r.2.2
  (s.1 - 2 * r.1.2 - 2, s.2 + 2 * r.1.2 + 2)

/-- ln 2 = 2 atanh(1/3). -/
def ivLn2 (p : Nat) : Iv :=
  let a := ivAtan p false (ivOfRat p (1 / 3))
  (2 * a.1, 2 * a.2)

/-- π = 16 atan(1/5) − 4 atan(1/239). -/
def ivPi (p : Nat) : Iv :=
  let a := ivAtan p true (ivOfRat p (1 / 5))
  let b := ivAtan p true (ivOfRat p (1 / 239))
  ivSub (16 * a.1, 16 * a.2) (4 * b.1, 4 * b.2)

/-- e^t for 0 ≤ t ≤ 1.1. -/
def ivExp (p : Nat) (t : Iv) : Iv :=
  let r := (List.range (p / 2 + 8)).foldl (fun (a : Iv × Iv) k =>
    (ivDivNat (ivMul p a.1 t) (k + 1), ivAdd a.2 a.1)) ((2 ^ p, 2 ^ p), (0, 0))
  (r.2.1, r.2.2 + 2 * r.1.2 + 2)

/-- 2^y for an interval y ≥ 0: mantissa interval and exponent. -/
def ivExp2 (p : Nat) (y : Iv) : Iv × Nat :=
  let n := y.1 / 2 ^ p
  (ivExp p (ivMul p (y.1 - n * 2 ^ p, y.2 - n * 2 ^ p) (ivLn2 p)), n)

/-- sin(2πf) for 0 ≤ f ≤ 1/4. -/
def ivSin (p : Nat) (f : ℚ) : Iv :=
  let th := ivMul p (ivPi p) (ivOfRat p (2 * f))
  let t2 := ivMul p th th
  let r := (List.range (p / 2 + 8)).foldl (fun (a : Iv × Iv × Iv) k =>
    let s := if k % 2 = 1 then (a.2.1, ivAdd a.2.2 a.1) else (ivAdd a.2.1 a.1, a.2.2)
    (ivDivNat (ivMul p a.1 t2) ((2 * k + 2) * (2 * k + 3)), s.1, s.2)) (th, (0, 0), (0, 0))
  let s := ivSub r.2.1 r.2.2
  (s.1 - r.1.2 - 2, s.2 + r.1.2 + 2)

/-- An interval as two rationals, scaled by 2^e. -/
def ivRat (p : Nat) (a : Iv) (e : Int) : ℚ × ℚ :=
  ((a.1 : ℚ) * pow2 (e - p), (a.2 : ℚ) * pow2 (e - p))

/-- The functions of R130 that need an enclosure. -/
inductive TFun where
  | exp2 | log2 | tanh | sin | cos
  deriving DecidableEq, Repr

def TFun.number : TFun → Nat
  | .exp2 => 0 | .log2 => 1 | .tanh => 2 | .sin => 3 | .cos => 4

/-- The fraction of x in turns, 0 ≤ f < 1. -/
def turns (x : ℚ) : ℚ := x - (x.num / (x.den : Int) : Int)

/-- sin(2πf) for a fraction f of a turn: sign and the quarter-turn argument. -/
def sinFold (f : ℚ) : Bool × ℚ :=
  if f ≤ 1 / 4 then (false, f)
  else if f ≤ 1 / 2 then (false, 1 / 2 - f)
  else if f ≤ 3 / 4 then (true, f - 1 / 2)
  else (true, 1 - f)

/-- An enclosure of the exact value at precision p, for an argument where it is irrational.
(DESIGN CHOICE, log 6) -/
def enclose (fn : TFun) (x : ℚ) (p : Nat) : ℚ × ℚ :=
  let flip (b : Bool) (r : ℚ × ℚ) : ℚ × ℚ := if b then (-r.2, -r.1) else r
  match fn with
  | .exp2 =>
    let n : Int := x.num / (x.den : Int)
    ivRat p (ivExp p (ivMul p (ivOfRat p (x - n)) (ivLn2 p))) n
  | .log2 =>
    let e := log2Floor x
    let m := x / pow2 e
    let a := ivAtan p false (ivOfRat p ((m - 1) / (m + 1)))
    let r := ivRat p (ivDiv p (2 * a.1, 2 * a.2) (ivLn2 p)) 0
    (r.1 + e, r.2 + e)
  | .tanh =>
    let y := ivDiv p (ivOfRat p (2 * |x|)) (ivLn2 p)
    let u := ivExp2 p y
    let lo : ℚ := (u.1.1 : ℚ) * pow2 (u.2 - p)
    let hi : ℚ := (u.1.2 : ℚ) * pow2 (u.2 - p)
    flip (decide (x < 0)) ((lo - 1) / (lo + 1), (hi - 1) / (hi + 1))
  | .sin =>
    let s := sinFold (turns x)
    flip s.1 (ivRat p (ivSin p s.2) 0)
  | .cos =>
    let s := sinFold (turns (x + 1 / 4))
    flip s.1 (ivRat p (ivSin p s.2) 0)

/-- Rounds at growing precision until both ends of the enclosure round alike. (DESIGN CHOICE, log 6) -/
def roundEnclosed (env : FpEnv) (f : Fmt) (fn : TFun) (x : ℚ) (c : Code) : Code × Flags :=
  let try1 (p : Nat) : Option (Code × Flags) :=
    let r := enclose fn x p
    let a := roundFp env f (XR.ofRat r.1 false)
    let b := roundFp env f (XR.ofRat r.2 false)
    if r.1 * r.2 ≤ 0 then none else if a = b && (a.2 &&& Flags.nx) != 0 then some a else none
  match [64, 128, 256, 512, 1024, 2048].findSome? try1 with
  | some r => r
  | none => Config.transcendental fn.number c

/-- VEXP2, VLOG2, VTANH, VSIN and VCOS on one element (R130). `x` is the operand after FZI.
(DESIGN CHOICE, log 6) -/
def transc (env : FpEnv) (f : Fmt) (fn : TFun) (x : XR) (c : Code) : Code × Flags :=
  match fn, x with
  | _, .nan nv => roundFp env f (.nan nv)
  | .exp2, .inf n => roundFp env f (if n then .fin 0 false else .inf false)
  | .exp2, .fin q _ =>
    if q.den = 1 ∧ |q| ≤ 1000 then roundFp env f (XR.ofRat (pow2 q.num) false)
    else if 1000 ≤ q then roundFp env f (XR.ofRat (pow2 1000) false)
    else if q ≤ -1000 then roundFp env f (XR.ofRat (pow2 (-1000)) false)
    else roundEnclosed env f .exp2 q c
  | .log2, .inf n => roundFp env f (if n then .nan true else .inf false)
  | .log2, .fin q _ =>
    if q = 0 then ((roundFp env f (.inf true)).1, Flags.dz)
    else if q < 0 then roundFp env f (.nan true)
    else if q = pow2 (log2Floor q) then roundFp env f (XR.ofRat (log2Floor q) false)
    else roundEnclosed env f .log2 q c
  | .tanh, .inf n => roundFp env f (XR.ofRat (if n then -1 else 1) n)
  | .tanh, .fin q n =>
    if q = 0 then roundFp env f (.fin 0 n)
    else if 100 ≤ |q| then
      roundFp env f (XR.ofRat (if q < 0 then pow2 (-150) - 1 else 1 - pow2 (-150)) false)
    else roundEnclosed env f .tanh q c
  | .sin, .inf _ => roundFp env f (.nan true)
  | .sin, .fin q n =>
    if q = 0 then roundFp env f (.fin 0 n)
    else if (4 * q).den = 1 then
      let t := turns q
      roundFp env f (XR.ofRat (if t = 1 / 4 then 1 else if t = 3 / 4 then -1 else 0) false)
    else roundEnclosed env f .sin q c
  | .cos, .inf _ => roundFp env f (.nan true)
  | .cos, .fin q _ =>
    if (4 * q).den = 1 then
      let t := turns q
      roundFp env f (XR.ofRat (if t = 0 then 1 else if t = 1 / 2 then -1 else 0) false)
    else roundEnclosed env f .cos q c

/-- 1/x on one element (R130). -/
def recip (env : FpEnv) (f : Fmt) (x : XR) : Code × Flags :=
  match x with
  | .nan nv => roundFp env f (.nan nv)
  | .inf n => roundFp env f (.fin 0 n)
  | .fin q n => if q = 0 then ((roundFp env f (.inf n)).1, Flags.dz) else roundFp env f (.fin (1 / q) n)

/-- 1/√x on one element (R130). -/
def recipSqrt (env : FpEnv) (f : Fmt) (x : XR) : Code × Flags :=
  match x with
  | .nan nv => roundFp env f (.nan nv)
  | .inf n => roundFp env f (if n then .nan true else .fin 0 false)
  | .fin q n =>
    if q = 0 then ((roundFp env f (.inf n)).1, Flags.dz)
    else if q < 0 then roundFp env f (.nan true)
    else roundFp env f (.fin (sqrtProxy (1 / q)) false)

end Sys2Proof.Machine
end

