-- ==== Sys2Proof/Machine/Vector.lean ====
section
/-! DEFINITION. The VA and VB slots (R123 to R142), and predicate logic (R71). -/

namespace Sys2Proof.Machine

open Sys2Proof

/-! ### Element results (R124, R125) -/

/-- The type of an instruction. -/
def vTy (f : VecF) : Fmt := (Fmt.ofCode f.ty.toNat).getD .f32

/-- The settings the instruction captures (R53). -/
def vEnv (f : VecF) (c : Core) : FpEnv := envOf c.fpc f.ro

/-- Writes elements of width `w` over the grid under guard and zeroing (R125). -/
def vecWrite (i : Instr) (f : VecF) (w : Nat) (el : Nat → Nat → Code × Flags) (s : State) : State :=
  let cells := gridCells s.core.grid (guarded (s.core.rk f.gm) f.z el)
  let p := packGrid w cells
  s.result i (.v f.vd p.1 p.2) (cellFlags cells)

/-- An instruction of one source, element by element at the grid's width. -/
def vec1 (i : Instr) (f : VecF) (op : Core → Code → Code × Flags) (s : State) : State :=
  let g := s.core.grid
  let a := s.core.rv f.va
  vecWrite i f g.w (fun r c => op s.core (velem a g.w r c)) s

/-- An instruction of two sources. -/
def vec2 (i : Instr) (f : VecF) (op : Core → Code → Code → Code × Flags) (s : State) : State :=
  let g := s.core.grid
  let a := s.core.rv f.va
  let b := s.core.rv f.vb
  vecWrite i f g.w (fun r c => op s.core (velem a g.w r c) (velem b g.w r c)) s

/-- An instruction of three sources. -/
def vec3 (i : Instr) (f : VecF) (op : Core → Code → Code → Code → Code × Flags) (s : State) : State :=
  let g := s.core.grid
  let a := s.core.rv f.va
  let b := s.core.rv f.vb
  let d := s.core.rv f.vc
  vecWrite i f g.w (fun r c => op s.core (velem a g.w r c) (velem b g.w r c) (velem d g.w r c)) s

/-- An instruction that moves elements: element (r, c) of the result comes from an element of A (R134,
R139). -/
def vecMove (i : Instr) (f : VecF) (src : Nat → Nat → Nat × Nat) (s : State) : State :=
  let g := s.core.grid
  let a := s.core.rv f.va
  vecWrite i f g.w (fun r c => (velem a g.w (src r c).1 (src r c).2, 0)) s

/-! ### Floating-point elements (R126, R128, R129) -/

/-- A source operand of the instruction's type, FZI applied. -/
def vOp (f : VecF) (c : Core) (x : Code) : XR := decodeOperand (vEnv f c) (vTy f) x

/-- An exact value rounded into the instruction's type. -/
def vRound (f : VecF) (c : Core) (x : XR) : Code × Flags := roundFp (vEnv f c) (vTy f) x

/-- a + b. -/
def fpAdd (f : VecF) (c : Core) (a b : Code) : Code × Flags :=
  vRound f c (XR.add (vEnv f c).mode (vOp f c a) (vOp f c b))
/-- a − b. -/
def fpSub (f : VecF) (c : Core) (a b : Code) : Code × Flags :=
  vRound f c (XR.add (vEnv f c).mode (vOp f c a) (vOp f c b).neg)
/-- a × b. -/
def fpMul (f : VecF) (c : Core) (a b : Code) : Code × Flags :=
  vRound f c ((vOp f c a).mul (vOp f c b))
/-- ±(a × b) ± d, rounded once (R128). -/
def fpFma (f : VecF) (c : Core) (neg sub : Bool) (a b d : Code) : Code × Flags :=
  let p := (vOp f c a).mul (vOp f c b)
  let d := vOp f c d
  vRound f c (XR.add (vEnv f c).mode (if neg then p.neg else p) (if sub then d.neg else d))

/-- The sign bit of an element of width `w`, cleared or inverted (R129). -/
def clearSign (w : Nat) (x : Code) : Code := BitVec.ofNat 64 (x.toNat % 2 ^ (w - 1))
def flipSign (w : Nat) (x : Code) : Code :=
  BitVec.ofNat 64 ((x.toNat % 2 ^ w + 2 ^ (w - 1)) % 2 ^ w)

/-! ### Complex elements (R131) -/

/-- The exact product of R131, real and imaginary part. (DEDUCED, log 34) -/
def complexMul (m : RMode) (conj neg : Bool) (ar ai br bi : XR) : XR × XR :=
  let bi := if conj then bi.neg else bi
  let pr := XR.add m (ar.mul br) (ai.mul bi).neg
  let pi := XR.add m (ar.mul bi) (ai.mul br)
  (if neg then pr.neg else pr, if neg then pi.neg else pi)

/-- VCMUL and VCFMA: pairs of columns, guarded by the even column; an odd last column is unchanged. -/
def vecComplex (i : Instr) (f : VecF) (fma : Bool) (s : State) : State :=
  let c := s.core
  let g := c.grid
  let m := (vEnv f c).mode
  let at' (v : BitVec 6) (r col : Nat) : XR := vOp f c (velem (c.rv v) 32 r col)
  let cell (r col : Nat) : CellW :=
    let j := col / 2 * 2
    if g.cols ≤ j + 1 then none
    else if (c.rk f.gm).getLsbD (r * 32 + j) then
      let p := complexMul m (f.fn.getLsbD 0) (f.fn.getLsbD 1)
        (at' f.va r j) (at' f.va r (j + 1)) (at' f.vb r j) (at' f.vb r (j + 1))
      let x := if col % 2 = 0 then p.1 else p.2
      some (vRound f c (if fma then XR.add m x (at' f.vc r col) else x))
    else if f.z then some (0, 0) else none
  let cells := gridCells g cell
  let p := packGrid 32 cells
  s.result i (.v f.vd p.1 p.2) (cellFlags cells)

/-! ### Integer elements (R132) -/

/-- The unsigned value of an element. -/
def uintOf (w : Nat) (x : Code) : Int := ((x.toNat % 2 ^ w : Nat) : Int)

/-- A sum or difference: wrapped, `.ss` or `.us` (R132). -/
def intArith (f : VecF) (c : Core) (op : Int → Int → Int) (a b : Code) : Code × Flags :=
  let w := c.grid.w
  (BitVec.ofInt 64 (match f.fn.toNat with
    | 1 => saturate (op (intOf w a) (intOf w b)) (intLo w) (intHi w)
    | 2 => saturate (op (uintOf w a) (uintOf w b)) 0 (2 ^ w - 1)
    | _ => op (intOf w a) (intOf w b)), 0)

/-- A product: low half, high half signed, high half unsigned (R132). -/
def intMul (f : VecF) (c : Core) (a b : Code) : Code × Flags :=
  let w := c.grid.w
  (BitVec.ofInt 64 (match f.fn.toNat with
    | 1 => intOf w a * intOf w b / 2 ^ w
    | 2 => uintOf w a * uintOf w b / 2 ^ w
    | _ => intOf w a * intOf w b), 0)

/-- An element as the integer operations read it: unsigned with `.u`. -/
def intSide (w : Nat) (u : Bool) (x : Code) : Int := if u then uintOf w x else intOf w x

/-- Minimum or maximum of integers. -/
def intMinMax (w : Nat) (u max : Bool) (a b : Code) : Code :=
  if decide (intSide w u b < intSide w u a) != max then b else a

/-- A shift: amount from vb or IMM16<4:0>, modulo w (R132). -/
def vecShift (i : Instr) (f : VecF) (op : Nat → Code → Nat → Code) (s : State) : State :=
  let w := s.core.grid.w
  vec2 i f (fun _ a b =>
    (op w a ((if f.fn = 0 then (uintOf w b).toNat else (bits f.imm 0 5).toNat) % w), 0)) s

/-- A bitwise operation (R132). -/
def vecBits (i : Instr) (f : VecF) (op : Code → Code → Code) (s : State) : State :=
  vec2 i f (fun _ a b => (op a b, 0)) s

/-! ### Compares and classes (R133) -/

/-- A mask result over the grid; bits outside it are written 0 (R12, R133). -/
def maskWrite (i : Instr) (f : VecF) (el : Nat → Nat → Bool × Flags) (s : State) : State :=
  let g := s.core.grid
  let m := s.core.rk f.gm
  let cell (r c : Nat) : Option (Bool × Flags) :=
    if m.getLsbD (r * 32 + c) then some (el r c) else if f.z then some (false, 0) else none
  let bit (r c : Nat) : Option Bool := if c < g.cols then (cell r c).map (·.1) else some false
  let p := packMask ((List.range 8).map fun r => (List.range 32).map fun c =>
    if r < g.rows then bit r c else some false)
  let fl := (List.range g.rows).foldl (fun a r => (List.range g.cols).foldl (fun (a : Flags) c =>
    a ||| (((cell r c).map (·.2)).getD 0)) a) (0 : Flags)
  s.result i (.k (f.vd.setWidth 4) p.1 p.2) fl

/-- Exact comparison of two values that are not NaNs; the zeros are equal (R133). -/
def xrLt (a b : XR) : Bool :=
  match a, b with
  | .fin p _, .fin q _ => decide (p < q)
  | _, _ => fpLess a b
def xrEq (a b : XR) : Bool :=
  match a, b with
  | .fin p _, .fin q _ => decide (p = q)
  | .inf n, .inf m => n == m
  | _, _ => false
def isNan : XR → Bool
  | .nan _ => true
  | _ => false
def isSnan : XR → Bool
  | .nan b => b
  | _ => false

/-- A floating-point compare: eq, lt or le, with its NV rule (R133). -/
def fpCmp (t : Fmt) (k : Nat) (a b : Code) : Bool × Flags :=
  let x := decodeFp t a
  let y := decodeFp t b
  let nan := isNan x || isNan y
  let nv := if k = 0 then isSnan x || isSnan y else nan
  (!nan && (match k with
    | 0 => xrEq x y
    | 1 => xrLt x y
    | _ => xrLt x y || xrEq x y), nvIf nv)

/-- A compare of the instruction's type: 0 equal, 1 less, 2 less or equal. -/
def vecCmp (i : Instr) (f : VecF) (k : Nat) (s : State) : State :=
  let g := s.core.grid
  let a := s.core.rv f.va
  let b := s.core.rv f.vb
  maskWrite i f (fun r c =>
    let x := velem a g.w r c
    let y := velem b g.w r c
    if (vTy f).isFp then fpCmp (vTy f) k x y
    else
      let p := intSide g.w (f.fn == 1) x
      let q := intSide g.w (f.fn == 1) y
      (match k with
        | 0 => decide (p = q)
        | 1 => decide (p < q)
        | _ => decide (p ≤ q), 0)) s

/-- The class of an element (R133). -/
def classOf (t : Fmt) (x : Code) : Nat :=
  match decodeFp t x with
  | .nan sig => if sig then 8 else 9
  | .inf n => if n then 0 else 7
  | .fin q n =>
    if q = 0 then (if n then 3 else 4)
    else if isSubnormal t x then (if n then 2 else 5) else (if n then 1 else 6)

/-! ### Constants (R134) -/

/-- VSPLAT's constant. -/
def splatConst (f : VecF) : Code :=
  match f.ty.toNat with
  | 0 => (f.imm.setWidth 64) <<< 16
  | 5 => f.imm.signExtend 64
  | _ => f.imm.setWidth 64

/-- The row and column of an element selector. -/
def selRow (f : VecF) : Nat := (bits f.imm 10 3).toNat
def selCol (f : VecF) : Nat := (bits f.imm 0 5).toNat

/-! ### Conversions (R51, R52, R135, R136) -/

/-- The source format of a conversion. -/
def vSrc (f : VecF) : Fmt := (Fmt.ofCode f.fn.toNat).getD .f32

/-- The scale a conversion names; `s0` means 1.0 (R46). -/
def vScale (f : VecF) (c : Core) : Word32 := if f.vc = 0 then 0x3F800000 else (c.rs f.vc).setWidth 32

/-- A conversion element by element: source at its own width, destination at its width (R135). -/
def vecConvert (i : Instr) (f : VecF) (el : Core → Code → Code × Flags) (s : State) : State :=
  let a := s.core.rv f.va
  let sw := (vSrc f).width
  vecWrite i f (vTy f).width (fun r c => el s.core (velem a sw r c)) s

/-- VCVT on one element (R51, R136). Between equal floating-point types FZI and FZO apply as between others
(R48; DEDUCED, log 34). -/
def cvtElem (f : VecF) (c : Core) (x : Code) : Code × Flags :=
  let env := vEnv f c
  let src := vSrc f
  let dst := vTy f
  if src.isFp then convertExact env dst (decodeOperand env src x) else convert env dst src x

/-- VQNT on one element (R46, R52, R136). -/
def qntElem (f : VecF) (c : Core) (x : Code) : Code × Flags :=
  let env := vEnv f c
  let dst := vTy f
  let k := vScale f c
  if !(scaleOk k) then badScale dst
  else
    let y := (decodeOperand env (vSrc f) x).mulQ (scaleVal k)
    if dst = .c4 then quantC4 (c.rcb (f.vb.setWidth 3)) y else convertExact env dst y

/-- VDQ on one element (R44, R46, R136). -/
def dqElem (f : VecF) (c : Core) (x : Code) : Code × Flags :=
  let env := vEnv f c
  let dst := vTy f
  let k := vScale f c
  if !(scaleOk k) then badScale dst
  else
    let v : XR := match vSrc f with
      | .c4 => decodeFp .bf16 (cbEntry (c.rcb (f.vb.setWidth 3)) x.toNat)
      | .i8 => exactOf .i8 x
      | t => decodeOperand env t x
    roundFp env dst (v.divQ (scaleVal k))

/-! ### Reductions (R56, R138) -/

/-- One level of the tree: pairs combined, an odd last element carried. -/
def treeLevel (op : Code → Code → Code × Flags) : List Code → List Code × Flags
  | a :: b :: r =>
    let t := treeLevel op r
    let x := op a b
    (x.1 :: t.1, x.2 ||| t.2)
  | l => (l, 0)

/-- The fixed pairwise tree of R56; 2^fuel elements are enough fuel. -/
def treeReduce (op : Code → Code → Code × Flags) : Nat → List Code → Option Code × Flags
  | 0, l => (l.head?, 0)
  | n + 1, l =>
    let t := treeLevel op l
    let u := treeReduce op n t.1
    (u.1, t.2 ||| u.2)

/-- The combination of a reduction and the value of an empty one (R138). -/
def redOp (f : VecF) (c : Core) : (Code → Code → Code × Flags) × Code :=
  let t := vTy f
  if t = .i32 then
    match f.fn.toNat with
    | 0 => (fun a b => (BitVec.ofInt 64 (intOf 32 a + intOf 32 b), 0), 0)
    | 1 => (fun a b => (intMinMax 32 false true a b, 0), 0x80000000)
    | _ => (fun a b => (intMinMax 32 false false a b, 0), 0x7FFFFFFF)
  else
    match f.fn.toNat with
    | 0 => (fpAdd f c, 0)
    | 1 => (fpMinMax t true, signed t true t.infCode)
    | _ => (fpMinMax t false, signed t false t.infCode)

/-- The reduction of the guarded elements of a list of places. -/
def redList (f : VecF) (c : Core) (places : List (Nat × Nat)) : Code × Flags :=
  let v := c.rv f.va
  let l := (places.filter fun p => (c.rk f.gm).getLsbD (p.1 * 32 + p.2)).map fun p =>
    velem v c.grid.w p.1 p.2
  let o := redOp f c
  let r := treeReduce o.1 5 l
  (r.1.getD o.2, r.2)

/-- Writes the outputs of a reduction; every other element keeps its value. -/
def redWrite (i : Instr) (f : VecF) (cells : List (List CellW)) (s : State) : State :=
  let p := packGrid s.core.grid.w cells
  s.result i (.v f.vd p.1 p.2) (cellFlags cells)

/-! ### Scaling, rounding, counts and clamping (R140) -/

/-- a × 2^n; beyond 2^±1000 every element overflows or underflows alike. (DEDUCED, log 34) -/
def scaleElem (f : VecF) (c : Core) (a : Code) (n : Int) : Code × Flags :=
  vRound f c ((vOp f c a).mulQ (pow2 (saturate n (-1000) 1000)))

/-- Rounded to an integral value: no NX, the sign kept (R140). -/
def rndElem (f : VecF) (c : Core) (a : Code) : Code × Flags :=
  match vOp f c a with
  | .fin q n => ((vRound f c (.fin (roundInt (vEnv f c).mode q) n)).1, 0)
  | x => vRound f c x

/-- The number of set bits (row, c) of a mask, c < n. -/
def rowCount (k : Mask) (row n : Nat) : Nat := (List.range n).countP fun c => k.getLsbD (row * 32 + c)

/-- min(max(a, b), d) (R140). -/
def clampElem (f : VecF) (c : Core) (a b d : Code) : Code × Flags :=
  if (vTy f).isFp then
    let x := fpMinMax (vTy f) true a b
    let y := fpMinMax (vTy f) false x.1 d
    (y.1, x.2 ||| y.2)
  else
    let u := f.fn == 1
    (intMinMax c.grid.w u false (intMinMax c.grid.w u true a b) d, 0)

/-! ### Accumulator blocks (R141, R142) -/

/-- The key of block element (row, col). -/
def blockKey (f : VecF) (row col : Nat) : Nat := accKey (accBank f) (8 * accBand f + row) (8 * accGroup f + col)

/-- The elements of an 8 by 8 block. -/
def blockCells : List (Nat × Nat) := (List.range 8).flatMap fun r => (List.range 8).map fun c => (r, c)

/-- VAMRD: the block at issue, or zeros and STAT.AMU from a bank that is not owned (R142). -/
def accRead (f : VecF) (s : State) : State :=
  let c := s.core
  let own := c.owns (accBank f)
  let el (r col : Nat) : Code × Flags :=
    (if own then (c.accElem (blockKey f r col)).setWidth 64 else 0, 0)
  let cells := gridCells ⟨8, 8, 32⟩ (guarded (c.rk f.gm) f.z el)
  let p := packGrid 32 cells
  s.result (.vamrd f) (.v f.vd p.1 p.2) 0 (if own then 0 else statAmu)

/-- A withheld accumulator write takes a store-buffer entry (R28, R142). -/
def accWithhold (elems : List (Nat × Word32)) (flags : Flags) (s : State) : State :=
  s.onCore fun c => { c with
    stores := c.stores ++ [⟨c.nextId, [], elems, flags⟩], nextId := c.nextId + 1 }

/-- VAMWR: guarded elements take va's, masked-off ones +0 in the Z form (R142). -/
def accWrite (f : VecF) (s : State) : State :=
  let c := s.core
  let v := c.rv f.va
  accWithhold (blockCells.filterMap fun p =>
    if (c.rk f.gm).getLsbD (p.1 * 32 + p.2) then
      some (blockKey f p.1 p.2, (velem v 32 p.1 p.2).setWidth 32)
    else if f.z then some (blockKey f p.1 p.2, 0) else none) 0 s

/-- VAMADD: guarded elements become acc + a, rounded under the mode (R142). -/
def accAdd (f : VecF) (s : State) : State :=
  let c := s.core
  let v := c.rv f.va
  let l := (blockCells.filter fun p => (c.rk f.gm).getLsbD (p.1 * 32 + p.2)).map fun p =>
    (blockKey f p.1 p.2,
      fpAdd f c ((c.accElem (blockKey f p.1 p.2)).setWidth 64) (velem v 32 p.1 p.2))
  accWithhold (l.map fun x => (x.1, x.2.1.setWidth 32)) (l.foldl (fun a x => a ||| x.2.2) 0) s

/-! ### Predicate logic (R71) -/

/-- A mask result of all 256 bits. -/
def plWrite (i : Instr) (kd : BitVec 4) (x : Mask) (s : State) : State :=
  s.result i (.k kd x (BitVec.allOnes 256))

/-! ### Meanings -/

/-- VNOP (R63). -/
def execVnop (s : State) : Host.Outcome State Fault Refusal := issue .vnop id s

/-- VADD (R128). -/
def execVadd (f : VecF) (s : State) : Host.Outcome State Fault Refusal :=
  issue (.vadd f) (vec2 (.vadd f) f (fpAdd f)) s

/-- VSUB (R128). -/
def execVsub (f : VecF) (s : State) : Host.Outcome State Fault Refusal :=
  issue (.vsub f) (vec2 (.vsub f) f (fpSub f)) s

/-- VMUL (R128). -/
def execVmul (f : VecF) (s : State) : Host.Outcome State Fault Refusal :=
  issue (.vmul f) (vec2 (.vmul f) f (fpMul f)) s

/-- VFMA: ±(a × b) + c (R128). -/
def execVfma (f : VecF) (s : State) : Host.Outcome State Fault Refusal :=
  issue (.vfma f) (vec3 (.vfma f) f fun c => fpFma f c (f.fn == 1) false) s

/-- VFMS: ±(a × b) − c (R128). -/
def execVfms (f : VecF) (s : State) : Host.Outcome State Fault Refusal :=
  issue (.vfms f) (vec3 (.vfms f) f fun c => fpFma f c (f.fn == 1) true) s

/-- VMIN (R129). -/
def execVmin (f : VecF) (s : State) : Host.Outcome State Fault Refusal :=
  issue (.vmin f) (vec2 (.vmin f) f fun _ => fpMinMax (vTy f) false) s

/-- VMAX (R129). -/
def execVmax (f : VecF) (s : State) : Host.Outcome State Fault Refusal :=
  issue (.vmax f) (vec2 (.vmax f) f fun _ => fpMinMax (vTy f) true) s

/-- VABS: the sign bit cleared (R129). -/
def execVabs (f : VecF) (s : State) : Host.Outcome State Fault Refusal :=
  issue (.vabs f) (vec1 (.vabs f) f fun c a => (clearSign c.grid.w a, 0)) s

/-- VNEG: the sign bit inverted (R129). -/
def execVneg (f : VecF) (s : State) : Host.Outcome State Fault Refusal :=
  issue (.vneg f) (vec1 (.vneg f) f fun c a => (flipSign c.grid.w a, 0)) s

/-- VRCP (R130). -/
def execVrcp (f : VecF) (s : State) : Host.Outcome State Fault Refusal :=
  issue (.vrcp f) (vec1 (.vrcp f) f fun c a => recip (vEnv f c) (vTy f) (vOp f c a)) s

/-- VRSQ (R130). -/
def execVrsq (f : VecF) (s : State) : Host.Outcome State Fault Refusal :=
  issue (.vrsq f) (vec1 (.vrsq f) f fun c a => recipSqrt (vEnv f c) (vTy f) (vOp f c a)) s

/-- VEXP2 (R130). -/
def execVexp2 (f : VecF) (s : State) : Host.Outcome State Fault Refusal :=
  issue (.vexp2 f) (vec1 (.vexp2 f) f fun c a => transc (vEnv f c) (vTy f) .exp2 (vOp f c a) a) s

/-- VLOG2 (R130). -/
def execVlog2 (f : VecF) (s : State) : Host.Outcome State Fault Refusal :=
  issue (.vlog2 f) (vec1 (.vlog2 f) f fun c a => transc (vEnv f c) (vTy f) .log2 (vOp f c a) a) s

/-- VTANH (R130). -/
def execVtanh (f : VecF) (s : State) : Host.Outcome State Fault Refusal :=
  issue (.vtanh f) (vec1 (.vtanh f) f fun c a => transc (vEnv f c) (vTy f) .tanh (vOp f c a) a) s

/-- VSIN (R130). -/
def execVsin (f : VecF) (s : State) : Host.Outcome State Fault Refusal :=
  issue (.vsin f) (vec1 (.vsin f) f fun c a => transc (vEnv f c) (vTy f) .sin (vOp f c a) a) s

/-- VCOS (R130). -/
def execVcos (f : VecF) (s : State) : Host.Outcome State Fault Refusal :=
  issue (.vcos f) (vec1 (.vcos f) f fun c a => transc (vEnv f c) (vTy f) .cos (vOp f c a) a) s

/-- VCMUL (R131). -/
def execVcmul (f : VecF) (s : State) : Host.Outcome State Fault Refusal :=
  issue (.vcmul f) (vecComplex (.vcmul f) f false) s

/-- VCFMA (R131). -/
def execVcfma (f : VecF) (s : State) : Host.Outcome State Fault Refusal :=
  issue (.vcfma f) (vecComplex (.vcfma f) f true) s

/-- VIADD (R132). -/
def execViadd (f : VecF) (s : State) : Host.Outcome State Fault Refusal :=
  issue (.viadd f) (vec2 (.viadd f) f fun c => intArith f c fun a b => a + b) s

/-- VISUB (R132). -/
def execVisub (f : VecF) (s : State) : Host.Outcome State Fault Refusal :=
  issue (.visub f) (vec2 (.visub f) f fun c => intArith f c fun a b => a - b) s

/-- VIMUL (R132). -/
def execVimul (f : VecF) (s : State) : Host.Outcome State Fault Refusal :=
  issue (.vimul f) (vec2 (.vimul f) f (intMul f)) s

/-- VIMIN (R132). -/
def execVimin (f : VecF) (s : State) : Host.Outcome State Fault Refusal :=
  issue (.vimin f) (vec2 (.vimin f) f fun c a b => (intMinMax c.grid.w (f.fn == 1) false a b, 0)) s

/-- VIMAX (R132). -/
def execVimax (f : VecF) (s : State) : Host.Outcome State Fault Refusal :=
  issue (.vimax f) (vec2 (.vimax f) f fun c a b => (intMinMax c.grid.w (f.fn == 1) true a b, 0)) s

/-- VSHL (R132). -/
def execVshl (f : VecF) (s : State) : Host.Outcome State Fault Refusal :=
  issue (.vshl f) (vecShift (.vshl f) f fun _ a n => a <<< n) s

/-- VSHR: filled with zeros (R132). -/
def execVshr (f : VecF) (s : State) : Host.Outcome State Fault Refusal :=
  issue (.vshr f) (vecShift (.vshr f) f fun _ a n => a >>> n) s

/-- VSAR: filled with the sign bit (R132). -/
def execVsar (f : VecF) (s : State) : Host.Outcome State Fault Refusal :=
  issue (.vsar f) (vecShift (.vsar f) f fun w a n => BitVec.ofInt 64 (intOf w a / 2 ^ n)) s

/-- VAND (R132). -/
def execVand (f : VecF) (s : State) : Host.Outcome State Fault Refusal :=
  issue (.vand f) (vecBits (.vand f) f fun a b => a &&& b) s

/-- VOR (R132). -/
def execVor (f : VecF) (s : State) : Host.Outcome State Fault Refusal :=
  issue (.vor f) (vecBits (.vor f) f fun a b => a ||| b) s

/-- VXOR (R132). -/
def execVxor (f : VecF) (s : State) : Host.Outcome State Fault Refusal :=
  issue (.vxor f) (vecBits (.vxor f) f fun a b => a ^^^ b) s

/-- VCMPEQ (R133). -/
def execVcmpeq (f : VecF) (s : State) : Host.Outcome State Fault Refusal :=
  issue (.vcmpeq f) (vecCmp (.vcmpeq f) f 0) s

/-- VCMPLT (R133). -/
def execVcmplt (f : VecF) (s : State) : Host.Outcome State Fault Refusal :=
  issue (.vcmplt f) (vecCmp (.vcmplt f) f 1) s

/-- VCMPLE (R133). -/
def execVcmple (f : VecF) (s : State) : Host.Outcome State Fault Refusal :=
  issue (.vcmple f) (vecCmp (.vcmple f) f 2) s

/-- VCLASS (R133). -/
def execVclass (f : VecF) (s : State) : Host.Outcome State Fault Refusal :=
  issue (.vclass f) (fun s =>
    maskWrite (.vclass f) f (fun r c =>
      (f.imm.getLsbD (classOf (vTy f) (velem (s.core.rv f.va) s.core.grid.w r c)), 0)) s) s

/-- VSEL: MK is the condition, every grid element is written (R134). -/
def execVsel (f : VecF) (s : State) : Host.Outcome State Fault Refusal :=
  issue (.vsel f) (fun s =>
    let g := s.core.grid
    let m := s.core.rk f.gm
    let cells := gridCells g fun r c => some
      (velem (s.core.rv (if m.getLsbD (r * 32 + c) then f.va else f.vb)) g.w r c, 0)
    let p := packGrid g.w cells
    s.result (.vsel f) (.v f.vd p.1 p.2)) s

/-- VMOV (R134). -/
def execVmov (f : VecF) (s : State) : Host.Outcome State Fault Refusal :=
  issue (.vmov f) (vecMove (.vmov f) f fun r c => (r, c)) s

/-- VBCST: one element, one row or one column (R134). -/
def execVbcst (f : VecF) (s : State) : Host.Outcome State Fault Refusal :=
  issue (.vbcst f) (vecMove (.vbcst f) f fun r c => match f.fn.toNat with
    | 0 => (selRow f, selCol f)
    | 1 => (selRow f, c)
    | _ => (r, selCol f)) s

/-- VMOVS: the low w bits of a scalar to every element (R134). -/
def execVmovs (f : VecF) (s : State) : Host.Outcome State Fault Refusal :=
  issue (.vmovs f) (fun s =>
    vecWrite (.vmovs f) f s.core.grid.w (fun _ _ => (s.core.rs f.va, 0)) s) s

/-- VMOVS.X: one element to a scalar; a guarded-off one leaves it, or gives 0 in the Z form (R134). -/
def execVmovsX (f : VecF) (s : State) : Host.Outcome State Fault Refusal :=
  issue (.vmovsX f) (fun s =>
    let w := s.core.grid.w
    let x := velem (s.core.rv f.va) w (selRow f) (selCol f)
    let y : Word := if (vTy f).isInt then BitVec.ofInt 64 (intOf w x) else x
    if (s.core.rk f.gm).getLsbD (selRow f * 32 + selCol f) then s.result (.vmovsX f) (.s f.vd y)
    else if f.z then s.result (.vmovsX f) (.s f.vd 0)
    else s.result (.vmovsX f) .none) s

/-- VIOTA (R134). -/
def execViota (f : VecF) (s : State) : Host.Outcome State Fault Refusal :=
  issue (.viota f) (fun s =>
    let g := s.core.grid
    vecWrite (.viota f) f g.w (fun r c => (BitVec.ofInt 64 (f.imm.toInt + (match f.fn.toNat with
      | 0 => r * g.cols + c
      | 1 => c
      | _ => r : Nat)), 0)) s) s

/-- VSPLAT (R134). -/
def execVsplat (f : VecF) (s : State) : Host.Outcome State Fault Refusal :=
  issue (.vsplat f) (fun s => vecWrite (.vsplat f) f s.core.grid.w (fun _ _ => (splatConst f, 0)) s) s

/-- VCVT (R136). -/
def execVcvt (f : VecF) (s : State) : Host.Outcome State Fault Refusal :=
  issue (.vcvt f) (vecConvert (.vcvt f) f (cvtElem f)) s

/-- VQNT (R136). -/
def execVqnt (f : VecF) (s : State) : Host.Outcome State Fault Refusal :=
  issue (.vqnt f) (vecConvert (.vqnt f) f (qntElem f)) s

/-- VDQ (R136). -/
def execVdq (f : VecF) (s : State) : Host.Outcome State Fault Refusal :=
  issue (.vdq f) (vecConvert (.vdq f) f (dqElem f)) s

/-- VCBLD: one row of a register (R137). -/
def execVcbld (f : VecF) (s : State) : Host.Outcome State Fault Refusal :=
  issue (.vcbld f) (fun s =>
    s.result (.vcbld f) (.cb (f.vd.setWidth 3) (vrow (s.core.rv f.va) (bits f.imm 0 3).toNat))) s

/-- VREDR: each row across its columns (R138). -/
def execVredr (f : VecF) (s : State) : Host.Outcome State Fault Refusal :=
  issue (.vredr f) (fun s =>
    let g := s.core.grid
    redWrite (.vredr f) f ((List.range g.rows).map fun r =>
      [some (redList f s.core ((List.range g.cols).map fun c => (r, c)))]) s) s

/-- VREDC: each column across its rows (R138). -/
def execVredc (f : VecF) (s : State) : Host.Outcome State Fault Refusal :=
  issue (.vredc f) (fun s =>
    let g := s.core.grid
    redWrite (.vredc f) f [(List.range g.cols).map fun c =>
      some (redList f s.core ((List.range g.rows).map fun r => (r, c)))] s) s

/-- VTRN (R139). -/
def execVtrn (f : VecF) (s : State) : Host.Outcome State Fault Refusal :=
  issue (.vtrn f) (vecMove (.vtrn f) f fun r c => (c, r)) s

/-- VROT: toward higher indices (R139). -/
def execVrot (f : VecF) (s : State) : Host.Outcome State Fault Refusal :=
  issue (.vrot f) (fun s =>
    let g := s.core.grid
    let n := (bits f.imm 0 5).toNat
    vecMove (.vrot f) f (fun r c =>
      if f.fn = 0 then (r, (c + (g.cols - n % g.cols)) % g.cols)
      else ((r + (g.rows - n % g.rows)) % g.rows, c)) s) s

/-- VPERM: an unsigned byte index, whatever the type (R139). -/
def execVperm (f : VecF) (s : State) : Host.Outcome State Fault Refusal :=
  issue (.vperm f) (fun s =>
    let g := s.core.grid
    vecMove (.vperm f) f (fun r c =>
      let j := (vbyte (s.core.rv f.vb) (r * 32 + c)).toNat
      if f.fn = 0 then (r, j % g.cols)
      else
        let m := j % (g.rows * g.cols)
        (m / g.cols, m % g.cols)) s) s

/-- VAMRD (R142). -/
def execVamrd (f : VecF) (s : State) : Host.Outcome State Fault Refusal :=
  issue (.vamrd f) (accRead f) s

/-- VAMWR (R142). -/
def execVamwr (f : VecF) (s : State) : Host.Outcome State Fault Refusal :=
  issue (.vamwr f) (accWrite f) s

/-- VAMADD (R142). -/
def execVamadd (f : VecF) (s : State) : Host.Outcome State Fault Refusal :=
  issue (.vamadd f) (accAdd f) s

/-- VSCALE (R140). -/
def execVscale (f : VecF) (s : State) : Host.Outcome State Fault Refusal :=
  issue (.vscale f) (fun s =>
    if f.fn = 0 then vec1 (.vscale f) f (fun c a => scaleElem f c a f.imm.toInt) s
    else vec2 (.vscale f) f (fun c a b => scaleElem f c a (intOf c.grid.w b)) s) s

/-- VRND (R140). -/
def execVrnd (f : VecF) (s : State) : Host.Outcome State Fault Refusal :=
  issue (.vrnd f) (vec1 (.vrnd f) f (rndElem f)) s

/-- VPOPK: row count, count before the column, count of the grid (R140). -/
def execVpopk (f : VecF) (s : State) : Host.Outcome State Fault Refusal :=
  issue (.vpopk f) (fun s =>
    let g := s.core.grid
    let k := s.core.rk (f.va.setWidth 4)
    vecWrite (.vpopk f) f g.w (fun r c => (BitVec.ofNat 64 (match f.fn.toNat with
      | 0 => rowCount k r g.cols
      | 1 => rowCount k r c
      | _ => ((List.range g.rows).map fun r => rowCount k r g.cols).sum), 0)) s) s

/-- VCLAMP (R140). -/
def execVclamp (f : VecF) (s : State) : Host.Outcome State Fault Refusal :=
  issue (.vclamp f) (vec3 (.vclamp f) f (clampElem f)) s

/-- KAND (R71). -/
def execKand (f : PlF) (s : State) : Host.Outcome State Fault Refusal :=
  issue (.kand f) (fun s => plWrite (.kand f) f.kd (s.core.rk f.ka &&& s.core.rk f.kb) s) s

/-- KOR (R71). -/
def execKor (f : PlF) (s : State) : Host.Outcome State Fault Refusal :=
  issue (.kor f) (fun s => plWrite (.kor f) f.kd (s.core.rk f.ka ||| s.core.rk f.kb) s) s

/-- KXOR (R71). -/
def execKxor (f : PlF) (s : State) : Host.Outcome State Fault Refusal :=
  issue (.kxor f) (fun s => plWrite (.kxor f) f.kd (s.core.rk f.ka ^^^ s.core.rk f.kb) s) s

/-- KANDN (R71). -/
def execKandn (f : PlF) (s : State) : Host.Outcome State Fault Refusal :=
  issue (.kandn f) (fun s => plWrite (.kandn f) f.kd (s.core.rk f.ka &&& ~~~(s.core.rk f.kb)) s) s

/-- KORN (R71). -/
def execKorn (f : PlF) (s : State) : Host.Outcome State Fault Refusal :=
  issue (.korn f) (fun s => plWrite (.korn f) f.kd (s.core.rk f.ka ||| ~~~(s.core.rk f.kb)) s) s

/-- KNOT (R71). -/
def execKnot (f : PlF) (s : State) : Host.Outcome State Fault Refusal :=
  issue (.knot f) (fun s => plWrite (.knot f) f.kd (~~~(s.core.rk f.ka)) s) s

/-- KMOV (R71). -/
def execKmov (f : PlF) (s : State) : Host.Outcome State Fault Refusal :=
  issue (.kmov f) (fun s => plWrite (.kmov f) f.kd (s.core.rk f.ka) s) s

end Sys2Proof.Machine
end

