-- ==== Sys2Proof/Machine/Dispatch.lean ====
section
/-! DEFINITION. One arm for each operation: a direct call of its meaning. -/

namespace Sys2Proof.Machine

open Sys2Proof

/-- The effect of an operation that issues, or of an event that happens. -/
def exec (i : Instr) (s : State) : Host.Outcome State Fault Refusal :=
  match i with
  | .nop => Sys2Proof.Machine.execNop s
  | .add f => Sys2Proof.Machine.execAdd f s
  | .sub f => Sys2Proof.Machine.execSub f s
  | .mul f => Sys2Proof.Machine.execMul f s
  | .mulh f => Sys2Proof.Machine.execMulh f s
  | .div f => Sys2Proof.Machine.execDiv f s
  | .divu f => Sys2Proof.Machine.execDivu f s
  | .rem f => Sys2Proof.Machine.execRem f s
  | .remu f => Sys2Proof.Machine.execRemu f s
  | .and f => Sys2Proof.Machine.execAnd f s
  | .or f => Sys2Proof.Machine.execOr f s
  | .xor f => Sys2Proof.Machine.execXor f s
  | .andn f => Sys2Proof.Machine.execAndn f s
  | .shl f => Sys2Proof.Machine.execShl f s
  | .shr f => Sys2Proof.Machine.execShr f s
  | .sar f => Sys2Proof.Machine.execSar f s
  | .rot f => Sys2Proof.Machine.execRot f s
  | .cmpeq f => Sys2Proof.Machine.execCmpeq f s
  | .cmplt f => Sys2Proof.Machine.execCmplt f s
  | .cmpltu f => Sys2Proof.Machine.execCmpltu f s
  | .cmple f => Sys2Proof.Machine.execCmple f s
  | .sel f => Sys2Proof.Machine.execSel f s
  | .min f => Sys2Proof.Machine.execMin f s
  | .max f => Sys2Proof.Machine.execMax f s
  | .lea f => Sys2Proof.Machine.execLea f s
  | .movi f => Sys2Proof.Machine.execMovi f s
  | .movhi f => Sys2Proof.Machine.execMovhi f s
  | .popc f => Sys2Proof.Machine.execPopc f s
  | .clz f => Sys2Proof.Machine.execClz f s
  | .ctz f => Sys2Proof.Machine.execCtz f s
  | .br f => Sys2Proof.Machine.execBr f s
  | .brc f => Sys2Proof.Machine.execBrc f s
  | .call f => Sys2Proof.Machine.execCall f s
  | .ret f => Sys2Proof.Machine.execRet f s
  | .jr f => Sys2Proof.Machine.execJr f s
  | .loop f => Sys2Proof.Machine.execLoop f s
  | .movcr f => Sys2Proof.Machine.execMovcr f s
  | .movrc f => Sys2Proof.Machine.execMovrc f s
  | .movsk f => Sys2Proof.Machine.execMovsk f s
  | .movks f => Sys2Proof.Machine.execMovks f s
  | .shape f => Sys2Proof.Machine.execShape f s
  | .getid f => Sys2Proof.Machine.execGetid f s
  | .aalloc f => Sys2Proof.Machine.execAalloc f s
  | .afree f => Sys2Proof.Machine.execAfree f s
  | .tlook f => Sys2Proof.Machine.execTlook f s
  | .tdef f => Sys2Proof.Machine.execTdef f s
  | .tstate f => Sys2Proof.Machine.execTstate f s
  | .tfree f => Sys2Proof.Machine.execTfree f s
  | .vnop => Sys2Proof.Machine.execVnop s
  | .vadd f => Sys2Proof.Machine.execVadd f s
  | .vsub f => Sys2Proof.Machine.execVsub f s
  | .vmul f => Sys2Proof.Machine.execVmul f s
  | .vfma f => Sys2Proof.Machine.execVfma f s
  | .vfms f => Sys2Proof.Machine.execVfms f s
  | .vmin f => Sys2Proof.Machine.execVmin f s
  | .vmax f => Sys2Proof.Machine.execVmax f s
  | .vabs f => Sys2Proof.Machine.execVabs f s
  | .vneg f => Sys2Proof.Machine.execVneg f s
  | .vrcp f => Sys2Proof.Machine.execVrcp f s
  | .vrsq f => Sys2Proof.Machine.execVrsq f s
  | .vexp2 f => Sys2Proof.Machine.execVexp2 f s
  | .vlog2 f => Sys2Proof.Machine.execVlog2 f s
  | .vtanh f => Sys2Proof.Machine.execVtanh f s
  | .vsin f => Sys2Proof.Machine.execVsin f s
  | .vcos f => Sys2Proof.Machine.execVcos f s
  | .vcmul f => Sys2Proof.Machine.execVcmul f s
  | .vcfma f => Sys2Proof.Machine.execVcfma f s
  | .viadd f => Sys2Proof.Machine.execViadd f s
  | .visub f => Sys2Proof.Machine.execVisub f s
  | .vimul f => Sys2Proof.Machine.execVimul f s
  | .vimin f => Sys2Proof.Machine.execVimin f s
  | .vimax f => Sys2Proof.Machine.execVimax f s
  | .vshl f => Sys2Proof.Machine.execVshl f s
  | .vshr f => Sys2Proof.Machine.execVshr f s
  | .vsar f => Sys2Proof.Machine.execVsar f s
  | .vand f => Sys2Proof.Machine.execVand f s
  | .vor f => Sys2Proof.Machine.execVor f s
  | .vxor f => Sys2Proof.Machine.execVxor f s
  | .vcmpeq f => Sys2Proof.Machine.execVcmpeq f s
  | .vcmplt f => Sys2Proof.Machine.execVcmplt f s
  | .vcmple f => Sys2Proof.Machine.execVcmple f s
  | .vclass f => Sys2Proof.Machine.execVclass f s
  | .vsel f => Sys2Proof.Machine.execVsel f s
  | .vmov f => Sys2Proof.Machine.execVmov f s
  | .vbcst f => Sys2Proof.Machine.execVbcst f s
  | .vmovs f => Sys2Proof.Machine.execVmovs f s
  | .vmovsX f => Sys2Proof.Machine.execVmovsX f s
  | .viota f => Sys2Proof.Machine.execViota f s
  | .vsplat f => Sys2Proof.Machine.execVsplat f s
  | .vcvt f => Sys2Proof.Machine.execVcvt f s
  | .vqnt f => Sys2Proof.Machine.execVqnt f s
  | .vdq f => Sys2Proof.Machine.execVdq f s
  | .vcbld f => Sys2Proof.Machine.execVcbld f s
  | .vredr f => Sys2Proof.Machine.execVredr f s
  | .vredc f => Sys2Proof.Machine.execVredc f s
  | .vtrn f => Sys2Proof.Machine.execVtrn f s
  | .vrot f => Sys2Proof.Machine.execVrot f s
  | .vperm f => Sys2Proof.Machine.execVperm f s
  | .vamrd f => Sys2Proof.Machine.execVamrd f s
  | .vamwr f => Sys2Proof.Machine.execVamwr f s
  | .vamadd f => Sys2Proof.Machine.execVamadd f s
  | .vscale f => Sys2Proof.Machine.execVscale f s
  | .vrnd f => Sys2Proof.Machine.execVrnd f s
  | .vpopk f => Sys2Proof.Machine.execVpopk f s
  | .vclamp f => Sys2Proof.Machine.execVclamp f s
  | .kand f => Sys2Proof.Machine.execKand f s
  | .kor f => Sys2Proof.Machine.execKor f s
  | .kxor f => Sys2Proof.Machine.execKxor f s
  | .kandn f => Sys2Proof.Machine.execKandn f s
  | .korn f => Sys2Proof.Machine.execKorn f s
  | .knot f => Sys2Proof.Machine.execKnot f s
  | .kmov f => Sys2Proof.Machine.execKmov f s
  | .mnop => Sys2Proof.Machine.execMnop s
  | .mldw f => Sys2Proof.Machine.execMldw f s
  | .mldwt f => Sys2Proof.Machine.execMldwt f s
  | .mswap f => Sys2Proof.Machine.execMswap f s
  | .mmul f => Sys2Proof.Machine.execMmul f s
  | .mmulz f => Sys2Proof.Machine.execMmulz f s
  | .mmult f => Sys2Proof.Machine.execMmult f s
  | .mzero f => Sys2Proof.Machine.execMzero f s
  | .mdrain f => Sys2Proof.Machine.execMdrain f s
  | .mdraint f => Sys2Proof.Machine.execMdraint f s
  | .mcbl f => Sys2Proof.Machine.execMcbl f s
  | .mclr f => Sys2Proof.Machine.execMclr f s
  | .mfence f => Sys2Proof.Machine.execMfence f s
  | .mstat f => Sys2Proof.Machine.execMstat f s
  | .mxOperationComplete => Sys2Proof.Machine.execMxOperationComplete s
  | .drainComplete => Sys2Proof.Machine.execDrainComplete s
  | .lnop => Sys2Proof.Machine.execLnop s
  | .vld f => Sys2Proof.Machine.execVld f s
  | .vldt f => Sys2Proof.Machine.execVldt f s
  | .sld f => Sys2Proof.Machine.execSld f s
  | .vldg f => Sys2Proof.Machine.execVldg f s
  | .kld f => Sys2Proof.Machine.execKld f s
  | .stSnop => Sys2Proof.Machine.execStSnop s
  | .vst f => Sys2Proof.Machine.execVst f s
  | .vstt f => Sys2Proof.Machine.execVstt f s
  | .sst f => Sys2Proof.Machine.execSst f s
  | .vsts f => Sys2Proof.Machine.execVsts f s
  | .kst f => Sys2Proof.Machine.execKst f s
  | .cnop => Sys2Proof.Machine.execCnop s
  | .copy f => Sys2Proof.Machine.execCopy f s
  | .copyt f => Sys2Proof.Machine.execCopyt f s
  | .spillt f => Sys2Proof.Machine.execSpillt f s
  | .gath f => Sys2Proof.Machine.execGath f s
  | .scat f => Sys2Proof.Machine.execScat f s
  | .amoAdd32 f => Sys2Proof.Machine.execAmoAdd32 f s
  | .amoAdd64 f => Sys2Proof.Machine.execAmoAdd64 f s
  | .amoMin f => Sys2Proof.Machine.execAmoMin f s
  | .amoMax f => Sys2Proof.Machine.execAmoMax f s
  | .amoMinu f => Sys2Proof.Machine.execAmoMinu f s
  | .amoMaxu f => Sys2Proof.Machine.execAmoMaxu f s
  | .amoAnd f => Sys2Proof.Machine.execAmoAnd f s
  | .amoOr f => Sys2Proof.Machine.execAmoOr f s
  | .amoXor f => Sys2Proof.Machine.execAmoXor f s
  | .amoSwap f => Sys2Proof.Machine.execAmoSwap f s
  | .amoFxa f => Sys2Proof.Machine.execAmoFxa f s
  | .cas f => Sys2Proof.Machine.execCas f s
  | .casw f => Sys2Proof.Machine.execCasw f s
  | .dcas f => Sys2Proof.Machine.execDcas f s
  | .enq f => Sys2Proof.Machine.execEnq f s
  | .chase f => Sys2Proof.Machine.execChase f s
  | .put f => Sys2Proof.Machine.execPut f s
  | .get f => Sys2Proof.Machine.execGet f s
  | .fenf f => Sys2Proof.Machine.execFenf f s
  | .lxfer f => Sys2Proof.Machine.execLxfer f s
  | .lxred f => Sys2Proof.Machine.execLxred f s
  | .bvec f => Sys2Proof.Machine.execBvec f s
  | .pcon f => Sys2Proof.Machine.execPcon f s
  | .preadMst f => Sys2Proof.Machine.execPreadMst f s
  | .preadWbf f => Sys2Proof.Machine.execPreadWbf f s
  | .preadWf8 f => Sys2Proof.Machine.execPreadWf8 f s
  | .preadMom f => Sys2Proof.Machine.execPreadMom f s
  | .pstat f => Sys2Proof.Machine.execPstat f s
  | .mapq f => Sys2Proof.Machine.execMapq f s
  | .pref f => Sys2Proof.Machine.execPref f s
  | .mset f => Sys2Proof.Machine.execMset f s
  | .tdec f => Sys2Proof.Machine.execTdec f s
  | .tdecH f => Sys2Proof.Machine.execTdecH f s
  | .xlinv f => Sys2Proof.Machine.execXlinv f s
  | .engineCommandStart => Sys2Proof.Machine.execEngineCommandStart s
  | .engineCommandComplete => Sys2Proof.Machine.execEngineCommandComplete s
  | .engineFault => Sys2Proof.Machine.execEngineFault s
  | .faultRestart => Sys2Proof.Machine.execFaultRestart s
  | .sySnop => Sys2Proof.Machine.execSySnop s
  | .wait kd obj sb => Sys2Proof.Machine.execWait kd obj sb s
  | .arrive obj sa => Sys2Proof.Machine.execArrive obj sa s
  | .arriveHandle h sa => Sys2Proof.Machine.execArriveHandle h sa s
  | .bari obj sa e h => Sys2Proof.Machine.execBari obj sa e h s
  | .bariAtt obj => Sys2Proof.Machine.execBariAtt obj s
  | .twait a b c => Sys2Proof.Machine.execTwait a b c s
  | .ttest kd a => Sys2Proof.Machine.execTtest kd a s
  | .fence mask scope => Sys2Proof.Machine.execFence mask scope s
  | .pnext kd rf r n => Sys2Proof.Machine.execPnext kd rf r n s
  | .padv tko rf r n => Sys2Proof.Machine.execPadv tko rf r n s
  | .pcancel => Sys2Proof.Machine.execPcancel s
  | .pstatq sd => Sys2Proof.Machine.execPstatq sd s
  | .hset h sa => Sys2Proof.Machine.execHset h sa s
  | .tend => Sys2Proof.Machine.execTend s
  | .tendComplete => Sys2Proof.Machine.execTendComplete s
  | .tspawn kd sa sb => Sys2Proof.Machine.execTspawn kd sa sb s
  | .trap code => Sys2Proof.Machine.execTrap code s
  | .brk code => Sys2Proof.Machine.execBrk code s
  | .live f => Sys2Proof.Machine.execLive f s
  | .tslot sa => Sys2Proof.Machine.execTslot sa s
  | .notify sa => Sys2Proof.Machine.execNotify sa s
  | .svc tko sa code => Sys2Proof.Machine.execSvc tko sa code s
  | .checkpoint => Sys2Proof.Machine.execCheckpoint s
  | .yieldPoint => Sys2Proof.Machine.execYieldPoint s
  | .resultVisible => Sys2Proof.Machine.execResultVisible s
  | .stallUntil => Sys2Proof.Machine.execStallUntil s
  | .withheldStoreRelease => Sys2Proof.Machine.execWithheldStoreRelease s
  | .barrierArrival => Sys2Proof.Machine.execBarrierArrival s
  | .routerCycle => Sys2Proof.Machine.execRouterCycle s
  | .creditReturn => Sys2Proof.Machine.execCreditReturn s
  | .throttleWindow => Sys2Proof.Machine.execThrottleWindow s
  | .accessTimeout => Sys2Proof.Machine.execAccessTimeout s
  | .netReadRequest => Sys2Proof.Machine.execNetReadRequest s
  | .netReadResponse => Sys2Proof.Machine.execNetReadResponse s
  | .netWrite => Sys2Proof.Machine.execNetWrite s
  | .netWriteAcknowledgement => Sys2Proof.Machine.execNetWriteAcknowledgement s
  | .mergeableAtMemoryOperation => Sys2Proof.Machine.execMergeableAtMemoryOperation s
  | .atMemoryResponse => Sys2Proof.Machine.execAtMemoryResponse s
  | .unmergeableAtMemoryOperation => Sys2Proof.Machine.execUnmergeableAtMemoryOperation s
  | .parameterRequest => Sys2Proof.Machine.execParameterRequest s
  | .parameterResponse => Sys2Proof.Machine.execParameterResponse s
  | .counterDecrement => Sys2Proof.Machine.execCounterDecrement s
  | .serviceControl => Sys2Proof.Machine.execServiceControl s
  | .flitUnknownOp => Sys2Proof.Machine.execFlitUnknownOp s
  | .ucieMessage => Sys2Proof.Machine.execUcieMessage s
  | .patrolScrub => Sys2Proof.Machine.execPatrolScrub s
  | .refreshManagement => Sys2Proof.Machine.execRefreshManagement s
  | .deadFrameRefreshStop => Sys2Proof.Machine.execDeadFrameRefreshStop s
  | .couchEngineFree => Sys2Proof.Machine.execCouchEngineFree s
  | .diffDone => Sys2Proof.Machine.execDiffDone s
  | .passEnd => Sys2Proof.Machine.execPassEnd s
  | .finalPassDone => Sys2Proof.Machine.execFinalPassDone s
  | .transitionFault => Sys2Proof.Machine.execTransitionFault s
  | .cutDone => Sys2Proof.Machine.execCutDone s
  | .mirroringEnd => Sys2Proof.Machine.execMirroringEnd s
  | .normReport => Sys2Proof.Machine.execNormReport s
  | .releaseFromCell => Sys2Proof.Machine.execReleaseFromCell s
  | .panUpdateStart => Sys2Proof.Machine.execPanUpdateStart s
  | .updateWritesDone => Sys2Proof.Machine.execUpdateWritesDone s
  | .flip => Sys2Proof.Machine.execFlip s
  | .doorbellTail => Sys2Proof.Machine.execDoorbellTail s
  | .doorbellChead => Sys2Proof.Machine.execDoorbellChead s
  | .hqsConsume => Sys2Proof.Machine.execHqsConsume s
  | .slotTakeover => Sys2Proof.Machine.execSlotTakeover s
  | .queueCloseComplete => Sys2Proof.Machine.execQueueCloseComplete s
  | .poolOverflowEntry => Sys2Proof.Machine.execPoolOverflowEntry s
  | .dispatch => Sys2Proof.Machine.execDispatch s
  | .overrunFreeze => Sys2Proof.Machine.execOverrunFreeze s
  | .freezeRequest => Sys2Proof.Machine.execFreezeRequest s
  | .freezeStop => Sys2Proof.Machine.execFreezeStop s
  | .handoverClose => Sys2Proof.Machine.execHandoverClose s
  | .trapRecord => Sys2Proof.Machine.execTrapRecord s
  | .linkUnit => Sys2Proof.Machine.execLinkUnit s
  | .replayRequest => Sys2Proof.Machine.execReplayRequest s
  | .retrain => Sys2Proof.Machine.execRetrain s
  | .linkDown => Sys2Proof.Machine.execLinkDown s
  | .trepinWrite => Sys2Proof.Machine.execTrepinWrite s
  | .trepinReadRequest => Sys2Proof.Machine.execTrepinReadRequest s
  | .trepinReadResponse => Sys2Proof.Machine.execTrepinReadResponse s
  | .trepinWriteAck => Sys2Proof.Machine.execTrepinWriteAck s
  | .trepinAtMemoryOperation => Sys2Proof.Machine.execTrepinAtMemoryOperation s
  | .trepinAtMemoryResponse => Sys2Proof.Machine.execTrepinAtMemoryResponse s
  | .fencePacket => Sys2Proof.Machine.execFencePacket s
  | .fenceResponse => Sys2Proof.Machine.execFenceResponse s
  | .trepinCounterDecrement => Sys2Proof.Machine.execTrepinCounterDecrement s
  | .podBarrierArrival => Sys2Proof.Machine.execPodBarrierArrival s
  | .trepinParameter => Sys2Proof.Machine.execTrepinParameter s
  | .scheduledBlock => Sys2Proof.Machine.execScheduledBlock s
  | .trepinPacketDiscard => Sys2Proof.Machine.execTrepinPacketDiscard s
  | .multicastReplication => Sys2Proof.Machine.execMulticastReplication s
  | .multicastGroupWrite => Sys2Proof.Machine.execMulticastGroupWrite s
  | .fabricTimeout => Sys2Proof.Machine.execFabricTimeout s
  | .lxredLandingTimeout => Sys2Proof.Machine.execLxredLandingTimeout s
  | .scheduledBlockRetry => Sys2Proof.Machine.execScheduledBlockRetry s
  | .fenceCountRetry => Sys2Proof.Machine.execFenceCountRetry s
  | .keySlotRelease => Sys2Proof.Machine.execKeySlotRelease s
  | .podTimeBase => Sys2Proof.Machine.execPodTimeBase s
  | .reset => Sys2Proof.Machine.execReset s
  | .taskReadCapabilityList => Sys2Proof.Machine.execTaskReadCapabilityList s
  | .attestCallingContext => Sys2Proof.Machine.execAttestCallingContext s
  | .taskReadErrorLog => Sys2Proof.Machine.execTaskReadErrorLog s
  | .readCapabilityList => Sys2Proof.Machine.execReadCapabilityList s
  | .openContext => Sys2Proof.Machine.execOpenContext s
  | .closeContext => Sys2Proof.Machine.execCloseContext s
  | .loadCodeObject => Sys2Proof.Machine.execLoadCodeObject s
  | .loadRuleTableEntries => Sys2Proof.Machine.execLoadRuleTableEntries s
  | .createAndMapQueue => Sys2Proof.Machine.execCreateAndMapQueue s
  | .keyExchange => Sys2Proof.Machine.execKeyExchange s
  | .loadParameterRecords => Sys2Proof.Machine.execLoadParameterRecords s
  | .attestModuleOrContext => Sys2Proof.Machine.execAttestModuleOrContext s
  | .readErrorLog => Sys2Proof.Machine.execReadErrorLog s
  | .updateFirmwareLive => Sys2Proof.Machine.execUpdateFirmwareLive s
  | .firmwareRevert => Sys2Proof.Machine.execFirmwareRevert s
  | .retireCoreOrPipeline => Sys2Proof.Machine.execRetireCoreOrPipeline s
  | .retireHbmFrame => Sys2Proof.Machine.execRetireHbmFrame s
  | .drainDie => Sys2Proof.Machine.execDrainDie s
  | .restoreDie => Sys2Proof.Machine.execRestoreDie s
  | .lifeCycleChange => Sys2Proof.Machine.execLifeCycleChange s
  | .clockStepDown => Sys2Proof.Machine.execClockStepDown s
  | .clockStepUp => Sys2Proof.Machine.execClockStepUp s
  | .coolantFlowLost => Sys2Proof.Machine.execCoolantFlowLost s
  | .phaseLate => Sys2Proof.Machine.execPhaseLate s
  | .routeExistsAgain => Sys2Proof.Machine.execRouteExistsAgain s
  | .releaseByNddb => Sys2Proof.Machine.execReleaseByNddb s

end Sys2Proof.Machine
end

