-- ==== Sys2Proof/Machine/Fetch.lean ====
section
/-! DEFINITION. Placing a bundle where the focused core fetches next (DESIGN CHOICE, log 12). -/

namespace Sys2Proof.Machine

open Sys2Proof

/-- The core runs the bundle at its pc, at the bundle's first part that is not a no-op: as if the earlier
parts had issued and the group had started. -/
def Core.withBundle (c : Core) (b : Bundle) : Core :=
  let pad : List Bundle := c.code ++ List.replicate (c.pc + 1 - c.code.length) (Vector.replicate 8 0)
  { c with
    mode := .running, code := pad.set c.pc b, slot := Slot.all.idxOf b.firstSlot
    gpos := 0, gws := [], grpIrrev := true, passed := true, landed := true
    delay := none, loop := none, freeze := none, trap := none }

/-- The next step runs the focused core's bundle. (DESIGN CHOICE, log 12) -/
def placeBundle (s : State) (b : Bundle) : State :=
  { s with core := s.core.withBundle b, agenda := [.run s.core.id] }

end Sys2Proof.Machine
end

