-- ==== Sys2Proof/Machine/Step.lean ====
section
/-! DEFINITION. One step of the machine: the agent that moves, and what it does. -/

namespace Sys2Proof.Machine

open Sys2Proof

/-- One move of an agent. (DESIGN CHOICE, log 1) -/
def stepAct (a : Act) (s : State) : Host.Outcome State Fault Refusal :=
  match a with
  | .event i o => afterExec (exec i { s with occ := o })
  | .core id i o => afterExec (exec i { s.focus id with occ := o })
  | .run id =>
    match runTodo (s.focus id) with
    | .exec i t => afterExec (exec i t)
    | .next t => .next (tock t)

/-- One step: the head of the agenda, or else an agent that may move; held in reset with nothing to do, the
machine stops (R359). (DESIGN CHOICE, log 1, log 58) -/
def step (s : State) : Host.Outcome State Fault Refusal :=
  match s.agenda with
  | a :: rest => stepAct a { s with agenda := rest }
  | [] =>
    if s.svc.holdReset then .fault .heldInReset
    else match s.nextAct with
      | some a => stepAct a s
      | none => .next (tock s)

/-- The state with an operation stored where the next step fetches and runs it (DESIGN CHOICE, log 12). -/
def State.withFetchWord (s : State) (nbits w : Nat) : State := placeBundle s (bundleOfNat (w % 2 ^ nbits))

end Sys2Proof.Machine
end

