-- ==== Sys2Proof/Safety.lean ====
section
/-! DEFINITION. What a safe run is: no step ends in a fault or a refusal, and the memory and the
accumulators of every state keep their canonical form. -/

namespace Sys2Proof

open Sys2Proof.Machine

/-- The memory keeps its canonical form. -/
abbrev Machine.State.memWf (s : State) : Prop := Memory.wf s.mem

/-- The step answers a next state. (DESIGN CHOICE, log 58) -/
def Machine.State.canStep (s : State) : Prop := ∃ t, step s = .next t

/-- A step that stops with neither a fault nor a refusal, into a state of canonical memory. -/
def Machine.State.safe (s : State) : Prop := ∃ t, step s = .next t ∧ t.memWf

end Sys2Proof
end

