-- ==== Sys2Proof/Certificates/Slice0/Obligations.lean ====
section
/-! DEFINITION. The statements for the provers. The vocabulary stands in Sys2Proof.Claim. -/

namespace Sys2Proof.Claim

open Sys2Proof Sys2Proof.Machine

/-- The operation's checks pass and its guard is on: what the state and the operands must meet for its effect
(R92, R93, R97). -/
def Runs (i : Instr) (s : State) : Prop := check i s = .go ∧ guardOff i s.core = false

/-- What every operation that issues does beside its effect: the arrivals its slot selects, the group's write
set, the next slot (R67, R73). -/
def booked (i : Instr) (s t : State) : State :=
  { t with core := { t.core with
      arrs := (s.core.addArrivals i).arrs, gws := regWrites i ++ s.core.gws, slot := s.core.slot + 1 } }

/-- The operation answers the next state `t` with the bookkeeping of its issue and nothing else. -/
def Does (i : Instr) (s t : State) : Prop := exec i s = .next (booked i s t)

/-- The operation's only effect is a result in flight, visible after `lat` groups, with flags and STAT bits
(R68, R69): every other part of the state is as before. -/
def Sends (i : Instr) (s : State) (v : ResVal) (lat : Nat) (fl : Flags) (st : BitVec 5) : Prop :=
  Does i s { s with core := { s.core with
    inflight := s.core.inflight ++ [⟨v, lat, fl, st, s.core.seq⟩], seq := s.core.seq + 1 } }

/-- A vector result over the grid under guard and zeroing, element (r, c) being `el r c` at width `w`
(R125). -/
def VecSends (i : Instr) (f : VecF) (s : State) (w lat : Nat) (el : Nat → Nat → Code × Flags) : Prop :=
  let cells := gridCells s.core.grid (guarded (s.core.rk f.gm) f.z el)
  Sends i s (.v f.vd (packGrid w cells).1 (packGrid w cells).2) lat (cellFlags cells) 0

/-- The element (r, c) of a register at the width of SHAPE. -/
def elemOf (s : State) (v : BitVec 6) (r c : Nat) : Code := velem (s.core.rv v) s.core.grid.w r c

/-- A vector result of one source, element by element. -/
def Vec1 (i : Instr) (f : VecF) (s : State) (lat : Nat) (op : Code → Code × Flags) : Prop :=
  VecSends i f s s.core.grid.w lat fun r c => op (elemOf s f.va r c)

/-- A vector result of two sources, element by element. -/
def Vec2 (i : Instr) (f : VecF) (s : State) (lat : Nat) (op : Code → Code → Code × Flags) : Prop :=
  VecSends i f s s.core.grid.w lat fun r c => op (elemOf s f.va r c) (elemOf s f.vb r c)

/-- A vector result of three sources, element by element. -/
def Vec3 (i : Instr) (f : VecF) (s : State) (lat : Nat) (op : Code → Code → Code → Code × Flags) : Prop :=
  VecSends i f s s.core.grid.w lat fun r c =>
    op (elemOf s f.va r c) (elemOf s f.vb r c) (elemOf s f.vc r c)

/-- A vector result whose elements are elements of A, moved (R134, R139). -/
def Moves (i : Instr) (f : VecF) (s : State) (src : Nat → Nat → Nat × Nat) : Prop :=
  VecSends i f s s.core.grid.w 2 fun r c => (elemOf s f.va (src r c).1 (src r c).2, 0)

/-- A mask result of an element test: guarded elements take it, masked-off ones 0 in the Z form and their old
bit without it, and bits outside the grid are written 0 (R12, R133). -/
def MaskSends (i : Instr) (f : VecF) (s : State) (el : Nat → Nat → Bool × Flags) : Prop :=
  let g := s.core.grid
  let on (r c : Nat) : Bool := (s.core.rk f.gm).getLsbD (r * 32 + c)
  ∃ m en : Mask, ∃ fl : Flags,
    Sends i s (.k (f.vd.setWidth 4) m en) 1 fl 0 ∧
    (∀ r < 8, ∀ c < 32,
      (m.getLsbD (r * 32 + c) = (decide (r < g.rows ∧ c < g.cols) && on r c && (el r c).1)) ∧
      (en.getLsbD (r * 32 + c) = (!decide (r < g.rows ∧ c < g.cols) || on r c || f.z))) ∧
    (∀ j < 5, fl.getLsbD j = true ↔ ∃ r < g.rows, ∃ c < g.cols, on r c = true ∧ (el r c).2.getLsbD j = true)

/-- An integer is the rounding of a real under a mode (R47). -/
def Rounds (m : RMode) (q : ℚ) (n : Int) : Prop :=
  match m with
  | .rne => |q - n| ≤ 1 / 2 ∧ (|q - n| = 1 / 2 → n % 2 = 0)
  | .rna => |q - n| ≤ 1 / 2 ∧ (|q - n| = 1 / 2 → |q| < |(n : ℚ)|)
  | .rtz => |(n : ℚ)| ≤ |q| ∧ |q - n| < 1
  | .rdn => (n : ℚ) ≤ q ∧ q < n + 1
  | .rup => q ≤ n ∧ (n : ℚ) < q + 1

/-- A list is reduced by the fixed pairwise tree: `x k` is the list after k levels; at each level the pairs at 2 i and
2 i + 1 are combined and an odd last element is carried; an empty list gives `empty` (R56, R138). -/
def Reduces (op : Code → Code → Code × Flags) (empty : Code) (l : List Code) (r : Code × Flags) : Prop :=
  ∃ x : Nat → List Code, x 0 = l ∧
    (∀ k, (x (k + 1)).length = ((x k).length + 1) / 2 ∧ ∀ i,
      (2 * i + 1 < (x k).length →
        (x (k + 1)).getD i 0 = (op ((x k).getD (2 * i) 0) ((x k).getD (2 * i + 1) 0)).1) ∧
      (2 * i + 1 = (x k).length → (x (k + 1)).getD i 0 = (x k).getD (2 * i) 0)) ∧
    r.1 = (x 5).getD 0 empty ∧
    ∀ b < 5, r.2.getLsbD b = true ↔ ∃ k < 5, ∃ i, 2 * i + 1 < (x k).length ∧
      (op ((x k).getD (2 * i) 0) ((x k).getD (2 * i + 1) 0)).2.getLsbD b = true

/-- The code of a tile's logical element (r, c), read from the scratchpad's bytes at its place (R147, R148). -/
def tileCode (s : State) (t : BitVec 7) (tr : Bool) (r c : Nat) : Nat :=
  let w := TileE.width (s.core.tile t)
  let b := TileE.bitAddr (s.core.tile t) tr r c
  natOfBytes (s.peekBytes (spadBase s.core.id + b / 8) ((w + 7) / 8)) / 2 ^ (b % 8) % 2 ^ w

/-- The bytes of codes of `w` bits that are set one after another at bit addresses; of a nibble's byte the other half is
the last one set there, or as it stands. -/
def SetBytes (s : State) (w : Nat) (codes : List (Nat × Code)) (l : List (Nat × Byte)) : Prop :=
  (w ≠ 4 → l = codes.flatMap fun p => cellsFrom (p.1 / 8) (bytesOfNat (w / 8) p.2.toNat)) ∧
  (w = 4 → ∀ a, a % 8 = 0 ∨ a % 8 = 4 →
    (∀ x, lastOf codes a = some x → ∃ b, lastOf l (a / 8) = some b ∧ b.toNat / 2 ^ (a % 8) % 16 = x.toNat % 16) ∧
    (lastOf codes a = none → ∀ b, lastOf l (a / 8) = some b →
      b.toNat / 2 ^ (a % 8) % 16 = (s.peek (spadBase s.core.id + a / 8)).toNat / 2 ^ (a % 8) % 16))

/-- A packet is answered, with a key for its module and a port that reaches it: a message takes the answer, of a type
and with what AUX holds, to its gateway (R343, R346). -/
def AnswersPacket (s u : State) (p : Packet) (type : BitVec 8) (aux : BitVec 32) : Prop :=
  (s.keySlot p.smod true (s.sendIx p.smod)).isSome = true → (p.smod = s.modid ∨ s.routePorts p.smod ≠ []) →
    ∃ n a, u.net.msgs.getLast? = some n ∧ n.packet = some a ∧ a.type = type ∧ a.aux = aux ∧ a.pid = p.pid ∧
      a.dmod = p.smod ∧ a.addr = p.addr

/-- No request that came before makes another one wait (R361, R365, R368). -/
def NothingWaits (s : State) : Prop :=
  s.svc.update = none ∧ s.svc.requests = [] ∧ s.svc.inbox = [] ∧ s.svc.loads = []

/-- The log's records stand in SEQ order, below the number that the next one gets (R366). -/
def LogInOrder (s : State) : Prop :=
  (s.svc.log.Pairwise fun a b => a.seq.toNat < b.seq.toNat) ∧ ∀ r ∈ s.svc.log, r.seq.toNat < s.svc.nextSeq.toNat

/-- The module after a response that the service gives to what it serves now, and nothing else changed (R360). -/
def Responded (s : State) (code status : BitVec 16) (payload : List Byte) : State :=
  { s with svc := { s.svc with
      responses := s.svc.responses ++ [⟨code, status, s.svc.asker.tag, s.svc.asker.ctx, payload⟩] } }

/-- Mesh hops between two routers (R291). -/
def hops (a b : BitVec 6) : Nat :=
  (rowOf a - rowOf b) + (rowOf b - rowOf a) + ((colOf a - colOf b) + (colOf b - colOf a))

end Sys2Proof.Claim

open Sys2Proof Sys2Proof.Machine Sys2Proof.Claim

/-! ### The scalar slot -/

/-- R100: results and latencies of the scalar arithmetic, nothing else changed. R101: results of the logic and shift
operations; a shift uses b<5:0> alone. -/
def Obligations.ScalarArithmeticAndLogicResults : Prop :=
  (∀ (f : ScF) (s : State),
  let a := s.core.rs f.sa
  let b := scB f s.core
  let ones : Word := 0xFFFFFFFFFFFFFFFF
  (Runs (.add f) s → Sends (.add f) s (.s f.sd (a + b)) 1 0 0) ∧
  (Runs (.sub f) s → Sends (.sub f) s (.s f.sd (a - b)) 1 0 0) ∧
  (Runs (.mul f) s → Sends (.mul f) s (.s f.sd (BitVec.ofNat 64 (a.toNat * b.toNat))) 3 0 0) ∧
  (Runs (.mulh f) s → Sends (.mulh f) s
    (.s f.sd (BitVec.extractLsb' 64 64 (a.signExtend 128 * b.signExtend 128))) 3 0 0) ∧
  (Runs (.div f) s → Sends (.div f) s (.s f.sd (if b.toInt = 0 then ones
    else if a.toInt = -2 ^ 63 ∧ b.toInt = -1 then BitVec.ofInt 64 (-2 ^ 63)
    else BitVec.ofInt 64 (a.toInt.tdiv b.toInt))) 12 0 0) ∧
  (Runs (.divu f) s → Sends (.divu f) s (.s f.sd (if b.toNat = 0 then ones
    else BitVec.ofNat 64 (a.toNat / b.toNat))) 12 0 0) ∧
  (Runs (.rem f) s → Sends (.rem f) s (.s f.sd (if b.toInt = 0 then a
    else if a.toInt = -2 ^ 63 ∧ b.toInt = -1 then 0
    else BitVec.ofInt 64 (a.toInt - b.toInt * a.toInt.tdiv b.toInt))) 12 0 0) ∧
  (Runs (.remu f) s → Sends (.remu f) s (.s f.sd (if b.toNat = 0 then a
    else BitVec.ofNat 64 (a.toNat % b.toNat))) 12 0 0)) ∧
  (∀ (f : ScF) (s : State),
  let a := s.core.rs f.sa
  let b := scB f s.core
  let n := b.toNat % 64
  (Runs (.and f) s → Sends (.and f) s (.s f.sd (a &&& b)) 1 0 0) ∧
  (Runs (.or f) s → Sends (.or f) s (.s f.sd (a ||| b)) 1 0 0) ∧
  (Runs (.xor f) s → Sends (.xor f) s (.s f.sd (a ^^^ b)) 1 0 0) ∧
  (Runs (.andn f) s → Sends (.andn f) s (.s f.sd (a &&& ~~~b)) 1 0 0) ∧
  (Runs (.shl f) s → Sends (.shl f) s (.s f.sd (BitVec.ofNat 64 (a.toNat * 2 ^ n))) 1 0 0) ∧
  (Runs (.shr f) s → Sends (.shr f) s (.s f.sd (BitVec.ofNat 64 (a.toNat / 2 ^ n))) 1 0 0) ∧
  (Runs (.sar f) s → Sends (.sar f) s (.s f.sd (BitVec.ofInt 64 (a.toInt / 2 ^ n))) 1 0 0) ∧
  (Runs (.rot f) s → Sends (.rot f) s
    (.s f.sd (BitVec.ofNat 64 (a.toNat * 2 ^ n + a.toNat / 2 ^ (64 - n)))) 1 0 0))

/-- R102 to R104: compares fill a mask, SEL reads GK as its condition, MIN and MAX are signed. R105 to R107: LEA,
the constants and the bit counts. -/
def Obligations.ScalarCompareSelectCountResults : Prop :=
  (∀ (f : ScF) (s : State),
  let a := s.core.rs f.sa
  let b := scB f s.core
  let kd : BitVec 4 := f.sd.setWidth 4
  let all : Mask := BitVec.allOnes 256
  let fill (p : Prop) [Decidable p] : ResVal := .k kd (if p then all else 0) all
  (Runs (.cmpeq f) s → Sends (.cmpeq f) s (fill (a = b)) 1 0 0) ∧
  (Runs (.cmplt f) s → Sends (.cmplt f) s (fill (a.toInt < b.toInt)) 1 0 0) ∧
  (Runs (.cmpltu f) s → Sends (.cmpltu f) s (fill (a.toNat < b.toNat)) 1 0 0) ∧
  (Runs (.cmple f) s → Sends (.cmple f) s (fill (a.toInt ≤ b.toInt)) 1 0 0) ∧
  (Runs (.sel f) s → Sends (.sel f) s
    (.s f.sd (if (s.core.rk f.gk).getLsbD 0 then a else b)) 1 0 0) ∧
  (Runs (.min f) s → Sends (.min f) s (.s f.sd (BitVec.ofInt 64 (min a.toInt b.toInt))) 1 0 0) ∧
  (Runs (.max f) s → Sends (.max f) s (.s f.sd (BitVec.ofInt 64 (max a.toInt b.toInt))) 1 0 0)) ∧
  (∀ (f : ScF) (s : State),
  let a := s.core.rs f.sa
  (Runs (.lea f) s → Sends (.lea f) s (.s f.sd (BitVec.ofInt 64 ((a.toNat : Int)
    + (s.core.rs f.sb).toNat * 2 ^ (bits f.imm 24 3).toNat + (bits f.imm 0 24).toInt))) 1 0 0) ∧
  (Runs (.movi f) s → Sends (.movi f) s (.s f.sd (BitVec.ofInt 64 f.imm.toInt)) 1 0 0) ∧
  (Runs (.movhi f) s → Sends (.movhi f) s
    (.s f.sd (BitVec.ofNat 64 (f.imm.toNat * 2 ^ 32 + a.toNat % 2 ^ 32))) 1 0 0) ∧
  (Runs (.popc f) s → Sends (.popc f) s
    (.s f.sd (BitVec.ofNat 64 ((List.range 64).countP fun i => a.getLsbD i))) 1 0 0) ∧
  (Runs (.clz f) s → ∃ n ≤ 64, Sends (.clz f) s (.s f.sd (BitVec.ofNat 64 n)) 1 0 0 ∧
    a.toNat < 2 ^ (64 - n) ∧ (n < 64 → a.getLsbD (63 - n) = true)) ∧
  (Runs (.ctz f) s → ∃ n ≤ 64, Sends (.ctz f) s (.s f.sd (BitVec.ofNat 64 n)) 1 0 0 ∧
    2 ^ n ∣ a.toNat ∧ (n < 64 → a.getLsbD n = true)))

/-- R79, R109: a taken branch issues the rest of its own bundle and two delay bundles, then its target; the link
value is the branch's index + 3. R110, R111: LOOP reads the counts of its dimensions once; a count of 0 skips
the body after this bundle, else the body runs from the next bundle with every index 0. The bundle from which
the delay and a skipped body count is the reading of log 38. -/
def Obligations.BranchAndLoopEffects : Prop :=
  (∀ (f : ScF) (s : State),
  let goes (t : Option Nat) : State := { s with core := { s.core with delay := some ⟨3, t⟩ } }
  let link (t : Nat) : State := { s with core := { s.core with
    delay := some ⟨3, some t⟩, seq := s.core.seq + 1
    inflight := s.core.inflight ++ [⟨.s f.sd (BitVec.ofNat 64 (s.core.pc + 3)), 1, 0, 0, s.core.seq⟩] } }
  let rel := ((s.core.pc : Int) + f.imm.toInt).toNat
  (Runs (.br f) s → Does (.br f) s (goes (some rel))) ∧
  (Runs (.brc f) s → Does (.brc f) s
    (goes (if (s.core.rk f.gk).getLsbD 0 then some rel else none))) ∧
  (Runs (.call f) s → Does (.call f) s (link rel)) ∧
  (Runs (.ret f) s → Does (.ret f) s (goes (some (s.core.rs f.sa).toNat))) ∧
  (Runs (.jr f) s → f.sd ≠ 0 → Does (.jr f) s (link (s.core.rs f.sa).toNat)) ∧
  (Runs (.jr f) s → f.sd = 0 → Does (.jr f) s (goes (some (s.core.rs f.sa).toNat)))) ∧
  (∀ (f : ScF) (s : State),
  let d := (bits f.imm 6 3).toNat + 1
  let body := (bits f.imm 0 6).toNat + 1
  let counts := (List.range d).map fun j => Nest.cnt (s.nestAt (s.core.rs f.sa).toNat) j
  (Runs (.loop f) s → 0 ∈ counts →
    Does (.loop f) s { s with core := { s.core with delay := some ⟨1, some (s.core.pc + 1 + body)⟩ } }) ∧
  (Runs (.loop f) s → 0 ∉ counts →
    Does (.loop f) s { s with core := { s.core with
      loop := some ⟨s.core.pc + 1, body, counts, List.replicate d 0⟩ } }))

/-- R113 to R116: control registers, words of masks, SHAPE and the identity. That MOVKS merges with the mask as it
stood at issue is the reading of log 27. -/
def Obligations.ControlMaskIdentityResults : Prop := ∀ (f : ScF) (s : State),
  let a := s.core.rs f.sa
  let w := 64 * (bits f.imm 0 2).toNat
  let kd : BitVec 4 := f.sd.setWidth 4
  (Runs (.movcr f) s → ∃ x, s.readCr f.imm.toNat = some x ∧ Sends (.movcr f) s (.s f.sd x) 1 0 0) ∧
  (Runs (.movrc f) s → f.imm.toNat ∈ [0, 1, 2, 4, 8] ∧
    Sends (.movrc f) s (.cr (f.imm.setWidth 6) a) 1 0 0) ∧
  (Runs (.movsk f) s → Sends (.movsk f) s
    (.s f.sd (BitVec.extractLsb' w 64 (s.core.rk (f.sa.setWidth 4)))) 1 0 0) ∧
  (Runs (.movks f) s → ∃ m : Mask, Sends (.movks f) s (.k kd m (BitVec.allOnes 256)) 1 0 0 ∧
    ∀ i < 256, m.getLsbD i =
      if w ≤ i ∧ i < w + 64 then a.getLsbD (i - w) else (s.core.rk kd).getLsbD i) ∧
  (Runs (.shape f) s → Sends (.shape f) s
    (.cr 1 (if f.i then f.imm.setWidth 64 else a)) 1 0 0) ∧
  (Runs (.getid f) s → ∃ x : Word, Sends (.getid f) s (.s f.sd x) 1 0 0 ∧
    match f.imm.toNat with
    | 0 => x.toNat = s.modid.toNat * 2 ^ 12 + s.core.id.toNat
    | 1 => x = ((s.core.task.map TaskInfo.gidx).getD 0).setWidth 64
    | 2 => x = ((s.core.task.map TaskInfo.gang).getD 1).setWidth 64
    | _ => x = ((s.core.task.map TaskInfo.rank).getD 0).setWidth 64)

/-- R16, R117, R118: AALLOC takes the lowest run of free banks, which read as zero, or writes −1 and changes no
bank; AFREE releases the banks it names, written to zero. -/
def Obligations.AccumulatorBanksTakenAndFreed : Prop := ∀ (f : ScF) (s : State),
  let n := (scB f s.core).toNat
  let free (b : Nat) : Prop := b + n ≤ 32 ∧ ∀ i < n, s.core.own.getLsbD (b + i) = false
  let base := (s.core.rs f.sa).toNat
  let within (b k : Nat) : Prop := b ≤ k ∧ k < b + n
  let cleared (b : Nat) (t : State) : Prop := ∀ k,
    (within b (k / 6144) → Sparse.get 0 t.core.acc k = 0) ∧
    (¬ within b (k / 6144) → Sparse.get 0 t.core.acc k = Sparse.get 0 s.core.acc k)
  let res (b : Nat) : List Result := [⟨.s f.sd (BitVec.ofNat 64 b), 1, 0, 0, s.core.seq⟩]
  (Runs (.aalloc f) s → (¬ (1 ≤ n ∧ n ≤ 32) ∨ ∀ b, ¬ free b) →
    Sends (.aalloc f) s (.s f.sd 0xFFFFFFFFFFFFFFFF) 1 0 0) ∧
  (Runs (.aalloc f) s → 1 ≤ n → n ≤ 32 → ∀ b, free b → (∀ c < b, ¬ free c) →
    ∃ t, exec (.aalloc f) s = .next t ∧
      t = booked (.aalloc f) s { s with core := { s.core with
        own := t.core.own, acc := t.core.acc, poisonedBanks := t.core.poisonedBanks
        poisonedWords := t.core.poisonedWords
        inflight := s.core.inflight ++ res b, seq := s.core.seq + 1 } } ∧
      (∀ i < 32, t.core.own.getLsbD i = true ↔ (s.core.own.getLsbD i = true ∨ within b i)) ∧ cleared b t) ∧
  (Runs (.afree f) s → ∃ t, exec (.afree f) s = .next t ∧
    t = booked (.afree f) s { s with core := { s.core with
      own := t.core.own, acc := t.core.acc, poisonedBanks := t.core.poisonedBanks
      poisonedWords := t.core.poisonedWords } } ∧
    (∀ i < 32, t.core.own.getLsbD i = true ↔ (s.core.own.getLsbD i = true ∧ ¬ within base i)) ∧
    cleared base t)

/-- R119 to R122: TLOOK finds the lowest entry of a tag, TDEF copies an image as an empty entry, TSTATE reads an
entry into two registers, TFREE empties one and clears its tag. That TFREE keeps PTOK is the reading of log 35. -/
def Obligations.TileTableEffects : Prop := ∀ (f : ScF) (s : State),
  let n : BitVec 7 := f.imm.setWidth 7
  let e := s.core.tile n
  let tag (i : Nat) : Word32 := TileE.tag (s.core.tile (BitVec.ofNat 7 i))
  let x : Word32 := (s.core.rs f.sa).setWidth 32
  let writes (i : Instr) (e' : BitVec 128) : Prop :=
    Does i s { s with core := { s.core with tiles := s.core.tiles.set n.toNat e' n.isLt } }
  (Runs (.tlook f) s → ∀ i < 128, x ≠ 0 → tag i = x → (∀ j < i, tag j ≠ x) →
    Sends (.tlook f) s (.s f.sd (BitVec.ofNat 64 i)) 1 0 0) ∧
  (Runs (.tlook f) s → (x = 0 ∨ ∀ i < 128, tag i ≠ x) →
    Sends (.tlook f) s (.s f.sd 0xFFFFFFFFFFFFFFFF) 1 0 0) ∧
  (Runs (.tdef f) s → ∃ e', writes (.tdef f) e' ∧ TileE.state e' = TileE.empty ∧ TileE.ptok e' = 0 ∧
    TileE.withState e' 0 0 = TileE.withState
      (BitVec.ofNat 128 (natOfBytes (s.spadBytes (s.core.rs f.sa).toNat 16))) 0 0) ∧
  (Runs (.tstate f) s → Does (.tstate f) s { s with core := { s.core with
    inflight := s.core.inflight ++ [⟨.s f.sd (BitVec.extractLsb' 0 64 e), 1, 0, 0, s.core.seq⟩,
      ⟨.s (f.sd + 1) (BitVec.extractLsb' 64 64 e), 1, 0, 0, s.core.seq + 1⟩]
    seq := s.core.seq + 2 } }) ∧
  (Runs (.tfree f) s → ∃ e', writes (.tfree f) e' ∧ TileE.tag e' = 0 ∧ TileE.state e' = TileE.empty ∧
    ∀ i < 96, ¬ (32 ≤ i ∧ i < 34) → e'.getLsbD i = e.getLsbD i)

/-! ### No-ops and guards -/

/-- R63, R161, R216: the no-ops, MFENCE, TWAIT and TSLOT change nothing once they issue. R97, R167, R168: an
operation whose guard bit is 0 at issue changes nothing, and still issues. -/
def Obligations.NoOpsAndGuardedOffChangeNothing : Prop :=
  (∀ (s : State) (f : MxF) (a b c sa : BitVec 6),
  ∀ i ∈ [.nop, .vnop, .mnop, .lnop, .stSnop, .cnop, .sySnop, .mfence f, .twait a b c, .tslot sa],
    Runs i s → Does i s s) ∧
  (∀ (i : Instr) (s : State),
  check i s = .go → guardOff i s.core = true → Does i s s)

/-! ### The vector slots -/

/-- R128, R129: sums, products and fused forms rounded once; minimum, maximum; the sign bit. R129: of two NaNs the
canonical one, of one NaN the other operand, −0 below +0, NV for a signalling NaN. R47, R50: a finite value that does
not overflow is rounded to an integer of the last place of its own exponent, and NX says that this changed it. -/
def Obligations.VectorFloatResults : Prop := (∀ (f : VecF) (s : State),
  let env := vEnv f s.core
  let t := vTy f
  let x (a : Code) : XR := decodeOperand env t a
  let w := s.core.grid.w
  let rnd (y : XR) : Code × Flags := roundFp env t y
  let plus (a b : XR) : XR := XR.add env.mode a b
  let neg (y : XR) : XR := if f.fn = 1 then y.neg else y
  (Runs (.vadd f) s → Vec2 (.vadd f) f s 2 fun a b => rnd (plus (x a) (x b))) ∧
  (Runs (.vsub f) s → Vec2 (.vsub f) f s 2 fun a b => rnd (plus (x a) (x b).neg)) ∧
  (Runs (.vmul f) s → Vec2 (.vmul f) f s 4 fun a b => rnd ((x a).mul (x b))) ∧
  (Runs (.vfma f) s → Vec3 (.vfma f) f s 4 fun a b c => rnd (plus (neg ((x a).mul (x b))) (x c))) ∧
  (Runs (.vfms f) s → Vec3 (.vfms f) f s 4 fun a b c => rnd (plus (neg ((x a).mul (x b))) (x c).neg)) ∧
  (Runs (.vmin f) s → Vec2 (.vmin f) f s 2 (fpMinMax t false)) ∧
  (Runs (.vmax f) s → Vec2 (.vmax f) f s 2 (fpMinMax t true)) ∧
  (Runs (.vabs f) s → Vec1 (.vabs f) f s 2 fun a => (BitVec.ofNat 64 (a.toNat % 2 ^ (w - 1)), 0)) ∧
  (Runs (.vneg f) s → Vec1 (.vneg f) f s 2 fun a =>
    (BitVec.ofNat 64 ((a.toNat % 2 ^ w + 2 ^ (w - 1)) % 2 ^ w), 0))) ∧
  (∀ (t : Fmt) (hi : Bool) (a b : Code),
  let x := decodeFp t a
  let y := decodeFp t b
  let r := fpMinMax t hi a b
  let low : Code := if hi then b else a
  let high : Code := if hi then a else b
  (isNan x = true → isNan y = true → r.1 = BitVec.ofNat 64 t.nanCode) ∧
  (isNan x = true → isNan y = false → r.1 = b) ∧ (isNan x = false → isNan y = true → r.1 = a) ∧
  (r.2 = if isSnan x || isSnan y then Flags.nv else 0) ∧
  (∀ p n q m, x = .fin p n → y = .fin q m →
    (p < q → r.1 = low) ∧ (q < p → r.1 = high) ∧
    (p = q → n = true → m = false → r.1 = low) ∧ (p = q → n = false → m = true → r.1 = high)) ∧
  (isNan y = false → (x = .inf true → r.1 = low) ∧ (x = .inf false → y ≠ .inf false → r.1 = high)) ∧
  (isNan x = false → (y = .inf true → x ≠ .inf true → r.1 = high) ∧ (y = .inf false → r.1 = low))) ∧
  (∀ (env : FpEnv) (t : Fmt) (q : ℚ), t.isFp = true → env.fzo = false → q ≠ 0 → |q| ≤ maxFinite t →
  let neg := decide (q < 0)
  let r := roundFp env t (.fin q neg)
  let lowest : Int := 1 - (t.bias : Int) - (t.mbits : Int)
  ∃ n e : Int, lowest ≤ e ∧ |n| ≤ 2 ^ (t.mbits + 1) ∧ (e = lowest ∨ 2 ^ t.mbits ≤ |n|) ∧
    Rounds env.mode (q / pow2 e) n ∧ decodeFp t r.1 = .fin (n * pow2 e) neg ∧
    r.2.getLsbD 3 = decide ((n : ℚ) * pow2 e ≠ q) ∧ r.2.getLsbD 0 = false ∧ r.2.getLsbD 1 = false)

/-- R130: the functions of one element, every row of their tables: NaN, infinities, zeros and negative arguments with
their flags; the reciprocal rounded once; the reciprocal root rounded as a number that lies on the side of every
multiple of 2^-200 on which 1/√x lies; the exact results of the others. Elsewhere those round an enclosure of the
value; one the enclosure does not decide is the free value of log 6. -/
def Obligations.VectorFunctionResults : Prop := ∀ (f : VecF) (s : State),
  let env := vEnv f s.core
  let t := vTy f
  let rnd (y : XR) : Code × Flags := roundFp env t y
  let num (q : ℚ) : Code × Flags := rnd (XR.ofRat q false)
  let invalid : Code × Flags := (BitVec.ofNat 64 t.nanCode, Flags.nv)
  let byZero (neg : Bool) : Code × Flags := ((rnd (.inf neg)).1, Flags.dz)
  let row (i : Instr) (result : XR → Code → Code × Flags → Prop) : Prop := Runs i s →
    ∃ op : Code → Code × Flags, Vec1 i f s 8 op ∧ ∀ a, match decodeOperand env t a with
      | .nan nv => op a = (BitVec.ofNat 64 t.nanCode, if nv then Flags.nv else 0)
      | x => result x a (op a)
  row (.vrcp f) (fun x _ r => match x with
    | .fin q neg => r = if q = 0 then byZero neg else rnd (.fin (1 / q) neg)
    | .inf neg => r = rnd (.fin 0 neg)
    | .nan _ => True) ∧
  row (.vrsq f) (fun x _ r => match x with
    | .fin q neg => if q = 0 then r = byZero neg else if q < 0 then r = invalid
      else ∃ y : ℚ, 0 < y ∧ r = rnd (.fin y false) ∧ ∀ k : Nat, let b : ℚ := k * pow2 (-200)
        (b < y ↔ b * b < 1 / q) ∧ (b = y ↔ b * b = 1 / q)
    | .inf neg => r = if neg then invalid else rnd (.fin 0 false)
    | .nan _ => True) ∧
  row (.vexp2 f) (fun x a r => match x with
    | .fin q _ => if q.den = 1 ∧ |q| ≤ 1000 then r = num (pow2 q.num)
      else if |q| < 1000 then r = roundEnclosed env t .exp2 q a
      else r = num (pow2 (if 0 < q then 1000 else -1000))
    | .inf neg => r = if neg then rnd (.fin 0 false) else rnd (.inf false)
    | .nan _ => True) ∧
  row (.vlog2 f) (fun x a r => match x with
    | .fin q _ => if q = 0 then r = byZero true else if q < 0 then r = invalid
      else (∀ n : Int, q = pow2 n → r = num n) ∧
        ((∀ n : Int, q ≠ pow2 n) → r = roundEnclosed env t .log2 q a)
    | .inf neg => r = if neg then invalid else rnd (.inf false)
    | .nan _ => True) ∧
  row (.vtanh f) (fun x a r => match x with
    | .fin q neg => if q = 0 then r = rnd (.fin 0 neg)
      else if |q| < 100 then r = roundEnclosed env t .tanh q a
      else r = num (if 0 < q then 1 - pow2 (-150) else pow2 (-150) - 1)
    | .inf neg => r = num (if neg then -1 else 1)
    | .nan _ => True) ∧
  row (.vsin f) (fun x a r => match x with
    | .fin q neg => if q = 0 then r = rnd (.fin 0 neg)
      else (∀ n : Int, 4 * q = n → r = num (if n % 4 = 1 then 1 else if n % 4 = 3 then -1 else 0)) ∧
        ((∀ n : Int, 4 * q ≠ n) → r = roundEnclosed env t .sin q a)
    | .inf _ => r = invalid
    | .nan _ => True) ∧
  row (.vcos f) (fun x a r => match x with
    | .fin q _ => (∀ n : Int, 4 * q = n → r = num (if n % 4 = 0 then 1 else if n % 4 = 2 then -1 else 0)) ∧
        ((∀ n : Int, 4 * q ≠ n) → r = roundEnclosed env t .cos q a)
    | .inf _ => r = invalid
    | .nan _ => True)

/-- R131: complex products of pairs of columns, guarded by the even column, rounded once a part; an odd last column
is unchanged. The signs of zero parts are the reading of log 34. -/
def Obligations.VectorComplexResults : Prop := ∀ (f : VecF) (s : State),
  let env := vEnv f s.core
  let g := s.core.grid
  let x (v : BitVec 6) (r c : Nat) : XR := decodeOperand env (vTy f) (velem (s.core.rv v) 32 r c)
  let part (r c : Nat) : XR :=
    let j := c / 2 * 2
    let bi := if f.fn.getLsbD 0 then (x f.vb r (j + 1)).neg else x f.vb r (j + 1)
    let p := if c % 2 = 0 then XR.add env.mode ((x f.va r j).mul (x f.vb r j)) ((x f.va r (j + 1)).mul bi).neg
      else XR.add env.mode ((x f.va r j).mul bi) ((x f.va r (j + 1)).mul (x f.vb r j))
    if f.fn.getLsbD 1 then p.neg else p
  let cells (fma : Bool) := gridCells g fun r c =>
    if g.cols ≤ c / 2 * 2 + 1 then none
    else if (s.core.rk f.gm).getLsbD (r * 32 + c / 2 * 2) then
      some (roundFp env (vTy f) (if fma then XR.add env.mode (part r c) (x f.vc r c) else part r c))
    else if f.z then some (0, 0) else none
  let sends (i : Instr) (l : List (List CellW)) : Prop :=
    Sends i s (.v f.vd (packGrid 32 l).1 (packGrid 32 l).2) 4 (cellFlags l) 0
  (Runs (.vcmul f) s → sends (.vcmul f) (cells false)) ∧
  (Runs (.vcfma f) s → sends (.vcfma f) (cells true))

/-- R132: integer sums, differences and products in their three forms, minimum and maximum, shifts modulo the width,
bitwise operations. -/
def Obligations.VectorIntegerResults : Prop := ∀ (f : VecF) (s : State),
  let w := s.core.grid.w
  let u (a : Code) : Int := ((a.toNat % 2 ^ w : Nat) : Int)
  let i (a : Code) : Int := if 2 ^ (w - 1) ≤ a.toNat % 2 ^ w then u a - 2 ^ w else u a
  let code (n : Int) : Code × Flags := (BitVec.ofInt 64 n, 0)
  let clip (lo hi n : Int) : Int := max lo (min hi n)
  let arith (op : Int → Int → Int) (a b : Code) : Code × Flags := code (match f.fn.toNat with
    | 1 => clip (-2 ^ (w - 1)) (2 ^ (w - 1) - 1) (op (i a) (i b))
    | 2 => clip 0 (2 ^ w - 1) (op (u a) (u b))
    | _ => op (i a) (i b))
  let side (a : Code) : Int := if f.fn = 1 then u a else i a
  let amount (b : Code) : Nat := (if f.fn = 0 then b.toNat % 2 ^ w else (bits f.imm 0 5).toNat) % w
  (Runs (.viadd f) s → Vec2 (.viadd f) f s 2 (arith fun a b => a + b)) ∧
  (Runs (.visub f) s → Vec2 (.visub f) f s 2 (arith fun a b => a - b)) ∧
  (Runs (.vimul f) s → Vec2 (.vimul f) f s 2 fun a b => code (match f.fn.toNat with
    | 1 => i a * i b / 2 ^ w
    | 2 => u a * u b / 2 ^ w
    | _ => i a * i b)) ∧
  (Runs (.vimin f) s → Vec2 (.vimin f) f s 2 fun a b => (if side b < side a then b else a, 0)) ∧
  (Runs (.vimax f) s → Vec2 (.vimax f) f s 2 fun a b => (if side b < side a then a else b, 0)) ∧
  (Runs (.vshl f) s → Vec2 (.vshl f) f s 2 fun a b => (a <<< amount b, 0)) ∧
  (Runs (.vshr f) s → Vec2 (.vshr f) f s 2 fun a b => (a >>> amount b, 0)) ∧
  (Runs (.vsar f) s → Vec2 (.vsar f) f s 2 fun a b => code (i a / 2 ^ amount b)) ∧
  (Runs (.vand f) s → Vec2 (.vand f) f s 2 fun a b => (a &&& b, 0)) ∧
  (Runs (.vor f) s → Vec2 (.vor f) f s 2 fun a b => (a ||| b, 0)) ∧
  (Runs (.vxor f) s → Vec2 (.vxor f) f s 2 fun a b => (a ^^^ b, 0))

/-- R12, R133: compares and classes write a mask. R133: a floating-point compare is false when an operand is a NaN;
equality signals on a signalling NaN alone, the others on any NaN; otherwise it compares the exact values. -/
def Obligations.VectorCompareResults : Prop :=
  (∀ (f : VecF) (s : State),
  let t := vTy f
  let w := s.core.grid.w
  let side (a : Code) : Int := if f.fn = 1 then ((a.toNat % 2 ^ w : Nat) : Int) else intOf w a
  let test (k : Nat) (op : Int → Int → Bool) (r c : Nat) : Bool × Flags :=
    let a := elemOf s f.va r c
    let b := elemOf s f.vb r c
    if t.isFp then fpCmp t k a b else (op (side a) (side b), 0)
  (Runs (.vcmpeq f) s → MaskSends (.vcmpeq f) f s (test 0 fun a b => decide (a = b))) ∧
  (Runs (.vcmplt f) s → MaskSends (.vcmplt f) f s (test 1 fun a b => decide (a < b))) ∧
  (Runs (.vcmple f) s → MaskSends (.vcmple f) f s (test 2 fun a b => decide (a ≤ b))) ∧
  (Runs (.vclass f) s → MaskSends (.vclass f) f s fun r c =>
    (f.imm.getLsbD (classOf t (elemOf s f.va r c)), 0))) ∧
  (∀ (t : Fmt) (a b : Code),
  let nan := isNan (decodeFp t a) || isNan (decodeFp t b)
  let snan := isSnan (decodeFp t a) || isSnan (decodeFp t b)
  (nan = true → ∀ k, (fpCmp t k a b).1 = false) ∧
  ((fpCmp t 0 a b).2 = (if snan then Flags.nv else 0)) ∧
  (∀ k, k ≠ 0 → (fpCmp t k a b).2 = (if nan then Flags.nv else 0)) ∧
  (∀ p q n m, decodeFp t a = .fin p n → decodeFp t b = .fin q m →
    (fpCmp t 0 a b).1 = decide (p = q) ∧ (fpCmp t 1 a b).1 = decide (p < q) ∧
    (fpCmp t 2 a b).1 = decide (p ≤ q)))

/-- R134, R139: selection, moves, broadcasts, constants and permutations. -/
def Obligations.VectorMoveResults : Prop := ∀ (f : VecF) (s : State),
  let g := s.core.grid
  let row := (bits f.imm 10 3).toNat
  let col := (bits f.imm 0 5).toNat
  let k := s.core.rk f.gm
  let at0 := elemOf s f.va row col
  let index (r c : Nat) : Nat := (vbyte (s.core.rv f.vb) (r * 32 + c)).toNat
  (Runs (.vsel f) s → ∃ l, l = gridCells g (fun r c =>
      some (elemOf s (if k.getLsbD (r * 32 + c) then f.va else f.vb) r c, 0)) ∧
    Sends (.vsel f) s (.v f.vd (packGrid g.w l).1 (packGrid g.w l).2) 2 0 0) ∧
  (Runs (.vmov f) s → Moves (.vmov f) f s fun r c => (r, c)) ∧
  (Runs (.vbcst f) s → Moves (.vbcst f) f s fun r c => match f.fn.toNat with
    | 0 => (row, col)
    | 1 => (row, c)
    | _ => (r, col)) ∧
  (Runs (.vmovs f) s → VecSends (.vmovs f) f s g.w 2 fun _ _ => (s.core.rs f.va, 0)) ∧
  (Runs (.vmovsX f) s → k.getLsbD (row * 32 + col) = true →
    Sends (.vmovsX f) s (.s f.vd (if (vTy f).isInt then BitVec.ofInt 64 (intOf g.w at0) else at0)) 2 0 0) ∧
  (Runs (.vmovsX f) s → k.getLsbD (row * 32 + col) = false →
    Sends (.vmovsX f) s (if f.z then .s f.vd 0 else .none) 2 0 0) ∧
  (Runs (.viota f) s → VecSends (.viota f) f s g.w 2 fun r c =>
    (BitVec.ofInt 64 (f.imm.toInt + (match f.fn.toNat with
      | 0 => r * g.cols + c
      | 1 => c
      | _ => r : Nat)), 0)) ∧
  (Runs (.vsplat f) s → VecSends (.vsplat f) f s g.w 2 fun _ _ => (match f.ty.toNat with
    | 0 => BitVec.ofNat 64 (f.imm.toNat * 2 ^ 16)
    | 5 => BitVec.ofInt 64 f.imm.toInt
    | _ => BitVec.ofNat 64 f.imm.toNat, 0)) ∧
  (Runs (.vtrn f) s → Moves (.vtrn f) f s fun r c => (c, r)) ∧
  (Runs (.vrot f) s → Moves (.vrot f) f s fun r c =>
    if f.fn = 0 then (r, (c + (g.cols - col % g.cols)) % g.cols)
    else ((r + (g.rows - col % g.rows)) % g.rows, c)) ∧
  (Runs (.vperm f) s → Moves (.vperm f) f s fun r c =>
    if f.fn = 0 then (r, index r c % g.cols)
    else (index r c % (g.rows * g.cols) / g.cols, index r c % (g.rows * g.cols) % g.cols))

/-- R135 to R137: conversions, quantisation and its inverse element by element, the codebook load. R51: into an integer
format a value is rounded under the mode and saturated; between integer formats it saturates. R52: a C4 index is the
lowest whose entry is nearest to the exact value, or for an infinity the greatest or least. FZI on codebook entries is
the reading of log 34. -/
def Obligations.VectorConversionResults : Prop := (∀ (f : VecF) (s : State),
  let c := s.core
  let env := vEnv f c
  let dst := vTy f
  let src := vSrc f
  let x (r col : Nat) : Code := velem (c.rv f.va) src.width r col
  let k : Word32 := if f.vc = 0 then 0x3F800000 else (c.rs f.vc).setWidth 32
  let cb := c.rcb (f.vb.setWidth 3)
  (Runs (.vcvt f) s → VecSends (.vcvt f) f s dst.width 2 fun r col =>
    if src.isFp then convertExact env dst (decodeOperand env src (x r col)) else convert env dst src (x r col)) ∧
  (Runs (.vqnt f) s → VecSends (.vqnt f) f s dst.width 2 fun r col =>
    if !(scaleOk k) then badScale dst
    else
      let y := (decodeOperand env src (x r col)).mulQ (scaleVal k)
      if dst = .c4 then quantC4 cb y else convertExact env dst y) ∧
  (Runs (.vdq f) s → VecSends (.vdq f) f s dst.width 2 fun r col =>
    if !(scaleOk k) then badScale dst
    else roundFp env dst ((match src with
      | .c4 => decodeFp .bf16 (cbEntry cb (x r col).toNat)
      | .i8 => exactOf .i8 (x r col)
      | t => decodeOperand env t (x r col)).divQ (scaleVal k))) ∧
  (Runs (.vcbld f) s → Sends (.vcbld f) s
    (.cb (f.vd.setWidth 3) (vrow (c.rv f.va) (bits f.imm 0 3).toNat)) 2 0 0)) ∧
  (∀ (env : FpEnv) (dst src : Fmt) (c : Code), dst.isInt = true →
  let w := dst.width
  let lo : Int := -2 ^ (w - 1)
  let hi : Int := 2 ^ (w - 1) - 1
  let code (n : Int) : Code := BitVec.ofInt 64 n
  (src.isInt = true → convert env dst src c = (code (max lo (min hi (intOf src.width c))), 0)) ∧
  (∀ x : XR, match x with
    | .nan _ => convertExact env dst x = (0, Flags.nv)
    | .inf neg => convertExact env dst x = (code (if neg then lo else hi), Flags.nv)
    | .fin q _ => ∃ n : Int, Rounds env.mode q n ∧ convertExact env dst x =
        if n < lo then (code lo, Flags.nv) else if hi < n then (code hi, Flags.nv)
        else (code n, if (n : ℚ) = q then 0 else Flags.nx))) ∧
  (∀ (cb : BitVec 256) (y : XR),
  let entry (i : Nat) : XR := decodeFp .bf16 (cbEntry cb i)
  let chosen (i : Nat) : Prop := (quantC4 cb y).1 = BitVec.ofNat 64 i
  let flag (p : Prop) [Decidable p] : Prop := (quantC4 cb y).2 = if p then 0 else Flags.nx
  (isNan y = true ∨ (∀ i < 16, isNan (entry i) = true) → quantC4 cb y = (0, Flags.nv)) ∧
  (∀ q n, y = .fin q n → ∀ i < 16, ∀ p m, entry i = .fin p m →
    (∀ j < 16, ∀ v k, entry j = .fin v k → |p - q| ≤ |v - q| ∧ (j < i → |p - q| < |v - q|)) →
    chosen i ∧ flag (p = q)) ∧
  (∀ q n, y = .fin q n → (∀ j < 16, ∀ v k, entry j ≠ .fin v k) → ∀ i < 16, isNan (entry i) = false →
    (∀ j < i, isNan (entry j) = true) → chosen i ∧ (quantC4 cb y).2 = Flags.nx) ∧
  (∀ neg, y = .inf neg → ∀ i < 16, entry i = .inf neg → (∀ j < i, entry j ≠ .inf neg) →
    chosen i ∧ (quantC4 cb y).2 = 0) ∧
  (∀ neg, y = .inf neg → (∀ j < 16, entry j ≠ .inf neg) → ∀ i < 16, ∀ p m, entry i = .fin p m →
    (∀ j < 16, ∀ v k, entry j = .fin v k → (if neg then p ≤ v else v ≤ p) ∧ (j < i → v ≠ p)) →
    chosen i ∧ (quantC4 cb y).2 = Flags.nx))

/-- R56, R138, R140: reductions of rows and columns by the fixed pairwise tree over the guarded elements in index
order; scaling by a power of two, rounding to an integral value, counts and clamping. R28, R142: an 8 by 8 block read
at issue, zeros and STAT.AMU from a bank that is not owned; the writes are withheld in one store-buffer entry. The
limit on the exponent VSCALE adds is the reading of log 34. -/
def Obligations.VectorReduceScaleAndBlockEffects : Prop :=
  (∀ (f : VecF) (s : State),
  let g := s.core.grid
  let env := vEnv f s.core
  let t := vTy f
  let x (a : Code) : XR := decodeOperand env t a
  let rnd (y : XR) : Code × Flags := roundFp env t y
  let int (a : Code) : Int := intOf 32 a
  let op (a b : Code) : Code × Flags :=
    if t = .i32 then (match f.fn.toNat with
      | 0 => BitVec.ofInt 64 (int a + int b)
      | 1 => if int b < int a then a else b
      | _ => if int b < int a then b else a, 0)
    else match f.fn.toNat with
      | 0 => rnd (XR.add env.mode (x a) (x b))
      | 1 => fpMinMax t true a b
      | _ => fpMinMax t false a b
  let empty : Code := if t = .i32 then (match f.fn.toNat with
      | 0 => 0
      | 1 => 0x80000000
      | _ => 0x7FFFFFFF)
    else match f.fn.toNat with
      | 0 => 0
      | 1 => signed t true t.infCode
      | _ => signed t false t.infCode
  let red (i : Instr) (l : List (List CellW)) : Prop :=
    Sends i s (.v f.vd (packGrid g.w l).1 (packGrid g.w l).2) 4 (cellFlags l) 0
  let inputs (l : List (Nat × Nat)) : List Code :=
    (l.filter fun p => (s.core.rk f.gm).getLsbD (p.1 * 32 + p.2)).map fun p => elemOf s f.va p.1 p.2
  let side (a : Code) : Int := if f.fn = 1 then ((a.toNat % 2 ^ g.w : Nat) : Int) else intOf g.w a
  let upper (a b : Code) : Code := if side b < side a then a else b
  let lower (a b : Code) : Code := if side b < side a then b else a
  let scaled (a : Code) (n : Int) : Code × Flags := rnd ((x a).mulQ (pow2 (max (-1000) (min n 1000))))
  let km := s.core.rk (f.va.setWidth 4)
  let ones (r n : Nat) : Nat := (List.range n).countP fun c => km.getLsbD (r * 32 + c)
  (Runs (.vredr f) s → ∃ out : Nat → Code × Flags,
    (∀ r < g.rows, Reduces op empty (inputs ((List.range g.cols).map fun c => (r, c))) (out r)) ∧
    red (.vredr f) ((List.range g.rows).map fun r => [some (out r)])) ∧
  (Runs (.vredc f) s → ∃ out : Nat → Code × Flags,
    (∀ c < g.cols, Reduces op empty (inputs ((List.range g.rows).map fun r => (r, c))) (out c)) ∧
    red (.vredc f) [(List.range g.cols).map fun c => some (out c)]) ∧
  (Runs (.vscale f) s → f.fn = 0 → Vec1 (.vscale f) f s 2 fun a => scaled a f.imm.toInt) ∧
  (Runs (.vscale f) s → f.fn ≠ 0 → Vec2 (.vscale f) f s 2 fun a b => scaled a (intOf g.w b)) ∧
  (Runs (.vrnd f) s → ∃ el : Code → Code × Flags, Vec1 (.vrnd f) f s 2 el ∧ ∀ a, match x a with
    | .nan nv => el a = (BitVec.ofNat 64 t.nanCode, if nv then Flags.nv else 0)
    | .inf neg => el a = rnd (.inf neg)
    | .fin q neg => ∃ n : Int, Rounds env.mode q n ∧ el a = ((rnd (.fin n neg)).1, 0)) ∧
  (Runs (.vpopk f) s → VecSends (.vpopk f) f s g.w 2 fun r c => (BitVec.ofNat 64 (match f.fn.toNat with
    | 0 => ones r g.cols
    | 1 => ones r c
    | _ => ((List.range g.rows).map fun r => ones r g.cols).sum), 0)) ∧
  (Runs (.vclamp f) s → Vec3 (.vclamp f) f s 2 fun a b d =>
    if t.isFp then
      let y := fpMinMax t true a b
      let z := fpMinMax t false y.1 d
      (z.1, y.2 ||| z.2)
    else (lower (upper a b) d, 0))) ∧
  (∀ (f : VecF) (s : State),
  let c := s.core
  let k := c.rk f.gm
  let own := c.own.getLsbD (accBank f).toNat
  let acc (r col : Nat) : Code := (c.accElem (blockKey f r col)).setWidth 64
  let cells := gridCells ⟨8, 8, 32⟩ (guarded k f.z fun r col => (if own then acc r col else 0, 0))
  let puts (i : Instr) (l : List (Nat × Word32)) (fl : Flags) : Prop :=
    Does i s { s with core := { c with
      stores := c.stores ++ [⟨c.nextId, [], l, fl⟩], nextId := c.nextId + 1 } }
  let on := blockCells.filter fun p => k.getLsbD (p.1 * 32 + p.2)
  let sums := on.map fun p => fpAdd f c (acc p.1 p.2) (velem (c.rv f.va) 32 p.1 p.2)
  (Runs (.vamrd f) s → Sends (.vamrd f) s (.v f.vd (packGrid 32 cells).1 (packGrid 32 cells).2) 6
    0 (if own then 0 else statAmu)) ∧
  (Runs (.vamwr f) s → puts (.vamwr f) (blockCells.filterMap fun p =>
    if k.getLsbD (p.1 * 32 + p.2) then
      some (blockKey f p.1 p.2, (velem (c.rv f.va) 32 p.1 p.2).setWidth 32)
    else if f.z then some (blockKey f p.1 p.2, 0) else none) 0) ∧
  (Runs (.vamadd f) s → puts (.vamadd f)
    ((on.zip sums).map fun p => (blockKey f p.1.1 p.1.2, p.2.1.setWidth 32))
    (sums.foldl (fun a x => a ||| x.2) 0)))

/-- R71: predicate logic on all 256 bits. -/
def Obligations.PredicateLogicResults : Prop := ∀ (f : PlF) (s : State),
  let a := s.core.rk f.ka
  let b := s.core.rk f.kb
  let sends (i : Instr) (x : Mask) : Prop := Sends i s (.k f.kd x (BitVec.allOnes 256)) 1 0 0
  (Runs (.kand f) s → sends (.kand f) (a &&& b)) ∧ (Runs (.kor f) s → sends (.kor f) (a ||| b)) ∧
  (Runs (.kxor f) s → sends (.kxor f) (a ^^^ b)) ∧ (Runs (.kandn f) s → sends (.kandn f) (a &&& ~~~b)) ∧
  (Runs (.korn f) s → sends (.korn f) (a ||| ~~~b)) ∧ (Runs (.knot f) s → sends (.knot f) (~~~a)) ∧
  (Runs (.kmov f) s → sends (.kmov f) a)

/-- R13, R125: a vector result that lands gives its guarded elements the computed codes, masked-off ones 0 in the Z
form and their old code without it, and leaves every element outside the grid as it was. -/
def Obligations.VectorWritesReadBack : Prop := ∀ (c : Core) (v : BitVec 6) (k : Mask) (z : Bool) (g : Grid)
    (el : Nat → Nat → Code × Flags),
  g.w ∈ [8, 16, 32] → g.rows ≤ 8 → g.cols * g.w ≤ 256 →
  let p := packGrid g.w (gridCells g (guarded k z el))
  let d := (c.writeV v p.1 p.2).rv v
  ∀ r < 8, ∀ j, (j + 1) * g.w ≤ 256 →
    velem d g.w r j =
      if r < g.rows ∧ j < g.cols ∧ k.getLsbD (r * 32 + j) = true then
        BitVec.ofNat 64 ((el r j).1.toNat % 2 ^ g.w)
      else if r < g.rows ∧ j < g.cols ∧ z = true then 0
      else velem (c.rv v) g.w r j

/-! ### The matrix slot -/

/-- R17, R44, R149 to R151: weight loads, swap, codebook and clear; each starts a latch operation that stands until it
completes. A load takes its codes from the tile's bytes, keeps the second buffer's codebook for C4, and lanes past its
element count stand for 0; MLDWT holds the bytes of the transposed copy. -/
def Obligations.WeightLatchEffects : Prop := ∀ (f : MxF) (s : State),
  let c := s.core
  let starts (i : Instr) (w0 w1 : Latch) (reads writes : List (BitVec 7)) (b : List (Nat × Byte)) : Prop :=
    Does i s { s with core := { c with
      wb0 := w0, wb1 := w1, nextId := c.nextId + 1
      mx := c.mx ++ [⟨c.nextId, .latch, 0, 0, 0, false, reads, writes, [], b, 0, noBlock⟩] } }
  let loaded (w : Latch) : Prop :=
    w.valid = true ∧ w.fmt = f.fmt ∧ w.kel = kel f ∧
    w.scale = (if f.scl = 0 then 0x3F800000 else (c.rs f.scl).setWidth 32) ∧
    (f.fmt = 7 → w.cb = c.wb1.cb) ∧
    (∀ k < kel f, ∀ j < 48, (Sparse.get 0 w.w (48 * k + j)).toNat = tileCode s f.tile f.tr k j % 2 ^ 16) ∧
    ∀ k j, let code : Code := (Sparse.get 0 w.w (48 * k + j)).setWidth 64
      w.value k j = if kel f ≤ k then .fin 0 false
        else if f.fmt = 7 then decodeFp .bf16 (cbEntry w.cb code.toNat)
        else decodeFp ((Fmt.ofCode f.fmt.toNat).getD .bf16) code
  let e := c.tile f.tile2
  let copied (b : List (Nat × Byte)) : Prop := SetBytes s (TileE.width e)
    ((List.range (kel f)).flatMap fun k => (List.range 48).map fun j =>
      (TileE.bitAddr e false j k, BitVec.ofNat 64 (tileCode s f.tile f.tr k j))) b
  (Runs (.mldw f) s → ∃ w, starts (.mldw f) c.wb0 w [f.tile] [] [] ∧ loaded w) ∧
  (Runs (.mldwt f) s → ∃ w b, starts (.mldwt f) c.wb0 w [f.tile] [f.tile2] b ∧ loaded w ∧ copied b) ∧
  (Runs (.mswap f) s → starts (.mswap f) c.wb1 c.wb0 [] [] []) ∧
  (Runs (.mcbl f) s → starts (.mcbl f) c.wb0 { c.wb1 with cb := c.rcb (f.tile.setWidth 3) } [] [] []) ∧
  (Runs (.mclr f) s → starts (.mclr f) Latch.cleared Latch.cleared [] [] [])

/-- R57, R153 to R155: a stream adds its exact scaled sums to the accumulator, rounded once to nearest even, MMULZ
to 0, MMULT at the transposed place; MZERO writes +0; no other element of the accumulator memory changes. The sum of
a list of terms is exact, whatever their order. When the flags reach FPC is the reading of log 22; that the accumulator
is read without the VAM writes withheld in the same group is the reading of log 62. -/
def Obligations.MatrixStreamEffects : Prop := (∀ (f : MxF) (s : State),
  let c := s.core
  let n := f.nr.toNat + 1
  let starts (i : Instr) (a : Sparse Word32) (rows : Nat) (reads : List (BitVec 7)) (fl : Flags)
      (sums : AccBlock) : Prop :=
    Does i s { s with core := { c with
      acc := a, nextId := c.nextId + 1
      mx := c.mx ++ [⟨c.nextId, .accWrite, f.bank, f.row.toNat / 8, (f.row.toNat + rows - 1) / 8, false,
        reads, [], [], [], fl, sums⟩] } }
  let sa : Word32 := if f.scl = 0 then 0x3F800000 else (c.rs f.scl).setWidth 32
  let exact (i j : Nat) : Option XR :=
    if scaleOk sa && scaleOk c.wb0.scale then
      some ((((List.range (kel f)).map fun k =>
        (decodeFp ((Fmt.ofCode f.fmt.toNat).getD .bf16) (s.tileElem f.tile f.tr i k)).mul (c.wb0.value k j)).foldl
          (XR.add .rne) (.fin 0 false)).divQ (scaleVal sa * scaleVal c.wb0.scale))
    else none
  let place (tr : Bool) (i j : Nat) : Nat :=
    if tr then accKey f.bank (f.row.toNat + j) i else accKey f.bank (f.row.toNat + i) j
  let sum (ow : Bool) (i j key : Nat) : Word32 × Flags :=
    match exact i j with
    | none => (0x7FC00000, Flags.nv)
    | some x =>
      let r := roundFp (envRne true) .f32
        (XR.add .rne (if ow then .fin 0 false else decodeFp .f32 ((c.accRaw key).setWidth 64)) x)
      (r.1.setWidth 32, r.2)
  let stream (i : Instr) (ow tr : Bool) (rows : Nat) : Prop := Sparse.wf (0 : Word32) c.acc = true → ∃ a fl,
    starts i a rows [f.tile] fl (if ow then noBlock else sumBlock f tr) ∧
    (∀ i < n, ∀ j < 48, Sparse.get 0 a (place tr i j) = (sum ow i j (place tr i j)).1) ∧
    (∀ key, (∀ i < n, ∀ j < 48, key ≠ place tr i j) → Sparse.get 0 a key = Sparse.get 0 c.acc key) ∧
    (∀ b < 5, fl.getLsbD b = true ↔
      ∃ i < n, ∃ j < 48, (sum ow i j (place tr i j)).2.getLsbD b = true)
  (Runs (.mmul f) s → stream (.mmul f) false false n) ∧
  (Runs (.mmulz f) s → stream (.mmulz f) true false n) ∧
  (Runs (.mmult f) s → stream (.mmult f) false true 48) ∧
  (Runs (.mzero f) s → ∃ a, starts (.mzero f) a n [] 0 noBlock ∧
    ∀ key, Sparse.get 0 a key =
      if accKey f.bank f.row.toNat 0 ≤ key ∧ key < accKey f.bank (f.row.toNat + n) 0 then 0
      else Sparse.get 0 c.acc key)) ∧
  (∀ l : List XR,
  let total := l.foldl (XR.add .rne) (.fin 0 false)
  let value : XR → ℚ
    | .fin q _ => q
    | _ => 0
  ((∀ x ∈ l, ∃ q n, x = .fin q n) → ∃ n, total = .fin ((l.map value).sum) n) ∧
  ((∃ x ∈ l, isNan x = true) → isNan total = true) ∧
  ((∀ x ∈ l, isNan x = false) → .inf true ∈ l → .inf false ∈ l → total = .nan true) ∧
  (∀ b, (∀ x ∈ l, isNan x = false) → .inf b ∈ l → .inf (!b) ∉ l → total = .inf b))

/-- R21, R158, R159, R162: a drain takes its tiles to draining with PTOK 0, in the table and in its shadow, and holds
the bytes of the quantised elements, row by row, until it completes; MSTAT reports the bank, the latches and the
ownership. -/
def Obligations.DrainAndStatusEffects : Prop := ∀ (f : MxF) (s : State),
  let c := s.core
  let n := f.nr.toNat + 1
  let k1 : Word32 := if f.scl = 0 then 0x3F800000 else (c.rs f.scl).setWidth 32
  let k2 : Word32 := if f.scl = 0 then 0x3F800000 else bits (c.rs f.scl) 32 32
  let quantised (t : Fmt) (k x : Word32) : Code × Flags :=
    if t = .f32 then (x.setWidth 64, 0)
    else if scaleOk k then convertExact ⟨RMode.ofRM (bits c.fpc 0 3).toNat, c.fpc.getLsbD 5, false, false⟩ t
      ((decodeFp .f32 (x.setWidth 64)).mulQ (scaleVal k))
    else (BitVec.ofNat 64 t.nanCode, Flags.nv)
  let el (t : BitVec 7) (k : Word32) (i j : Nat) : Code × Flags :=
    quantised (TileE.fmt (c.tile t)) k (c.accRaw (accKey f.bank (f.row.toNat + i) j))
  let held (t : BitVec 7) (k : Word32) (trans : Bool) (l : List (Nat × Byte)) : Prop :=
    SetBytes s (TileE.width (c.tile t)) ((List.range n).flatMap fun i => (List.range 48).map fun j =>
      (if trans then TileE.bitAddr (c.tile t) false j i else TileE.bitAddr (c.tile t) false i j, (el t k i j).1)) l
  let raised (fl : Flags) (p : Nat → Nat → Nat → Prop) : Prop :=
    ∀ b < 5, fl.getLsbD b = true ↔ ∃ i < n, ∃ j < 48, p i j b
  let starts (i : Instr) (tiles : List (BitVec 7)) (x : List (Nat × Byte) × Flags) : Prop :=
    Does i s { s with core :=
      let d := tiles.foldl (fun c t => c.setTile t TileE.draining 0) c
      { d with
        nextId := c.nextId + 1
        mx := c.mx ++ [⟨c.nextId, .drain, f.bank, f.row.toNat / 8, (f.row.toNat + n - 1) / 8,
          f.row.toNat % 8 == 0 && n % 8 == 0, [], [], tiles, x.1, x.2, sumBlock f false⟩] } }
  (Runs (.mdrain f) s → ∃ a fl, starts (.mdrain f) [f.tile] (a, fl) ∧ held f.tile k1 false a ∧
    raised fl fun i j b => (el f.tile k1 i j).2.getLsbD b = true) ∧
  (Runs (.mdraint f) s → ∃ a a' fl, starts (.mdraint f) [f.tile, f.tile2] (a ++ a', fl) ∧ held f.tile k1 false a ∧
    held f.tile2 k2 true a' ∧
    raised fl fun i j b => (el f.tile k1 i j).2.getLsbD b = true ∨ (el f.tile2 k2 i j).2.getLsbD b = true) ∧
  (Runs (.mstat f) s → ∃ x : Word, Sends (.mstat f) s (.s f.scl x) 3 0 0 ∧
    BitVec.extractLsb' 32 32 x = c.own ∧ BitVec.extractLsb' 29 3 x = c.wb1.fmt ∧
    BitVec.extractLsb' 26 3 x = c.wb0.fmt ∧ x.getLsbD 25 = c.wb1.valid ∧ x.getLsbD 24 = c.wb0.valid ∧
    ∀ j < 16, x.getLsbD j = (c.owns f.bank && (c.bandWriteBit f.bank j j || c.bandReadBit f.bank j j)))

/-- R21, R54, R150, R158, R159, R163: an operation of the array that completes writes the bytes it holds, those of a
drain or of MLDWT's copy, and no other byte of memory, leaves the scoreboard, its flags reach FPC, and every tile of a
drain becomes ready. Flags and shadow tiles at completion are the readings of logs 22 and 23. -/
def Obligations.MatrixCompletions : Prop := ∀ (s : State) (o : MxOp) (n : Nat),
  s.occ = .num n → s.core.mx = [o] → o.id = n → s.core.releasing = [] → s.core.queue = [] →
  let fl := s.core.fpc ||| (o.flags ++ 0#8)
  let lands (t : State) : Prop := s.memWf → (∀ x ∈ s.contexts, x.mirrored = []) →
    ∀ a, t.peek a = match lastOf (o.bytes.map fun b => (spadBase s.core.id + b.1, b.2)) a with
      | some x => x
      | none => s.peek a
  let common (t : State) : Prop := t.core.mx = [] ∧ t.core.fpc = fl ∧ lands t ∧ (o.bytes = [] → t.mem = s.mem) ∧
    t.core.s = s.core.s ∧ t.core.k = s.core.k ∧ t.core.v = s.core.v ∧ t.core.acc = s.core.acc ∧
    t.core.wb0 = s.core.wb0 ∧ t.core.wb1 = s.core.wb1
  (o.kind ≠ .drain → o.drains = [] → ∃ t, exec .mxOperationComplete s = .next t ∧ common t ∧
    t.core.tiles = s.core.tiles) ∧
  (o.kind = .drain → ∃ t, exec .drainComplete s = .next t ∧ common t ∧
    (∀ u ∈ o.drains, TileE.state (t.core.tile u) = TileE.ready ∧ TileE.ptok (t.core.tile u) = 0) ∧
    ∀ u ∉ o.drains, t.core.tile u = s.core.tile u)

/-! ### The load and store slots -/

/-- R28, R166, R167, R169, R170: loads see the core's own withheld stores; they write their register alone, and no
byte of memory. -/
def Obligations.LoadResults : Prop := ∀ (f : LsF) (s : State),
  let c := s.core
  let g := c.grid
  let ea := (c.rs f.br + f.ofs.signExtend 64).toNat
  let e := c.tile (lsTile f)
  let o := c.rs f.br
  let grid (i : Instr) (v : BitVec 6) (lat : Nat) (bit : Nat → Nat → Nat) : Prop :=
    let l := gridCells g fun r col =>
      if (c.rk f.gm).getLsbD (r * 32 + col) then some (s.spadElem (bit r col) g.w, 0) else none
    Sends i s (.v v (packGrid g.w l).1 (packGrid g.w l).2) lat 0 0
  let w := tyWidth f.ty
  let x := natOfBytes (s.spadBytes ea (w / 8)) % 2 ^ w
  (Runs (.vld f) s → grid (.vld f) f.rg 5 fun r col => 8 * lsElemAddr f c g r col) ∧
  (Runs (.vldt f) s → grid (.vldt f) f.sr 5 fun r col =>
    TileE.bitAddr e false ((bits o 0 16).toNat + r) ((bits o 16 16).toNat + col)) ∧
  (Runs (.vldg f) s → grid (.vldg f) f.rg 7 fun r col => 8 * lsIndexAddr f c g r col) ∧
  (Runs (.sld f) s → Sends (.sld f) s (.s f.rg (if f.ty.toNat ∈ [4, 5, 6] ∧ 2 ^ (w - 1) ≤ x then
    BitVec.ofInt 64 ((x : Int) - 2 ^ w) else BitVec.ofNat 64 x)) 5 0 0) ∧
  (Runs (.kld f) s → Sends (.kld f) s (.k (f.rg.setWidth 4) (BitVec.ofNat 256 (natOfBytes (s.spadBytes ea 32)))
    (BitVec.allOnes 256)) 5 0 0)

/-- R28, R168 to R170: a store takes one entry of the store buffer with the bytes of its guarded elements; no byte
of memory changes until a checkpoint releases it. R28: a load returns the youngest withheld byte, and memory's
byte where none is withheld. -/
def Obligations.StoresAreWithheld : Prop :=
  (∀ (f : LsF) (s : State),
  let c := s.core
  let g := c.grid
  let ea := (c.rs f.br + f.ofs.signExtend 64).toNat
  let puts (i : Instr) (l : List (Nat × Byte)) : Prop :=
    Does i s { s with core := { c with
      stores := c.stores ++ [⟨c.nextId, l, [], 0⟩], nextId := c.nextId + 1 } }
  let on := guardedElems g (c.rk f.gm)
  let elems (v : BitVec 6) (addr : Nat → Nat → Nat) : List (Nat × Byte) :=
    on.flatMap fun p => cellsFrom (addr p.1 p.2) (bytesOfNat (g.w / 8) (velem (c.rv v) g.w p.1 p.2).toNat)
  (Runs (.vst f) s → puts (.vst f) (elems f.rg (lsElemAddr f c g))) ∧
  (Runs (.vstt f) s → puts (.vstt f) (elems f.sr fun r col => tileBit f c r col / 8)) ∧
  (Runs (.vsts f) s → puts (.vsts f) (elems f.rg (lsIndexAddr f c g))) ∧
  (Runs (.sst f) s → puts (.sst f) (cellsFrom ea (bytesOfNat (tyWidth f.ty / 8) (c.rs f.rg).toNat))) ∧
  (Runs (.kst f) s → puts (.kst f) (cellsFrom ea (bytesOfNat 32 (c.rk (f.rg.setWidth 4)).toNat)))) ∧
  (∀ (f : LsF) (s t : State),
  let ea := (s.core.rs f.br + f.ofs.signExtend 64).toNat
  let n := tyWidth f.ty / 8
  Runs (.sst f) s → exec (.sst f) s = .next t →
    (∀ j < n, t.spadByte (ea + j) = BitVec.ofNat 8 ((s.core.rs f.rg).toNat / 256 ^ j)) ∧
    (∀ a, (a < ea ∨ ea + n ≤ a) → t.spadByte a = s.spadByte a) ∧ t.mem = s.mem)

/-- R28, R74, R157: a released store that no tile's busy bit blocks writes its bytes and no other byte of memory,
and its accumulator elements and no other. -/
def Obligations.ReleasedStoresWriteTheirBytes : Prop := ∀ (s : State) (e : StoreEntry),
  s.core.releasing = [e] → s.core.storeBlocked e = false → (∀ x ∈ s.contexts, x.mirrored = []) →
  s.memWf → Sparse.wf (0 : Word32) s.core.acc = true →
  ∃ t, exec .withheldStoreRelease s = .next t ∧ t.core.releasing = [] ∧
    (∀ a, t.peek a = match lastOf (e.bytes.map fun b => (spadBase s.core.id + b.1, b.2)) a with
      | some x => x
      | none => s.peek a) ∧
    (∀ k, Sparse.get 0 t.core.acc k = match lastOf e.elems k with
      | some x => x
      | none => Sparse.get 0 s.core.acc k) ∧
    t.core.s = s.core.s ∧ t.core.k = s.core.k ∧ t.core.v = s.core.v ∧ t.core.stores = s.core.stores

/-! ### The engine's slot -/

/-- R23, R53, R75, R172: an engine command captures its register values, its modifier or MDEF, the rounding settings
and the record it names; its output token becomes busy; it enters the queue in pending-release. That a handle is
captured at issue is the reading of log 26. -/
def Obligations.CommandsAreCaptured : Prop := ∀ (f : CpF) (s : State),
  let c := s.core
  let all : List Instr := [.copy f, .copyt f, .spillt f, .gath f, .scat f, .amoAdd32 f, .amoAdd64 f, .amoMin f,
    .amoMax f, .amoMinu f, .amoMaxu f, .amoAnd f, .amoOr f, .amoXor f, .amoSwap f, .amoFxa f, .cas f, .casw f,
    .dcas f, .enq f, .chase f, .put f, .get f, .fenf f, .lxfer f, .lxred f, .bvec f, .pcon f, .preadMst f,
    .preadWbf f, .preadWf8 f, .preadMom f, .pstat f, .mapq f, .pref f, .mset f, .tdec f, .tdecH f, .xlinv f]
  let nested : List Instr := [.copy f, .copyt f, .spillt f, .gath f, .scat f, .lxfer f, .lxred f, .bvec f]
  ∀ i ∈ all, Runs i s → ∃ q : Cmd,
    Does i s { s with core := { c.setToken f.tko tokBusy with
      queue := c.queue ++ [q], nextId := c.nextId + 1 } } ∧
    q.id = c.nextId ∧ q.op = i ∧ q.f = f ∧ q.rb = c.rs f.rb ∧ q.rc = c.rs f.rc ∧
    q.ra = (if i = .tdecH f then (bits (c.handle (bits f.tk3 2 3)) 0 56).setWidth 64 else c.rs f.ra) ∧
    q.mod = (if f.mod.getLsbD 11 then bits f.mod 0 11 else c.mdef) ∧
    q.env = ⟨RMode.ofRM (bits c.fpc 0 3).toNat, c.fpc.getLsbD 5, false, false⟩ ∧
    q.asid = c.asid ∧ q.released = false ∧ q.status = 0 ∧ q.pieces = [] ∧
    (i ∈ nested → q.nest = s.nestAt (c.rs f.ra).toNat)

/-- R183, R184: the new value of each AMO sub-operation, of 4 or 8 bytes, at one physical address: the word is
replaced, the old value answered, and no other byte changes. -/
def Obligations.AmoPerformedAtMemory : Prop := ∀ (s : State) (pa sub : Nat) (b : Word),
  sub ≤ 10 → s.memWf → (∀ x ∈ s.contexts, x.mirrored = []) →
  let w := if sub = 0 then 4 else 8
  let old := BitVec.ofNat 64 (natOfBytes (s.peekBytes pa w))
  let new : Word := match sub with
    | 0 => BitVec.ofNat 64 ((old.toNat + b.toNat) % 2 ^ 32)
    | 1 => old + b
    | 2 => BitVec.ofInt 64 (min old.toInt b.toInt)
    | 3 => BitVec.ofInt 64 (max old.toInt b.toInt)
    | 4 => BitVec.ofNat 64 (min old.toNat b.toNat)
    | 5 => BitVec.ofNat 64 (max old.toNat b.toNat)
    | 6 => old &&& b
    | 7 => old ||| b
    | 8 => old ^^^ b
    | 9 => b
    | _ => old + (toFx64 (decodeFp .f32 ((bits b 0 32).setWidth 64)) (bits b 32 8).toInt).1
  (s.amoAt pa sub b).2 = old ∧
  (∀ j < w, (s.amoAt pa sub b).1.peek (pa + j) = BitVec.ofNat 8 (new.toNat / 256 ^ j)) ∧
  (∀ a, (a < pa ∨ pa + w ≤ a) → (s.amoAt pa sub b).1.peek a = s.peek a)

/-! ### The synchronisation slot -/

/-- R26, R198, R201, R203: WAIT's two statuses, explicit arrivals, initialisation and attachment. An object whose
root is another module is written when its group's checks pass (log 13), so that BARI then makes it usable alone. -/
def Obligations.BarrierInstructionEffects : Prop := ∀ (s : State) (kd : BitVec 4) (o : ObjName) (sa : BitVec 6)
    (e : Bool) (h : BitVec 3),
  let c := s.core
  let p := (s.obj o).phase.toNat
  let t := (c.rs sa).toNat % 2 ^ 16
  let d := (p + 2 ^ 16 - t) % 2 ^ 16
  let amount : BitVec 32 := if sa = 0 then 1 else BitVec.ofNat 32 ((c.rs sa).toNat % 2 ^ 24)
  let sent (x : ArrTarget) : State := if amount = 0 then s
    else { s with arrivals := s.arrivals ++ [⟨c.id, c.who, x, amount, c.nextId, c.nextId, []⟩] }
  (Runs (.wait kd o sa) s → Sends (.wait kd o sa) s (.k kd
    (statusMask (decide (1 ≤ d ∧ d < 2 ^ 15)) (decide (2 ≤ d ∧ d < 2 ^ 15))) (BitVec.allOnes 256)) 1 0 0) ∧
  (Runs (.arrive o sa) s → Does (.arrive o sa) s (sent (.obj o))) ∧
  (Runs (.arriveHandle h sa) s →
    Does (.arriveHandle h sa) s (sent (.counter ((c.handle h).setWidth 56)))) ∧
  (Runs (.bari o sa e h) s → (o.scope.toNat ∈ [1, 2] ∨ (o.scope.toNat ∈ [3, 4] ∧ (s.context? c.asid).isSome)) →
    ∃ u, exec (.bari o sa e h) s = .next u ∧ u.core.usableObj o = true ∧
      u.obj o = ⟨BitVec.ofNat 24 (c.rs sa).toNat, 0, bits (c.rs sa) 24 16, true,
        if e then some ((c.handle h).setWidth 56) else none⟩ ∧
      (∀ q, q ≠ o → (u.core.usableObj q = c.usableObj q)) ∧
      u.mem = s.mem ∧ u.arrivals = s.arrivals ∧ u.core.s = c.s ∧ u.core.inflight = c.inflight) ∧
  (Runs (.bari o sa e h) s → s.podRoot c.asid o ≠ s.modid → ∃ u,
    Does (.bari o sa e h) s { s with core := { c with usable := u } } ∧ ∀ q, (q ∈ u ↔ q = o ∨ q ∈ c.usable)) ∧
  (Runs (.bariAtt o) s → ∃ u, Does (.bariAtt o) s { s with core := { c with usable := u } } ∧
    ∀ q, (q ∈ u ↔ q = o ∨ q ∈ c.usable))

/-- R200: an arrival of amount n adds n; each time the count reaches the expected count the phase advances by one, the
count falls by it, and a decrement of the captured counter is on its way. R8, R194: a decrement waits for the commands
issued before its arrival, and for those issued before the earlier arrivals of its phase that went to another module. -/
def Obligations.BarrierArrivalAdvancesPhase : Prop := ∀ (s : State) (n : Nat) (a : Arrival) (o : ObjName)
    (b : Barrier),
  s.occ = .num n → s.arrivals[n]? = some a →
  (a.target = .obj o → (∀ c, s.member? a.who = some c → ∀ e ∈ c.releasing, a.stores ≤ e.id) →
    o.scope.toNat ∈ [1, 2, 3, 4] → (o.scope.toNat = 1 → o.index.toNat < 8 ∧ a.who = s.core.who) →
    (3 ≤ o.scope.toNat → (s.context? a.who.asid).isSome) →
    s.objAt a.who o = b → b.exp ≠ 0 →
    let k := (b.cnt.toNat + a.amount.toNat) / b.exp.toNat
    ∃ t, exec .barrierArrival s = .next t ∧
      t.objAt a.who o = { b with
        cnt := BitVec.ofNat 24 ((b.cnt.toNat + a.amount.toNat) % b.exp.toNat), phase := b.phase + BitVec.ofNat 16 k } ∧
      t.arrivals = s.arrivals.eraseIdx n ++ (match b.handle with
        | some va => List.replicate k { a with target := .counter va, amount := 1 }
        | none => []) ∧ t.mem = s.mem) ∧
  (∀ va, a.target = .counter va →
    ((∃ c, s.member? a.who = some c ∧ c.outstandingBefore a.before = true) ∨
      (∃ x ∈ a.after, ∃ c, s.member? x.1 = some c ∧ c.outstandingBefore x.2 = true)) →
    exec .barrierArrival s = .next s)

/-- R197, R205, R206, R211 and R212: TTEST's statuses, a fence in force, PSTATQ's word, a handle. R213, R215, R218,
R219: TEND begins the task's end, LIVE declares, NOTIFY withholds its post, SVC sends its request to a service core
of its die or faults its token with 0x06, and the message holds the request whole. That a code tasks may not request
faults at issue is the reading of log 36; that TEND drops a freeze that stands, of its core and of the gang's members
that are not focused, is the model's reading of R329, log 71; which service core is the model's choice, log 43. -/
def Obligations.TokenStatusAndTaskEffects : Prop :=
  (∀ (s : State) (kd : BitVec 4) (a sd : BitVec 6)
    (mask : BitVec 16) (scope : BitVec 3) (h : BitVec 3),
  let c := s.core
  let st := bits (c.token a) 14 2
  (Runs (.ttest kd a) s → Sends (.ttest kd a) s
    (.k kd (statusMask (st = 0 || st = 2) (st = 3)) (BitVec.allOnes 256)) 1 0 0) ∧
  (Runs (.fence mask scope) s → Does (.fence mask scope) s { s with core := { c with
    fences := c.fences ++ [⟨c.nextId, if mask = 0 then 0xFFFF else mask, scope, false⟩] } }) ∧
  (Runs (.pstatq sd) s → ∀ x, s.context? c.asid = some x → ∃ w : Word,
    Sends (.pstatq sd) s (.s sd w) 1 0 0 ∧
    BitVec.extractLsb' 0 6 w = x.cur ∧ w.getLsbD 6 = x.tip ∧ BitVec.extractLsb' 7 6 w = x.tgt ∧
    BitVec.extractLsb' 13 3 w = x.eng.code ∧ (BitVec.extractLsb' 16 2 w).toNat = x.pass % 4 ∧
    w.getLsbD 18 = x.flt ∧ BitVec.extractLsb' 19 8 w = x.fcode ∧
    (BitVec.extractLsb' 32 24 w).toNat = x.prem % 2 ^ 24) ∧
  (Runs (.hset h a) s → Sends (.hset h a) s (.h h (if c.rs a = 0 then 0
    else BitVec.ofNat 64 (2 ^ 63 + (c.rs a).toNat % 2 ^ 56))) 1 0 0)) ∧
  (∀ (s : State) (f : LiveF) (sa tko : BitVec 6)
    (code : BitVec 10),
  let c := s.core
  let req : SvcReq := ⟨c.id, c.recVa, ((c.task.map (·.gidx)).getD 0), tko, code, c.rs sa, c.asid, 0⟩
  (Runs .tend s → Does .tend s { s with
    core := { c with mode := .ending, loop := none, freeze := none }
    parked := s.parked.map fun d => if d.task.isSome && d.asid == c.asid && d.who.recVa == c.who.recVa then
      { d with freeze := none } else d }) ∧
  (Runs (.live f) s → Does (.live f) s { s with core := { c with live := some f } }) ∧
  (Runs (.notify sa) s → Does (.notify sa) s { s with core := { c with
    posts := c.posts ++ [⟨c.rs sa, c.nextId, false⟩] } }) ∧
  (Runs (.svc tko sa code) s → code.toNat ∈ [0x008, 0x00A, 0x00C] → Does (.svc tko sa code) s
    (State.sendMsg { s with core := c.setToken tko 0x4000 } (callMsg req))) ∧
  ((callMsg req).call = req ∧ (callMsg req).op = .control ∧ (callMsg req).src = corePort c.id ∧
    (callMsg req).final.die = coreDie c.id ∧ (callMsg req).final.router.toNat ∈ [47, 55]) ∧
  (Runs (.svc tko sa code) s → code.toNat ∉ [0x008, 0x00A, 0x00C] →
    Does (.svc tko sa code) s { s with core := c.completeToken tko 0xC006 }))

/-- R208 to R210, R252: PNEXT starts a transition, or says that one toward another phase is under way; PADV acts by
the first row of its table that applies: done at once, an abandonment, a transition started and waited for, one under
way waited for, the cut, or the trap of a faulted transition; one that waits ends when CUR has become its target, or
traps when its transition has faulted; PCANCEL abandons. What an abandonment clears is the reading of log 56; an
operation that its group's boundary has made issues without another effect, log 64. -/
def Obligations.PhaseInstructionEffects : Prop := ∀ (s : State) (kd : BitVec 4) (tko r : BitVec 6) (rf : Bool)
    (n : BitVec 6) (x : Context),
  let c := s.core
  let t := phaseTarget rf r n c
  let with' (y : Context) : State := { s with contexts := s.contexts.map fun z =>
    if z.asid = x.asid then y else z }
  let gone (y : Context) : Context := { y with
    eng := .idle, tip := false, flt := false, fcode := 0, prem := 0, pass := 0, hasEngine := false
    moves := [], heldBack := [] }
  let begun (y : Context) : Context := { y with
    eng := .diffing, tip := true, tgt := t, pass := 0, flt := false, fcode := 0, hasEngine := false
    trans := y.trans + 1, heldBack := [] }
  let busy (u : State) (b : Bool) : State := { u with core := { c with
    inflight := c.inflight ++ [⟨.k kd (statusMask b false) (BitVec.allOnes 256), 1, 0, 0, c.seq⟩]
    seq := c.seq + 1 } }
  let token (u : State) (v : BitVec 16) : Prop := (tko ≠ 63 → u.core.token tko = v) ∧
    ∀ j, j ≠ tko → u.core.token j = c.token j
  let same (u : State) : Prop := u.mem = s.mem ∧ u.core.s = c.s ∧ u.core.k = c.k ∧ u.core.v = c.v ∧
    u.core.acc = c.acc ∧ u.core.inflight = c.inflight
  s.context? c.asid = some x → (∀ z ∈ s.contexts, z.asid = x.asid → z = x) →
  (Runs (.pnext kd rf r n) s → Does (.pnext kd rf r n) s
    (if x.tip then busy s (x.tgt != t) else if x.cur = t then busy s false else busy (with' (begun x)) false)) ∧
  (Runs (.padv tko rf r n) s → c.phasesMade = 0 → c.padvWait = none →
    (x.cur = t → ∃ u, exec (.padv tko rf r n) s = .next u ∧ token u 0x8000 ∧ same u ∧
      u.contexts = (with' (if x.tip then gone x else x)).contexts ∧ u.core.slot = c.slot + 1) ∧
    (x.cur ≠ t → x.tip = true → x.tgt = t → x.eng = .complete → x.heldBack = [] →
      ∃ u, exec (.padv tko rf r n) s = .next u ∧ token u 0x4000 ∧ same u ∧
        u.contexts = (with' { x with eng := .cutting, padvs := x.padvs ++ [(c.who, tko)] }).contexts ∧
        u.core.slot = c.slot + 1) ∧
    (x.cur ≠ t → ¬ (x.tip = true ∧ x.tgt = t) →
      ∃ u, exec (.padv tko rf r n) s = .next u ∧ token u 0x4000 ∧ same u ∧
        u.contexts = (with' (begun (gone x))).contexts ∧ u.core.padvWait = some 1 ∧ u.core.padvTgt = t ∧
        u.core.padvFor = x.trans + 1 ∧ u.core.padvEnd = .none ∧ u.core.slot = c.slot) ∧
    (x.cur ≠ t → x.tip = true → x.tgt = t → x.eng ≠ .complete → x.eng ≠ .faulted →
      ∃ u, exec (.padv tko rf r n) s = .next u ∧ token u 0x4000 ∧ same u ∧ u.contexts = s.contexts ∧
        u.core.padvWait = some 1 ∧ u.core.padvTgt = t ∧ u.core.padvFor = x.trans ∧ u.core.padvEnd = .none ∧
        u.core.slot = c.slot) ∧
    (x.cur ≠ t → x.tip = true → x.tgt = t → x.eng = .faulted →
      ∃ u tr, exec (.padv tko rf r n) s = .next u ∧ u.core.mode = .trapped ∧ u.core.trap = some tr ∧
        tr.cause = .phaseFault ∧ tr.info = BitVec.ofNat 64 (t.toNat + 256 * x.fcode.toNat) ∧
        u.contexts = s.contexts ∧ u.core.tokens = c.shadow.tokens)) ∧
  (Runs (.padv tko rf r n) s → c.phasesMade = 0 → ∀ w, c.padvWait = some w →
    (c.padvEnd = .met → ∃ u, exec (.padv tko rf r n) s = .next u ∧ token u 0x8000 ∧ same u ∧
      u.contexts = s.contexts ∧ u.core.padvWait = none ∧ u.core.slot = c.slot + 1) ∧
    (∀ code, c.padvEnd = .faulted code → ∃ u tr, exec (.padv tko rf r n) s = .next u ∧ u.core.mode = .trapped ∧
      u.core.trap = some tr ∧ tr.cause = .phaseFault ∧ tr.info = BitVec.ofNat 64 (t.toNat + 256 * code.toNat) ∧
      u.contexts = s.contexts)) ∧
  (Runs .pcancel s → c.phasesMade = 0 → Does .pcancel s (if x.tip then with' (gone x) else s)) ∧
  (∀ i, (i = .pcancel ∨ i = .padv tko rf r n) → Runs i s → 0 < c.phasesMade →
    Does i s { s with core := { c with phasesMade := c.phasesMade - 1 } })

/-- R214, R313: TSPAWN on an open queue with room, while earlier commands of its core are outstanding and no earlier
entry of the queue is reserved, reserves the next ring entry for the record and reports 1; with no room it reserves
nothing and reports the second status. That a queue which is closing or refuses rings answers as a full ring does is the
model's choice, log 84. -/
def Obligations.TspawnReservesAnEntry : Prop := ∀ (s : State) (kd : BitVec 4) (sa sb : BitVec 6) (q : Queue),
  let c := s.core
  let room := (q.tail - q.head).toNat < q.rsz
  Runs (.tspawn kd sa sb) s → s.sched.queues = [q] → q.qid = (c.rs sa).setWidth 14 →
  (room → q.closing = false → q.refuse = false → c.outstandingBefore c.nextId = true → q.reserved = [] →
    ∃ t, exec (.tspawn kd sa sb) s = .next t ∧
      (∃ p ∈ t.sched.queues, p.qid = q.qid ∧ p.tail = q.tail + 1 ∧ p.head = q.head ∧
        p.reserved = [⟨q.tail, c.who, (c.rs sb).setWidth 56, c.nextId⟩]) ∧
      (∃ r ∈ t.core.inflight, r.val = .k kd (statusMask true false) (BitVec.allOnes 256) ∧ r.rem = 1) ∧
      t.mem = s.mem ∧ t.core.slot = c.slot + 1) ∧
  ((¬ room ∨ q.closing = true ∨ q.refuse = true) → Sends (.tspawn kd sa sb) s
    (.k kd (statusMask false true) (BitVec.allOnes 256)) 1 0 0)

/-! ### Traps, stalls, checkpoints -/

/-- R8, R27, R77, R326: an operation whose checks find a trap has no effect; the core rolls back to its last
checkpoint, keeps the trap record of cause, slot, bundle, checkpoint and INFO, and waits for the service. That
STAT comes back from the shadow set is the reading of log 57. -/
def Obligations.TrapsRollBack : Prop := ∀ (i : Instr) (s : State) (t : TrapCond),
  i.slot ≠ none → check i s = .trap t → ∃ u r, exec i s = .next u ∧
    u.core.mode = .trapped ∧ u.core.trap = some r ∧ r.cause = t.cause ∧ r.info = t.info ∧
    r.slot = s.core.slotPos ∧ r.bidx = s.core.pc ∧ r.ckidx = s.core.shadow.pc ∧ r.grpc = s.core.grpc ∧
    r.ptb = s.ptb ∧
    u.core.s = s.core.shadow.s ∧ u.core.k = s.core.shadow.k ∧ u.core.v = s.core.shadow.v ∧
    u.core.cb = s.core.shadow.cb ∧ u.core.tiles = s.core.shadow.tiles ∧ u.core.tokens = s.core.shadow.tokens ∧
    u.core.fpc = s.core.shadow.fpc ∧ u.core.shape = s.core.shadow.shape ∧ u.core.mdef = s.core.shadow.mdef ∧
    u.core.stat = s.core.shadow.stat ∧ u.core.plim = s.core.shadow.plim ∧ u.core.pc = s.core.shadow.pc ∧
    u.core.stores = [] ∧ (∀ q ∈ u.core.queue, q.released = true) ∧ (∀ p ∈ u.core.posts, p.committed = true) ∧
    u.core.acc = s.core.acc ∧ u.core.own = s.core.own ∧ u.core.wb0 = s.core.wb0 ∧ u.core.wb1 = s.core.wb1 ∧
    u.core.handles = s.core.handles ∧ u.core.ckptc = s.core.ckptc ∧ u.mem = s.mem ∧ u.contexts = s.contexts

/-- R217, R325: TRAP and BRK raise software-trap and breakpoint with their code as INFO, unless the service has
asked the bundle to pass them once. R29, R113: a MOVRC to a register that is not writable is found to raise
privileged-operation, whatever the mode of the core. -/
def Obligations.TrapsRaisedByOperations : Prop :=
  (∀ (s : State) (code : BitVec 16),
  let raised (i : Instr) (k : Cause) : Prop :=
    earlyCheck i s = none → s.core.selected = [] → s.core.skipBrk ≠ some s.core.pc →
      ∃ u r, exec i s = .next u ∧ u.core.mode = .trapped ∧ u.core.trap = some r ∧ r.cause = k ∧
        r.info = code.setWidth 64
  let passed (i : Instr) : Prop := Runs i s → Does i s { s with core := { s.core with skipBrk := none } }
  raised (.trap code) .softwareTrap ∧ raised (.brk code) .breakpoint ∧ passed (.trap code) ∧ passed (.brk code)) ∧
  (∀ (f : ScF) (s : State),
  earlyCheck (.movrc f) s = none → stalled (.movrc f) s = false → guardOff (.movrc f) s.core = false →
  f.imm.toNat ∉ [0, 1, 2, 4, 8] → check (.movrc f) s = .trap ⟨.privilegedOperation, BitVec.ofNat 64 s.core.slotPos⟩)

/-- R8, R29, R76: a stalled operation is held one cycle, which GRPC and CYC count, and nothing else changes. -/
def Obligations.StallsHoldOneCycle : Prop := ∀ (i : Instr) (s : State),
  i.slot ≠ none → check i s = .wait →
    exec i s = .next { s with core := { s.core with grpc := s.core.grpc + 1 }, cyc := s.cyc + 1 }

/-- R93: encoding, feature and group errors come before a stall, and a stall before the operand traps. That of several
operand traps of one operation the cause that R93's list names first is raised is the model's reading, log 19. -/
def Obligations.ChecksComeInOrder : Prop := ∀ (i : Instr) (s : State),
  (encodingBad i s = true → check i s = .trap ⟨.illegalEncoding, BitVec.ofNat 64 s.core.slotPos⟩) ∧
  (encodingBad i s = false → ∀ b, featureMissing i s = some b → check i s = .trap ⟨.featureAbsent, b.setWidth 64⟩) ∧
  (encodingBad i s = false → featureMissing i s = none → groupBad i s.core = true →
    check i s = .trap ⟨.illegalGroup, BitVec.ofNat 64 s.core.slotPos⟩) ∧
  (earlyCheck i s = none → stalled i s = true → check i s = .wait) ∧
  (earlyCheck i s = none → stalled i s = false → operandTraps i s ≠ [] →
    ∃ t ∈ operandTraps i s, check i s = .trap t ∧ ∀ u ∈ operandTraps i s, t.cause.rank ≤ u.cause.rank)

/-- R27, R28, R74, R77: a checkpoint copies the registers, FPC with the flags of the VAMADDs it releases, STAT and the
tile table among them, into the shadow set, empties the store buffer, releases the commands and frees the withheld
arrivals and posts; a tile that no command in the queue names keeps its entry; CKPTC does not count it. R78, R321: a
yield point of a running task commits a checkpoint and declares its run; while the run fits the slice the task goes
on. -/
def Obligations.CheckpointsAndYieldPointsCommit : Prop :=
  (∀ (s : State), ∃ t, exec .checkpoint s = .next t ∧
  t.core.shadow.s = s.core.s ∧ t.core.shadow.k = s.core.k ∧ t.core.shadow.v = s.core.v ∧
  t.core.shadow.cb = s.core.cb ∧ t.core.shadow.shape = s.core.shape ∧
  ((∀ x ∈ s.contexts, x.mirrored = []) → t.core.shadow.tokens = s.core.tokens ∧ t.core.tokens = s.core.tokens) ∧
  t.core.fpc = s.core.stores.foldl (fun (f : BitVec 13) (e : StoreEntry) => f ||| (e.flags ++ 0#8)) s.core.fpc ∧
  t.core.shadow.fpc = t.core.fpc ∧ t.core.stat = s.core.stat ∧ t.core.shadow.stat = s.core.stat ∧
  t.core.shadow.tiles = t.core.tiles ∧
  (∀ n, (∀ q ∈ s.core.queue, ∀ fill, q.tile? ≠ some (n, fill)) → t.core.tile n = s.core.tile n) ∧
  t.core.shadow.mdef = s.core.mdef ∧ t.core.shadow.plim = s.core.plim ∧ t.core.shadow.pc = s.core.pc ∧
  t.core.s = s.core.s ∧ t.core.k = s.core.k ∧ t.core.v = s.core.v ∧ t.core.ckptc = s.core.ckptc ∧
  t.core.stores = [] ∧ (∀ q ∈ t.core.queue, q.released = true) ∧ (∀ p ∈ t.core.arrs, p.held = false) ∧
  (∀ p ∈ t.core.posts, p.committed = true) ∧ t.core.own = s.core.own) ∧
  (∀ (s : State) (r : BitVec 23),
  s.core.mode = .running → s.occ = .run r →
  ((s.core.grpc - s.core.grpcStart).toNat + r.toNat ≤ s.core.slice ∨ s.core.task = none) →
  s.pool (coreDie s.core.id) = [] → ∃ t, exec .yieldPoint s = .next t ∧ t.core.declared = r.toNat ∧
      t.core.sinceYield = 0 ∧
    t.core.mode = .running ∧ t.core.stores = [] ∧ t.core.shadow.s = s.core.s ∧ t.core.s = s.core.s ∧
    t.core.fpc = s.core.stores.foldl (fun (f : BitVec 13) (e : StoreEntry) => f ||| (e.flags ++ 0#8)) s.core.fpc ∧
    t.core.shadow.fpc = t.core.fpc ∧ t.core.shadow.stat = s.core.stat ∧ t.core.shadow.tiles = t.core.tiles ∧
    t.core.task = s.core.task)

/-- R11 to R13, R18, R25, R29, R69: at a group start a result whose latency has passed is written to its register: a
general, mask or vector register, of a mask or vector the bits it enables alone, a control register, a codebook or a
handle; a later one counts down, and no other register changes; a write to `s0` or `k0` is discarded. R54: its flags
reach FPC at the group's end. That STAT bits are set at landing is the reading of log 21. -/
def Obligations.ResultsLandAtGroupStart : Prop := (∀ (s : State) (v : ResVal) (n : Nat) (fl : Flags)
    (st : BitVec 5) (q : Nat),
  let c := s.core
  c.inflight = [⟨v, n, fl, st, q⟩] → c.loop = none → ∃ t, exec .resultVisible s = .next t ∧
    t.core.landed = true ∧ t.mem = s.mem ∧
    let d := t.core
    let scalars : Prop := d.s = c.s
    let masks : Prop := d.k = c.k
    let vectors : Prop := d.v = c.v
    let codebooks : Prop := d.cb = c.cb
    let handles : Prop := d.handles = c.handles
    let control : Prop := d.fpc = c.fpc ∧ d.shape = c.shape ∧ d.mdef = c.mdef ∧ d.plim = c.plim
    (1 < n → d.inflight = [⟨v, n - 1, fl, st, q⟩] ∧ scalars ∧ masks ∧ vectors ∧ codebooks ∧ handles ∧ control ∧
      d.stat = c.stat ∧ d.flagsDue = c.flagsDue) ∧
    (n ≤ 1 → d.inflight = [] ∧ d.flagsDue = c.flagsDue ||| fl ∧
      match v with
      | .none => scalars ∧ masks ∧ vectors ∧ codebooks ∧ handles ∧ control ∧ d.stat = c.stat ||| st
      | .s i x => (∀ j, d.rs j = if j = i ∧ i ≠ 0 then x else c.rs j) ∧ masks ∧ vectors ∧ codebooks ∧ handles ∧
          control ∧ d.stat = c.stat ||| st
      | .k i x en => (∀ j, d.rk j = if j = i ∧ i ≠ 0 then (x &&& en) ||| (c.rk j &&& ~~~en) else c.rk j) ∧ scalars ∧
          vectors ∧ codebooks ∧ handles ∧ control ∧ d.stat = c.stat ||| st
      | .v i x en => (∀ j r, r < 8 → vrow (d.rv j) r = if j = i then
            (vrow x r &&& vrow en r) ||| (vrow (c.rv j) r &&& ~~~(vrow en r)) else vrow (c.rv j) r) ∧ scalars ∧ masks ∧
          codebooks ∧ handles ∧ control ∧ d.stat = c.stat ||| st
      | .cb i x => (∀ j, d.rcb j = if j = i then x else c.rcb j) ∧ scalars ∧ masks ∧ vectors ∧ handles ∧ control ∧
          d.stat = c.stat ||| st
      | .h i x => (∀ j, d.handle j = if j = i then x else c.handle j) ∧ scalars ∧ masks ∧ vectors ∧ codebooks ∧
          control ∧ d.stat = c.stat ||| st
      | .cr i x => scalars ∧ masks ∧ vectors ∧ codebooks ∧ handles ∧
          d.fpc = (if i = 0 then x.setWidth 13 else c.fpc) ∧ d.shape = (if i = 1 then x.setWidth 10 else c.shape) ∧
          d.mdef = (if i = 2 then x.setWidth 11 else c.mdef) ∧ d.plim = (if i = 8 then x.setWidth 32 else c.plim) ∧
          d.stat = (if i = 4 then x.setWidth 5 else c.stat) ||| st)) ∧
  (∀ c : Core, c.endGroup.fpc = c.fpc ||| (c.flagsDue ++ 0#8) ∧ c.endGroup.flagsDue = 0 ∧ c.endGroup.s = c.s ∧
    c.endGroup.k = c.k ∧ c.endGroup.v = c.v)

/-- R8, R66, R76, R209, R210, R248: at a bundle boundary a group that must wait is held a cycle, and one whose checks
pass begins: GRPC counts it. A group's PADV or PCANCEL is made at its boundary, before anything of it issues, and is
held while the context is cutting. The attachment that waits for its pod object is the reading of log 11, the phase
operations of a group that of log 64. -/
def Obligations.GroupsBeginOrHold : Prop := ∀ (s : State),
  let c := s.core
  let held : State := { s with core := { c with grpc := c.grpc + 1 }, cyc := s.cyc + 1 }
  let noPods : Prop := ∀ b ∈ groupBundles c 8 c.pc, ∀ o, b.decode .sy ≠ .ok (.bariAtt o) ∧
    ∀ sa e h, b.decode .sy ≠ .ok (.bari o sa e h)
  let pending := pendingPhases c (groupBundles c 8 c.pc)
  (bundleAction s = .hold s.hold → exec .stallUntil s = .next held) ∧
  (∀ irrev, bundleAction s = .go irrev → c.gpos = 0 → noPods →
    exec .stallUntil s = .next { s with core := { c with passed := true, grpIrrev := irrev, grpc := c.grpc + 1 } }) ∧
  (∀ x, bundleAction s = .phases → noPods → s.context? c.asid = some x → (∀ z ∈ s.contexts, z.asid = x.asid → z = x) →
    let with' (y : Context) : List Context := s.contexts.map fun z => if z.asid = x.asid then y else z
    (∀ pc i l, pending = (pc, i) :: l → x.eng = .cutting → c.padvWait = none → exec .stallUntil s = .next held) ∧
    (∀ pc, pending = [(pc, .pcancel)] → x.eng ≠ .cutting → exec .stallUntil s = .next { s with
      contexts := if x.tip then with' { x with
          eng := .idle, tip := false, flt := false, fcode := 0, prem := 0, pass := 0, hasEngine := false
          moves := [], heldBack := [] } else s.contexts
      core := { c with phasesMade := c.phasesMade + 1, passed := true, grpIrrev := true, grpc := c.grpc + 1 } }) ∧
    (∀ pc tko rf r n, pending = [(pc, .padv tko rf r n)] → c.padvWait = none → tko ≠ 63 →
      (c.token tko).toNat / 2 ^ 14 ≠ 1 → (c.token tko).toNat / 2 ^ 14 ≠ 3 →
      x.cur ≠ phaseTarget rf r n c → x.tip = true → x.tgt = phaseTarget rf r n c → x.eng = .complete → x.heldBack = [] →
      ∃ u, exec .stallUntil s = .next u ∧ u.core.token tko = 0x4000 ∧ u.mem = s.mem ∧
        u.contexts = with' { x with eng := .cutting, padvs := x.padvs ++ [(c.who, tko)] } ∧
        u.core.phasesMade = c.phasesMade + 1 ∧ u.core.passed = true ∧ u.core.grpIrrev = true ∧ u.core.s = c.s))

/-! ### The engine's events -/

/-- R24, R172, R174, R175, R243, R328, R373: a command that may start takes an execution slot under the current map and
begins its accesses: a COPY's element within its core's scratchpad is performed, one read elsewhere is asked for there;
one that consumes a faulted token takes its fault. A command that has made every access makes its token done and
leaves; one whose access failed stops with its token faulted and restarts at the first element not performed, its dead
reads noted still; an access that its home did not perform is made again. What ENGINE_FAULT does at once is the reading
of log 42. -/
def Obligations.EngineCommandEvents : Prop := ∀ (s : State) (n : Nat) (q : Cmd),
  let c := s.core
  let q' : Cmd := { q with map := ((s.context? q.asid).map (·.cur)).getD 0 }
  let alone : Prop := c.queue = [] ∧ c.running = [q] ∧ c.arrs = [] ∧ c.posts = [] ∧ s.sched.queues = []
  let plainCopy : Prop := (∃ f, q.op = .copy f) ∧ Nest.fmtCode q.nest false = Nest.fmtCode q.nest true ∧
    nestWidth q.nest true % 8 = 0
  let w := nestWidth q.nest true / 8
  let asked (t : State) (r : Cmd) (p : Piece) : Prop := t.core.running = [{ r with pieces := [{ p with stage :=
    .reading }] }] ∧
    t.mem = s.mem ∧ ∃ m : Msg, t.net.msgs = [m] ∧ m.op = .readReq ∧ m.loc = p.src ∧ m.width = 8 * w ∧
      m.core = c.id ∧ m.cmd = q.id ∧ m.idx = p.idx ∧ m.final = homePort p.src.byte
  s.occ = .num n → q.id = n →
  (c.queue = [q] → s.canStart c q = false → c.running = [] → exec .engineCommandStart s = .next s) ∧
  (c.queue = [q] → c.running = [] → s.canStart c q = true → q.pieces = [] →
    (∀ code, c.inheritedFault q = some code → exec .engineCommandStart s = .next { s with core := { c with
      queue := [], running := [{ q' with faults := [(0, code, .inherited)], stopped := true }] } }) ∧
    (c.inheritedFault q = none → s.piecesOf c.id q' = [] → exec .engineCommandStart s = .next { s with core := { c with
      queue := [], running := [q'] } }) ∧
    (∀ p, c.inheritedFault q = none → plainCopy → s.piecesOf c.id q' = [p] → q.stopped = false → s.net.msgs = [] →
      s.writeHeld c.id q' p.dst = false →
      (∀ i j, s.memWf → (∀ x ∈ s.contexts, x.mirrored = []) → p.src = .spad i → p.dst = .spad j →
        s.isPoisoned (spadBase c.id + i / 8) w = false → ∃ t, exec .engineCommandStart s = .next t ∧
          t.core.queue = [] ∧ t.core.running = [{ q' with pieces := [{ p with stage := .done }] }] ∧
          ∀ x, t.peek x = if spadBase c.id + j / 8 ≤ x ∧ x < spadBase c.id + j / 8 + w then
            s.peek (spadBase c.id + i / 8 + (x - (spadBase c.id + j / 8))) else s.peek x) ∧
      (∀ i, p.src = .phys i → ∃ t, exec .engineCommandStart s = .next t ∧ t.core.queue = [] ∧ asked t q' p))) ∧
  (alone → s.finished c.id q = true → (∀ f, q.op ≠ .mapq f ∧ q.op ≠ .lxred f ∧ q.op ≠ .xlinv f) →
    ∃ t, exec .engineCommandComplete s = .next t ∧ t.core.running = [] ∧
      (q.f.tko ≠ 63 → t.core.token q.f.tko = 0x8000 ||| q.status.setWidth 16) ∧
      (∀ j, j ≠ q.f.tko → t.core.token j = c.token j) ∧
      (∀ tile fill, q.tile? = some (tile, fill) → TileE.state (t.core.tile tile) = if fill then 2 else 0) ∧
      t.mem = s.mem ∧ t.core.s = c.s ∧ t.core.v = c.v) ∧
  (alone → q.stopped = true → q.inFlight = false → ∀ f, firstFault q.faults = some f →
    ∃ t, exec .engineFault s = .next t ∧ (q.f.tko ≠ 63 → t.core.token q.f.tko = 0xC000 ||| f.2.1.setWidth 16) ∧
      (∀ j, j ≠ q.f.tko → t.core.token j = c.token j) ∧
      (f.2.2 ∈ [FaultWhy.inherited, .landing] → t.core.running = []) ∧
      (f.2.2 = .home → f.2.1 = 6 → t.core.running = []) ∧
      (f.2.2 = .unperformed → f.2.1 = 7 → t.core.running = [{ q with
        restart := q.firstLeft, faultAt := f.1, status := f.2.1, why := f.2.2, faults := [] }]) ∧
      t.mem = s.mem) ∧
  (alone → q.stopped = true → q.faults = [] → c.mode ≠ .idle → q.why = .unperformed → q.status = 7 →
    s.bankTaken c.id s.net.msgs q.startSpans = false →
    (256 ≤ (s.inFlight (corePort c.id)).length →
      ∃ t, exec .faultRestart s = .next t ∧ (q.f.tko ≠ 63 → t.core.token q.f.tko = 0x4000) ∧
        (∃ r, t.core.running = [r] ∧ r.id = q.id ∧ r.stopped = false ∧ r.status = (if q.deadRead then 1 else 0) ∧
          (∀ p ∈ r.pieces, p.idx < q.restart → p.stage = .done)) ∧ t.mem = s.mem) ∧
    (∀ p i, plainCopy → s.piecesOf c.id q = [p] → q.restart ≤ p.idx → p.src = .phys i → s.net.msgs = [] →
      s.writeHeld c.id q p.dst = false → ∃ t, exec .faultRestart s = .next t ∧
        (q.f.tko ≠ 63 → t.core.token q.f.tko = 0x4000) ∧ t.core.queue = [] ∧
        asked t { q with stopped := false, status := if q.deadRead then 1 else 0, why := .home } p))

/-! ### Queues, slots, the pool -/

/-- R313, R316, R317: a ring of TAIL is taken, or clamped and logged, or ignored by a queue that closes; a ring of
CHEAD frees entries; the scheduler consumes the next written entry; a pending queue takes a free slot; a closing
queue that is idle closes; a chained task enters the pool. The order of the chain and the pool is the reading of
log 48. -/
def Obligations.QueueEvents : Prop := ∀ (s : State) (q : Queue), s.sched.queues = [q] →
  let with' (p : Queue) : State := { s with sched := { s.sched with queues := [p] } }
  (∀ x, s.occ = .ring q.qid x →
    (q.qst = .closed ∨ q.closing = true ∨ q.refuse = true → exec .doorbellTail s = .next s) ∧
    (q.qst = .bound → q.closing = false → q.refuse = false →
      ((x - q.head).toNat ≤ q.rsz → exec .doorbellTail s = .next (with' { q with tail := x })) ∧
      (q.rsz < (x - q.head).toNat → ∃ t r, exec .doorbellTail s = .next t ∧
        t.sched.queues = [{ q with tail := q.head + BitVec.ofNat 32 q.rsz }] ∧
        t.svc.log.getLast? = some r ∧ r.kind = 7 ∧ bits r.detail 56 8 = 3 ∧ t.mem = s.mem)) ∧
    (q.waiting = [] → exec .doorbellChead s = .next (with' { q with chead := x }))) ∧
  (s.occ = .queue q.qid →
    (q.canConsume = false → exec .hqsConsume s = .next s) ∧
    (q.canConsume = true → (∀ x ∈ s.contexts, x.mirrored = []) → ∃ t p, exec .hqsConsume s = .next t ∧
      t.sched.queues = [p] ∧
      p.qid = q.qid ∧ p.head = q.head + 1 ∧ p.tail = q.tail ∧ p.qst = .bound ∧ t.core = s.core ∧
      (s.recordReadable q.asid (s.field q.asid (q.ring.toNat + 8 * (q.head.toNat % q.rsz)) 8) = false →
        t.sched.pools = s.sched.pools ∧ (q.waiting = [] → q.ringFull = false → p.ctail = q.ctail + 1))) ∧
    (q.closing = true → s.queueIdle q = true →
      exec .queueCloseComplete s = .next (with' { q with qst := .closed })) ∧
    (q.closing = false ∨ s.queueIdle q = false → exec .queueCloseComplete s = .next s)) ∧
  (s.occ = .die q.die → q.qst = .pending → s.svc.drained.contains q.die = false → s.chain q.die = [] →
    exec .slotTakeover s = .next { s with sched := { s.sched with
      queues := [{ q with qst := .bound, slot := 0, stamp := s.sched.nextStamp }]
      nextStamp := s.sched.nextStamp + 1 } }) ∧
  (∀ d e, s.occ = .die d → s.chain d = [e] → s.poolTakes d e = true → (∀ x ∈ s.contexts, x.mirrored = []) →
    ∃ t, exec .poolOverflowEntry s = .next t ∧ t.pool d = s.pool d ++ [e] ∧ t.chain d = [] ∧
      (∀ j, j ≠ d → t.pool j = s.pool j ∧ t.chain j = s.chain j) ∧ t.core = s.core)

/-- R10, R36, R318: a ready task that has no saved image starts on the core the dispatcher prefers with FPC 0x0020,
SHAPE 0x0F7, MDEF 0x050, PLIM 0x00010000, registers, masks, tokens and handles clear but for `s1`, no bank owned and
its shadow set equal; it leaves the pool. R16, R213, R247: a task whose TEND has issued waits while its array works or
its decrements are on their way; then its successors' counters are decremented, unless the final pass holds one; when
those decrements have been performed the record is ended and the task leaves its core: banks released and zeroed,
latches and handles invalid, the core idle and the context remembered. The rank written at the start and what waits at
the end are readings of log 48. -/
def Obligations.TasksStartAndEnd : Prop :=
  (∀ (s : State) (id : BitVec 10) (e : PoolEntry) (q : Queue),
  let c := s.findCore id
  s.occ = .core id → c.id = id → s.taskFor c = some e → s.coresFor (coreDie id) e = [c] →
  s.queue? e.queue = some q → q.die = coreDie id → s.imagesOf e.asid e.recVa = [] → e.save = none →
  ∃ t d, exec .dispatch s = .next t ∧ t.findCore id = d ∧ d.mode = .running ∧
    d.task = some ⟨e.asid, e.recVa, e.queue, 1, 0, BitVec.ofNat 4 (s.agedRank e)⟩ ∧
    d.fpc = 0x0020 ∧ d.shape = 0x0F7 ∧ d.mdef = 0x050 ∧ d.stat = 0 ∧ d.plim = 0x00010000 ∧ d.ckptc = 0 ∧
    d.grpc = 0 ∧ d.ygrace = q.ygr ∧ (∀ i, i ≠ 1 → d.rs i = 0) ∧
    (∀ i, d.rk i = if i = 0 then BitVec.allOnes 256 else 0) ∧
    (∀ i, d.rv i = VReg.zero) ∧ (∀ i, d.token i = 0) ∧ (∀ i, d.handle i = 0) ∧ d.own = 0 ∧ d.acc = [] ∧
    d.wb0.valid = false ∧ d.wb1.valid = false ∧ d.shadow.s = d.s ∧ d.shadow.tiles = d.tiles ∧ d.stores = [] ∧
    d.feat = c.feat ∧ t.pool (coreDie id) = (s.pool (coreDie id)).erase e) ∧
  (∀ (s : State) (t : TaskInfo),
  let c := s.core
  c.mode = .ending → c.task = some t → t.gang.toNat ≤ 1 → s.parked = [] → c.inflight = [] → c.arrs = [] →
  c.posts = [] → c.releasing = [] → s.sched.queues = [] →
  let waits : Prop := exec .tendComplete s = .next { s with core := { c with grpc := c.grpc + 1 }, cyc := s.cyc + 1 }
  (endReady c = false ∨ s.arrivalsGone c.who = false → waits) ∧
  (endReady c = true → s.arrivalsGone c.who = true →
    (c.succSent = false → (∃ va ∈ s.successors t.asid t.recVa, s.counterHeld t.asid va = true) → waits) ∧
    (c.succSent = false → (∀ va ∈ s.successors t.asid t.recVa, s.counterHeld t.asid va = false) → ∃ u,
      exec .tendComplete s = .next u ∧ u.core = { c with succSent := true } ∧ u.mem = s.mem ∧
      ∀ va b, s.successors t.asid t.recVa = [va] → s.access t.asid (va.toNat / 4 * 4) false true = .ok (.phys b) →
        ∃ m, u.net.msgs.getLast? = some m ∧ m.op = .counter ∧ m.loc = .phys b ∧ m.final = homePort (b / 8) ∧
          natOfBytes (m.data.take 4) = 1 ∧ m.core = c.id) ∧
    (c.succSent = true → s.decrementsDone t = false → waits) ∧
    (c.succSent = true → s.decrementsDone t = true → ∃ u, exec .tendComplete s = .next u ∧ u.core.mode = .idle ∧
      u.core.task = none ∧ u.core.own = 0 ∧ u.core.acc = [] ∧ u.core.wb0.valid = false ∧ u.core.wb1.valid = false ∧
      (∀ i, u.core.handle i = 0) ∧ u.core.counts = [] ∧ u.core.lastAsid = some t.asid ∧ u.core.s = c.s ∧
      u.mem = (s.setTaskState t.asid t.recVa 6).mem)))

/-! ### Freezes and the answers to traps -/

/-- R209, R323, R327 to R329, R331, R332, R338: freeze requests and their stop, the handover's close, the release of
a task held by nddb, phase-late, and the service's resume and retire answers. The slot used and what a stop
waits for are readings of log 48; that a standing request of nddb is kept when the service asks is the reading of log
71, and whose bundle a phase-late names that of log 64. -/
def Obligations.FreezeAndTrapEvents : Prop := ∀ (s : State) (t : TaskInfo),
  let c := s.core
  c.task = some t → s.parked = [] →
  let asks (why : FreezeWhy) : Option FreezeWhy := if c.freeze = some .nddb then some .nddb else some why
  (c.mode = .running → exec .overrunFreeze s = .next { s with
    core := { c with freeze := asks .service, overrun := true }
    sched := { s.sched with queues := s.sched.queues.map fun x =>
      if x.qid = t.queue then { x with nfrz := x.nfrz + 1 } else x } }) ∧
  (∀ why, s.occ = .freeze c.id why →
    (c.mode = .running → exec .freezeRequest s = .next { s with core := { c with freeze := asks why } }) ∧
    (c.mode = .ending → exec .freezeRequest s = .next s) ∧
    (c.mode = .idle → why = .service → exec .freezeRequest s = .next s)) ∧
  (∀ w q slot, c.mode = .running → c.freeze = some w → s.queue? t.queue = some q → s.firstSlot q = some slot →
    (c.atStop = false → exec .freezeStop s = .next s) ∧
    (c.atStop = true → c.releasing = [] → c.arrs = [] → c.running = [] → c.padvWait = none → ∃ u m,
      exec .freezeStop s = .next u ∧ u.core.mode = .idle ∧ u.core.freeze = none ∧
      u.sched.images = s.sched.images ++ [m] ∧ m.handover = true ∧
      m.freeze = true ∧ m.slot = slot ∧ m.queue = q.qid ∧ m.midg = decide (0 < c.gpos) ∧
      m.nddb = (w == .nddb) ∧ u.core.s = c.s ∧ u.core.v = c.v ∧ u.core.acc = c.acc)) ∧
  (∀ m q, s.occ = .core c.id → s.sched.images = [m] → m.handover = true → m.core.id = c.id →
    (s.handoverDone m = false → exec .handoverClose s = .next s) ∧
    (s.handoverDone m = true → s.queue? m.queue = some q → s.saveBad q c (spadSizeOf c.id) m.slot = false →
      ∃ u m', exec .handoverClose s = .next u ∧ u.sched.images = [m'] ∧ m'.handover = false ∧ m'.core = c ∧
        m'.slot = m.slot ∧ u.core.mode = .idle ∧ u.core.task = none ∧ u.core.lastAsid = some t.asid)) ∧
  (∀ m, s.occ = .num 0 → s.sched.images = [m] → m.core.task = some t → m.nddb = true →
    (∀ x ∈ s.contexts, x.mirrored = []) → ∃ u, exec .releaseByNddb s = .next u ∧ u.sched.images = [{ m with nddb :=
      false }] ∧ u.core = s.core) ∧
  (∀ tk n, padvLate c = true → groupPadv (groupOps (groupBundles c 8 c.pc)) c = some (tk, n) →
    ∃ u r, exec .phaseLate s = .next u ∧ u.core.mode = .trapped ∧ u.core.trap = some r ∧
      r.cause = .phaseLate ∧ r.info = n.setWidth 64 ∧ r.bidx = padvBundle c ∧ r.slot = 7 ∧ u.core.s = c.shadow.s ∧
        u.mem = s.mem) ∧
  (padvLate c = false → exec .phaseLate s = .next s) ∧
  (∀ r, c.mode = .trapped → c.trap = some r →
    (r.rept ≤ 16 → r.cause = .phaseLate → (∀ x ∈ s.contexts, x.mirrored = []) → ∀ u, s.writeTrap c t r = some u →
      ∃ v, exec .trapRecord s = .next v ∧ v.core = { c with mode := .running, trap := none }) ∧
    (16 < r.rept → (s.gangQuiet t = false → exec .trapRecord s = .next s) ∧
      (s.gangQuiet t = true → ∃ v, exec .trapRecord s = .next v ∧ v.core.mode = .idle ∧ v.core.task = none ∧
        v.core.own = 0 ∧ v.core.acc = [] ∧ (∀ i, v.core.token i = 0))))

/-! ### The on-die network -/

/-- R291, R292, R294 to R297, R299, R307: a cycle moves a lone flit one hop nearer its router; a credit returns; a
throttle level rises to the count's level or falls by one; an access unanswered for 64 µs is lost, logged and its
command faulted with 0x07; a flit of reserved OP is logged; an error in a flit is logged, an uncorrectable payload
marked and an uncorrectable header discarded; a gateway sends a message on from the peer die under a new message id.
Rows, columns and the order of turns are the readings of log 43. That the late message is dropped whole, and not
performed any more, is the model's choice, log 77, and that its 64 µs do not follow the clock the reading of log 52. -/
def Obligations.NetworkEvents : Prop := ∀ (s : State) (d : BitVec 2),
  let cycled : Vector Nat 4 := s.net.cycle.set d.toNat (s.dieCycle d + 1) d.isLt
  (s.occ = .die d → (s.dieCycle d + 1) % 1024 ≠ 0 →
    (s.net.flits = [] → exec .routerCycle s = .next { s with net := { s.net with cycle := cycled } }) ∧
    (∀ f, s.net.flits = [f] → f.inj = false → f.src.die = d → f.dst.router ≠ f.here → ∃ t g,
      exec .routerCycle s = .next t ∧ t.net.flits = [g] ∧ g = { f with here := g.here } ∧
      t.net.cycle = cycled ∧ t.net.msgs = s.net.msgs ∧
      hops g.here f.dst.router + 1 = hops f.here f.dst.router)) ∧
  (∀ n, s.occ = .num n → exec .creditReturn s = .next { s with net := { s.net with
    credits := s.net.credits.eraseIdx n } }) ∧
  (s.occ = .die d → ∃ t, exec .throttleWindow s = .next t ∧ (∀ r, (t.router d r).count = 0 ∧
    let n := (s.router d r).count
    let goal := if n < 64 then 0 else min 7 (1 + Nat.log2 (n / 64))
    (t.router d r).level.toNat =
      if (s.router d r).level.toNat ≤ goal then goal else (s.router d r).level.toNat - 1) ∧
    t.net.flits = s.net.flits ∧ t.net.msgs = s.net.msgs) ∧
  (∀ n m q p, s.occ = .num n → s.msg? n = some m → m.core = s.core.id → s.parked = [] → s.core.running = [q] →
    q.id = m.cmd → q.pieces = [p] → p.idx = m.idx → m.bare = false → m.overFabric = false → s.net.msgs = [m] →
    (∀ f, q.op ≠ .pref f) →
    (64000 ≤ (s.ptb - m.since).toNat → ∃ t r, exec .accessTimeout s = .next t ∧ t.net.msgs = [] ∧
      t.core.running = [{ q with
        pieces := [p.atFault q.op], faults := q.faults ++ [(p.idx, 0x07, .response)], stopped := true }] ∧
      (p.atFault q.op).stage = .done ∧ t.svc.log.getLast? = some r ∧ r.kind = 3 ∧ bits r.detail 56 8 = 5 ∧
        t.mem = s.mem) ∧
    ((s.ptb - m.since).toNat < 64000 → exec .accessTimeout s = .next s)) ∧
  (∀ r plane src, s.occ = .flit d r plane src → ∃ t x, exec .flitUnknownOp s = .next t ∧
    t.svc.log.getLast? = some x ∧ x.kind = 3 ∧ bits x.detail 56 8 = 4 ∧ t.net = s.net ∧ t.mem = s.mem) ∧
  (∀ f e, s.net.flits = [f] → f.inj = false → (∀ m ∈ s.net.msgs, m.bare = false) →
    s.occ = .flitError f.mid f.seq e → ∃ t x,
    exec .routerCycle s = .next t ∧ t.net.flits = (match e with
      | .corrected => [f] | .payload => [{ f with psn := true }] | .header => []) ∧
    t.svc.log.getLast? = some x ∧ x.kind = 3 ∧
    bits x.detail 56 8 = (match e with | .corrected => 1 | .payload => 2 | .header => 3) ∧ t.net.msgs = s.net.msgs ∧
    t.mem = s.mem) ∧
  (∀ n m, s.occ = .num n → m.id = n → s.net.msgs = [m] → m.arrived = true → m.dst ≠ m.final → ∃ t y,
    exec .ucieMessage s = .next t ∧ t.net.msgs = [y] ∧ y.id = n ∧ y.src.die = m.final.die ∧ y.dst = m.final ∧
    y.arrived = false ∧ y.mid = some 0 ∧ y.data = m.data ∧ t.net.flits = s.net.flits ++ flitsOf y ∧ t.mem = s.mem)

/-- R294, R302, R303, R306: a complete request is performed at its home and answered to the core and command that
made it, and the request leaves the network; an answer with a code faults its command's element; one without
completes it: a read's data lies in the element's destination, a result in its scratchpad words, a write is
acknowledged; a task's request is taken by the service. An answer over the mesh never says 0x01 (R24): the engine finds
a dead page as it translates, before anything is sent. An error response without lines is the reading of log 45. -/
def Obligations.MessagesAreAnswered : Prop := ∀ (s : State) (n : Nat) (m : Msg),
  s.occ = .num n → s.net.msgs = [m] → m.id = n → m.arrived = true → m.dst = m.final → m.psn = false →
  m.final.isTrepin = false → m.bare = false → m.packet = none → (∀ x ∈ s.contexts, x.mirrored = []) →
  let answers (u : State) (op : NetOp) (data : List Byte) (code : BitVec 8) : Prop := ∃ a : Msg,
    u.net.msgs = [a] ∧ a.op = op ∧ a.data = data ∧ a.status = code ∧ a.core = m.core ∧ a.cmd = m.cmd ∧
    a.idx = m.idx ∧ a.final = corePort m.core
  let wrote (u : State) (base : Nat) (l : List Byte) : Prop :=
    ∀ a, u.peek a = if base ≤ a then l.getD (a - base) (s.peek a) else s.peek a
  (m.op = .readReq → m.sub = 0 → ∀ b, m.loc = .phys b →
    (s.homeCode m = 0 → ∃ u, exec .netReadRequest s = .next u ∧ answers u .readResp (s.physBytes b m.width) 0 ∧
      u.mem = s.mem) ∧
    (s.homeCode m ≠ 0 → ∃ u, exec .netReadRequest s = .next u ∧ answers u .readResp [] (s.homeCode m) ∧
      u.mem = s.mem)) ∧
  (m.op = .write → s.memWf → ∀ b i, m.loc = .phys b → placeOf (b / 8) = .stack i → m.width = 8 * m.data.length →
    ∃ u, exec .netWrite s = .next u ∧ answers u .writeAck [] 0 ∧ wrote u (b / 8) m.data) ∧
  (m.op = .merge → m.sub ≤ 10 → ∀ w o src mid, m.entries = [⟨n, w, o, src, mid⟩] →
    (s.homeCode m = 0 → ∃ u, exec .mergeableAtMemoryOperation s = .next u ∧
      answers u .atResp (bytesOfNat (amoWidth m.sub) (s.amoAt m.loc.byte m.sub w).2.toNat) 0 ∧
      u.mem = (s.amoAt m.loc.byte m.sub w).1.mem) ∧
    (s.homeCode m ≠ 0 → ∃ u, exec .mergeableAtMemoryOperation s = .next u ∧
      answers u .atResp (bytesOfNat (amoWidth m.sub) 0) (s.homeCode m) ∧ u.mem = s.mem)) ∧
  (m.op = .atomic → ∃ u a, exec .unmergeableAtMemoryOperation s = .next u ∧ u.mem = (s.atomicAt m).state.mem ∧
    u.net.msgs.getLast? = some a ∧ a.op = .atResp ∧ a.data = (s.atomicAt m).data ∧
    a.status = (s.atomicAt m).code ∧ a.core = m.core ∧ a.cmd = m.cmd ∧ a.idx = m.idx) ∧
  (m.op = .paramReq →
    (s.recAt m.loc.byte = none → s.recMoving m.loc.byte = false → ∃ u, exec .parameterRequest s = .next u ∧
      answers u .paramResp [] 0x06 ∧ u.mem = s.mem) ∧
    (∀ r, s.recAt m.loc.byte = some r → r.cell = false → m.sub = 6 →
      (r.poisoned = true ∨ s.isPoisoned m.loc.byte 128 = false) → ∃ u, exec .parameterRequest s = .next u ∧
      answers u .paramResp (s.peekBytes m.loc.byte 128) 0 ∧ u.mem = s.mem)) ∧
  (m.op = .counter →
    (s.homeCode m ≠ 0 → ∃ u, exec .counterDecrement s = .next u ∧ answers u .writeAck [] (s.homeCode m) ∧
      u.mem = s.mem) ∧
    (s.homeCode m = 0 → s.memWf → ∀ k, natOfBytes (m.data.take 4) = k → 0 < k → k < s.peekNat m.loc.byte 4 →
      ∃ u, exec .counterDecrement s = .next u ∧ answers u .writeAck [] 0 ∧
        wrote u m.loc.byte (bytesOfNat 4 (s.peekNat m.loc.byte 4 - k)))) ∧
  (m.op = .control → ∃ u, exec .serviceControl s = .next u ∧ u.net.msgs = [] ∧ u.mem = s.mem ∧ u.core = s.core ∧
    u.svc.requests = if (s.context? m.asid).isNone then s.svc.requests
      else s.svc.requests ++ [{ m.call with stamp := s.svc.nextStamp }]) ∧
  (∀ e ∈ [(NetOp.readResp, Instr.netReadResponse), (.writeAck, .netWriteAcknowledgement),
      (.atResp, .atMemoryResponse), (.paramResp, .parameterResponse)], m.op = e.1 →
    ∀ q p, s.parked = [] → m.core = s.core.id → s.core.running = [q] → q.id = m.cmd → q.pieces = [p] → p.idx = m.idx →
      let completes (u : State) : Prop := exec e.2 s = .next u ∧ u.net.msgs = [] ∧
        u.core.running = [{ q with pieces := [{ p with stage := .done, out := none }] }]
      (m.status ≠ 0 → m.status ≠ 1 → m.status ≠ 2 → (∀ f, q.op ≠ .pref f) → ∃ u, exec e.2 s = .next u ∧
        u.net.msgs = [] ∧ u.mem = s.mem ∧ (p.atFault q.op).stage = .done ∧ u.core.running = [{ q with
          pieces := [p.atFault q.op], faults := q.faults ++ [(p.idx, m.status, m.why)], stopped := true }]) ∧
      (m.status = 0 → p.stage = .writing → (∃ f, q.op = .copy f) → ∃ u, completes u ∧ u.mem = s.mem) ∧
      (m.status = 0 → s.memWf → ∀ o, resultOffset q = some o → (∀ f, q.op ≠ .chase f ∧ q.op ≠ .enq f) →
        ∃ u, completes u ∧ wrote u (spadBase s.core.id + o) (resultBytes q m.data)) ∧
      (m.status = 0 → s.memWf → p.stage = .reading → p.out = none → (∃ f, q.op = .copy f) → ∀ b, p.dst = .spad b →
        Nest.fmtCode q.nest false = Nest.fmtCode q.nest true → nestWidth q.nest true % 8 = 0 →
        ∃ u, completes u ∧ wrote u (spadBase s.core.id + b / 8) (m.data.take (nestWidth q.nest true / 8))))

/-! ### Stacks and couch engines -/

/-- R227, R230 to R232, R236, R359: the scrub logs what it corrects and poisons and logs what it cannot; an activation
counts toward its row in the refresh window, a row that reaches its limit is refreshed and counts from 0, and raises
an alert when it was refreshed in that window before; a dead frame's refresh stops and only its own bytes are lost; a
module held in reset does none of this. The address a scrub names is the reading of log 17, where a window ends, and
which activation a row sees, of log 3. -/
def Obligations.StackEvents : Prop := ∀ (s : State),
  let logged (t : State) (code : BitVec 8) : Prop := ∃ r, t.svc.log.getLast? = some r ∧ r.kind = 1 ∧
    bits r.detail 56 8 = code
  (s.svc.holdReset = true → exec .patrolScrub s = .next s ∧ exec .refreshManagement s = .next s) ∧
  (∀ line, s.occ = .scrub line .clean → exec .patrolScrub s = .next s) ∧
  (∀ line i, s.svc.holdReset = false → line.toNat < 0x10000000000 → placeOf line.toNat = .stack i →
    (s.occ = .scrub line .corrected → ∃ t, exec .patrolScrub s = .next t ∧ logged t 3 ∧ t.mem = s.mem ∧
      t.poisoned = s.poisoned) ∧
    (s.occ = .scrub line .uncorrectable → ∃ t, exec .patrolScrub s = .next t ∧ logged t 4 ∧ t.mem = s.mem ∧
      t.isPoisoned line.toNat 1 = true)) ∧
  (∀ stack pc bank row n again, s.occ = .row stack pc bank row → s.svc.holdReset = false →
    let r : Row := ⟨stack, pc, bank, row⟩
    let w := Config.refreshWindow stack s.tick
    rowIn r w s.activations = ⟨r, n, again, w⟩ → ∃ t, exec .refreshManagement s = .next t ∧ t.mem = s.mem ∧
      rowIn r w t.activations = ⟨r, 0, true, w⟩ ∧ (∀ x ∈ s.activations, x.row ≠ r → x ∈ t.activations) ∧
      (again = false → t.svc = s.svc) ∧ (again = true → logged t 5)) ∧
  (∀ a, a < 0x10000000000 →
    let r := rowAt a
    let w := Config.refreshWindow r.stack s.tick
    r.stack.toNat = a / 0x2000000000 ∧ r.pc.toNat = pseudoChannel a ∧
    (rowIn r w (s.touch a).activations).count =
      (rowIn r w s.activations).count + (if Config.opensRow (a / 512) s.tick then 1 else 0) ∧
    (rowIn r w (s.touch a).activations).refreshed = (rowIn r w s.activations).refreshed ∧
    (∀ x ∈ s.activations, x.row ≠ r → x ∈ (s.touch a).activations)) ∧
  (∀ f, s.occ = .frame f →
    (s.frameDead f = true → s.unrefreshed.contains f = false → ∃ t, exec .deadFrameRefreshStop s = .next t ∧
      f ∈ t.unrefreshed ∧
      ∀ a, (a < f.toNat * 0x10000 ∨ (f.toNat + 1) * 0x10000 ≤ a) → t.peek a = s.peek a) ∧
    (s.frameDead f = false → exec .deadFrameRefreshStop s = .next s))

/-- R244 to R250: a waiting transition takes one of its die's four engines; a diff with nothing to move is complete,
and one that would carry a page to nowhere faults with 0x05; passes end complete when nothing is dirty; a fault
and a cut end the transition, and the cut its PADVs' tokens; a PADV that waits learns of either (R252), and the cut
drops the context's cached translations (R234); a mirroring ends when no command of an earlier map is left. When a cut
and a mirroring may end are readings of log 46, and what the cut leaves of log 56; that a fault ends a cut that waits,
of log 79. -/
def Obligations.CouchEngineEvents : Prop := ∀ (s : State) (x : Context),
  let with' (y : Context) : State := { s with contexts := [y] }
  let work := (diffPieces x.map (x.maps.getD x.tgt.toNat [])).map DiffPiece.work
  s.contexts = [x] → s.core.running = [] → s.parked = [] →
  (s.occ = .context x.asid →
    (x.eng = .diffing → x.hasEngine = false → exec .couchEngineFree s = .next (with' { x with hasEngine := true })) ∧
    (x.eng = .diffing → x.hasEngine = true → s.couchStale x = false →
      ((∀ w ∈ work, w = .none) → ∃ t, exec .diffDone s = .next t ∧ t.contexts = [{ x with eng := .complete }] ∧
        t.mem = s.mem ∧ t.core = s.core) ∧
      (.fault ∈ work → ∃ t y, exec .diffDone s = .next t ∧ t.contexts = [y] ∧ y.eng = .faulted ∧ y.flt = true ∧
        y.fcode = 5 ∧ y.cur = x.cur ∧ y.maps = x.maps ∧ t.mem = s.mem)) ∧
    (x.eng = .copying → (∀ p ∈ x.moves, p.todo = [] ∧ p.dirty = []) → s.couchBusy x.asid = false →
      exec .passEnd s = .next (with' { x with
        eng := .complete, pass := x.pass + 1, prem := 0
        moves := x.moves.map fun (p : PageMove) => { p with mirrored := true } })) ∧
    (x.eng = .finalPass → (∀ p ∈ x.moves, p.todo = [] ∧ p.dirty = []) → s.net.msgs = [] →
      s.fab.arrived = [] → s.pan.recs = [] → exec .finalPassDone s = .next (with' { x with
        eng := .complete, prem := 0, heldBack := []
        moves := x.moves.map fun (p : PageMove) => { p with mirrored := true } })) ∧
    (x.eng = .cutting → s.couchBusy x.asid = false →
      let y : Context := { x with
        eng := .idle, cur := x.tgt, tip := false, pass := 0, prem := 0, hasEngine := false, padvs := []
        mirrors := x.mirrors ++ x.moves, moves := [], heldBack := [] }
      let met (t : State) : Prop := t.contexts = [y] ∧ t.mem = s.mem ∧ (∀ c ∈ t.caches, c.asid ≠ x.asid) ∧
        (∀ c ∈ s.caches, c.asid ≠ x.asid → c ∈ t.caches) ∧ t.core.padvEnd =
          if s.core.padvWait.isSome ∧ s.core.asid = x.asid ∧ s.core.padvTgt = x.tgt ∧ s.core.padvEnd = .none then .met
          else s.core.padvEnd
      (x.padvs = [] → ∃ t, exec .cutDone s = .next t ∧ met t ∧ ∀ j, t.core.token j = s.core.token j) ∧
      (∀ k, x.padvs = [(s.core.who, k)] → k ≠ 63 → ∃ t, exec .cutDone s = .next t ∧ met t ∧
        t.core.token k = 0x8000 ∧ (∀ j, j ≠ k → t.core.token j = s.core.token j)))) ∧
  (∀ code va, s.occ = .couchFault x.asid code va →
    ((code.toNat < 5 ∨ 8 < code.toNat) → exec .transitionFault s = .next s) ∧
    (5 ≤ code.toNat → code.toNat ≤ 8 → x.eng ∈ [.diffing, .copying, .finalPass, .complete, .cutting] → x.padvs = [] →
      ∃ t r, exec .transitionFault s = .next t ∧
      t.contexts = [{ x with
        eng := .faulted, flt := true, fcode := code, fltva := va, hasEngine := false, moves := [], heldBack := [] }] ∧
      t.svc.log.getLast? = some r ∧ r.kind = 5 ∧ bits r.detail 56 8 = code ∧ t.mem = s.mem ∧
      (s.core.padvWait.isSome → s.core.asid = x.asid → s.core.padvTgt = x.tgt → s.core.padvFor = x.trans →
        s.core.padvEnd = .none → t.core.padvEnd = .faulted code)) ∧
    (x.eng ∈ [.idle, .faulted] → exec .transitionFault s = .next s)) ∧
  (∀ p, s.occ = .page x.asid p.va → x.mirrors = [p] → s.sched.images = [] → ∃ t, exec .mirroringEnd s = .next t ∧
    t.contexts = [{ x with mirrors := [] }] ∧ t.mem = s.mem)

/-! ### Parameter records -/

/-- R263 to R265, R268, R270, R272, R273: a report is added to its cell, a release starts its record's update, a fired
record takes a pan slot, its writes are performed, and its flip advances VER and STEP, changes CSEL and clears
the step's count and sums; a record whose lines are found in error is poisoned instead, with MERR and its log record. -/
def Obligations.PanUnitEvents : Prop := ∀ (s : State) (r : RecInfo),
  s.memWf → (∀ x ∈ s.contexts, x.mirrored = []) → s.pan.recs = [r] →
  let pa := r.pa
  let breaks (i : Instr) : Prop := ∃ t e, exec i s = .next t ∧ t.pan.firing = [] ∧
    t.pan.recs = [{ r with poisoned := true, active := false, wrote := [] }] ∧
    (t.peek (pa + 3)).toNat = (s.peek (pa + 3)).toNat ||| 32 ∧ (∀ a, a ≠ pa + 3 → t.peek a = s.peek a) ∧
    t.svc.log.getLast? = some e ∧ e.kind = 6 ∧ bits e.detail 56 8 = 1
  (∀ x : Report, s.occ = .num 0 → s.pan.reports = [x] → x.cell = pa → r.cell = true → x.home = s.modid →
    x.asked = none → s.isPoisoned pa 64 = false → x.step.toNat = s.peekNat (pa + 20) 4 →
    (x.recPa + 56 ≤ pa ∨ pa + 64 ≤ x.recPa) →
    s.peekNat (pa + 16) 4 + 1 < 2 ^ 32 → s.peekNat (pa + 16) 4 + 1 ≠ s.peekNat (pa + 12) 4 →
    ∃ t, exec .normReport s = .next t ∧ t.pan.reports = [] ∧ t.peekNat (pa + 16) 4 = s.peekNat (pa + 16) 4 + 1 ∧
      t.peekNat pa 8 = (s.peekNat pa 8 + (toFx64 (.fin ((x.sum : ℚ) * pow2 (2 * x.e)) false)
        (s.peek (pa + 8)).toInt).1.toNat) % 2 ^ 64) ∧
  (∀ x : Report, s.occ = .num 0 → s.pan.reports = [x] → x.cell ≠ pa → x.asked = none →
    ∃ t, exec .normReport s = .next t ∧
    t.pan.reports = [] ∧ (t.peek (x.recPa + 3)).toNat = (s.peek (x.recPa + 3)).toNat ||| 16 ∧
    ∀ a, a ≠ x.recPa + 3 → t.peek a = s.peek a) ∧
  (∀ cell m n, s.occ = .num 0 → s.pan.releases = [(cell, m, pa, n)] → s.recStc pa = 2 → r.poisoned = false →
    s.isPoisoned pa 64 = false → (cell + 9 < pa ∨ pa + 64 ≤ cell + 9) → ∃ t, exec .releaseFromCell s = .next t ∧
      t.pan.releases = [] ∧
      t.recStc pa = 3 ∧ t.peekNat (pa + 56) 4 = n.toNat ∧ t.pan.firing = s.pan.firing ++ [pa] ∧
      t.peek (cell + 9) = 0) ∧
  (s.occ = .num pa → s.pan.firing = [pa] → r.active = false → s.panHeld pa = false →
    ((∀ p ∈ s.updateReads r, s.isPoisoned p.1 p.2 = false) → ∃ t, exec .panUpdateStart s = .next t ∧
      t.pan.firing = [] ∧ t.pan.recs = [{ r with active := true, wrote := (s.updateCells r).1 }]) ∧
    ((∃ p ∈ s.updateReads r, s.isPoisoned p.1 p.2 = true) → breaks .panUpdateStart)) ∧
  (s.occ = .num pa → r.active = true → r.poisoned = false → s.placeHeld (.phys (8 * pa)) = false →
    s.isPoisoned pa 64 = true → s.pan.firing = [] →
    (s.recStc pa = 3 → breaks .updateWritesDone) ∧ (s.recStc pa = 4 → s.recNtf pa = 0 → breaks .flip)) ∧
  (s.occ = .num pa → r.active = true → r.poisoned = false → s.placeHeld (.phys (8 * pa)) = false → s.recStc pa = 3 →
    s.isPoisoned pa 64 = false → ∃ t, exec .updateWritesDone s = .next t ∧
    t.pan.recs = [{ r with wrote := [] }] ∧ t.recStc pa = 4 ∧
    ∀ a, a ≠ pa + 1 → t.peek a = match lastOf r.wrote a with
      | some b => b
      | none => s.peek a) ∧
  (s.occ = .num pa → r.active = true → r.poisoned = false → s.placeHeld (.phys (8 * pa)) = false →
    s.recStc pa = 4 → s.recNtf pa = 0 → s.isPoisoned pa 64 = false →
    s.recCnt pa (1 - s.recStep pa % 2) ≠ s.recExp pa → ∃ t, exec .flip s = .next t ∧
      t.recVer pa = (s.recVer pa + 1) % 2 ^ 32 ∧ t.recStep pa = (s.recStep pa + 1) % 2 ^ 32 ∧
      t.recCsel pa = 1 - s.recCsel pa ∧ t.recCnt pa (s.recStep pa % 2) = 0 ∧
      t.recStc pa = (if s.recCnt pa (1 - s.recStep pa % 2) = 0 then 0 else 1) ∧
      (∀ i < 256, t.accFx pa (s.recStep pa % 2) i = 0) ∧
      t.pan.recs = [{ r with active := false, rule := none, norm := 0 }])

/-! ### Links -/

/-- R339, R340: a unit of any kind in order whose CRC is right is accepted, its ASEQ takes the units it covers out of
the replay window and lets waiting flits into it, and an idle unit tells the peer; one in error, or out of order, is
dropped, logged and answered by a replay request, and the eighth in a row makes the link retrain; a replay resends the
units from the one it names, and the eighth asked for in a row retrains; a retraining sends its unit; a link that goes
down leaves routing. One idle unit for each accepted one is the model's choice, log 87. -/
def Obligations.LinkEvents : Prop := ∀ (s : State) (p : BitVec 4),
  let l := s.link p
  let logged (t : State) (code : BitVec 8) : Prop := ∃ r, t.svc.log.getLast? = some r ∧ r.kind = 2 ∧
    bits r.detail 56 8 = code
  let others (t : State) : Prop := (∀ q, q ≠ p → t.link q = s.link q) ∧ t.mem = s.mem ∧ t.core = s.core
  let retrains (n : Nat) : List Act := if 8 ≤ n then .event .retrain (.port p) :: s.agenda else s.agenda
  let idleAfter (v : LinkUnit) (u : LinkUnit) : Prop := v.lt = 0 ∧ v.aseq = u.fseq
  (∀ u, s.occ = .unit p u → l.up = false → exec .linkUnit s = .next s) ∧
  (∀ u, s.occ = .unit p u → l.up = true →
    (u.crc = unitCrc u → u.fseq = l.expect → ∃ t, exec .linkUnit s = .next t ∧ (t.link p).expect = l.expect + 1 ∧
      (t.link p).acked = u.fseq ∧ (t.link p).retries = 0 ∧ others t ∧
      (u.lt = 2 → t.agenda = .event .replayRequest (.replay p (u.aseq + 1)) :: s.agenda) ∧
      (u.lt = 3 → t.agenda = .event .retrain (.port p) :: s.agenda) ∧
      (∀ i, l.waiting = [] → l.window.length ≤ 256 → l.window.findIdx? (fun w => w.fseq == u.aseq) = some i →
        (t.link p).asked = 0 ∧ ∃ v, (t.link p).window = l.window.drop (i + 1) ++ [v] ∧ idleAfter v u ∧
          (t.link p).out = l.out ++ [v] ∧ (t.link p).next = l.next + 1) ∧
      (∀ i f, l.waiting = [f] → l.window.length ≤ 256 → 0 < i →
        l.window.findIdx? (fun w => w.fseq == u.aseq) = some i → ∃ w v, idleAfter v u ∧
          (t.link p).window = l.window.drop (i + 1) ++ [w, v] ∧ w.lt = 1 ∧ w.flit = f ∧ (t.link p).waiting = [] ∧
          (t.link p).out = l.out ++ [w, v] ∧ (t.link p).next = l.next + 2) ∧
      (l.window.findIdx? (fun w => w.fseq == u.aseq) = none →
        (256 ≤ l.window.length → (t.link p).window = l.window ∧ (t.link p).next = l.next) ∧
        (l.window.length < 256 → ∃ v, (t.link p).window = l.window ++ [v] ∧ idleAfter v u ∧
          (t.link p).out = l.out ++ [v] ∧ (t.link p).next = l.next + 1))) ∧
    ((u.crc ≠ unitCrc u ∨ u.fseq ≠ l.expect) → ∃ t, exec .linkUnit s = .next t ∧
      (t.link p).expect = l.expect ∧ (t.link p).rx = l.rx ∧ (t.link p).retries = l.retries + 1 ∧
      (∃ v, (t.link p).out = l.out ++ [v] ∧ (t.link p).window = l.window ++ [v] ∧ v.lt = 2 ∧ v.aseq = l.acked) ∧
      t.fab.arrived = s.fab.arrived ∧ t.agenda = retrains (l.retries + 1) ∧ logged t 1 ∧ others t)) ∧
  (∀ first, s.occ = .replay p first →
    (l.up = true → ∃ t, exec .replayRequest s = .next t ∧
      (t.link p).out = l.out ++ l.window.dropWhile (fun u => u.fseq != first) ∧
      (t.link p).window = l.window ∧ (t.link p).askedFor = first ∧ logged t 1 ∧ others t ∧
      (t.link p).asked = (if l.askedFor = first ∧ 0 < l.asked then l.asked + 1 else 1) ∧
      t.agenda = retrains (t.link p).asked) ∧
    (l.up = false → exec .replayRequest s = .next s)) ∧
  (s.occ = .port p →
    (l.up = true →
      (∃ t, exec .retrain s = .next t ∧
        (∃ v, (t.link p).out = l.out ++ [v] ∧ (t.link p).window = l.window ++ [v] ∧ v.lt = 3) ∧
        (t.link p).expect = l.expect ∧ (t.link p).retries = 0 ∧ logged t 2 ∧ others t) ∧
      (∃ t, exec .linkDown s = .next t ∧ (t.link p).up = false ∧ (t.link p).window = [] ∧ logged t 3 ∧ others t ∧
        (∀ m, p ∉ t.routePorts m))) ∧
    (l.up = false → exec .retrain s = .next s ∧ exec .linkDown s = .next s))

/-! ### Packets -/

/-- R294, R307, R343 to R349, R354: a packet of reserved form is dropped and logged by the event of its type and by the
discard; an admitted request travels from its gateway to its home unit as it came, an answer to the unit that asked; a
fence is compared and its counts reset at the gateway. At the home unit a write, block, read, operation or decrement
that its checks allow is performed on memory, one they refuse changes no byte, and each is answered; at the requester
an answer gives the element its data or its code. A gateway sends the packet a message brings to it by its port. Field
places, marks and refusals are the model's, logs 14, 44 and 45. -/
def Obligations.PacketEvents : Prop :=
  (∀ (s : State) (p : Packet), s.occ = .packet p → s.packetWaits p = false →
  let events : List (Instr × BitVec 8) := [(.trepinWrite, 1), (.trepinReadRequest, 2), (.trepinReadResponse, 3),
    (.trepinWriteAck, 4), (.trepinAtMemoryOperation, 5), (.trepinAtMemoryResponse, 6), (.fencePacket, 7),
    (.fenceResponse, 8), (.trepinCounterDecrement, 9), (.podBarrierArrival, 10), (.trepinParameter, 11),
    (.scheduledBlock, 12), (.trepinPacketDiscard, p.type)]
  let logged (t : State) (code : BitVec 8) : Prop := ∃ r, t.svc.log.getLast? = some r ∧ r.kind = 4 ∧
    bits r.detail 56 8 = code
  (packetForm p = false → ∀ e ∈ events, e.2 = p.type → ∃ t, exec e.1 s = .next t ∧ t.mem = s.mem ∧
    t.fab.arrived = s.fab.arrived.eraseP (fun i => i.packet == p) ∧ logged t 2 ∧ t.core = s.core) ∧
  (∀ t x k, s.gate p = .admits t x k →
    let sent (u : State) (op : NetOp) (final : Port) : Prop := u.mem = s.mem ∧ u.core = s.core ∧ ∃ m : Msg,
      u.net.msgs.getLast? = some m ∧ m.op = op ∧ m.packet = some p ∧ m.src = trepinPort (s.portFor p) ∧ m.final = final
    let home := homePort (s.forwarded p.addr.toNat)
    let requests : List (Instr × BitVec 8 × NetOp) := [(.trepinWrite, 1, .write), (.trepinReadRequest, 2, .readReq),
      (.trepinAtMemoryOperation, 5, .atomic), (.trepinCounterDecrement, 9, .counter), (.trepinParameter, 11, .paramReq),
      (.scheduledBlock, 12, .write)]
    (∀ e ∈ requests, p.type = e.2.1 → (p.type = 11 → p.aux.toNat % 256 ≠ auxParamResponse) →
      ∃ u, exec e.1 s = .next u ∧ sent u e.2.2 home) ∧
    (p.type = 7 →
      let mask : BitVec 16 := bits p.opnd 32 16
      let reset (u : State) : Prop := ∀ e, e ∈ u.fab.recv ↔ e ∈ s.fab.recv ∧
        ¬ (e.smod = p.smod ∧ e.pcid = p.pcid ∧ e.fcid = p.fcid ∧ mask.getLsbD e.cls.toNat = true)
      let code := x.rangeCode ((List.range 4).map (p.addr.toNat + ·)) true
      (t.fenceRecv p mask = p.aux → code = 0 → ∃ u, exec .fencePacket s = .next u ∧ sent u .counter home ∧ reset u) ∧
      (t.fenceRecv p mask ≠ p.aux → ∃ u, exec .fencePacket s = .next u ∧ u.mem = s.mem ∧ u.core = s.core ∧
        reset u ∧ logged u 3 ∧ AnswersPacket t u p 8 (if code = 0 then 3 else code.setWidth 32)) ∧
      (t.fenceRecv p mask = p.aux → code ≠ 0 → ∃ u, exec .fencePacket s = .next u ∧ u.mem = s.mem ∧
        u.core = s.core ∧ reset u ∧ AnswersPacket t u p 8 (code.setWidth 32))) ∧
    (p.type = 10 → p.opnd.getLsbD 63 = false → p.opnd.getLsbD 62 = false → p.opnd.getLsbD 61 = false →
      exec .podBarrierArrival s = .next (t.arriveAt
        (x.arrival ⟨5, bits p.opnd 0 6⟩ ((bits p.opnd 8 24).setWidth 32)) ⟨5, bits p.opnd 0 6⟩)) ∧
    (∀ m, t.answered p = some m → bareRefusal p = false → ∀ e ∈ [(Instr.trepinReadResponse, (3 : BitVec 8)),
        (.trepinWriteAck, 4), (.trepinAtMemoryResponse, 6), (.fenceResponse, 8), (.trepinParameter, 11)],
      p.type = e.2 → (p.type = 11 → p.aux.toNat % 256 = auxParamResponse) → ∃ u, exec e.1 s = .next u ∧
        sent u m.op.answerOp (s.askerPort m)))) ∧
  (∀ (s : State) (n : Nat) (m : Msg) (p : Packet), s.occ = .num n → m.id = n → m.arrived = true → m.dst = m.final →
  m.packet = some p → m.psn = false → p.psn = false →
  let t := s.dropMsg n
  (∀ x k, s.net.msgs = [m] → m.final.isTrepin = false → (∀ y ∈ s.contexts, y.mirrored = []) →
    s.context? m.asid = some x → s.recvKey p = some k →
    let cells := (plainCells k p s.modid).map fun c => (s.forwarded c.1, c.2)
    let refused (i : Instr) (aux : BitVec 32) : Prop := ∃ u, exec i s = .next u ∧ u.mem = s.mem ∧
      u.fab.recv = s.fab.recv ∧ u.fab.landing = s.fab.landing ∧ AnswersPacket t u p 4 aux
    (∀ sched : Bool, m.op = .write → p.type = (if sched then 12 else 1) →
      (t.writeCode x k p ≠ 0 → refused .netWrite ((t.writeCode x k p).setWidth 32)) ∧
      (t.writeCode x k p = 0 → t.countFull p = true → refused .netWrite auxCountFull) ∧
      (t.writeCode x k p = 0 → t.countFull p = false → sched = true → t.landingFull p = true →
        refused .netWrite auxLandingFull) ∧
      (t.writeCode x k p = 0 → t.countFull p = false → (sched = true → t.landingFull p = false) → ∃ u,
        exec .netWrite s = .next u ∧ u.mem = Sparse.setAll 0 s.mem cells ∧ AnswersPacket t u p 4 0 ∧
        (sched = true → ∃ e ∈ u.fab.landing, e.smod = p.smod ∧ e.slot = p.slot))) ∧
    (m.op = .readReq → p.type = 2 →
      let b := min 2048 p.aux.toNat
      (t.admitCode x p.addr.toNat b false true = 0 → exec .netReadRequest s = .next
        ((t.answerPacket p 0x03 0 0 ((t.forwardRuns p.addr.toNat b).flatMap fun r => t.peekBytes r.1 r.2)).activate
          (s.places m))) ∧
      (t.admitCode x p.addr.toNat b false true ≠ 0 → ∃ u, exec .netReadRequest s = .next u ∧ u.mem = s.mem ∧
        u.core = s.core ∧ AnswersPacket t u p 3 ((t.admitCode x p.addr.toNat b false true).setWidth 32))) ∧
    (m.op = .atomic → p.type = 5 → t.countFull p = false → ∃ u, exec .unmergeableAtMemoryOperation s = .next u ∧
      u.mem = (t.fabAtomic x k p).state.mem ∧ AnswersPacket t u p 6 ((t.fabAtomic x k p).code.setWidth 32)) ∧
    (∀ e ∈ [((7 : BitVec 8), (8 : BitVec 8)), (9, 4)], m.op = .counter → p.type = e.1 →
      let code := t.admitCode x p.addr.toNat 4 true true
      (code ≠ 0 → ∃ u, exec .counterDecrement s = .next u ∧ u.mem = s.mem ∧
        AnswersPacket t u p e.2 (code.setWidth 32)) ∧
      (code = 0 → ∃ u, exec .counterDecrement s = .next u ∧ u.mem = (t.decrementAt (t.forwarded p.addr.toNat)
        (p.addr.setWidth 56) (p.opnd.setWidth 32)).mem ∧ AnswersPacket t u p e.2 0))) ∧
  (∀ a q e k, s.net.msgs = [a, m] → a.id ≠ n → a.arrived = false → s.answered p = some a → a.couch = false →
    a.unit = false → a.bare = false → a.replicas ≤ 1 → a.status = 0 → m.final.isTrepin = false →
    bareRefusal p = false → s.recvKey p = some k → s.parked = [] → a.core = s.core.id → s.core.running = [q] →
    q.id = a.cmd → q.pieces = [e] → e.idx = a.idx → (∀ y ∈ s.contexts, y.mirrored = []) →
    let done (u : State) : Prop := u.net.msgs = [] ∧
      u.core.running = [{ q with pieces := [{ e with stage := .done, out := none }] }]
    (∀ type ∈ [(4 : BitVec 8), 8], m.op = .writeAck → p.type = type →
      (2 < p.aux.toNat → p.aux.toNat < 256 → (∀ f, q.op ≠ .pref f) → ∃ u, exec .netWriteAcknowledgement s = .next u ∧
        u.net.msgs = [] ∧ u.mem = s.mem ∧ u.core.running = [{ q with
          pieces := [e.atFault q.op], stopped := true
          faults := q.faults ++ [(e.idx, p.aux.setWidth 8, answerWhy p (p.aux.setWidth 8))] }]) ∧
      (p.aux = 0 → a.op = .write → (∃ f, q.op = .copy f) → e.stage = .writing → ∃ u,
        exec .netWriteAcknowledgement s = .next u ∧ done u ∧ u.mem = s.mem)) ∧
    (m.op = .readResp → p.type = 3 → p.aux = 0 → linesOk k p p.smod = true → a.op = .readReq → s.memWf →
      (∃ f, q.op = .copy f) → e.stage = .reading → e.out = none → ∀ b, e.dst = .spad b →
      Nest.fmtCode q.nest false = Nest.fmtCode q.nest true → nestWidth q.nest true % 8 = 0 →
      let data := ((plainCells k p p.smod).map (·.2)).take (nestWidth q.nest true / 8)
      ∃ u, exec .netReadResponse s = .next u ∧ done u ∧ ∀ x, u.peek x =
        if spadBase s.core.id + b / 8 ≤ x then data.getD (x - (spadBase s.core.id + b / 8)) (s.peek x) else s.peek x)) ∧
  (s.net.msgs = [m] → m.final.isTrepin = true → m.pid = none → m.op = .write →
    let port := m.final.trepin
    (p.dmod = s.modid → ∃ u, exec .netWrite s = .next u ∧ u.net.msgs = [] ∧ u.mem = s.mem ∧
      u.fab.arrived = s.fab.arrived ++ [⟨port, p⟩]) ∧
    (p.dmod ≠ s.modid → (s.link port).up = true → ∃ u, exec .netWrite s = .next u ∧ u.net.msgs = [] ∧ u.mem = s.mem ∧
      u.link port = (packetFlits p).foldl LinkState.sendFlit (s.link port) ∧
      ∀ j, j ≠ port → u.link j = s.link j)))

/-- R346, R348, R350 to R354: replication gives its write as many packets as its group has destinations; a group
entry is replaced, once no command is in the middle of replicating to it; an access unanswered for 200 µs faults with
0x08; a block that has not landed 1 ms past its slot faults its LXRED; a refused packet is sent again when due and not
before; an old key slot is dropped when it may be; pod time never goes back. Refusals and retries are the readings of
log 44; that the 200 µs do not follow the clock is the reading of log 52; how a group write waits, of log 45. -/
def Obligations.FabricEvents : Prop := ∀ (s : State) (n : Nat),
  (∀ m b q ds c, s.occ = .num n → n < s.net.nextMsg → s.unreplicated n = some (m, b) →
    s.cmd? m.core m.cmd = some q → s.replicas b = some ds → ds ≠ [] → (∀ d ∈ ds, s.isPeer m.asid d.1 = true) →
    (ds.any fun d => (s.findCore m.core).fenceUnderWay q d.1 m.cls) = false →
    (s.findCore m.core).countReplicas m.cls (fabStores m) ds = some c → ∃ t y,
      exec .multicastReplication s = .next t ∧ t.msg? n = some y ∧ y.replicas = ds.length ∧ y.away = true ∧
      y.pid = some s.fab.nextPid ∧ t.fab.nextPid = s.fab.nextPid + BitVec.ofNat 32 ds.length ∧ t.mem = s.mem) ∧
  (∀ g valid ds, s.occ = .group g valid ds →
    (s.groupBusy g = false → ∃ t, exec .multicastGroupWrite s = .next t ∧
      t.group? g = some ⟨g, valid && decide (1 ≤ ds.length) && decide (ds.length ≤ 64), ds⟩ ∧
      (∀ h, h ≠ g → t.group? h = s.group? h) ∧ t.mem = s.mem) ∧
    (s.groupBusy g = true → ∃ t, exec .multicastGroupWrite s = .next t ∧ ⟨g, valid, ds⟩ ∈ t.fab.writes ∧
      (∀ h, t.group? h = s.group? h) ∧ t.mem = s.mem)) ∧
  (∀ m q p, s.occ = .num n → s.net.msgs = [m] → m.id = n → m.pid ≠ none → m.couch = false → m.bare = false →
    m.unit = false → m.core = s.core.id → m.core ≠ 0x3FF → (∀ f, q.op ≠ .pref f) → s.parked = [] →
    s.core.running = [q] → q.id = m.cmd → q.pieces = [p] → p.idx = m.idx → (∀ x ∈ s.contexts, x.mirrored = []) →
    (200000 ≤ (s.ptb - m.since).toNat → ∃ t r, exec .fabricTimeout s = .next t ∧ t.net.msgs = [] ∧
      t.core.running = [{ q with
        pieces := [p.atFault q.op], faults := q.faults ++ [(p.idx, 0x08, .packet)], stopped := true }] ∧
      t.svc.log.getLast? = some r ∧ r.kind = 4 ∧ bits r.detail 56 8 = 4 ∧ t.mem = s.mem) ∧
    ((s.ptb - m.since).toNat < 200000 → exec .fabricTimeout s = .next s)) ∧
  (∀ q f, s.occ = .num n → s.core.queue = [q] → q.id = n → q.op = .lxred f →
    (s.startable s.core q = true → 0 < Nest.total q.nest → s.landedBlock q = none →
      256 * q.rb.toNat + 1000000 ≤ s.ptb.toNat →
      exec .lxredLandingTimeout s = .next { s with core := { s.core with
        queue := []
        running := s.core.running ++ [{ q with
          map := ((s.context? q.asid).map (·.cur)).getD 0, faults := [(0, 0x08, .landing)], stopped := true }] } }) ∧
    ((s.ptb.toNat < 256 * q.rb.toNat + 1000000 ∨ Nest.total q.nest = 0) → exec .lxredLandingTimeout s = .next s)) ∧
  (∀ r m q, s.occ = .num 0 → s.fab.refused = [r] → r.mid < s.net.nextMsg → s.msg? r.mid = some m →
    s.cmd? m.core m.cmd = some q →
    let i : Instr := if r.landing then .scheduledBlockRetry else .fenceCountRetry
    (s.retryDue r = true → ∃ t y, exec i s = .next t ∧ t.fab.refused = [] ∧ t.msg? r.mid = some y ∧
      y.since = s.ptb ∧ y.pid = m.pid ∧ t.mem = s.mem) ∧
    (s.retryDue r = false → exec i s = .next s)) ∧
  (∀ peer ix, s.occ = .key peer ix →
    (s.slotReleasable peer ix = true → ∃ t, exec .keySlotRelease s = .next t ∧ t.keySlot peer false ix = none ∧
      (∀ m send jx, (m ≠ peer ∨ send = true ∨ jx ≠ ix) → t.keySlot m send jx = s.keySlot m send jx) ∧ t.mem = s.mem) ∧
    (s.slotReleasable peer ix = false → exec .keySlotRelease s = .next s)) ∧
  (∀ ns err, s.occ = .podTime ns err → s.svc.holdReset = false → ∃ t, exec .podTimeBase s = .next t ∧
    t.ptb.toNat = max s.ptb.toNat ns.toNat ∧ t.mem = s.mem ∧ t.core = s.core ∧
    (err ≤ 16 → t.svc = s.svc) ∧ (16 < err → ∃ r, t.svc.log.getLast? = some r ∧ r.kind = 4 ∧
      bits r.detail 56 8 = 6))

/-! ### The service -/

/-- R360 to R366: a host's message that asks for the capability list is answered with it and with the host's tag and
context; a deployed module's service answers a host with its capability list, a report that holds the nonce, and the
log's records from a number on: the oldest of them in SEQ order, so many as were asked for and none missing, for the log
gets its records in SEQ order. A task's request is served into its memory and its token is done; one that breaks the
catalogue faults it. The bytes of bodies and reports are those of log 10, and the task requests are read as log 50
says. -/
def Obligations.ServiceReports : Prop := ∀ (s : State),
  (∀ l h, s.occ = .message l → msgHeader l = some h → h.code = 0x100 → h.clean = true → h.len = 0 → l.length = 64 →
    NothingWaits s → ∃ t a, exec .readCapabilityList s = .next t ∧ t.svc.responses = s.svc.responses ++ [a] ∧
      t.mem = s.mem ∧ a = ⟨0x100, 0, h.rtag, h.ctx, s.capabilityList⟩ ∧
      (a.message.drop 8).take 12 = (l.drop 8).take 12) ∧
  (s.svc.life = .deployed → s.svc.holdReset = false → NothingWaits s →
    (s.occ = .none → exec .readCapabilityList s = .next (Responded s 0x100 0 s.capabilityList)) ∧
    (∀ o nonce, s.occ = .attest o nonce → nonce.length = 32 → (∀ a, o = some a → (s.context? a).isSome) →
      let payload := s.report (o.bind s.context?) nonce
      exec .attestModuleOrContext s = .next (Responded s 0x120 0 payload) ∧ payload.length = 240 ∧
        (payload.drop 24).take 32 = nonce ∧ (payload.drop 16).take 1 = [2]) ∧
    (∀ first n, s.occ = .logRange first n →
      let l := s.logFrom first n.toNat
      exec .readErrorLog s = .next (Responded s 0x121 0
        (bytesOfNat 4 l.length ++ bytesOfNat 4 0 ++ l.flatMap logBytes)))) ∧
  (∀ first n, let l := s.logFrom first n
    l.Sublist s.svc.log ∧ l.length ≤ n ∧ (∀ r ∈ l, first.toNat ≤ r.seq.toNat) ∧
    (l.length < n → ∀ r ∈ s.svc.log, first.toNat ≤ r.seq.toNat → r ∈ l) ∧
    (LogInOrder s → (l.Pairwise fun a b => a.seq.toNat < b.seq.toNat) ∧
      ∀ r ∈ s.svc.log, first.toNat ≤ r.seq.toNat → r ∉ l → l.length = n ∧ ∀ q ∈ l, q.seq.toNat < r.seq.toNat)) ∧
  (∀ kind code die place detail, LogInOrder s → s.svc.nextSeq.toNat + 1 < 2 ^ 64 →
    let t := s.addLog kind code die place detail
    LogInOrder t ∧ (s.svc.log.length < 2 ^ 20 → ∃ r, t.svc.log = s.svc.log ++ [r] ∧ r.seq = s.svc.nextSeq)) ∧
  (∀ r arg, s.occ = .num 0 → s.svc.requests = [r] → s.svc.update = none → s.svc.inbox = [] → s.svc.loads = [] →
    s.sched.images = [] → s.parked = [] → r.runsOn s.core = true → (∀ x ∈ s.contexts, x.mirrored = []) →
    let served (i : Instr) (u : State) : Prop := ∃ t, exec i s = .next t ∧ t.mem = u.mem ∧ t.held = u.held ∧
      t.svc.requests = [] ∧ (r.tok ≠ 63 → t.core.token r.tok = 0x8000) ∧
      (∀ j, j ≠ r.tok → t.core.token j = s.core.token j)
    let refused (i : Instr) : Prop := ∃ t, exec i s = .next t ∧ t.mem = s.mem ∧ t.svc.requests = [] ∧
      (r.tok ≠ 63 → t.core.token r.tok = 0xC006) ∧ (∀ j, j ≠ r.tok → t.core.token j = s.core.token j)
    (∀ e ∈ [((0x008 : BitVec 10), 16, Instr.taskReadCapabilityList), (0x00A, 40, .attestCallingContext),
      (0x00C, 24, .taskReadErrorLog)], r.code = e.1 → s.readVa r.asid r.arg.toNat e.2.1 = none → refused e.2.2) ∧
    (r.code = 0x008 → s.readVa r.asid r.arg.toNat 16 = some arg →
      let l := s.capabilityList.take (argField arg 8 4)
      (argField arg 12 4 = 0 → ∀ u v, s.writeVa r.asid (argField arg 0 8) l = some u →
        u.writeVa r.asid (r.arg.toNat + 16) (bytesOfNat 8 l.length) = some v → served .taskReadCapabilityList v) ∧
      ((argField arg 12 4 ≠ 0 ∨ s.writeVa r.asid (argField arg 0 8) l = none) → refused .taskReadCapabilityList)) ∧
    (r.code = 0x00A → s.readVa r.asid r.arg.toNat 40 = some arg → ∀ x, s.context? r.asid = some x →
      let w := s.writeVa r.asid (argField arg 32 8) (s.report (some x) (arg.take 32))
      (∀ u, w = some u → served .attestCallingContext u) ∧ (w = none → refused .attestCallingContext)) ∧
    (r.code = 0x00C → s.readVa r.asid r.arg.toNat 24 = some arg →
      let l := s.logFrom (BitVec.ofNat 64 (argField arg 0 8)) (argField arg 8 4)
      (argField arg 12 4 = 0 → ∀ u v, s.writeVa r.asid (argField arg 16 8) (l.flatMap logBytes) = some u →
        u.writeVa r.asid (r.arg.toNat + 24) (bytesOfNat 8 l.length) = some v → served .taskReadErrorLog v) ∧
      ((argField arg 12 4 ≠ 0 ∨ s.writeVa r.asid (argField arg 16 8) (l.flatMap logBytes) = none) →
        refused .taskReadErrorLog)))

/-- R26, R62, R239, R242, R266, R312, R346, R358, R360 to R362: a request that nothing makes wait and that keeps the
spec's limits opens or closes a context, loads an object, a rule or a record, creates a queue, loads or rotates a
peer's keys, and is answered STATUS 0; an open gives the context its tables and the module's own key slots; one that
breaks the limits is answered with its STATUS and changes nothing else, and so is a message of a code no host may use
or whose payload disagrees with LEN. The answers to what breaks a limit, the waits, and that the identity of a bound
name is free, are the model's, logs 11 and 50; where tables stand, of log 8. -/
def Obligations.ServiceRequests : Prop := ∀ (s : State), s.svc.life = .deployed → s.svc.holdReset = false →
  NothingWaits s → (∀ m ∈ s.net.msgs, m.id < s.net.nextMsg) →
  let status (t : State) (code st : BitVec 16) : Prop := ∃ a : HostResp,
    t.svc.responses = s.svc.responses ++ [a] ∧ a.code = code ∧ a.status = st ∧ a.rtag = s.svc.asker.tag
  let bad (i : Instr) (code : BitVec 16) : Prop := exec i s = .next (Responded s code 1 [])
  let unmirrored : Prop := ∀ y ∈ s.contexts, y.mirrored = []
  let unheld : Prop := ∀ l, s.placeHeld l = false
  (∀ l h, s.occ = .message l → msgHeader l = some h →
    (h.code ∉ hostCodes → ∃ t, exec .openContext s = .next t ∧ t.mem = s.mem ∧ t.contexts = s.contexts ∧
      t.svc.responses = s.svc.responses ++ [⟨h.code, 1, h.rtag, h.ctx, []⟩]) ∧
    (h.code = 0x111 → l.length ≠ 64 + h.len → ∃ t, exec .closeContext s = .next t ∧ t.mem = s.mem ∧
      t.contexts = s.contexts ∧ t.svc.responses = s.svc.responses ++ [⟨0x111, 1, h.rtag, h.ctx, []⟩])) ∧
  (∀ r, s.occ = .openReq r →
    (s.openOk r = true → r.firstModule.toNat = s.modid.toNat → r.lastModule.toNat = s.modid.toNat → r.images = [] →
      ∃ t, exec .openContext s = .next t ∧ t.mem = s.mem ∧
        if Config.bindSucceeds s.free then status t 0x110 0 ∧ (∃ ys x, t.contexts = ys ++ [x] ∧
          ys.map (fun (y : Context) => { y with tables := [] }) =
            s.contexts.map (fun (y : Context) => { y with tables := [] }) ∧
          x.asid = r.asid ∧ x.maps = r.maps ∧ x.loaded = r.maps ∧ x.cur = 0 ∧ x.tip = false ∧ x.eng = .idle ∧
          x.pcid = r.pcid ∧ (∀ b ∈ x.tables, b.base % 0x20000 = 0)) ∧
          (s.peer? s.modid = none → (t.keySlot s.modid true false).isSome ∧ (t.keySlot s.modid false false).isSome)
        else status t 0x110 4 ∧ t.contexts = s.contexts) ∧
    (s.openOk r = false → bad .openContext 0x110)) ∧
  (∀ asid x, s.occ = .context asid → unmirrored → s.core.running = [] → s.core.queue = [] → s.parked = [] →
    (s.context? asid = some x → s.contextRuns asid = false → (∀ m ∈ s.sched.images, m.core.asid ≠ asid) →
      ∃ t, exec .closeContext s = .next t ∧ status t 0x111 0 ∧
        t.context? asid = none ∧ (∀ q ∈ t.sched.queues, q.asid ≠ asid) ∧ (∀ r ∈ t.pan.recs, r.asid ≠ asid) ∧
        (∀ c ∈ t.caches, c.asid ≠ asid)) ∧
    (s.context? asid = some x → s.contextRuns asid = true → ∃ t, exec .closeContext s = .next t ∧
      status t 0x111 2 ∧ (t.context? asid).isSome) ∧
    (s.context? asid = none → bad .closeContext 0x111)) ∧
  (∀ r x cells, s.occ = .codeReq r → r.va.toNat % 64 = 0 → r.va.toNat < 2 ^ 56 → s.context? r.asid = some x →
    (objectOk r.object = true → (shake256 (r.object.drop 64)).take 32 ≠ (r.object.drop 24).take 32 →
      exec .loadCodeObject s = .next (Responded s 0x112 5 [])) ∧
    (objectOk r.object = true → (shake256 (r.object.drop 64)).take 32 = (r.object.drop 24).take 32 →
      s.serviceCells r.asid r.va.toNat r.object = some cells →
      (s.outsidePeers r.asid cells = true → exec .loadCodeObject s = .next (Responded s 0x112 3 [])) ∧
      (unmirrored → unheld → (∀ c ∈ cells, ∃ b, c.1 = .phys b) → ∃ t y, exec .loadCodeObject s = .next t ∧
        status t 0x112 0 ∧ t.mem = Sparse.setAll 0 s.mem (localCells cells) ∧ t.context? r.asid = some y ∧
        ⟨r.va.setWidth 56, r.object⟩ ∈ y.codes ∧ y.maps = x.maps ∧ y.cur = x.cur)) ∧
    (objectOk r.object = false → bad .loadCodeObject 0x112)) ∧
  (∀ i e, s.occ = .rules [(i, e)] →
    (ruleOk e = true → s.pan.recs = [] → ∃ t, exec .loadRuleTableEntries s = .next t ∧ status t 0x113 0 ∧
      t.mem = s.mem ∧ ∀ j : BitVec 6, t.pan.rules[j.toNat] = if j = i then e else s.pan.rules[j.toNat]) ∧
    (ruleOk e = false → bad .loadRuleTableEntries 0x113)) ∧
  (∀ r qid die, s.occ = .queueReq r →
    ((s.context? r.asid).isSome → queueReqOk r = true → s.freeQid = some qid → s.queueDie r.die = some die →
      ∃ t q, exec .createAndMapQueue s = .next t ∧ status t 0x114 0 ∧ t.sched.queues = s.sched.queues ++ [q] ∧
        q.qid = qid ∧ q.die = die ∧ q.qst = .unbound ∧ q.head = 0 ∧ q.tail = 0 ∧ q.ring = r.ring ∧
        q.rsz = r.rsz.toNat ∧ q.slice = r.slice.toNat ∧ q.asid = r.asid ∧ t.mem = s.mem) ∧
    (queueReqOk r = false → bad .createAndMapQueue 0x114)) ∧
  (∀ m, s.occ = .keyReq false [m] → ∃ t, exec .keyExchange s = .next t ∧ status t 0x115 0 ∧
    (t.keySlot m true false).isSome ∧ (t.keySlot m false false).isSome ∧ t.sendIx m = false ∧
    (∀ j send ix, j ≠ m → t.keySlot j send ix = s.keySlot j send ix) ∧ t.mem = s.mem) ∧
  (∀ p, s.fab.peers = [p] →
    (s.occ = .keyReq true [p.id] → p.rotating = 0 → s.keySlot p.id false (!p.recvIx) = none → ∃ t,
      exec .keyExchange s = .next t ∧ t.svc.responses = s.svc.responses ∧ t.sendIx p.id = p.sendIx ∧
      (t.keySlot p.id false (!p.recvIx)).isSome ∧ t.keySlot p.id false p.recvIx = s.keySlot p.id false p.recvIx) ∧
    (s.occ = .peer p.id → p.rotating = 1 → ∃ t, exec .keyExchange s = .next t ∧ t.svc = s.svc ∧
      (t.keySlot p.id true (!p.sendIx)).isSome ∧ t.sendIx p.id = p.sendIx) ∧
    (s.occ = .peer p.id → p.rotating = 2 → ∃ t, exec .keyExchange s = .next t ∧ t.sendIx p.id = !p.sendIx ∧
      t.fab.keys = s.fab.keys ∧
      t.svc.responses = s.svc.responses ++ [⟨0x115, 0, s.svc.rotation.tag, s.svc.rotation.ctx, []⟩])) ∧
  (∀ asid e pa, s.occ = .records asid [e] →
    ((s.context? asid).isSome → s.recordOk asid [e] e = true → e.kind = 1 → unmirrored → unheld →
      s.recordPlace asid e.va.toNat 64 64 = some pa → ∃ t r,
        exec .loadParameterRecords s = .next t ∧ status t 0x117 0 ∧ t.recAt pa = some r ∧ r.cell = true ∧
        r.va = e.va ∧ r.asid = asid ∧ t.mem = Sparse.setAll 0 s.mem (cellCells pa e)) ∧
    (s.recordOk asid [e] e = false → bad .loadParameterRecords 0x117))

/-! ### Life -/

/-- R340, R359, R364, R368, R369, R373: reset wipes the module and starts the first image that verifies, or leaves the
module in reset with no link up; firmware is switched when nothing is in progress, and reverted; a core, a pipeline and
a frame are retired; a die is drained, power-gated and restored; the life cycle moves with a wipe; the clock steps
between 1.5 and 2.25 GHz; lost coolant ends in reset; a route comes back; a module held in reset does none of it. What
the spec leaves to the service here is the model's: logs 50 to 54 and 58. -/
def Obligations.LifeEvents : Prop := ∀ (s : State),
  let status (t : State) (code st : BitVec 16) : Prop :=
    t.svc.responses = s.svc.responses ++ [⟨code, st, s.svc.asker.tag, s.svc.asker.ctx, []⟩]
  let logged (t : State) (kind : BitVec 16) (code : BitVec 8) : Prop := ∃ r, t.svc.log.getLast? = some r ∧
    r.kind = kind ∧ bits r.detail 56 8 = code
  let awake : Prop := s.svc.holdReset = false
  let up : Prop := s.svc.life = .deployed ∧ awake ∧ NothingWaits s
  let idle : Prop := s.core.mode = .idle ∧ s.parked = [] ∧ s.sched.images = []
  let switched (t : State) : Prop := t.svc.activeB = !s.svc.activeB ∧ t.svc.lastSwitch = some s.ptb ∧ logged t 9 1
  (let verified := imageVerifies s.svc.bytesA || imageVerifies s.svc.bytesB
    let ok := verified && bootSteps s.free
    ∃ t, exec .reset s = .next t ∧ t.mem = [] ∧ t.contexts = [] ∧ t.sched.queues = [] ∧ t.fab.keys = [] ∧
      t.pan.recs = [] ∧ t.core.task = none ∧ t.core.mode = .idle ∧ t.core.acc = [] ∧ t.core.feat = s.core.feat ∧
      t.svc.life = s.svc.life ∧ t.svc.retiredCores = s.svc.retiredCores ∧ t.svc.holdReset = !ok ∧
      t.svc.activeB = (!imageVerifies s.svc.bytesA && imageVerifies s.svc.bytesB) ∧
      t.agenda = s.agenda.filter Act.outlasts ∧ ∀ p, (t.link p).up = ok) ∧
  (∀ v image, up → s.occ = .firmware v image →
    (imageVerifies image = false → exec .updateFirmwareLive s = .next (Responded s 0x130 5 [])) ∧
    (imageVerifies image = true → s.inProgress s.svc.nextStamp = false → ∃ t, exec .updateFirmwareLive s = .next t ∧
      t.mem = s.mem ∧ status t 0x130 0 ∧ switched t ∧ t.svc.version = v ∧ t.svc.image = image ∧
      t.svc.update = none ∧ (if s.svc.activeB then t.svc.bytesB = s.svc.bytesB else t.svc.bytesA = s.svc.bytesA)) ∧
    (imageVerifies image = true → s.inProgress s.svc.nextStamp = true → ∃ t, exec .updateFirmwareLive s = .next t ∧
      t.svc.responses = s.svc.responses ∧ t.svc.activeB = s.svc.activeB ∧ t.svc.version = s.svc.version ∧
      t.svc.update = some ⟨s.svc.nextStamp, s.svc.asker⟩)) ∧
  (∀ u, s.occ = .none → s.svc.update = some u →
    (s.inProgress u.stamp = true → exec .updateFirmwareLive s = .next s) ∧
    (s.inProgress u.stamp = false → ∃ t, exec .updateFirmwareLive s = .next t ∧ switched t ∧ t.svc.update = none ∧
      t.svc.responses = s.svc.responses ++ [⟨0x130, 0, u.asker.tag, u.asker.ctx, []⟩])) ∧
  (∀ t0, s.svc.lastSwitch = some t0 →
    ((s.ptb - t0).toNat ≤ 1000000 → ∃ t, exec .firmwareRevert s = .next t ∧ t.svc.activeB = !s.svc.activeB ∧
      t.svc.lastSwitch = none ∧ logged t 9 2 ∧ t.mem = s.mem) ∧
    (1000000 < (s.ptb - t0).toNat → exec .firmwareRevert s = .next s)) ∧
  (∀ die core kind, up → idle → s.occ = .retireUnit die core kind → s.core.id = die ++ core → s.svc.retiring = [] →
    (kind = 0 → ∃ t, exec .retireCoreOrPipeline s = .next t ∧ status t 0x131 0 ∧ logged t 9 3 ∧
      die ++ core ∈ t.svc.retiredCores ∧ t.core.feat = s.core.feat) ∧
    (kind = 1 → ∃ t, exec .retireCoreOrPipeline s = .next t ∧ status t 0x131 0 ∧ logged t 9 3 ∧
      (die ++ core ∈ t.svc.retiredCores ↔ die ++ core ∈ s.svc.retiredCores) ∧
      t.core.feat = s.core.feat ||| 0x100)) ∧
  (∀ f i, up → s.occ = .frame f → placeOf (f.toNat * 0x10000) = .stack i → s.svc.retiringFrames = [] →
    s.contexts = [] → s.sched.queues = [] → s.net.msgs = [] → s.core.running = [] → s.core.queue = [] →
    s.parked = [] → ∃ t, exec .retireHbmFrame s = .next t ∧ status t 0x132 0 ∧
      logged t 1 6 ∧ f ∈ t.svc.retiredFrames ∧ t.svc.retiringFrames = [] ∧ t.mem = s.mem ∧
      (s.svc.forward = [] → ∀ o < 0x10000, t.forwarded (f.toNat * 0x10000 + o) =
        (Config.reservedFrame s.svc.spare).toNat * 0x10000 + o)) ∧
  (∀ die dest, up → idle → s.occ = .drain die dest → die ≠ dest → s.svc.drained = [] → s.svc.draining = [] →
    s.sched.queues = [] → s.pool die = [] → s.chain die = [] → ∃ t, exec .drainDie s = .next t ∧
      status t 0x133 0 ∧ logged t 9 4 ∧ t.svc.drained = [die] ∧ t.svc.draining = [] ∧
      (coreDie s.core.id = die → t.core.acc = [] ∧ t.core.task = none ∧ t.core.feat = s.core.feat) ∧
      (coreDie s.core.id ≠ die → t.core = s.core)) ∧
  (∀ die, up → s.occ = .die die → s.svc.draining = [] →
    (s.svc.drained = [die] → ∃ t, exec .restoreDie s = .next t ∧
      status t 0x134 0 ∧ logged t 9 5 ∧ t.svc.drained = []) ∧
    (die ∉ s.svc.drained → exec .restoreDie s = .next (Responded s 0x134 1 []))) ∧
  (∀ target cred sig, awake → NothingWaits s → s.occ = .life target cred sig →
    (s.contexts ≠ [] → exec .lifeCycleChange s = .next (Responded s 0x140 3 [])) ∧
    (∀ l, s.contexts = [] → lifeNext s.svc.life target = some l →
      if edVerify (s.svc.lifeKey l cred) (shake256 (lifePayload target cred)) sig then
        ∃ t, exec .lifeCycleChange s = .next t ∧ status t 0x140 0 ∧ t.svc.life = l ∧ t.mem = [] ∧ t.core.acc = [] ∧
        (l = .returned → t.svc.identity = none ∧ t.svc.credential = []) ∧ (l = .deployed → t.svc.credential = cred) ∧
        (l = .provisioned → t.svc.identity = some s.free)
      else exec .lifeCycleChange s = .next (Responded s 0x140 5 [])) ∧
    (s.contexts = [] → lifeNext s.svc.life target = none → exec .lifeCycleChange s = .next
      (Responded s 0x140 (if 1 ≤ target.toNat ∧ target.toNat ≤ 3 then 3 else 1) []))) ∧
  (awake →
    (1625 ≤ s.svc.clock → ∃ t, exec .clockStepDown s = .next t ∧ t.svc.clock + 125 = s.svc.clock ∧ logged t 8 1) ∧
    (s.svc.clock < 1625 → ∃ t, exec .clockStepDown s = .next t ∧ t.svc.clock = s.svc.clock ∧ logged t 8 4) ∧
    (s.svc.clock + 125 ≤ 2250 → ∃ t, exec .clockStepUp s = .next t ∧ t.svc.clock = s.svc.clock + 125 ∧ logged t 8 2) ∧
    (2250 < s.svc.clock + 125 → exec .clockStepUp s = .next s) ∧
    (idle → s.svc.coolantLost = false → ∃ t, exec .coolantFlowLost s = .next t ∧ t.svc.coolantLost = true ∧
      t.svc.holdReset = true ∧ logged t 8 3) ∧
    (∀ m p, s.occ = .peer m → s.fab.routes = [(m, [p])] → (s.link p).up = false → ∃ t,
      exec .routeExistsAgain s = .next t ∧ t.routePorts m = [p] ∧ m ∉ t.svc.unreachable ∧ t.mem = s.mem)) ∧
  (s.svc.holdReset = true → ∀ i ∈ ([.clockStepDown, .clockStepUp, .coolantFlowLost, .routeExistsAgain] : List Instr),
    exec i s = .next s)

/-! ### Encodings -/

/-- R63 to R65, R87 to R92: every well-formed operation of a slot, encoded alone in a bundle, decodes to itself, and
a slot decodes to well-formed operations only. -/
def Obligations.DecodeOfEncodeIsTheOperation : Prop :=
  (∀ (i : Instr) (k : Slot), i.slot = some k → i.wellFormed = true → (encodeBundle i).decode k = .ok i) ∧
  (∀ (k : Slot) (w : Word) (i : Instr), decodeSlot k w = .ok i → i.wellFormed = true)

/-- R87 to R91: slot words the spec writes out decode to the operations it writes them for. -/
def Obligations.WrittenOutWordsDecode : Prop := decodeSlot .sc 0x0088200100000040 = .ok (.add ⟨4, 4, 0, 0, true, 64⟩) ∧
  decodeSlot .sc 0x1180380100000040 = .ok (.loop ⟨0, 7, 0, 0, true, 0x40⟩) ∧
  decodeSlot .va 0x4204002118000000 = .ok (.vfma ⟨2, 0, 1, 2, 3, 0, false, 0, 0, 0⟩) ∧
  decodeSlot .mx 0x0080002004000400 = .ok (.mldw ⟨0, 0, 2, 0, 1, 0, 0, false, 64⟩) ∧
  decodeSlot .mx 0x0280004BE4000400 = .ok (.mmulz ⟨0, 0, 4, 95, 1, 0, 0, false, 64⟩) ∧
  decodeSlot .cp 0x010BFFFF80016500 = .ok (.copyt ⟨5, 63, 63, 63, 0, 11, 10, 0⟩) ∧
  decodeSlot .sy 0x8000000000920470 = .ok (.wait 2 ⟨2, 1⟩ 7) ∧
  decodeSlot .sy 0xC000086000000000 = .ok .sySnop ∧
  decodeSlot .sy 0x8000000006000000 = .ok .tend

/-! ### Steps -/

/-- R8, R61, R66, R310, R319: a core inside a bundle runs the operation its next slot decodes to, in the state with
that slot's arrival selects; time passes and ready tasks age with it, writes that are no longer held and answers that
no longer wait go out; after the last slot the bundle ends. An event of the agenda runs with what occurred. The agenda
and the time a step takes are the model's, logs 1 and 4. -/
def Obligations.StepRunsTheDecodedOperation : Prop := ∀ (s : State) (rest : List Act),
  let aged (u : State) : State := ([0, 1, 2, 3] : List (BitVec 2)).foldl State.agePool { u with
    tick := u.tick + 1
    cyc := u.cyc + BitVec.ofNat 64 (Config.stepCycles u.tick)
    ptb := u.ptb + BitVec.ofNat 64 (Config.stepNanoseconds u.tick) }
  let timed (u : State) : State := (aged u).releaseHeld.releaseLoads
  (∀ id i, s.agenda = .run id :: rest →
    let t := { s with agenda := rest }.focus id
    let b := t.core.bundle
    let k := Slot.all.getD t.core.slot .sy
    let u := { t with core := { t.core with ars := slotArs k (b.word k), arr1 := b.arr1, arr2 := b.arr2 } }
    t.core.mode = .running → t.core.midBundle = true → b.decode k = .ok i → ∀ v, exec i u = .next v →
      (v.core.slot < 9 → step s = .next (timed v)) ∧
      (9 ≤ v.core.slot → step s = .next (timed (endBundle v)))) ∧
  (∀ i o, s.agenda = .event i o :: rest → ∀ v, exec i { s with agenda := rest, occ := o } = .next v →
    v.core.slot < 9 → step s = .next (timed v))

/-- R93 and the tables of operations and events: every operation and every event answers a next state, and so does
every step of a module that is not held in reset or whose agenda names an act. That a module held in reset with
nothing to do stops is the model's, log 58. -/
def Obligations.EveryOperationAnswersANextState : Prop := (∀ (i : Instr) (s : State), ∃ t, exec i s = .next t) ∧
  (∀ s : State, (s.agenda ≠ [] ∨ s.svc.holdReset = false) → s.canStep) ∧
  (∀ s : State, s.agenda = [] → s.svc.holdReset = true → step s = .fault .heldInReset)

/-- The memory keeps its canonical form through every step: addresses rising, no byte listed that reads as an
unlisted one does. -/
def Obligations.EveryStepKeepsMemoryCanonical : Prop := ∀ s t : State, s.memWf → step s = .next t → t.memWf

/-- R209, R243, R248, R249: no operation of a slot changes which map of a context is current, its maps, its die or
its peers. -/
def Obligations.SlotOperationsLeaveTheCurrentMap : Prop := ∀ (i : Instr) (s t : State),
  i.slot ≠ none → exec i s = .next t →
    t.contexts.map (fun x => (x.asid, x.cur, x.maps, x.home, x.modLo, x.modHi)) =
      s.contexts.map (fun x => (x.asid, x.cur, x.maps, x.home, x.modLo, x.modHi))

/-- R10, R226, R299, R339, R359: the module right after reset: no task, no context, no queue, no key, memory that
reads as zero in canonical form, FPC 0x0020, SHAPE 0x0F7, MDEF 0x050, PLIM 0x00010000, throttle levels 0. The
values the spec does not give are those of log 2. -/
def Obligations.ResetState : Prop := let s := State.reset
  s.memWf ∧ (∀ a, s.peek a = 0) ∧ s.contexts = [] ∧ s.sched.queues = [] ∧ s.fab.keys = [] ∧ s.pan.recs = [] ∧
  s.net.msgs = [] ∧ s.core.mode = .idle ∧ s.core.task = none ∧ s.core.fpc = 0x0020 ∧ s.core.shape = 0x0F7 ∧
  s.core.mdef = 0x050 ∧ s.core.plim = 0x00010000 ∧ s.core.own = 0 ∧ s.core.wb0.valid = false ∧
  s.core.wb1.valid = false ∧ (∀ i, s.core.rs i = 0) ∧ (∀ i, s.core.token i = 0) ∧
  (∀ i, s.core.rk i = if i = 0 then BitVec.allOnes 256 else 0) ∧
  (∀ d r, (s.router d r).level = 0) ∧ (∀ p, (s.link p).next = 0 ∧ (s.link p).acked = 0xFFF)
end

