-- ==== Sys2Proof/Laws/Bytes.lean ====
section
/-! SUPPORT. Byte order and runs of bytes: what is read back from what was written. -/

namespace Sys2Proof.Machine

open Sys2Proof

@[simp] theorem length_bytesOfNat (n x : Nat) : (bytesOfNat n x).length = n := by
  induction n generalizing x with
  | zero => rfl
  | succ n ih => simp [bytesOfNat, ih]

/-- Byte `j` of a number, little-endian. -/
theorem getElem?_bytesOfNat (n x j : Nat) :
    (bytesOfNat n x)[j]? = if j < n then some (BitVec.ofNat 8 (x / 256 ^ j)) else none := by
  induction n generalizing x j with
  | zero => simp [bytesOfNat]
  | succ n ih =>
    cases j with
    | zero => simp [bytesOfNat]
    | succ j => simp [bytesOfNat, ih, Nat.div_div_eq_div_mul, Nat.pow_succ, Nat.mul_comm]

/-- The number of a number's bytes. -/
theorem natOfBytes_bytesOfNat (n x : Nat) : natOfBytes (bytesOfNat n x) = x % 256 ^ n := by
  induction n generalizing x with
  | zero => simp [bytesOfNat, natOfBytes, Nat.mod_one]
  | succ n ih =>
    simp only [bytesOfNat, natOfBytes, ih, BitVec.toNat_ofNat]
    rw [show (256 : Nat) ^ (n + 1) = 256 * 256 ^ n from Nat.pow_succ', Nat.mod_mul]

theorem natOfBytes_lt (l : List Byte) : natOfBytes l < 256 ^ l.length := by
  induction l with
  | nil => simp [natOfBytes]
  | cons b l ih =>
    have := b.isLt
    simp only [natOfBytes, List.length_cons, Nat.pow_succ]
    omega

/-- A run of bytes writes its own addresses, each its byte, and no other. -/
theorem lastOf_cellsFrom (a k : Nat) (l : List Byte) :
    lastOf (cellsFrom a l) k = if a ≤ k then l[k - a]? else none := by
  induction l generalizing a with
  | nil => simp [cellsFrom, lastOf]
  | cons b l ih =>
    have split' : cellsFrom a (b :: l) = (a, b) :: cellsFrom (a + 1) l := by
      simp [cellsFrom, List.mapIdx_cons, Nat.add_assoc, Nat.add_comm 1]
    have cons' : ∀ (c : Nat × Byte) (m : List (Nat × Byte)),
        lastOf (c :: m) k = (lastOf m k).or (if c.1 = k then some c.2 else none) := by
      intro c m
      simp only [lastOf, List.reverse_cons, List.find?_append, List.find?_singleton, beq_iff_eq]
      cases h : List.find? (fun e => e.1 == k) m.reverse <;> simp
    rw [split', cons', ih]
    rcases Nat.lt_trichotomy k a with h | h | h
    · rw [if_neg (by omega), if_neg (by omega), if_neg (by omega)]; rfl
    · subst h; simp
    · rw [if_pos (by omega), if_neg (by omega), if_pos (by omega), Option.or_none,
        show k - a = k - (a + 1) + 1 by omega, List.getElem?_cons_succ]

end Sys2Proof.Machine
end

