-- ==== Sys2Proof/Laws/State.lean ====
section
/-! SUPPORT. What each named update of the state and of a core leaves alone, field by field. -/

namespace Sys2Proof.Machine

open Sys2Proof

/-! ### State.onCore -/

@[simp] theorem State.onCore_core (s : State) (f : Core → Core) :
    (s.onCore f).core = f s.core := rfl
@[simp] theorem State.onCore_parked (s : State) (f : Core → Core) :
    (s.onCore f).parked = s.parked := rfl
@[simp] theorem State.onCore_agenda (s : State) (f : Core → Core) :
    (s.onCore f).agenda = s.agenda := rfl
@[simp] theorem State.onCore_occ (s : State) (f : Core → Core) :
    (s.onCore f).occ = s.occ := rfl
@[simp] theorem State.onCore_mem (s : State) (f : Core → Core) :
    (s.onCore f).mem = s.mem := rfl
@[simp] theorem State.onCore_poisoned (s : State) (f : Core → Core) :
    (s.onCore f).poisoned = s.poisoned := rfl
@[simp] theorem State.onCore_modid (s : State) (f : Core → Core) :
    (s.onCore f).modid = s.modid := rfl
@[simp] theorem State.onCore_cyc (s : State) (f : Core → Core) :
    (s.onCore f).cyc = s.cyc := rfl
@[simp] theorem State.onCore_ptb (s : State) (f : Core → Core) :
    (s.onCore f).ptb = s.ptb := rfl
@[simp] theorem State.onCore_quadBars (s : State) (f : Core → Core) :
    (s.onCore f).quadBars = s.quadBars := rfl
@[simp] theorem State.onCore_arrivals (s : State) (f : Core → Core) :
    (s.onCore f).arrivals = s.arrivals := rfl
@[simp] theorem State.onCore_contexts (s : State) (f : Core → Core) :
    (s.onCore f).contexts = s.contexts := rfl
@[simp] theorem State.onCore_unrefreshed (s : State) (f : Core → Core) :
    (s.onCore f).unrefreshed = s.unrefreshed := rfl
@[simp] theorem State.onCore_held (s : State) (f : Core → Core) :
    (s.onCore f).held = s.held := rfl
@[simp] theorem State.onCore_caches (s : State) (f : Core → Core) :
    (s.onCore f).caches = s.caches := rfl
@[simp] theorem State.onCore_podSent (s : State) (f : Core → Core) :
    (s.onCore f).podSent = s.podSent := rfl
@[simp] theorem State.onCore_activations (s : State) (f : Core → Core) :
    (s.onCore f).activations = s.activations := rfl
@[simp] theorem State.onCore_net (s : State) (f : Core → Core) :
    (s.onCore f).net = s.net := rfl
@[simp] theorem State.onCore_sched (s : State) (f : Core → Core) :
    (s.onCore f).sched = s.sched := rfl
@[simp] theorem State.onCore_pan (s : State) (f : Core → Core) :
    (s.onCore f).pan = s.pan := rfl
@[simp] theorem State.onCore_fab (s : State) (f : Core → Core) :
    (s.onCore f).fab = s.fab := rfl
@[simp] theorem State.onCore_svc (s : State) (f : Core → Core) :
    (s.onCore f).svc = s.svc := rfl
@[simp] theorem State.onCore_tick (s : State) (f : Core → Core) :
    (s.onCore f).tick = s.tick := rfl
@[simp] theorem State.onCore_free (s : State) (f : Core → Core) :
    (s.onCore f).free = s.free := rfl

/-! ### State.updContext -/

@[simp] theorem State.updContext_core (s : State) (a : BitVec 16) (f : Context → Context) :
    (s.updContext a f).core = s.core := rfl
@[simp] theorem State.updContext_parked (s : State) (a : BitVec 16) (f : Context → Context) :
    (s.updContext a f).parked = s.parked := rfl
@[simp] theorem State.updContext_agenda (s : State) (a : BitVec 16) (f : Context → Context) :
    (s.updContext a f).agenda = s.agenda := rfl
@[simp] theorem State.updContext_occ (s : State) (a : BitVec 16) (f : Context → Context) :
    (s.updContext a f).occ = s.occ := rfl
@[simp] theorem State.updContext_mem (s : State) (a : BitVec 16) (f : Context → Context) :
    (s.updContext a f).mem = s.mem := rfl
@[simp] theorem State.updContext_poisoned (s : State) (a : BitVec 16) (f : Context → Context) :
    (s.updContext a f).poisoned = s.poisoned := rfl
@[simp] theorem State.updContext_modid (s : State) (a : BitVec 16) (f : Context → Context) :
    (s.updContext a f).modid = s.modid := rfl
@[simp] theorem State.updContext_cyc (s : State) (a : BitVec 16) (f : Context → Context) :
    (s.updContext a f).cyc = s.cyc := rfl
@[simp] theorem State.updContext_ptb (s : State) (a : BitVec 16) (f : Context → Context) :
    (s.updContext a f).ptb = s.ptb := rfl
@[simp] theorem State.updContext_quadBars (s : State) (a : BitVec 16) (f : Context → Context) :
    (s.updContext a f).quadBars = s.quadBars := rfl
@[simp] theorem State.updContext_arrivals (s : State) (a : BitVec 16) (f : Context → Context) :
    (s.updContext a f).arrivals = s.arrivals := rfl
@[simp] theorem State.updContext_contexts (s : State) (a : BitVec 16) (f : Context → Context) :
    (s.updContext a f).contexts = s.contexts.map fun x => if x.asid = a then f x else x := rfl
@[simp] theorem State.updContext_unrefreshed (s : State) (a : BitVec 16) (f : Context → Context) :
    (s.updContext a f).unrefreshed = s.unrefreshed := rfl
@[simp] theorem State.updContext_held (s : State) (a : BitVec 16) (f : Context → Context) :
    (s.updContext a f).held = s.held := rfl
@[simp] theorem State.updContext_caches (s : State) (a : BitVec 16) (f : Context → Context) :
    (s.updContext a f).caches = s.caches := rfl
@[simp] theorem State.updContext_podSent (s : State) (a : BitVec 16) (f : Context → Context) :
    (s.updContext a f).podSent = s.podSent := rfl
@[simp] theorem State.updContext_activations (s : State) (a : BitVec 16) (f : Context → Context) :
    (s.updContext a f).activations = s.activations := rfl
@[simp] theorem State.updContext_net (s : State) (a : BitVec 16) (f : Context → Context) :
    (s.updContext a f).net = s.net := rfl
@[simp] theorem State.updContext_sched (s : State) (a : BitVec 16) (f : Context → Context) :
    (s.updContext a f).sched = s.sched := rfl
@[simp] theorem State.updContext_pan (s : State) (a : BitVec 16) (f : Context → Context) :
    (s.updContext a f).pan = s.pan := rfl
@[simp] theorem State.updContext_fab (s : State) (a : BitVec 16) (f : Context → Context) :
    (s.updContext a f).fab = s.fab := rfl
@[simp] theorem State.updContext_svc (s : State) (a : BitVec 16) (f : Context → Context) :
    (s.updContext a f).svc = s.svc := rfl
@[simp] theorem State.updContext_tick (s : State) (a : BitVec 16) (f : Context → Context) :
    (s.updContext a f).tick = s.tick := rfl
@[simp] theorem State.updContext_free (s : State) (a : BitVec 16) (f : Context → Context) :
    (s.updContext a f).free = s.free := rfl

/-! ### State.updQueue -/

@[simp] theorem State.updQueue_core (s : State) (q : BitVec 14) (f : Queue → Queue) :
    (s.updQueue q f).core = s.core := rfl
@[simp] theorem State.updQueue_parked (s : State) (q : BitVec 14) (f : Queue → Queue) :
    (s.updQueue q f).parked = s.parked := rfl
@[simp] theorem State.updQueue_agenda (s : State) (q : BitVec 14) (f : Queue → Queue) :
    (s.updQueue q f).agenda = s.agenda := rfl
@[simp] theorem State.updQueue_occ (s : State) (q : BitVec 14) (f : Queue → Queue) :
    (s.updQueue q f).occ = s.occ := rfl
@[simp] theorem State.updQueue_mem (s : State) (q : BitVec 14) (f : Queue → Queue) :
    (s.updQueue q f).mem = s.mem := rfl
@[simp] theorem State.updQueue_poisoned (s : State) (q : BitVec 14) (f : Queue → Queue) :
    (s.updQueue q f).poisoned = s.poisoned := rfl
@[simp] theorem State.updQueue_modid (s : State) (q : BitVec 14) (f : Queue → Queue) :
    (s.updQueue q f).modid = s.modid := rfl
@[simp] theorem State.updQueue_cyc (s : State) (q : BitVec 14) (f : Queue → Queue) :
    (s.updQueue q f).cyc = s.cyc := rfl
@[simp] theorem State.updQueue_ptb (s : State) (q : BitVec 14) (f : Queue → Queue) :
    (s.updQueue q f).ptb = s.ptb := rfl
@[simp] theorem State.updQueue_quadBars (s : State) (q : BitVec 14) (f : Queue → Queue) :
    (s.updQueue q f).quadBars = s.quadBars := rfl
@[simp] theorem State.updQueue_arrivals (s : State) (q : BitVec 14) (f : Queue → Queue) :
    (s.updQueue q f).arrivals = s.arrivals := rfl
@[simp] theorem State.updQueue_contexts (s : State) (q : BitVec 14) (f : Queue → Queue) :
    (s.updQueue q f).contexts = s.contexts := rfl
@[simp] theorem State.updQueue_unrefreshed (s : State) (q : BitVec 14) (f : Queue → Queue) :
    (s.updQueue q f).unrefreshed = s.unrefreshed := rfl
@[simp] theorem State.updQueue_held (s : State) (q : BitVec 14) (f : Queue → Queue) :
    (s.updQueue q f).held = s.held := rfl
@[simp] theorem State.updQueue_caches (s : State) (q : BitVec 14) (f : Queue → Queue) :
    (s.updQueue q f).caches = s.caches := rfl
@[simp] theorem State.updQueue_podSent (s : State) (q : BitVec 14) (f : Queue → Queue) :
    (s.updQueue q f).podSent = s.podSent := rfl
@[simp] theorem State.updQueue_activations (s : State) (q : BitVec 14) (f : Queue → Queue) :
    (s.updQueue q f).activations = s.activations := rfl
@[simp] theorem State.updQueue_net (s : State) (q : BitVec 14) (f : Queue → Queue) :
    (s.updQueue q f).net = s.net := rfl
@[simp] theorem State.updQueue_pan (s : State) (q : BitVec 14) (f : Queue → Queue) :
    (s.updQueue q f).pan = s.pan := rfl
@[simp] theorem State.updQueue_fab (s : State) (q : BitVec 14) (f : Queue → Queue) :
    (s.updQueue q f).fab = s.fab := rfl
@[simp] theorem State.updQueue_svc (s : State) (q : BitVec 14) (f : Queue → Queue) :
    (s.updQueue q f).svc = s.svc := rfl
@[simp] theorem State.updQueue_tick (s : State) (q : BitVec 14) (f : Queue → Queue) :
    (s.updQueue q f).tick = s.tick := rfl
@[simp] theorem State.updQueue_free (s : State) (q : BitVec 14) (f : Queue → Queue) :
    (s.updQueue q f).free = s.free := rfl

/-! ### State.addLog -/

@[simp] theorem State.addLog_core (s : State) (k : Nat) (c : BitVec 8) (d : BitVec 2) (w : BitVec 8) (n : Nat) :
    (s.addLog k c d w n).core = s.core := rfl
@[simp] theorem State.addLog_parked (s : State) (k : Nat) (c : BitVec 8) (d : BitVec 2) (w : BitVec 8) (n : Nat) :
    (s.addLog k c d w n).parked = s.parked := rfl
@[simp] theorem State.addLog_agenda (s : State) (k : Nat) (c : BitVec 8) (d : BitVec 2) (w : BitVec 8) (n : Nat) :
    (s.addLog k c d w n).agenda = s.agenda := rfl
@[simp] theorem State.addLog_occ (s : State) (k : Nat) (c : BitVec 8) (d : BitVec 2) (w : BitVec 8) (n : Nat) :
    (s.addLog k c d w n).occ = s.occ := rfl
@[simp] theorem State.addLog_mem (s : State) (k : Nat) (c : BitVec 8) (d : BitVec 2) (w : BitVec 8) (n : Nat) :
    (s.addLog k c d w n).mem = s.mem := rfl
@[simp] theorem State.addLog_poisoned (s : State) (k : Nat) (c : BitVec 8) (d : BitVec 2) (w : BitVec 8) (n : Nat) :
    (s.addLog k c d w n).poisoned = s.poisoned := rfl
@[simp] theorem State.addLog_modid (s : State) (k : Nat) (c : BitVec 8) (d : BitVec 2) (w : BitVec 8) (n : Nat) :
    (s.addLog k c d w n).modid = s.modid := rfl
@[simp] theorem State.addLog_cyc (s : State) (k : Nat) (c : BitVec 8) (d : BitVec 2) (w : BitVec 8) (n : Nat) :
    (s.addLog k c d w n).cyc = s.cyc := rfl
@[simp] theorem State.addLog_ptb (s : State) (k : Nat) (c : BitVec 8) (d : BitVec 2) (w : BitVec 8) (n : Nat) :
    (s.addLog k c d w n).ptb = s.ptb := rfl
@[simp] theorem State.addLog_quadBars (s : State) (k : Nat) (c : BitVec 8) (d : BitVec 2) (w : BitVec 8) (n : Nat) :
    (s.addLog k c d w n).quadBars = s.quadBars := rfl
@[simp] theorem State.addLog_arrivals (s : State) (k : Nat) (c : BitVec 8) (d : BitVec 2) (w : BitVec 8) (n : Nat) :
    (s.addLog k c d w n).arrivals = s.arrivals := rfl
@[simp] theorem State.addLog_contexts (s : State) (k : Nat) (c : BitVec 8) (d : BitVec 2) (w : BitVec 8) (n : Nat) :
    (s.addLog k c d w n).contexts = s.contexts := rfl
@[simp] theorem State.addLog_unrefreshed (s : State) (k : Nat) (c : BitVec 8) (d : BitVec 2) (w : BitVec 8) (n : Nat) :
    (s.addLog k c d w n).unrefreshed = s.unrefreshed := rfl
@[simp] theorem State.addLog_held (s : State) (k : Nat) (c : BitVec 8) (d : BitVec 2) (w : BitVec 8) (n : Nat) :
    (s.addLog k c d w n).held = s.held := rfl
@[simp] theorem State.addLog_caches (s : State) (k : Nat) (c : BitVec 8) (d : BitVec 2) (w : BitVec 8) (n : Nat) :
    (s.addLog k c d w n).caches = s.caches := rfl
@[simp] theorem State.addLog_podSent (s : State) (k : Nat) (c : BitVec 8) (d : BitVec 2) (w : BitVec 8) (n : Nat) :
    (s.addLog k c d w n).podSent = s.podSent := rfl
@[simp] theorem State.addLog_activations (s : State) (k : Nat) (c : BitVec 8) (d : BitVec 2) (w : BitVec 8) (n : Nat) :
    (s.addLog k c d w n).activations = s.activations := rfl
@[simp] theorem State.addLog_net (s : State) (k : Nat) (c : BitVec 8) (d : BitVec 2) (w : BitVec 8) (n : Nat) :
    (s.addLog k c d w n).net = s.net := rfl
@[simp] theorem State.addLog_sched (s : State) (k : Nat) (c : BitVec 8) (d : BitVec 2) (w : BitVec 8) (n : Nat) :
    (s.addLog k c d w n).sched = s.sched := rfl
@[simp] theorem State.addLog_pan (s : State) (k : Nat) (c : BitVec 8) (d : BitVec 2) (w : BitVec 8) (n : Nat) :
    (s.addLog k c d w n).pan = s.pan := rfl
@[simp] theorem State.addLog_fab (s : State) (k : Nat) (c : BitVec 8) (d : BitVec 2) (w : BitVec 8) (n : Nat) :
    (s.addLog k c d w n).fab = s.fab := rfl
@[simp] theorem State.addLog_tick (s : State) (k : Nat) (c : BitVec 8) (d : BitVec 2) (w : BitVec 8) (n : Nat) :
    (s.addLog k c d w n).tick = s.tick := rfl
@[simp] theorem State.addLog_free (s : State) (k : Nat) (c : BitVec 8) (d : BitVec 2) (w : BitVec 8) (n : Nat) :
    (s.addLog k c d w n).free = s.free := rfl

/-! ### State.poke -/

@[simp] theorem State.poke_core (s : State) (l : List (Nat × Byte)) :
    (s.poke l).core = s.core := rfl
@[simp] theorem State.poke_parked (s : State) (l : List (Nat × Byte)) :
    (s.poke l).parked = s.parked := rfl
@[simp] theorem State.poke_agenda (s : State) (l : List (Nat × Byte)) :
    (s.poke l).agenda = s.agenda := rfl
@[simp] theorem State.poke_occ (s : State) (l : List (Nat × Byte)) :
    (s.poke l).occ = s.occ := rfl
@[simp] theorem State.poke_mem (s : State) (l : List (Nat × Byte)) :
    (s.poke l).mem = Sparse.setAll 0 s.mem l := rfl
@[simp] theorem State.poke_modid (s : State) (l : List (Nat × Byte)) :
    (s.poke l).modid = s.modid := rfl
@[simp] theorem State.poke_cyc (s : State) (l : List (Nat × Byte)) :
    (s.poke l).cyc = s.cyc := rfl
@[simp] theorem State.poke_ptb (s : State) (l : List (Nat × Byte)) :
    (s.poke l).ptb = s.ptb := rfl
@[simp] theorem State.poke_quadBars (s : State) (l : List (Nat × Byte)) :
    (s.poke l).quadBars = s.quadBars := rfl
@[simp] theorem State.poke_arrivals (s : State) (l : List (Nat × Byte)) :
    (s.poke l).arrivals = s.arrivals := rfl
@[simp] theorem State.poke_contexts (s : State) (l : List (Nat × Byte)) :
    (s.poke l).contexts = s.contexts := rfl
@[simp] theorem State.poke_unrefreshed (s : State) (l : List (Nat × Byte)) :
    (s.poke l).unrefreshed = s.unrefreshed := rfl
@[simp] theorem State.poke_held (s : State) (l : List (Nat × Byte)) :
    (s.poke l).held = s.held := rfl
@[simp] theorem State.poke_caches (s : State) (l : List (Nat × Byte)) :
    (s.poke l).caches = s.caches := rfl
@[simp] theorem State.poke_podSent (s : State) (l : List (Nat × Byte)) :
    (s.poke l).podSent = s.podSent := rfl
@[simp] theorem State.poke_activations (s : State) (l : List (Nat × Byte)) :
    (s.poke l).activations = s.activations := rfl
@[simp] theorem State.poke_net (s : State) (l : List (Nat × Byte)) :
    (s.poke l).net = s.net := rfl
@[simp] theorem State.poke_sched (s : State) (l : List (Nat × Byte)) :
    (s.poke l).sched = s.sched := rfl
@[simp] theorem State.poke_pan (s : State) (l : List (Nat × Byte)) :
    (s.poke l).pan = s.pan := rfl
@[simp] theorem State.poke_fab (s : State) (l : List (Nat × Byte)) :
    (s.poke l).fab = s.fab := rfl
@[simp] theorem State.poke_svc (s : State) (l : List (Nat × Byte)) :
    (s.poke l).svc = s.svc := rfl
@[simp] theorem State.poke_tick (s : State) (l : List (Nat × Byte)) :
    (s.poke l).tick = s.tick := rfl
@[simp] theorem State.poke_free (s : State) (l : List (Nat × Byte)) :
    (s.poke l).free = s.free := rfl

/-! ### State.hold -/

@[simp] theorem State.hold_parked (s : State) :
    s.hold.parked = s.parked := rfl
@[simp] theorem State.hold_agenda (s : State) :
    s.hold.agenda = s.agenda := rfl
@[simp] theorem State.hold_occ (s : State) :
    s.hold.occ = s.occ := rfl
@[simp] theorem State.hold_mem (s : State) :
    s.hold.mem = s.mem := rfl
@[simp] theorem State.hold_poisoned (s : State) :
    s.hold.poisoned = s.poisoned := rfl
@[simp] theorem State.hold_modid (s : State) :
    s.hold.modid = s.modid := rfl
@[simp] theorem State.hold_ptb (s : State) :
    s.hold.ptb = s.ptb := rfl
@[simp] theorem State.hold_quadBars (s : State) :
    s.hold.quadBars = s.quadBars := rfl
@[simp] theorem State.hold_arrivals (s : State) :
    s.hold.arrivals = s.arrivals := rfl
@[simp] theorem State.hold_contexts (s : State) :
    s.hold.contexts = s.contexts := rfl
@[simp] theorem State.hold_unrefreshed (s : State) :
    s.hold.unrefreshed = s.unrefreshed := rfl
@[simp] theorem State.hold_held (s : State) :
    s.hold.held = s.held := rfl
@[simp] theorem State.hold_caches (s : State) :
    s.hold.caches = s.caches := rfl
@[simp] theorem State.hold_podSent (s : State) :
    s.hold.podSent = s.podSent := rfl
@[simp] theorem State.hold_activations (s : State) :
    s.hold.activations = s.activations := rfl
@[simp] theorem State.hold_net (s : State) :
    s.hold.net = s.net := rfl
@[simp] theorem State.hold_sched (s : State) :
    s.hold.sched = s.sched := rfl
@[simp] theorem State.hold_pan (s : State) :
    s.hold.pan = s.pan := rfl
@[simp] theorem State.hold_fab (s : State) :
    s.hold.fab = s.fab := rfl
@[simp] theorem State.hold_svc (s : State) :
    s.hold.svc = s.svc := rfl
@[simp] theorem State.hold_tick (s : State) :
    s.hold.tick = s.tick := rfl
@[simp] theorem State.hold_free (s : State) :
    s.hold.free = s.free := rfl

/-! ### State.updCore -/

@[simp] theorem State.updCore_agenda (s : State) (id : BitVec 10) (f : Core → Core) :
    (s.updCore id f).agenda = s.agenda := by
  unfold State.updCore; split <;> rfl
@[simp] theorem State.updCore_occ (s : State) (id : BitVec 10) (f : Core → Core) :
    (s.updCore id f).occ = s.occ := by
  unfold State.updCore; split <;> rfl
@[simp] theorem State.updCore_mem (s : State) (id : BitVec 10) (f : Core → Core) :
    (s.updCore id f).mem = s.mem := by
  unfold State.updCore; split <;> rfl
@[simp] theorem State.updCore_poisoned (s : State) (id : BitVec 10) (f : Core → Core) :
    (s.updCore id f).poisoned = s.poisoned := by
  unfold State.updCore; split <;> rfl
@[simp] theorem State.updCore_modid (s : State) (id : BitVec 10) (f : Core → Core) :
    (s.updCore id f).modid = s.modid := by
  unfold State.updCore; split <;> rfl
@[simp] theorem State.updCore_cyc (s : State) (id : BitVec 10) (f : Core → Core) :
    (s.updCore id f).cyc = s.cyc := by
  unfold State.updCore; split <;> rfl
@[simp] theorem State.updCore_ptb (s : State) (id : BitVec 10) (f : Core → Core) :
    (s.updCore id f).ptb = s.ptb := by
  unfold State.updCore; split <;> rfl
@[simp] theorem State.updCore_quadBars (s : State) (id : BitVec 10) (f : Core → Core) :
    (s.updCore id f).quadBars = s.quadBars := by
  unfold State.updCore; split <;> rfl
@[simp] theorem State.updCore_arrivals (s : State) (id : BitVec 10) (f : Core → Core) :
    (s.updCore id f).arrivals = s.arrivals := by
  unfold State.updCore; split <;> rfl
@[simp] theorem State.updCore_contexts (s : State) (id : BitVec 10) (f : Core → Core) :
    (s.updCore id f).contexts = s.contexts := by
  unfold State.updCore; split <;> rfl
@[simp] theorem State.updCore_unrefreshed (s : State) (id : BitVec 10) (f : Core → Core) :
    (s.updCore id f).unrefreshed = s.unrefreshed := by
  unfold State.updCore; split <;> rfl
@[simp] theorem State.updCore_held (s : State) (id : BitVec 10) (f : Core → Core) :
    (s.updCore id f).held = s.held := by
  unfold State.updCore; split <;> rfl
@[simp] theorem State.updCore_caches (s : State) (id : BitVec 10) (f : Core → Core) :
    (s.updCore id f).caches = s.caches := by
  unfold State.updCore; split <;> rfl
@[simp] theorem State.updCore_podSent (s : State) (id : BitVec 10) (f : Core → Core) :
    (s.updCore id f).podSent = s.podSent := by
  unfold State.updCore; split <;> rfl
@[simp] theorem State.updCore_activations (s : State) (id : BitVec 10) (f : Core → Core) :
    (s.updCore id f).activations = s.activations := by
  unfold State.updCore; split <;> rfl
@[simp] theorem State.updCore_net (s : State) (id : BitVec 10) (f : Core → Core) :
    (s.updCore id f).net = s.net := by
  unfold State.updCore; split <;> rfl
@[simp] theorem State.updCore_sched (s : State) (id : BitVec 10) (f : Core → Core) :
    (s.updCore id f).sched = s.sched := by
  unfold State.updCore; split <;> rfl
@[simp] theorem State.updCore_pan (s : State) (id : BitVec 10) (f : Core → Core) :
    (s.updCore id f).pan = s.pan := by
  unfold State.updCore; split <;> rfl
@[simp] theorem State.updCore_fab (s : State) (id : BitVec 10) (f : Core → Core) :
    (s.updCore id f).fab = s.fab := by
  unfold State.updCore; split <;> rfl
@[simp] theorem State.updCore_svc (s : State) (id : BitVec 10) (f : Core → Core) :
    (s.updCore id f).svc = s.svc := by
  unfold State.updCore; split <;> rfl
@[simp] theorem State.updCore_tick (s : State) (id : BitVec 10) (f : Core → Core) :
    (s.updCore id f).tick = s.tick := by
  unfold State.updCore; split <;> rfl
@[simp] theorem State.updCore_free (s : State) (id : BitVec 10) (f : Core → Core) :
    (s.updCore id f).free = s.free := by
  unfold State.updCore; split <;> rfl

/-! ### State.focus -/

@[simp] theorem State.focus_agenda (s : State) (id : BitVec 10) :
    (s.focus id).agenda = s.agenda := by
  unfold State.focus; split <;> rfl
@[simp] theorem State.focus_occ (s : State) (id : BitVec 10) :
    (s.focus id).occ = s.occ := by
  unfold State.focus; split <;> rfl
@[simp] theorem State.focus_mem (s : State) (id : BitVec 10) :
    (s.focus id).mem = s.mem := by
  unfold State.focus; split <;> rfl
@[simp] theorem State.focus_poisoned (s : State) (id : BitVec 10) :
    (s.focus id).poisoned = s.poisoned := by
  unfold State.focus; split <;> rfl
@[simp] theorem State.focus_modid (s : State) (id : BitVec 10) :
    (s.focus id).modid = s.modid := by
  unfold State.focus; split <;> rfl
@[simp] theorem State.focus_cyc (s : State) (id : BitVec 10) :
    (s.focus id).cyc = s.cyc := by
  unfold State.focus; split <;> rfl
@[simp] theorem State.focus_ptb (s : State) (id : BitVec 10) :
    (s.focus id).ptb = s.ptb := by
  unfold State.focus; split <;> rfl
@[simp] theorem State.focus_quadBars (s : State) (id : BitVec 10) :
    (s.focus id).quadBars = s.quadBars := by
  unfold State.focus; split <;> rfl
@[simp] theorem State.focus_arrivals (s : State) (id : BitVec 10) :
    (s.focus id).arrivals = s.arrivals := by
  unfold State.focus; split <;> rfl
@[simp] theorem State.focus_contexts (s : State) (id : BitVec 10) :
    (s.focus id).contexts = s.contexts := by
  unfold State.focus; split <;> rfl
@[simp] theorem State.focus_unrefreshed (s : State) (id : BitVec 10) :
    (s.focus id).unrefreshed = s.unrefreshed := by
  unfold State.focus; split <;> rfl
@[simp] theorem State.focus_held (s : State) (id : BitVec 10) :
    (s.focus id).held = s.held := by
  unfold State.focus; split <;> rfl
@[simp] theorem State.focus_caches (s : State) (id : BitVec 10) :
    (s.focus id).caches = s.caches := by
  unfold State.focus; split <;> rfl
@[simp] theorem State.focus_podSent (s : State) (id : BitVec 10) :
    (s.focus id).podSent = s.podSent := by
  unfold State.focus; split <;> rfl
@[simp] theorem State.focus_activations (s : State) (id : BitVec 10) :
    (s.focus id).activations = s.activations := by
  unfold State.focus; split <;> rfl
@[simp] theorem State.focus_net (s : State) (id : BitVec 10) :
    (s.focus id).net = s.net := by
  unfold State.focus; split <;> rfl
@[simp] theorem State.focus_sched (s : State) (id : BitVec 10) :
    (s.focus id).sched = s.sched := by
  unfold State.focus; split <;> rfl
@[simp] theorem State.focus_pan (s : State) (id : BitVec 10) :
    (s.focus id).pan = s.pan := by
  unfold State.focus; split <;> rfl
@[simp] theorem State.focus_fab (s : State) (id : BitVec 10) :
    (s.focus id).fab = s.fab := by
  unfold State.focus; split <;> rfl
@[simp] theorem State.focus_svc (s : State) (id : BitVec 10) :
    (s.focus id).svc = s.svc := by
  unfold State.focus; split <;> rfl
@[simp] theorem State.focus_tick (s : State) (id : BitVec 10) :
    (s.focus id).tick = s.tick := by
  unfold State.focus; split <;> rfl
@[simp] theorem State.focus_free (s : State) (id : BitVec 10) :
    (s.focus id).free = s.free := by
  unfold State.focus; split <;> rfl

/-! ### State.updMember -/

@[simp] theorem State.updMember_agenda (s : State) (w : Member) (f : Core → Core) :
    (s.updMember w f).agenda = s.agenda := by
  unfold State.updMember; split <;> simp
@[simp] theorem State.updMember_occ (s : State) (w : Member) (f : Core → Core) :
    (s.updMember w f).occ = s.occ := by
  unfold State.updMember; split <;> simp
@[simp] theorem State.updMember_mem (s : State) (w : Member) (f : Core → Core) :
    (s.updMember w f).mem = s.mem := by
  unfold State.updMember; split <;> simp
@[simp] theorem State.updMember_poisoned (s : State) (w : Member) (f : Core → Core) :
    (s.updMember w f).poisoned = s.poisoned := by
  unfold State.updMember; split <;> simp
@[simp] theorem State.updMember_modid (s : State) (w : Member) (f : Core → Core) :
    (s.updMember w f).modid = s.modid := by
  unfold State.updMember; split <;> simp
@[simp] theorem State.updMember_cyc (s : State) (w : Member) (f : Core → Core) :
    (s.updMember w f).cyc = s.cyc := by
  unfold State.updMember; split <;> simp
@[simp] theorem State.updMember_ptb (s : State) (w : Member) (f : Core → Core) :
    (s.updMember w f).ptb = s.ptb := by
  unfold State.updMember; split <;> simp
@[simp] theorem State.updMember_quadBars (s : State) (w : Member) (f : Core → Core) :
    (s.updMember w f).quadBars = s.quadBars := by
  unfold State.updMember; split <;> simp
@[simp] theorem State.updMember_arrivals (s : State) (w : Member) (f : Core → Core) :
    (s.updMember w f).arrivals = s.arrivals := by
  unfold State.updMember; split <;> simp
@[simp] theorem State.updMember_contexts (s : State) (w : Member) (f : Core → Core) :
    (s.updMember w f).contexts = s.contexts := by
  unfold State.updMember; split <;> simp
@[simp] theorem State.updMember_unrefreshed (s : State) (w : Member) (f : Core → Core) :
    (s.updMember w f).unrefreshed = s.unrefreshed := by
  unfold State.updMember; split <;> simp
@[simp] theorem State.updMember_held (s : State) (w : Member) (f : Core → Core) :
    (s.updMember w f).held = s.held := by
  unfold State.updMember; split <;> simp
@[simp] theorem State.updMember_caches (s : State) (w : Member) (f : Core → Core) :
    (s.updMember w f).caches = s.caches := by
  unfold State.updMember; split <;> simp
@[simp] theorem State.updMember_podSent (s : State) (w : Member) (f : Core → Core) :
    (s.updMember w f).podSent = s.podSent := by
  unfold State.updMember; split <;> simp
@[simp] theorem State.updMember_activations (s : State) (w : Member) (f : Core → Core) :
    (s.updMember w f).activations = s.activations := by
  unfold State.updMember; split <;> simp
@[simp] theorem State.updMember_net (s : State) (w : Member) (f : Core → Core) :
    (s.updMember w f).net = s.net := by
  unfold State.updMember; split <;> simp
@[simp] theorem State.updMember_pan (s : State) (w : Member) (f : Core → Core) :
    (s.updMember w f).pan = s.pan := by
  unfold State.updMember; split <;> simp
@[simp] theorem State.updMember_fab (s : State) (w : Member) (f : Core → Core) :
    (s.updMember w f).fab = s.fab := by
  unfold State.updMember; split <;> simp
@[simp] theorem State.updMember_svc (s : State) (w : Member) (f : Core → Core) :
    (s.updMember w f).svc = s.svc := by
  unfold State.updMember; split <;> simp
@[simp] theorem State.updMember_tick (s : State) (w : Member) (f : Core → Core) :
    (s.updMember w f).tick = s.tick := by
  unfold State.updMember; split <;> simp
@[simp] theorem State.updMember_free (s : State) (w : Member) (f : Core → Core) :
    (s.updMember w f).free = s.free := by
  unfold State.updMember; split <;> simp

/-! ### State.touch -/

@[simp] theorem State.touch_core (s : State) (a : Nat) : (s.touch a).core = s.core := rfl
@[simp] theorem State.touch_parked (s : State) (a : Nat) : (s.touch a).parked = s.parked := rfl
@[simp] theorem State.touch_agenda (s : State) (a : Nat) : (s.touch a).agenda = s.agenda := rfl
@[simp] theorem State.touch_occ (s : State) (a : Nat) : (s.touch a).occ = s.occ := rfl
@[simp] theorem State.touch_mem (s : State) (a : Nat) : (s.touch a).mem = s.mem := rfl
@[simp] theorem State.touch_poisoned (s : State) (a : Nat) : (s.touch a).poisoned = s.poisoned := rfl
@[simp] theorem State.touch_modid (s : State) (a : Nat) : (s.touch a).modid = s.modid := rfl
@[simp] theorem State.touch_cyc (s : State) (a : Nat) : (s.touch a).cyc = s.cyc := rfl
@[simp] theorem State.touch_ptb (s : State) (a : Nat) : (s.touch a).ptb = s.ptb := rfl
@[simp] theorem State.touch_quadBars (s : State) (a : Nat) : (s.touch a).quadBars = s.quadBars := rfl
@[simp] theorem State.touch_arrivals (s : State) (a : Nat) : (s.touch a).arrivals = s.arrivals := rfl
@[simp] theorem State.touch_contexts (s : State) (a : Nat) : (s.touch a).contexts = s.contexts := rfl
@[simp] theorem State.touch_unrefreshed (s : State) (a : Nat) : (s.touch a).unrefreshed = s.unrefreshed := rfl
@[simp] theorem State.touch_held (s : State) (a : Nat) : (s.touch a).held = s.held := rfl
@[simp] theorem State.touch_caches (s : State) (a : Nat) : (s.touch a).caches = s.caches := rfl
@[simp] theorem State.touch_podSent (s : State) (a : Nat) : (s.touch a).podSent = s.podSent := rfl
@[simp] theorem State.touch_net (s : State) (a : Nat) : (s.touch a).net = s.net := rfl
@[simp] theorem State.touch_sched (s : State) (a : Nat) : (s.touch a).sched = s.sched := rfl
@[simp] theorem State.touch_pan (s : State) (a : Nat) : (s.touch a).pan = s.pan := rfl
@[simp] theorem State.touch_fab (s : State) (a : Nat) : (s.touch a).fab = s.fab := rfl
@[simp] theorem State.touch_svc (s : State) (a : Nat) : (s.touch a).svc = s.svc := rfl
@[simp] theorem State.touch_tick (s : State) (a : Nat) : (s.touch a).tick = s.tick := rfl
@[simp] theorem State.touch_free (s : State) (a : Nat) : (s.touch a).free = s.free := rfl

/-! ### Core.writeS -/

@[simp] theorem Core.writeS_feat (c : Core) (i : BitVec 6) (x : Word) :
    (c.writeS i x).feat = c.feat := by
  unfold Core.writeS; split <;> rfl
@[simp] theorem Core.writeS_k (c : Core) (i : BitVec 6) (x : Word) :
    (c.writeS i x).k = c.k := by
  unfold Core.writeS; split <;> rfl
@[simp] theorem Core.writeS_v (c : Core) (i : BitVec 6) (x : Word) :
    (c.writeS i x).v = c.v := by
  unfold Core.writeS; split <;> rfl
@[simp] theorem Core.writeS_acc (c : Core) (i : BitVec 6) (x : Word) :
    (c.writeS i x).acc = c.acc := by
  unfold Core.writeS; split <;> rfl
@[simp] theorem Core.writeS_own (c : Core) (i : BitVec 6) (x : Word) :
    (c.writeS i x).own = c.own := by
  unfold Core.writeS; split <;> rfl
@[simp] theorem Core.writeS_wb0 (c : Core) (i : BitVec 6) (x : Word) :
    (c.writeS i x).wb0 = c.wb0 := by
  unfold Core.writeS; split <;> rfl
@[simp] theorem Core.writeS_wb1 (c : Core) (i : BitVec 6) (x : Word) :
    (c.writeS i x).wb1 = c.wb1 := by
  unfold Core.writeS; split <;> rfl
@[simp] theorem Core.writeS_cb (c : Core) (i : BitVec 6) (x : Word) :
    (c.writeS i x).cb = c.cb := by
  unfold Core.writeS; split <;> rfl
@[simp] theorem Core.writeS_tiles (c : Core) (i : BitVec 6) (x : Word) :
    (c.writeS i x).tiles = c.tiles := by
  unfold Core.writeS; split <;> rfl
@[simp] theorem Core.writeS_tokens (c : Core) (i : BitVec 6) (x : Word) :
    (c.writeS i x).tokens = c.tokens := by
  unfold Core.writeS; split <;> rfl
@[simp] theorem Core.writeS_handles (c : Core) (i : BitVec 6) (x : Word) :
    (c.writeS i x).handles = c.handles := by
  unfold Core.writeS; split <;> rfl
@[simp] theorem Core.writeS_fpc (c : Core) (i : BitVec 6) (x : Word) :
    (c.writeS i x).fpc = c.fpc := by
  unfold Core.writeS; split <;> rfl
@[simp] theorem Core.writeS_shape (c : Core) (i : BitVec 6) (x : Word) :
    (c.writeS i x).shape = c.shape := by
  unfold Core.writeS; split <;> rfl
@[simp] theorem Core.writeS_mdef (c : Core) (i : BitVec 6) (x : Word) :
    (c.writeS i x).mdef = c.mdef := by
  unfold Core.writeS; split <;> rfl
@[simp] theorem Core.writeS_stat (c : Core) (i : BitVec 6) (x : Word) :
    (c.writeS i x).stat = c.stat := by
  unfold Core.writeS; split <;> rfl
@[simp] theorem Core.writeS_plim (c : Core) (i : BitVec 6) (x : Word) :
    (c.writeS i x).plim = c.plim := by
  unfold Core.writeS; split <;> rfl
@[simp] theorem Core.writeS_mode (c : Core) (i : BitVec 6) (x : Word) :
    (c.writeS i x).mode = c.mode := by
  unfold Core.writeS; split <;> rfl
@[simp] theorem Core.writeS_pc (c : Core) (i : BitVec 6) (x : Word) :
    (c.writeS i x).pc = c.pc := by
  unfold Core.writeS; split <;> rfl
@[simp] theorem Core.writeS_slot (c : Core) (i : BitVec 6) (x : Word) :
    (c.writeS i x).slot = c.slot := by
  unfold Core.writeS; split <;> rfl
@[simp] theorem Core.writeS_gws (c : Core) (i : BitVec 6) (x : Word) :
    (c.writeS i x).gws = c.gws := by
  unfold Core.writeS; split <;> rfl
@[simp] theorem Core.writeS_inflight (c : Core) (i : BitVec 6) (x : Word) :
    (c.writeS i x).inflight = c.inflight := by
  unfold Core.writeS; split <;> rfl
@[simp] theorem Core.writeS_stores (c : Core) (i : BitVec 6) (x : Word) :
    (c.writeS i x).stores = c.stores := by
  unfold Core.writeS; split <;> rfl
@[simp] theorem Core.writeS_queue (c : Core) (i : BitVec 6) (x : Word) :
    (c.writeS i x).queue = c.queue := by
  unfold Core.writeS; split <;> rfl
@[simp] theorem Core.writeS_running (c : Core) (i : BitVec 6) (x : Word) :
    (c.writeS i x).running = c.running := by
  unfold Core.writeS; split <;> rfl
@[simp] theorem Core.writeS_mx (c : Core) (i : BitVec 6) (x : Word) :
    (c.writeS i x).mx = c.mx := by
  unfold Core.writeS; split <;> rfl
@[simp] theorem Core.writeS_shadow (c : Core) (i : BitVec 6) (x : Word) :
    (c.writeS i x).shadow = c.shadow := by
  unfold Core.writeS; split <;> rfl
@[simp] theorem Core.writeS_task (c : Core) (i : BitVec 6) (x : Word) :
    (c.writeS i x).task = c.task := by
  unfold Core.writeS; split <;> rfl

/-! ### Core.writeK -/

@[simp] theorem Core.writeK_feat (c : Core) (i : BitVec 4) (x e : Mask) :
    (c.writeK i x e).feat = c.feat := by
  unfold Core.writeK; split <;> rfl
@[simp] theorem Core.writeK_s (c : Core) (i : BitVec 4) (x e : Mask) :
    (c.writeK i x e).s = c.s := by
  unfold Core.writeK; split <;> rfl
@[simp] theorem Core.writeK_v (c : Core) (i : BitVec 4) (x e : Mask) :
    (c.writeK i x e).v = c.v := by
  unfold Core.writeK; split <;> rfl
@[simp] theorem Core.writeK_acc (c : Core) (i : BitVec 4) (x e : Mask) :
    (c.writeK i x e).acc = c.acc := by
  unfold Core.writeK; split <;> rfl
@[simp] theorem Core.writeK_own (c : Core) (i : BitVec 4) (x e : Mask) :
    (c.writeK i x e).own = c.own := by
  unfold Core.writeK; split <;> rfl
@[simp] theorem Core.writeK_wb0 (c : Core) (i : BitVec 4) (x e : Mask) :
    (c.writeK i x e).wb0 = c.wb0 := by
  unfold Core.writeK; split <;> rfl
@[simp] theorem Core.writeK_wb1 (c : Core) (i : BitVec 4) (x e : Mask) :
    (c.writeK i x e).wb1 = c.wb1 := by
  unfold Core.writeK; split <;> rfl
@[simp] theorem Core.writeK_cb (c : Core) (i : BitVec 4) (x e : Mask) :
    (c.writeK i x e).cb = c.cb := by
  unfold Core.writeK; split <;> rfl
@[simp] theorem Core.writeK_tiles (c : Core) (i : BitVec 4) (x e : Mask) :
    (c.writeK i x e).tiles = c.tiles := by
  unfold Core.writeK; split <;> rfl
@[simp] theorem Core.writeK_tokens (c : Core) (i : BitVec 4) (x e : Mask) :
    (c.writeK i x e).tokens = c.tokens := by
  unfold Core.writeK; split <;> rfl
@[simp] theorem Core.writeK_handles (c : Core) (i : BitVec 4) (x e : Mask) :
    (c.writeK i x e).handles = c.handles := by
  unfold Core.writeK; split <;> rfl
@[simp] theorem Core.writeK_fpc (c : Core) (i : BitVec 4) (x e : Mask) :
    (c.writeK i x e).fpc = c.fpc := by
  unfold Core.writeK; split <;> rfl
@[simp] theorem Core.writeK_shape (c : Core) (i : BitVec 4) (x e : Mask) :
    (c.writeK i x e).shape = c.shape := by
  unfold Core.writeK; split <;> rfl
@[simp] theorem Core.writeK_mdef (c : Core) (i : BitVec 4) (x e : Mask) :
    (c.writeK i x e).mdef = c.mdef := by
  unfold Core.writeK; split <;> rfl
@[simp] theorem Core.writeK_stat (c : Core) (i : BitVec 4) (x e : Mask) :
    (c.writeK i x e).stat = c.stat := by
  unfold Core.writeK; split <;> rfl
@[simp] theorem Core.writeK_plim (c : Core) (i : BitVec 4) (x e : Mask) :
    (c.writeK i x e).plim = c.plim := by
  unfold Core.writeK; split <;> rfl
@[simp] theorem Core.writeK_mode (c : Core) (i : BitVec 4) (x e : Mask) :
    (c.writeK i x e).mode = c.mode := by
  unfold Core.writeK; split <;> rfl
@[simp] theorem Core.writeK_pc (c : Core) (i : BitVec 4) (x e : Mask) :
    (c.writeK i x e).pc = c.pc := by
  unfold Core.writeK; split <;> rfl
@[simp] theorem Core.writeK_slot (c : Core) (i : BitVec 4) (x e : Mask) :
    (c.writeK i x e).slot = c.slot := by
  unfold Core.writeK; split <;> rfl
@[simp] theorem Core.writeK_gws (c : Core) (i : BitVec 4) (x e : Mask) :
    (c.writeK i x e).gws = c.gws := by
  unfold Core.writeK; split <;> rfl
@[simp] theorem Core.writeK_inflight (c : Core) (i : BitVec 4) (x e : Mask) :
    (c.writeK i x e).inflight = c.inflight := by
  unfold Core.writeK; split <;> rfl
@[simp] theorem Core.writeK_stores (c : Core) (i : BitVec 4) (x e : Mask) :
    (c.writeK i x e).stores = c.stores := by
  unfold Core.writeK; split <;> rfl
@[simp] theorem Core.writeK_queue (c : Core) (i : BitVec 4) (x e : Mask) :
    (c.writeK i x e).queue = c.queue := by
  unfold Core.writeK; split <;> rfl
@[simp] theorem Core.writeK_running (c : Core) (i : BitVec 4) (x e : Mask) :
    (c.writeK i x e).running = c.running := by
  unfold Core.writeK; split <;> rfl
@[simp] theorem Core.writeK_mx (c : Core) (i : BitVec 4) (x e : Mask) :
    (c.writeK i x e).mx = c.mx := by
  unfold Core.writeK; split <;> rfl
@[simp] theorem Core.writeK_shadow (c : Core) (i : BitVec 4) (x e : Mask) :
    (c.writeK i x e).shadow = c.shadow := by
  unfold Core.writeK; split <;> rfl
@[simp] theorem Core.writeK_task (c : Core) (i : BitVec 4) (x e : Mask) :
    (c.writeK i x e).task = c.task := by
  unfold Core.writeK; split <;> rfl

/-! ### Core.writeV -/

@[simp] theorem Core.writeV_feat (c : Core) (i : BitVec 6) (x e : VReg) :
    (c.writeV i x e).feat = c.feat := rfl
@[simp] theorem Core.writeV_s (c : Core) (i : BitVec 6) (x e : VReg) :
    (c.writeV i x e).s = c.s := rfl
@[simp] theorem Core.writeV_k (c : Core) (i : BitVec 6) (x e : VReg) :
    (c.writeV i x e).k = c.k := rfl
@[simp] theorem Core.writeV_acc (c : Core) (i : BitVec 6) (x e : VReg) :
    (c.writeV i x e).acc = c.acc := rfl
@[simp] theorem Core.writeV_own (c : Core) (i : BitVec 6) (x e : VReg) :
    (c.writeV i x e).own = c.own := rfl
@[simp] theorem Core.writeV_wb0 (c : Core) (i : BitVec 6) (x e : VReg) :
    (c.writeV i x e).wb0 = c.wb0 := rfl
@[simp] theorem Core.writeV_wb1 (c : Core) (i : BitVec 6) (x e : VReg) :
    (c.writeV i x e).wb1 = c.wb1 := rfl
@[simp] theorem Core.writeV_cb (c : Core) (i : BitVec 6) (x e : VReg) :
    (c.writeV i x e).cb = c.cb := rfl
@[simp] theorem Core.writeV_tiles (c : Core) (i : BitVec 6) (x e : VReg) :
    (c.writeV i x e).tiles = c.tiles := rfl
@[simp] theorem Core.writeV_tokens (c : Core) (i : BitVec 6) (x e : VReg) :
    (c.writeV i x e).tokens = c.tokens := rfl
@[simp] theorem Core.writeV_handles (c : Core) (i : BitVec 6) (x e : VReg) :
    (c.writeV i x e).handles = c.handles := rfl
@[simp] theorem Core.writeV_fpc (c : Core) (i : BitVec 6) (x e : VReg) :
    (c.writeV i x e).fpc = c.fpc := rfl
@[simp] theorem Core.writeV_shape (c : Core) (i : BitVec 6) (x e : VReg) :
    (c.writeV i x e).shape = c.shape := rfl
@[simp] theorem Core.writeV_mdef (c : Core) (i : BitVec 6) (x e : VReg) :
    (c.writeV i x e).mdef = c.mdef := rfl
@[simp] theorem Core.writeV_stat (c : Core) (i : BitVec 6) (x e : VReg) :
    (c.writeV i x e).stat = c.stat := rfl
@[simp] theorem Core.writeV_plim (c : Core) (i : BitVec 6) (x e : VReg) :
    (c.writeV i x e).plim = c.plim := rfl
@[simp] theorem Core.writeV_mode (c : Core) (i : BitVec 6) (x e : VReg) :
    (c.writeV i x e).mode = c.mode := rfl
@[simp] theorem Core.writeV_pc (c : Core) (i : BitVec 6) (x e : VReg) :
    (c.writeV i x e).pc = c.pc := rfl
@[simp] theorem Core.writeV_slot (c : Core) (i : BitVec 6) (x e : VReg) :
    (c.writeV i x e).slot = c.slot := rfl
@[simp] theorem Core.writeV_gws (c : Core) (i : BitVec 6) (x e : VReg) :
    (c.writeV i x e).gws = c.gws := rfl
@[simp] theorem Core.writeV_inflight (c : Core) (i : BitVec 6) (x e : VReg) :
    (c.writeV i x e).inflight = c.inflight := rfl
@[simp] theorem Core.writeV_stores (c : Core) (i : BitVec 6) (x e : VReg) :
    (c.writeV i x e).stores = c.stores := rfl
@[simp] theorem Core.writeV_queue (c : Core) (i : BitVec 6) (x e : VReg) :
    (c.writeV i x e).queue = c.queue := rfl
@[simp] theorem Core.writeV_running (c : Core) (i : BitVec 6) (x e : VReg) :
    (c.writeV i x e).running = c.running := rfl
@[simp] theorem Core.writeV_mx (c : Core) (i : BitVec 6) (x e : VReg) :
    (c.writeV i x e).mx = c.mx := rfl
@[simp] theorem Core.writeV_shadow (c : Core) (i : BitVec 6) (x e : VReg) :
    (c.writeV i x e).shadow = c.shadow := rfl
@[simp] theorem Core.writeV_task (c : Core) (i : BitVec 6) (x e : VReg) :
    (c.writeV i x e).task = c.task := rfl

/-! ### Core.setToken -/

@[simp] theorem Core.setToken_feat (c : Core) (i : BitVec 6) (x : BitVec 16) :
    (c.setToken i x).feat = c.feat := by
  unfold Core.setToken; split <;> rfl
@[simp] theorem Core.setToken_s (c : Core) (i : BitVec 6) (x : BitVec 16) :
    (c.setToken i x).s = c.s := by
  unfold Core.setToken; split <;> rfl
@[simp] theorem Core.setToken_k (c : Core) (i : BitVec 6) (x : BitVec 16) :
    (c.setToken i x).k = c.k := by
  unfold Core.setToken; split <;> rfl
@[simp] theorem Core.setToken_v (c : Core) (i : BitVec 6) (x : BitVec 16) :
    (c.setToken i x).v = c.v := by
  unfold Core.setToken; split <;> rfl
@[simp] theorem Core.setToken_acc (c : Core) (i : BitVec 6) (x : BitVec 16) :
    (c.setToken i x).acc = c.acc := by
  unfold Core.setToken; split <;> rfl
@[simp] theorem Core.setToken_own (c : Core) (i : BitVec 6) (x : BitVec 16) :
    (c.setToken i x).own = c.own := by
  unfold Core.setToken; split <;> rfl
@[simp] theorem Core.setToken_wb0 (c : Core) (i : BitVec 6) (x : BitVec 16) :
    (c.setToken i x).wb0 = c.wb0 := by
  unfold Core.setToken; split <;> rfl
@[simp] theorem Core.setToken_wb1 (c : Core) (i : BitVec 6) (x : BitVec 16) :
    (c.setToken i x).wb1 = c.wb1 := by
  unfold Core.setToken; split <;> rfl
@[simp] theorem Core.setToken_cb (c : Core) (i : BitVec 6) (x : BitVec 16) :
    (c.setToken i x).cb = c.cb := by
  unfold Core.setToken; split <;> rfl
@[simp] theorem Core.setToken_tiles (c : Core) (i : BitVec 6) (x : BitVec 16) :
    (c.setToken i x).tiles = c.tiles := by
  unfold Core.setToken; split <;> rfl
@[simp] theorem Core.setToken_handles (c : Core) (i : BitVec 6) (x : BitVec 16) :
    (c.setToken i x).handles = c.handles := by
  unfold Core.setToken; split <;> rfl
@[simp] theorem Core.setToken_fpc (c : Core) (i : BitVec 6) (x : BitVec 16) :
    (c.setToken i x).fpc = c.fpc := by
  unfold Core.setToken; split <;> rfl
@[simp] theorem Core.setToken_shape (c : Core) (i : BitVec 6) (x : BitVec 16) :
    (c.setToken i x).shape = c.shape := by
  unfold Core.setToken; split <;> rfl
@[simp] theorem Core.setToken_mdef (c : Core) (i : BitVec 6) (x : BitVec 16) :
    (c.setToken i x).mdef = c.mdef := by
  unfold Core.setToken; split <;> rfl
@[simp] theorem Core.setToken_stat (c : Core) (i : BitVec 6) (x : BitVec 16) :
    (c.setToken i x).stat = c.stat := by
  unfold Core.setToken; split <;> rfl
@[simp] theorem Core.setToken_plim (c : Core) (i : BitVec 6) (x : BitVec 16) :
    (c.setToken i x).plim = c.plim := by
  unfold Core.setToken; split <;> rfl
@[simp] theorem Core.setToken_mode (c : Core) (i : BitVec 6) (x : BitVec 16) :
    (c.setToken i x).mode = c.mode := by
  unfold Core.setToken; split <;> rfl
@[simp] theorem Core.setToken_pc (c : Core) (i : BitVec 6) (x : BitVec 16) :
    (c.setToken i x).pc = c.pc := by
  unfold Core.setToken; split <;> rfl
@[simp] theorem Core.setToken_slot (c : Core) (i : BitVec 6) (x : BitVec 16) :
    (c.setToken i x).slot = c.slot := by
  unfold Core.setToken; split <;> rfl
@[simp] theorem Core.setToken_gws (c : Core) (i : BitVec 6) (x : BitVec 16) :
    (c.setToken i x).gws = c.gws := by
  unfold Core.setToken; split <;> rfl
@[simp] theorem Core.setToken_inflight (c : Core) (i : BitVec 6) (x : BitVec 16) :
    (c.setToken i x).inflight = c.inflight := by
  unfold Core.setToken; split <;> rfl
@[simp] theorem Core.setToken_stores (c : Core) (i : BitVec 6) (x : BitVec 16) :
    (c.setToken i x).stores = c.stores := by
  unfold Core.setToken; split <;> rfl
@[simp] theorem Core.setToken_queue (c : Core) (i : BitVec 6) (x : BitVec 16) :
    (c.setToken i x).queue = c.queue := by
  unfold Core.setToken; split <;> rfl
@[simp] theorem Core.setToken_running (c : Core) (i : BitVec 6) (x : BitVec 16) :
    (c.setToken i x).running = c.running := by
  unfold Core.setToken; split <;> rfl
@[simp] theorem Core.setToken_mx (c : Core) (i : BitVec 6) (x : BitVec 16) :
    (c.setToken i x).mx = c.mx := by
  unfold Core.setToken; split <;> rfl
@[simp] theorem Core.setToken_shadow (c : Core) (i : BitVec 6) (x : BitVec 16) :
    (c.setToken i x).shadow = c.shadow := by
  unfold Core.setToken; split <;> rfl
@[simp] theorem Core.setToken_task (c : Core) (i : BitVec 6) (x : BitVec 16) :
    (c.setToken i x).task = c.task := by
  unfold Core.setToken; split <;> rfl

/-! ### Core.completeToken -/

@[simp] theorem Core.completeToken_feat (c : Core) (i : BitVec 6) (x : BitVec 16) :
    (c.completeToken i x).feat = c.feat := by
  unfold Core.completeToken; split <;> simp
@[simp] theorem Core.completeToken_s (c : Core) (i : BitVec 6) (x : BitVec 16) :
    (c.completeToken i x).s = c.s := by
  unfold Core.completeToken; split <;> simp
@[simp] theorem Core.completeToken_k (c : Core) (i : BitVec 6) (x : BitVec 16) :
    (c.completeToken i x).k = c.k := by
  unfold Core.completeToken; split <;> simp
@[simp] theorem Core.completeToken_v (c : Core) (i : BitVec 6) (x : BitVec 16) :
    (c.completeToken i x).v = c.v := by
  unfold Core.completeToken; split <;> simp
@[simp] theorem Core.completeToken_acc (c : Core) (i : BitVec 6) (x : BitVec 16) :
    (c.completeToken i x).acc = c.acc := by
  unfold Core.completeToken; split <;> simp
@[simp] theorem Core.completeToken_own (c : Core) (i : BitVec 6) (x : BitVec 16) :
    (c.completeToken i x).own = c.own := by
  unfold Core.completeToken; split <;> simp
@[simp] theorem Core.completeToken_wb0 (c : Core) (i : BitVec 6) (x : BitVec 16) :
    (c.completeToken i x).wb0 = c.wb0 := by
  unfold Core.completeToken; split <;> simp
@[simp] theorem Core.completeToken_wb1 (c : Core) (i : BitVec 6) (x : BitVec 16) :
    (c.completeToken i x).wb1 = c.wb1 := by
  unfold Core.completeToken; split <;> simp
@[simp] theorem Core.completeToken_cb (c : Core) (i : BitVec 6) (x : BitVec 16) :
    (c.completeToken i x).cb = c.cb := by
  unfold Core.completeToken; split <;> simp
@[simp] theorem Core.completeToken_tiles (c : Core) (i : BitVec 6) (x : BitVec 16) :
    (c.completeToken i x).tiles = c.tiles := by
  unfold Core.completeToken; split <;> simp
@[simp] theorem Core.completeToken_handles (c : Core) (i : BitVec 6) (x : BitVec 16) :
    (c.completeToken i x).handles = c.handles := by
  unfold Core.completeToken; split <;> simp
@[simp] theorem Core.completeToken_fpc (c : Core) (i : BitVec 6) (x : BitVec 16) :
    (c.completeToken i x).fpc = c.fpc := by
  unfold Core.completeToken; split <;> simp
@[simp] theorem Core.completeToken_shape (c : Core) (i : BitVec 6) (x : BitVec 16) :
    (c.completeToken i x).shape = c.shape := by
  unfold Core.completeToken; split <;> simp
@[simp] theorem Core.completeToken_mdef (c : Core) (i : BitVec 6) (x : BitVec 16) :
    (c.completeToken i x).mdef = c.mdef := by
  unfold Core.completeToken; split <;> simp
@[simp] theorem Core.completeToken_stat (c : Core) (i : BitVec 6) (x : BitVec 16) :
    (c.completeToken i x).stat = c.stat := by
  unfold Core.completeToken; split <;> simp
@[simp] theorem Core.completeToken_plim (c : Core) (i : BitVec 6) (x : BitVec 16) :
    (c.completeToken i x).plim = c.plim := by
  unfold Core.completeToken; split <;> simp
@[simp] theorem Core.completeToken_mode (c : Core) (i : BitVec 6) (x : BitVec 16) :
    (c.completeToken i x).mode = c.mode := by
  unfold Core.completeToken; split <;> simp
@[simp] theorem Core.completeToken_pc (c : Core) (i : BitVec 6) (x : BitVec 16) :
    (c.completeToken i x).pc = c.pc := by
  unfold Core.completeToken; split <;> simp
@[simp] theorem Core.completeToken_slot (c : Core) (i : BitVec 6) (x : BitVec 16) :
    (c.completeToken i x).slot = c.slot := by
  unfold Core.completeToken; split <;> simp
@[simp] theorem Core.completeToken_gws (c : Core) (i : BitVec 6) (x : BitVec 16) :
    (c.completeToken i x).gws = c.gws := by
  unfold Core.completeToken; split <;> simp
@[simp] theorem Core.completeToken_inflight (c : Core) (i : BitVec 6) (x : BitVec 16) :
    (c.completeToken i x).inflight = c.inflight := by
  unfold Core.completeToken; split <;> simp
@[simp] theorem Core.completeToken_stores (c : Core) (i : BitVec 6) (x : BitVec 16) :
    (c.completeToken i x).stores = c.stores := by
  unfold Core.completeToken; split <;> simp
@[simp] theorem Core.completeToken_queue (c : Core) (i : BitVec 6) (x : BitVec 16) :
    (c.completeToken i x).queue = c.queue := by
  unfold Core.completeToken; split <;> simp
@[simp] theorem Core.completeToken_running (c : Core) (i : BitVec 6) (x : BitVec 16) :
    (c.completeToken i x).running = c.running := by
  unfold Core.completeToken; split <;> simp
@[simp] theorem Core.completeToken_mx (c : Core) (i : BitVec 6) (x : BitVec 16) :
    (c.completeToken i x).mx = c.mx := by
  unfold Core.completeToken; split <;> simp
@[simp] theorem Core.completeToken_task (c : Core) (i : BitVec 6) (x : BitVec 16) :
    (c.completeToken i x).task = c.task := by
  unfold Core.completeToken; split <;> simp

/-! ### Core.setTile -/

@[simp] theorem Core.setTile_feat (c : Core) (i : BitVec 7) (x : BitVec 2) (p : BitVec 6) :
    (c.setTile i x p).feat = c.feat := rfl
@[simp] theorem Core.setTile_s (c : Core) (i : BitVec 7) (x : BitVec 2) (p : BitVec 6) :
    (c.setTile i x p).s = c.s := rfl
@[simp] theorem Core.setTile_k (c : Core) (i : BitVec 7) (x : BitVec 2) (p : BitVec 6) :
    (c.setTile i x p).k = c.k := rfl
@[simp] theorem Core.setTile_v (c : Core) (i : BitVec 7) (x : BitVec 2) (p : BitVec 6) :
    (c.setTile i x p).v = c.v := rfl
@[simp] theorem Core.setTile_acc (c : Core) (i : BitVec 7) (x : BitVec 2) (p : BitVec 6) :
    (c.setTile i x p).acc = c.acc := rfl
@[simp] theorem Core.setTile_own (c : Core) (i : BitVec 7) (x : BitVec 2) (p : BitVec 6) :
    (c.setTile i x p).own = c.own := rfl
@[simp] theorem Core.setTile_wb0 (c : Core) (i : BitVec 7) (x : BitVec 2) (p : BitVec 6) :
    (c.setTile i x p).wb0 = c.wb0 := rfl
@[simp] theorem Core.setTile_wb1 (c : Core) (i : BitVec 7) (x : BitVec 2) (p : BitVec 6) :
    (c.setTile i x p).wb1 = c.wb1 := rfl
@[simp] theorem Core.setTile_cb (c : Core) (i : BitVec 7) (x : BitVec 2) (p : BitVec 6) :
    (c.setTile i x p).cb = c.cb := rfl
@[simp] theorem Core.setTile_tokens (c : Core) (i : BitVec 7) (x : BitVec 2) (p : BitVec 6) :
    (c.setTile i x p).tokens = c.tokens := rfl
@[simp] theorem Core.setTile_handles (c : Core) (i : BitVec 7) (x : BitVec 2) (p : BitVec 6) :
    (c.setTile i x p).handles = c.handles := rfl
@[simp] theorem Core.setTile_fpc (c : Core) (i : BitVec 7) (x : BitVec 2) (p : BitVec 6) :
    (c.setTile i x p).fpc = c.fpc := rfl
@[simp] theorem Core.setTile_shape (c : Core) (i : BitVec 7) (x : BitVec 2) (p : BitVec 6) :
    (c.setTile i x p).shape = c.shape := rfl
@[simp] theorem Core.setTile_mdef (c : Core) (i : BitVec 7) (x : BitVec 2) (p : BitVec 6) :
    (c.setTile i x p).mdef = c.mdef := rfl
@[simp] theorem Core.setTile_stat (c : Core) (i : BitVec 7) (x : BitVec 2) (p : BitVec 6) :
    (c.setTile i x p).stat = c.stat := rfl
@[simp] theorem Core.setTile_plim (c : Core) (i : BitVec 7) (x : BitVec 2) (p : BitVec 6) :
    (c.setTile i x p).plim = c.plim := rfl
@[simp] theorem Core.setTile_mode (c : Core) (i : BitVec 7) (x : BitVec 2) (p : BitVec 6) :
    (c.setTile i x p).mode = c.mode := rfl
@[simp] theorem Core.setTile_pc (c : Core) (i : BitVec 7) (x : BitVec 2) (p : BitVec 6) :
    (c.setTile i x p).pc = c.pc := rfl
@[simp] theorem Core.setTile_slot (c : Core) (i : BitVec 7) (x : BitVec 2) (p : BitVec 6) :
    (c.setTile i x p).slot = c.slot := rfl
@[simp] theorem Core.setTile_gws (c : Core) (i : BitVec 7) (x : BitVec 2) (p : BitVec 6) :
    (c.setTile i x p).gws = c.gws := rfl
@[simp] theorem Core.setTile_inflight (c : Core) (i : BitVec 7) (x : BitVec 2) (p : BitVec 6) :
    (c.setTile i x p).inflight = c.inflight := rfl
@[simp] theorem Core.setTile_stores (c : Core) (i : BitVec 7) (x : BitVec 2) (p : BitVec 6) :
    (c.setTile i x p).stores = c.stores := rfl
@[simp] theorem Core.setTile_queue (c : Core) (i : BitVec 7) (x : BitVec 2) (p : BitVec 6) :
    (c.setTile i x p).queue = c.queue := rfl
@[simp] theorem Core.setTile_running (c : Core) (i : BitVec 7) (x : BitVec 2) (p : BitVec 6) :
    (c.setTile i x p).running = c.running := rfl
@[simp] theorem Core.setTile_mx (c : Core) (i : BitVec 7) (x : BitVec 2) (p : BitVec 6) :
    (c.setTile i x p).mx = c.mx := rfl
@[simp] theorem Core.setTile_task (c : Core) (i : BitVec 7) (x : BitVec 2) (p : BitVec 6) :
    (c.setTile i x p).task = c.task := rfl

/-! ### Core.addResult -/

@[simp] theorem Core.addResult_feat (c : Core) (v : ResVal) (n : Nat) (g : Flags) (st : BitVec 5) :
    (c.addResult v n g st).feat = c.feat := rfl
@[simp] theorem Core.addResult_s (c : Core) (v : ResVal) (n : Nat) (g : Flags) (st : BitVec 5) :
    (c.addResult v n g st).s = c.s := rfl
@[simp] theorem Core.addResult_k (c : Core) (v : ResVal) (n : Nat) (g : Flags) (st : BitVec 5) :
    (c.addResult v n g st).k = c.k := rfl
@[simp] theorem Core.addResult_v (c : Core) (v : ResVal) (n : Nat) (g : Flags) (st : BitVec 5) :
    (c.addResult v n g st).v = c.v := rfl
@[simp] theorem Core.addResult_acc (c : Core) (v : ResVal) (n : Nat) (g : Flags) (st : BitVec 5) :
    (c.addResult v n g st).acc = c.acc := rfl
@[simp] theorem Core.addResult_own (c : Core) (v : ResVal) (n : Nat) (g : Flags) (st : BitVec 5) :
    (c.addResult v n g st).own = c.own := rfl
@[simp] theorem Core.addResult_wb0 (c : Core) (v : ResVal) (n : Nat) (g : Flags) (st : BitVec 5) :
    (c.addResult v n g st).wb0 = c.wb0 := rfl
@[simp] theorem Core.addResult_wb1 (c : Core) (v : ResVal) (n : Nat) (g : Flags) (st : BitVec 5) :
    (c.addResult v n g st).wb1 = c.wb1 := rfl
@[simp] theorem Core.addResult_cb (c : Core) (v : ResVal) (n : Nat) (g : Flags) (st : BitVec 5) :
    (c.addResult v n g st).cb = c.cb := rfl
@[simp] theorem Core.addResult_tiles (c : Core) (v : ResVal) (n : Nat) (g : Flags) (st : BitVec 5) :
    (c.addResult v n g st).tiles = c.tiles := rfl
@[simp] theorem Core.addResult_tokens (c : Core) (v : ResVal) (n : Nat) (g : Flags) (st : BitVec 5) :
    (c.addResult v n g st).tokens = c.tokens := rfl
@[simp] theorem Core.addResult_handles (c : Core) (v : ResVal) (n : Nat) (g : Flags) (st : BitVec 5) :
    (c.addResult v n g st).handles = c.handles := rfl
@[simp] theorem Core.addResult_fpc (c : Core) (v : ResVal) (n : Nat) (g : Flags) (st : BitVec 5) :
    (c.addResult v n g st).fpc = c.fpc := rfl
@[simp] theorem Core.addResult_shape (c : Core) (v : ResVal) (n : Nat) (g : Flags) (st : BitVec 5) :
    (c.addResult v n g st).shape = c.shape := rfl
@[simp] theorem Core.addResult_mdef (c : Core) (v : ResVal) (n : Nat) (g : Flags) (st : BitVec 5) :
    (c.addResult v n g st).mdef = c.mdef := rfl
@[simp] theorem Core.addResult_stat (c : Core) (v : ResVal) (n : Nat) (g : Flags) (st : BitVec 5) :
    (c.addResult v n g st).stat = c.stat := rfl
@[simp] theorem Core.addResult_plim (c : Core) (v : ResVal) (n : Nat) (g : Flags) (st : BitVec 5) :
    (c.addResult v n g st).plim = c.plim := rfl
@[simp] theorem Core.addResult_mode (c : Core) (v : ResVal) (n : Nat) (g : Flags) (st : BitVec 5) :
    (c.addResult v n g st).mode = c.mode := rfl
@[simp] theorem Core.addResult_pc (c : Core) (v : ResVal) (n : Nat) (g : Flags) (st : BitVec 5) :
    (c.addResult v n g st).pc = c.pc := rfl
@[simp] theorem Core.addResult_slot (c : Core) (v : ResVal) (n : Nat) (g : Flags) (st : BitVec 5) :
    (c.addResult v n g st).slot = c.slot := rfl
@[simp] theorem Core.addResult_gws (c : Core) (v : ResVal) (n : Nat) (g : Flags) (st : BitVec 5) :
    (c.addResult v n g st).gws = c.gws := rfl
@[simp] theorem Core.addResult_inflight (c : Core) (v : ResVal) (n : Nat) (g : Flags) (st : BitVec 5) :
    (c.addResult v n g st).inflight = c.inflight ++ [⟨v, n, g, st, c.seq⟩] := rfl
@[simp] theorem Core.addResult_stores (c : Core) (v : ResVal) (n : Nat) (g : Flags) (st : BitVec 5) :
    (c.addResult v n g st).stores = c.stores := rfl
@[simp] theorem Core.addResult_queue (c : Core) (v : ResVal) (n : Nat) (g : Flags) (st : BitVec 5) :
    (c.addResult v n g st).queue = c.queue := rfl
@[simp] theorem Core.addResult_running (c : Core) (v : ResVal) (n : Nat) (g : Flags) (st : BitVec 5) :
    (c.addResult v n g st).running = c.running := rfl
@[simp] theorem Core.addResult_mx (c : Core) (v : ResVal) (n : Nat) (g : Flags) (st : BitVec 5) :
    (c.addResult v n g st).mx = c.mx := rfl
@[simp] theorem Core.addResult_shadow (c : Core) (v : ResVal) (n : Nat) (g : Flags) (st : BitVec 5) :
    (c.addResult v n g st).shadow = c.shadow := rfl
@[simp] theorem Core.addResult_task (c : Core) (v : ResVal) (n : Nat) (g : Flags) (st : BitVec 5) :
    (c.addResult v n g st).task = c.task := rfl

/-! ### Core.addArrivals -/

@[simp] theorem Core.addArrivals_feat (c : Core) (i : Instr) :
    (c.addArrivals i).feat = c.feat := rfl
@[simp] theorem Core.addArrivals_s (c : Core) (i : Instr) :
    (c.addArrivals i).s = c.s := rfl
@[simp] theorem Core.addArrivals_k (c : Core) (i : Instr) :
    (c.addArrivals i).k = c.k := rfl
@[simp] theorem Core.addArrivals_v (c : Core) (i : Instr) :
    (c.addArrivals i).v = c.v := rfl
@[simp] theorem Core.addArrivals_acc (c : Core) (i : Instr) :
    (c.addArrivals i).acc = c.acc := rfl
@[simp] theorem Core.addArrivals_own (c : Core) (i : Instr) :
    (c.addArrivals i).own = c.own := rfl
@[simp] theorem Core.addArrivals_wb0 (c : Core) (i : Instr) :
    (c.addArrivals i).wb0 = c.wb0 := rfl
@[simp] theorem Core.addArrivals_wb1 (c : Core) (i : Instr) :
    (c.addArrivals i).wb1 = c.wb1 := rfl
@[simp] theorem Core.addArrivals_cb (c : Core) (i : Instr) :
    (c.addArrivals i).cb = c.cb := rfl
@[simp] theorem Core.addArrivals_tiles (c : Core) (i : Instr) :
    (c.addArrivals i).tiles = c.tiles := rfl
@[simp] theorem Core.addArrivals_tokens (c : Core) (i : Instr) :
    (c.addArrivals i).tokens = c.tokens := rfl
@[simp] theorem Core.addArrivals_handles (c : Core) (i : Instr) :
    (c.addArrivals i).handles = c.handles := rfl
@[simp] theorem Core.addArrivals_fpc (c : Core) (i : Instr) :
    (c.addArrivals i).fpc = c.fpc := rfl
@[simp] theorem Core.addArrivals_shape (c : Core) (i : Instr) :
    (c.addArrivals i).shape = c.shape := rfl
@[simp] theorem Core.addArrivals_mdef (c : Core) (i : Instr) :
    (c.addArrivals i).mdef = c.mdef := rfl
@[simp] theorem Core.addArrivals_stat (c : Core) (i : Instr) :
    (c.addArrivals i).stat = c.stat := rfl
@[simp] theorem Core.addArrivals_plim (c : Core) (i : Instr) :
    (c.addArrivals i).plim = c.plim := rfl
@[simp] theorem Core.addArrivals_mode (c : Core) (i : Instr) :
    (c.addArrivals i).mode = c.mode := rfl
@[simp] theorem Core.addArrivals_pc (c : Core) (i : Instr) :
    (c.addArrivals i).pc = c.pc := rfl
@[simp] theorem Core.addArrivals_slot (c : Core) (i : Instr) :
    (c.addArrivals i).slot = c.slot := rfl
@[simp] theorem Core.addArrivals_gws (c : Core) (i : Instr) :
    (c.addArrivals i).gws = c.gws := rfl
@[simp] theorem Core.addArrivals_inflight (c : Core) (i : Instr) :
    (c.addArrivals i).inflight = c.inflight := rfl
@[simp] theorem Core.addArrivals_stores (c : Core) (i : Instr) :
    (c.addArrivals i).stores = c.stores := rfl
@[simp] theorem Core.addArrivals_queue (c : Core) (i : Instr) :
    (c.addArrivals i).queue = c.queue := rfl
@[simp] theorem Core.addArrivals_running (c : Core) (i : Instr) :
    (c.addArrivals i).running = c.running := rfl
@[simp] theorem Core.addArrivals_mx (c : Core) (i : Instr) :
    (c.addArrivals i).mx = c.mx := rfl
@[simp] theorem Core.addArrivals_shadow (c : Core) (i : Instr) :
    (c.addArrivals i).shadow = c.shadow := rfl
@[simp] theorem Core.addArrivals_task (c : Core) (i : Instr) :
    (c.addArrivals i).task = c.task := rfl

/-! ### Core.retire -/

@[simp] theorem Core.retire_feat (c : Core) (o : RetireOn) :
    (c.retire o).feat = c.feat := rfl
@[simp] theorem Core.retire_s (c : Core) (o : RetireOn) :
    (c.retire o).s = c.s := rfl
@[simp] theorem Core.retire_k (c : Core) (o : RetireOn) :
    (c.retire o).k = c.k := rfl
@[simp] theorem Core.retire_v (c : Core) (o : RetireOn) :
    (c.retire o).v = c.v := rfl
@[simp] theorem Core.retire_acc (c : Core) (o : RetireOn) :
    (c.retire o).acc = c.acc := rfl
@[simp] theorem Core.retire_own (c : Core) (o : RetireOn) :
    (c.retire o).own = c.own := rfl
@[simp] theorem Core.retire_wb0 (c : Core) (o : RetireOn) :
    (c.retire o).wb0 = c.wb0 := rfl
@[simp] theorem Core.retire_wb1 (c : Core) (o : RetireOn) :
    (c.retire o).wb1 = c.wb1 := rfl
@[simp] theorem Core.retire_cb (c : Core) (o : RetireOn) :
    (c.retire o).cb = c.cb := rfl
@[simp] theorem Core.retire_tiles (c : Core) (o : RetireOn) :
    (c.retire o).tiles = c.tiles := rfl
@[simp] theorem Core.retire_tokens (c : Core) (o : RetireOn) :
    (c.retire o).tokens = c.tokens := rfl
@[simp] theorem Core.retire_handles (c : Core) (o : RetireOn) :
    (c.retire o).handles = c.handles := rfl
@[simp] theorem Core.retire_fpc (c : Core) (o : RetireOn) :
    (c.retire o).fpc = c.fpc := rfl
@[simp] theorem Core.retire_shape (c : Core) (o : RetireOn) :
    (c.retire o).shape = c.shape := rfl
@[simp] theorem Core.retire_mdef (c : Core) (o : RetireOn) :
    (c.retire o).mdef = c.mdef := rfl
@[simp] theorem Core.retire_stat (c : Core) (o : RetireOn) :
    (c.retire o).stat = c.stat := rfl
@[simp] theorem Core.retire_plim (c : Core) (o : RetireOn) :
    (c.retire o).plim = c.plim := rfl
@[simp] theorem Core.retire_mode (c : Core) (o : RetireOn) :
    (c.retire o).mode = c.mode := rfl
@[simp] theorem Core.retire_pc (c : Core) (o : RetireOn) :
    (c.retire o).pc = c.pc := rfl
@[simp] theorem Core.retire_slot (c : Core) (o : RetireOn) :
    (c.retire o).slot = c.slot := rfl
@[simp] theorem Core.retire_gws (c : Core) (o : RetireOn) :
    (c.retire o).gws = c.gws := rfl
@[simp] theorem Core.retire_inflight (c : Core) (o : RetireOn) :
    (c.retire o).inflight = c.inflight := rfl
@[simp] theorem Core.retire_stores (c : Core) (o : RetireOn) :
    (c.retire o).stores = c.stores := rfl
@[simp] theorem Core.retire_queue (c : Core) (o : RetireOn) :
    (c.retire o).queue = c.queue := rfl
@[simp] theorem Core.retire_running (c : Core) (o : RetireOn) :
    (c.retire o).running = c.running := rfl
@[simp] theorem Core.retire_mx (c : Core) (o : RetireOn) :
    (c.retire o).mx = c.mx := rfl
@[simp] theorem Core.retire_shadow (c : Core) (o : RetireOn) :
    (c.retire o).shadow = c.shadow := rfl
@[simp] theorem Core.retire_task (c : Core) (o : RetireOn) :
    (c.retire o).task = c.task := rfl

end Sys2Proof.Machine
end

