-- ==== Sys2Proof/Laws/Core.lean ====
section
/-! SUPPORT. What the operations on a core's registers, tokens and tiles read back, and everything the issue of
an operation can do. -/

namespace Sys2Proof.Machine

open Sys2Proof

/-! ### Registers -/

/-- A scalar register after a write: a write to `s0` is discarded (R11). -/
theorem Core.rs_writeS (c : Core) (i j : BitVec 6) (x : Word) :
    (c.writeS i x).rs j = if j = i ∧ i ≠ 0 then x else c.rs j := by
  unfold Core.writeS Core.rs
  by_cases hi : i = 0
  · simp [hi]
  · by_cases hj : j = 0
    · rw [if_neg hi, if_neg (fun h : j = i ∧ _ => hi (h.1 ▸ hj)), if_pos hj, if_pos hj]
    · simp only [hi, hj, if_false, Vector.getElem_set, ne_eq, not_false_iff, and_true]
      by_cases h : j = i
      · simp [h]
      · have : i.toNat ≠ j.toNat := fun e => h (BitVec.eq_of_toNat_eq e).symm
        simp [h, this]

/-- A mask register after a write of the bits `e`: a write to `k0` is discarded (R12). -/
theorem Core.rk_writeK (c : Core) (i j : BitVec 4) (x e : Mask) :
    (c.writeK i x e).rk j = if j = i ∧ i ≠ 0 then (c.rk i &&& ~~~e) ||| (x &&& e) else c.rk j := by
  unfold Core.writeK
  by_cases hi : i = 0
  · rw [if_pos hi, if_neg fun h => h.2 hi]
  · rw [if_neg hi]
    by_cases hj : j = 0
    · rw [if_neg (fun h : j = i ∧ _ => hi (h.1 ▸ hj))]
      simp only [Core.rk, if_pos hj]
    · by_cases h : j = i
      · subst h
        rw [if_pos ⟨rfl, hj⟩]
        simp only [Core.rk, if_neg hj, Vector.getElem_set_self]
      · have hn : i.toNat ≠ j.toNat := fun e => h (BitVec.eq_of_toNat_eq e).symm
        rw [if_neg fun e => h e.1]
        simp only [Core.rk, if_neg hj, Vector.getElem_set_ne _ _ hn]

/-- A vector register after a write: the bits of `e` are written, no other register changes (R13). -/
theorem Core.rv_writeV (c : Core) (i j : BitVec 6) (x e : VReg) :
    (c.writeV i x e).rv j = if j = i then (c.writeV i x e).rv i else c.rv j := by
  by_cases h : j = i
  · simp [h]
  · have : i.toNat ≠ j.toNat := fun e => h (BitVec.eq_of_toNat_eq e).symm
    simp [Core.writeV, Core.rv, h, this]

/-- A token after it is set; token 63 names none (R22). -/
theorem Core.token_setToken (c : Core) (i j : BitVec 6) (x : BitVec 16) :
    (c.setToken i x).token j = if j = i ∧ i ≠ 63 then x else c.token j := by
  have ne : i ≠ 63 ↔ i.toNat < 63 := by
    rw [ne_eq, ← BitVec.toNat_inj]; have := i.isLt; simp; omega
  unfold Core.setToken
  by_cases hi : i.toNat < 63
  · rw [dif_pos hi]
    simp only [Core.token, List.getD_eq_getElem?_getD, Vector.getElem?_toList,
      Vector.getElem?_set, ne]
    by_cases h : j = i
    · subst h; simp [hi]
    · have : i.toNat ≠ j.toNat := fun e => h (BitVec.eq_of_toNat_eq e).symm
      simp [h, this]
  · rw [dif_neg hi, if_neg fun h => hi (ne.mp h.2)]

theorem Core.token_completeToken (c : Core) (i j : BitVec 6) (x : BitVec 16) :
    (c.completeToken i x).token j = if j = i ∧ i ≠ 63 then x else c.token j := by
  rw [← Core.token_setToken]
  simp only [Core.completeToken]
  split <;> rfl

/-- A tile entry after its state is set: the other entries are unchanged (R21). -/
theorem Core.tile_setTile (c : Core) (i j : BitVec 7) (st : BitVec 2) (p : BitVec 6) :
    (c.setTile i st p).tile j = if j = i then TileE.withState (c.tile i) st p else c.tile j := by
  by_cases h : j = i
  · subst h; simp [Core.setTile, Core.tile, Core.writeTile]
  · have : i.toNat ≠ j.toNat := fun e => h (BitVec.eq_of_toNat_eq e).symm
    simp [Core.setTile, Core.tile, Core.writeTile, h, this]

/-! ### The checks of an operation (R93) -/

/-- The verdict in the manual's order: the early checks, a stall, the operand traps, a forced checkpoint. -/
theorem check_trap_of_early {i : Instr} {s : State} {t : TrapCond} (h : earlyCheck i s = some t) :
    check i s = .trap t := by simp [check, h]

theorem check_wait {i : Instr} {s : State} (h : earlyCheck i s = none) (hs : stalled i s = true) :
    check i s = .wait := by simp [check, h, hs]

theorem check_of_quiet {i : Instr} {s : State} (h : earlyCheck i s = none) (hs : stalled i s = false) :
    check i s = match firstTrap (operandTraps i s) with
      | some t => .trap t
      | none => if needsForced i s.core then .force else .go := by
  unfold check; rw [h]; simp only [hs]; rfl

/-- An operation that goes has passed every check. -/
theorem check_go_iff {i : Instr} {s : State} : check i s = .go ↔ earlyCheck i s = none ∧ stalled i s = false ∧
    firstTrap (operandTraps i s) = none ∧ needsForced i s.core = false := by
  unfold check
  split
  · simp_all
  · split
    · simp_all
    · split <;> [simp_all; (split <;> simp_all)]

/-! ### Issuing an operation -/

/-- An issue answers a next state whatever its checks find. -/
theorem issue_answers (i : Instr) (eff : State → State) (s : State) : ∃ t, issue i eff s = .next t := ⟨_, rfl⟩

/-- Everything an issue can do: take a trap, hold the group a cycle, commit a forced checkpoint, or issue. -/
theorem issue_cases {i : Instr} {eff : State → State} {s t : State} (h : issue i eff s = .next t) :
    (∃ x, check i s = .trap x ∧ t = (s.logMemTrap i x).takeTrap x s.core.slotPos) ∨
    (check i s = .wait ∧ t = s.hold) ∨ (check i s = .force ∧ t = s.forcedCheckpoint) ∨
    (check i s = .go ∧ t = issued i eff s) := by
  simp only [issue, Host.Outcome.next.injEq] at h
  split at h <;> simp_all

theorem issue_trap {i : Instr} {eff : State → State} {s : State} {x : TrapCond} (h : check i s = .trap x) :
    issue i eff s = .next ((s.logMemTrap i x).takeTrap x s.core.slotPos) := by simp [issue, h]

theorem issue_wait {i : Instr} {eff : State → State} {s : State} (h : check i s = .wait) :
    issue i eff s = .next s.hold := by simp [issue, h]

theorem issue_force {i : Instr} {eff : State → State} {s : State} (h : check i s = .force) :
    issue i eff s = .next s.forcedCheckpoint := by simp [issue, h]

/-- An operation that goes with its guard on has its effect between its arrivals and the next slot. -/
theorem issue_runs {i : Instr} {eff : State → State} {s : State} (h : check i s = .go)
    (hg : guardOff i s.core = false) : issue i eff s = .next
      ((eff (s.onCore fun c => c.addArrivals i)).onCore fun c =>
        { c with gws := regWrites i ++ c.gws, slot := c.slot + 1 }) := by
  simp [issue, issued, h, hg]

/-- An operation that goes with its guard off has no effect. -/
theorem issue_off {i : Instr} {eff : State → State} {s : State} (h : check i s = .go)
    (hg : guardOff i s.core = true) : issue i eff s = .next
      ((s.onCore fun c => c.addArrivals i).onCore fun c =>
        { c with gws := regWrites i ++ c.gws, slot := c.slot + 1 }) := by
  simp [issue, issued, h, hg]

/-- An effect that is one result in flight: the whole next state. -/
theorem issue_addResult {i : Instr} {s : State} {v : State → ResVal} {n : Nat} {g : State → Flags}
    {st : State → BitVec 5} (h : check i s = .go) (hg : guardOff i s.core = false) :
    issue i (fun u => u.onCore fun c => c.addResult (v u) n (g u) (st u)) s = .next
      (let u := s.onCore fun c => c.addArrivals i
       { s with core := { s.core with
          arrs := (s.core.addArrivals i).arrs, gws := regWrites i ++ s.core.gws, slot := s.core.slot + 1
          inflight := s.core.inflight ++ [⟨v u, n, g u, st u, s.core.seq⟩], seq := s.core.seq + 1 } }) := by
  rw [issue_runs h hg]; rfl

/-! ### The boundary of a bundle -/

/-- A bundle or group that must wait is held as the state stands (R76). -/
theorem bundleAction_hold {s t : State} (e : bundleAction s = .hold t) : t = s.hold := by
  unfold bundleAction at e
  dsimp only at e
  repeat' split at e
  all_goals first
    | exact (BundleAction.hold.inj e).symm
    | cases e

/-! ### Traps and checkpoints -/

/-- Taking a trap: the core is as its shadow set says, the record kept, memory and contexts untouched (R77, R326). -/
theorem State.takeTrap_spec (s : State) (t : TrapCond) (n : Nat) : ∃ r l,
    s.takeTrap t n = { s with core := { s.core.rollback with mode := .trapped, trap := some r, lastTrap := l } } ∧
    r.cause = t.cause ∧ r.info = t.info ∧ r.slot = n ∧ r.bidx = s.core.pc ∧ r.ckidx = s.core.shadow.pc ∧
    r.grpc = s.core.grpc ∧ r.ptb = s.ptb := ⟨_, _, rfl, rfl, rfl, rfl, rfl, rfl, rfl, rfl⟩

/-- Logging the error behind a memory trap touches the log alone. -/
theorem State.logUnit_frame (s : State) (u : Nat) (a b : BitVec 8) :
    s.logUnit u a b = { s with svc := (s.logUnit u a b).svc } := by
  unfold State.logUnit; split <;> rfl

theorem State.logPoison_frame (s : State) (pa n : Nat) :
    s.logPoison pa n = { s with svc := (s.logPoison pa n).svc } := by
  unfold State.logPoison
  generalize s.poisoned.filter _ = l
  induction l generalizing s with
  | nil => rfl
  | cons u l ih => rw [List.foldl_cons, ih, State.logUnit_frame]

theorem State.logMemTrap_frame (s : State) (i : Instr) (t : TrapCond) :
    s.logMemTrap i t = { s with svc := (s.logMemTrap i t).svc } := by
  unfold State.logMemTrap
  split
  · rfl
  · have two : ∀ b : Bool, ∀ u v : State, u = { s with svc := u.svc } → v = { s with svc := v.svc } →
        (if b then u else v) = { s with svc := (if b then u else v).svc } := by
      intro b u v hu hv; cases b <;> assumption
    exact two _ _ _ rfl (State.logPoison_frame ..)

end Sys2Proof.Machine
end

