-- ==== Sys2Proof/Laws/Sparse.lean ====
section
/-! SUPPORT. What reading, writing and clearing a sparse map do, and that each keeps the canonical form. -/

namespace Sys2Proof.Machine

variable {α : Type} {d x v : α} {k i j : Nat} {m : Sparse α}

@[simp] theorem Sparse.get_nil : Sparse.get d [] i = d := rfl

theorem Sparse.get_cons : Sparse.get d ((k, v) :: m) i = if i = k then v else Sparse.get d m i := rfl

/-- The canonical form, entry by entry. -/
theorem Sparse.wf_cons [DecidableEq α] : Sparse.wf d ((k, v) :: m) = true ↔
    (∀ c ∈ m, k < c.1) ∧ v ≠ d ∧ Sparse.wf d m = true := by
  simp only [Sparse.wf, List.pairwise_cons, List.all_cons, Bool.and_eq_true, decide_eq_true_eq]
  tauto

@[simp] theorem Sparse.wf_nil [DecidableEq α] : Sparse.wf d [] = true := rfl

/-- A key below every entry is unlisted. -/
theorem Sparse.get_of_lt : (∀ c ∈ m, i < c.1) → Sparse.get d m i = d := by
  induction m with
  | nil => intro _; rfl
  | cons c m ih =>
    intro h
    have hi : i ≠ c.1 := Nat.ne_of_lt (h c (List.mem_cons_self ..))
    rw [show c = (c.1, c.2) from rfl, Sparse.get_cons, if_neg hi]
    exact ih fun e he => h e (List.mem_cons_of_mem _ he)

/-- A write leaves the other keys alone. -/
theorem Sparse.get_set_ne [DecidableEq α] (h : j ≠ i) : Sparse.get d (Sparse.set d m i x) j = Sparse.get d m j := by
  induction m with
  | nil => simp only [Sparse.set]; split <;> simp [Sparse.get, h]
  | cons c m ih =>
    simp only [Sparse.set]
    split_ifs with h1 h2 h2 h3
    all_goals simp_all [Sparse.get]

/-- The keys after a write: the old ones and the key written. -/
theorem Sparse.mem_set [DecidableEq α] {c : Nat × α} (h : c ∈ Sparse.set d m i x) : c = (i, x) ∨ c ∈ m := by
  induction m with
  | nil => simp only [Sparse.set] at h; split at h <;> simp_all
  | cons e m ih =>
    simp only [Sparse.set] at h
    split_ifs at h
    all_goals simp only [List.mem_cons] at h ⊢
    all_goals tauto

/-- A write of a canonical map is canonical. -/
theorem Sparse.wf_set [DecidableEq α] (h : Sparse.wf d m = true) : Sparse.wf d (Sparse.set d m i x) = true := by
  induction m with
  | nil => simp only [Sparse.set]; split_ifs with hx <;> simp [Sparse.wf_cons, hx]
  | cons c m ih =>
    obtain ⟨hk, hv, hm⟩ := Sparse.wf_cons.mp h
    simp only [Sparse.set]
    split_ifs with h1 h2 h2 h3
    · exact h
    · refine Sparse.wf_cons.mpr ⟨?_, h2, h⟩
      rintro e (_ | ⟨_, he⟩)
      · exact h1
      · exact Nat.lt_trans h1 (hk e he)
    · exact hm
    · exact Sparse.wf_cons.mpr ⟨h2 ▸ hk, h3, hm⟩
    · refine Sparse.wf_cons.mpr ⟨fun e he => ?_, hv, ih hm⟩
      rcases Sparse.mem_set he with rfl | he
      · show c.1 < i; omega
      · exact hk e he

/-- In a canonical map a key reads back what was written. -/
theorem Sparse.get_set_same [DecidableEq α] (h : Sparse.wf d m = true) :
    Sparse.get d (Sparse.set d m i x) i = x := by
  induction m with
  | nil => simp only [Sparse.set]; split_ifs with hx <;> simp [Sparse.get, hx]
  | cons c m ih =>
    obtain ⟨hk, hv, hm⟩ := Sparse.wf_cons.mp h
    simp only [Sparse.set]
    split_ifs with h1 h2 h2 h3
    · rw [show c = (c.1, c.2) from rfl, Sparse.get_cons, if_neg (Nat.ne_of_lt h1), h2]
      exact Sparse.get_of_lt fun e he => Nat.lt_trans h1 (hk e he)
    · simp [Sparse.get]
    · rw [h3]; exact Sparse.get_of_lt fun e he => h2 ▸ hk e he
    · simp [Sparse.get]
    · rw [Sparse.get_cons, if_neg h2]; exact ih hm

/-- A read after a write of a canonical map. -/
theorem Sparse.get_set [DecidableEq α] (h : Sparse.wf d m = true) :
    Sparse.get d (Sparse.set d m i x) j = if j = i then x else Sparse.get d m j := by
  split_ifs with hj
  · rw [hj]; exact Sparse.get_set_same h
  · exact Sparse.get_set_ne hj

@[simp] theorem Sparse.setAll_nil [DecidableEq α] : Sparse.setAll d m [] = m := rfl

@[simp] theorem Sparse.setAll_cons [DecidableEq α] {c : Nat × α} {l : List (Nat × α)} :
    Sparse.setAll d m (c :: l) = Sparse.setAll d (Sparse.set d m c.1 c.2) l := rfl

theorem Sparse.setAll_append [DecidableEq α] {l n : List (Nat × α)} :
    Sparse.setAll d m (l ++ n) = Sparse.setAll d (Sparse.setAll d m l) n := List.foldl_append ..

/-- A list of writes keeps the canonical form. -/
theorem Sparse.wf_setAll [DecidableEq α] {l : List (Nat × α)} (h : Sparse.wf d m = true) :
    Sparse.wf d (Sparse.setAll d m l) = true := by
  induction l generalizing m with
  | nil => exact h
  | cons c l ih => exact ih (Sparse.wf_set h)

/-- A list of writes leaves the keys it does not name alone. -/
theorem Sparse.get_setAll_of_notMem [DecidableEq α] {l : List (Nat × α)} (h : ∀ c ∈ l, c.1 ≠ i) :
    Sparse.get d (Sparse.setAll d m l) i = Sparse.get d m i := by
  induction l generalizing m with
  | nil => rfl
  | cons c l ih =>
    rw [Sparse.setAll_cons, ih fun e he => h e (List.mem_cons_of_mem _ he)]
    exact Sparse.get_set_ne (Ne.symm (h c (List.mem_cons_self ..)))

/-- A cleared key reads as unlisted, the others as before. -/
theorem Sparse.get_clear {p : Nat → Bool} :
    Sparse.get d (Sparse.clear p m) i = if p i then d else Sparse.get d m i := by
  induction m with
  | nil => simp [Sparse.clear]
  | cons c m ih =>
    rw [show c = (c.1, c.2) from rfl, Sparse.get_cons]
    have step : Sparse.clear p ((c.1, c.2) :: m) =
        if p c.1 then Sparse.clear p m else (c.1, c.2) :: Sparse.clear p m := by
      by_cases hc : p c.1 <;> simp [Sparse.clear, hc]
    rw [step]
    by_cases hc : p c.1 = true
    · rw [if_pos hc, ih]
      by_cases hi : i = c.1 <;> simp [hi, hc]
    · rw [if_neg hc, Sparse.get_cons, ih]
      by_cases hi : i = c.1 <;> simp [hi, hc]

/-- Clearing keeps the canonical form. -/
theorem Sparse.wf_clear [DecidableEq α] {p : Nat → Bool} (h : Sparse.wf d m = true) :
    Sparse.wf d (Sparse.clear p m) = true := by
  simp only [Sparse.wf, Bool.and_eq_true, decide_eq_true_eq, List.all_eq_true] at h ⊢
  exact ⟨List.Pairwise.filter _ h.1, fun c hc => h.2 c (List.mem_filter.mp hc).1⟩

/-- Two canonical maps that read alike are equal. -/
theorem Sparse.wf_ext [DecidableEq α] {n : Sparse α} (hm : Sparse.wf d m = true) (hn : Sparse.wf d n = true)
    (h : ∀ i, Sparse.get d m i = Sparse.get d n i) : m = n := by
  induction m generalizing n with
  | nil =>
    cases n with
    | nil => rfl
    | cons c n =>
      have := h c.1
      simp [Sparse.get] at this
      exact absurd this.symm (Sparse.wf_cons.mp hn).2.1
  | cons a m ih =>
    obtain ⟨ha, hva, hm⟩ := Sparse.wf_cons.mp hm
    cases n with
    | nil =>
      have := h a.1
      simp [Sparse.get] at this
      exact absurd this hva
    | cons b n =>
      obtain ⟨hb, hvb, hn⟩ := Sparse.wf_cons.mp hn
      have key : a.1 = b.1 := by
        rcases Nat.lt_trichotomy a.1 b.1 with hl | he | hl
        · have := h a.1
          rw [show a = (a.1, a.2) from rfl, show b = (b.1, b.2) from rfl, Sparse.get_cons, Sparse.get_cons,
            if_pos rfl, if_neg (Nat.ne_of_lt hl),
            Sparse.get_of_lt fun e he => Nat.lt_trans hl (hb e he)] at this
          exact absurd this hva
        · exact he
        · have := h b.1
          rw [show a = (a.1, a.2) from rfl, show b = (b.1, b.2) from rfl, Sparse.get_cons, Sparse.get_cons,
            if_pos rfl, if_neg (Nat.ne_of_lt hl),
            Sparse.get_of_lt fun e he => Nat.lt_trans hl (ha e he)] at this
          exact absurd this.symm hvb
      have val : a.2 = b.2 := by
        have := h a.1
        simpa [Sparse.get, key] using this
      have tail : m = n := by
        refine ih hm hn fun i => ?_
        by_cases hi : i = a.1
        · rw [hi, Sparse.get_of_lt ha, Sparse.get_of_lt (key ▸ hb)]
        · have := h i
          simpa [Sparse.get, hi, key ▸ hi] using this
      rw [tail, Prod.ext key val]

end Sys2Proof.Machine
end

