-- ==== Sys2Proof/Laws/Memory.lean ====
section
/-! SUPPORT. What the operations on memory read back, what they leave alone, and that each keeps the memory's
canonical form. -/

namespace Sys2Proof.Machine

open Sys2Proof

/-! ### Lists of writes -/

@[simp] theorem lastOf_nil {α : Type} (a : Nat) : lastOf ([] : List (Nat × α)) a = none := rfl

theorem lastOf_cons {α : Type} (c : Nat × α) (l : List (Nat × α)) (a : Nat) :
    lastOf (c :: l) a = (lastOf l a).or (if c.1 = a then some c.2 else none) := by
  simp only [lastOf, List.reverse_cons, List.find?_append, List.find?_singleton, beq_iff_eq]
  cases h : List.find? (fun e => e.1 == a) l.reverse <;> simp

/-- A key after a list of writes of a canonical map: the last value written to it, or its old one. -/
theorem Sparse.get_setAll {α : Type} [DecidableEq α] {d : α} {m : Sparse α} {l : List (Nat × α)} {i : Nat}
    (h : Sparse.wf d m = true) : Sparse.get d (Sparse.setAll d m l) i = (lastOf l i).getD (Sparse.get d m i) := by
  induction l generalizing m with
  | nil => rfl
  | cons c l ih =>
    rw [Sparse.setAll_cons, ih (Sparse.wf_set h), lastOf_cons, Sparse.get_set h]
    cases lastOf l i with
    | some x => rfl
    | none =>
      by_cases hi : c.1 = i
      · simp [hi]
      · simp [hi, Ne.symm hi]

/-- A list of writes that names a key not at all says nothing of it. -/
theorem lastOf_eq_none {α : Type} {l : List (Nat × α)} {a : Nat} (h : ∀ c ∈ l, c.1 ≠ a) : lastOf l a = none := by
  simp only [lastOf, Option.map_eq_none_iff, List.find?_eq_none, List.mem_reverse, beq_iff_eq]
  exact h

/-! ### Physical bytes -/

theorem State.peek_poke {s : State} {l : List (Nat × Byte)} {a : Nat} (h : s.memWf) :
    (s.poke l).peek a = (lastOf l a).getD (s.peek a) := Sparse.get_setAll h

theorem State.peek_poke_of_notMem {s : State} {l : List (Nat × Byte)} {a : Nat} (h : ∀ c ∈ l, c.1 ≠ a) :
    (s.poke l).peek a = s.peek a := Sparse.get_setAll_of_notMem h

theorem State.memWf_poke {s : State} {l : List (Nat × Byte)} (h : s.memWf) : (s.poke l).memWf := Sparse.wf_setAll h

/-- Two states of one memory are canonical together. -/
theorem State.memWf_of_mem_eq {s t : State} (h : s.memWf) (e : t.mem = s.mem) : t.memWf := by
  show Sparse.wf _ t.mem = true
  rw [e]; exact h

/-! ### Folds of state changes -/

/-- A fold of changes that each leave the memory alone leaves it alone. -/
theorem State.foldl_mem {β : Type} {f : State → β → State} (h : ∀ s b, (f s b).mem = s.mem) (l : List β) (s : State) :
    (l.foldl f s).mem = s.mem := by
  induction l generalizing s with
  | nil => rfl
  | cons b l ih => rw [List.foldl_cons, ih, h]

/-- A fold of changes that each keep the canonical form keeps it. -/
theorem State.foldl_memWf {β : Type} {f : State → β → State} (h : ∀ s b, s.memWf → (f s b).memWf) (l : List β)
    (s : State) (hs : s.memWf) : (l.foldl f s).memWf := by
  induction l generalizing s with
  | nil => exact hs
  | cons b l ih => exact ih _ (h _ _ hs)

/-! ### The one store operation (R245, R246) -/

@[simp] theorem State.inbound_mem (s : State) (port : BitVec 4) (p : Packet) : (s.inbound port p).mem = s.mem := rfl

@[simp] theorem State.emitBy_mem (s : State) (port : BitVec 4) (p : Packet) : (s.emitBy port p).mem = s.mem := by
  unfold State.emitBy
  split
  · rfl
  · split <;> rfl

@[simp] theorem State.emit_mem (s : State) (p : Packet) : (s.emit p).mem = s.mem := by
  unfold State.emit
  split
  · exact State.emitBy_mem ..
  · rfl

@[simp] theorem State.launch_mem (s : State) (m : Msg) : (s.launch m).mem = s.mem := by
  unfold State.launch
  split <;> rfl

@[simp] theorem State.sendMsg_mem (s : State) (m : Msg) : (s.sendMsg m).mem = s.mem := by
  unfold State.sendMsg
  simp

@[simp] theorem State.carry_mem (s : State) (src : Port) (op : NetOp) (p : Packet) : (s.carry src op p).mem = s.mem := by
  unfold State.carry
  split
  · exact State.sendMsg_mem ..
  · rfl

@[simp] theorem State.sendAs_mem (s : State) (src : Port) (op : NetOp) (p : Packet) (m : BitVec 12)
    (l : List (Nat × BitVec 64 × List Byte)) : (s.sendAs src op p m l).mem = s.mem := by
  unfold State.sendAs
  split
  · exact State.carry_mem ..
  · rfl

@[simp] theorem State.sendVia_mem (s : State) (m : Msg) (p : Packet) (h : BitVec 12)
    (l : List (Nat × BitVec 64 × List Byte)) : (s.sendVia m p h l).mem = s.mem := by
  unfold State.sendVia
  dsimp only
  split
  · rw [State.sendMsg_mem]; rfl
  · split <;> rfl

@[simp] theorem State.sendPacket_mem (s : State) (src : Port) (op : NetOp) (p : Packet) (m : BitVec 12)
    (l : List (Nat × BitVec 64 × List Byte)) : (s.sendPacket src op p m l).mem = s.mem := by
  unfold State.sendPacket
  rw [State.sendAs_mem]; rfl

@[simp] theorem State.mapCores_mem (s : State) (f : Core → Core) : (s.mapCores f).mem = s.mem := rfl

@[simp] theorem State.faultTransition_mem (s : State) (a : BitVec 16) (c : BitVec 8) (v : VAddr) :
    (s.faultTransition a c v).mem = s.mem := by
  unfold State.faultTransition
  split
  · rfl
  · split
    · rfl
    · rw [State.addLog_mem, State.foldl_mem (fun s b => State.updMember_mem ..), State.mapCores_mem, State.updContext_mem]

@[simp] theorem State.noteCouch_mem (s : State) (a : BitVec 16) (o : NetOp) (l : Loc) (t : CouchTag) :
    (s.noteCouch a o l t).mem = s.mem := rfl

@[simp] theorem State.couchWrite_mem (s : State) (a : BitVec 16) (m : BitVec 12) (c : List (Nat × Byte)) (t : CouchTag) :
    (s.couchWrite a m c t).mem = s.mem :=
  State.foldl_mem (fun s b => by rw [State.sendPacket_mem, State.noteCouch_mem]) _ _

@[simp] theorem State.secondFails_mem (s : State) (a : BitVec 16) (n : Nat) (c : BitVec 8) (v : VAddr) :
    (s.secondFails a n c v).mem = s.mem := by
  unfold State.secondFails
  split
  · exact State.faultTransition_mem ..
  · rfl

@[simp] theorem State.secondCopy_mem (s : State) (a : BitVec 16) (n : Nat) (m : PageMove) (c : List (Nat × Byte)) :
    (s.secondCopy a n m c).mem = s.mem := by
  unfold State.secondCopy
  repeat' split
  all_goals first
    | rfl
    | exact State.secondFails_mem ..
    | exact State.couchWrite_mem ..

@[simp] theorem State.mirrorOut_mem (s : State) (a : BitVec 16) (n : Nat) (m : PageMove) (c : List (Nat × Byte)) :
    (s.mirrorOut a n m c).mem = s.mem := by
  unfold State.mirrorOut
  dsimp only
  split
  · rfl
  · exact State.secondCopy_mem ..

/-- A store writes its cells and the second copies they lead to, and nothing else of memory. -/
@[simp] theorem State.store_mem (s : State) (c : List (Nat × Byte)) :
    (s.store c).mem = Sparse.setAll 0 s.mem (mirrorAll s s.mirroredPages c) := by
  unfold State.store
  dsimp only
  rw [State.foldl_mem]
  · rfl
  · intro s x
    exact State.foldl_mem (fun s m => State.mirrorOut_mem s x.asid _ m _) _ _

theorem State.memWf_store {s : State} {c : List (Nat × Byte)} (h : s.memWf) : (s.store c).memWf := by
  show Sparse.wf _ (s.store c).mem = true
  rw [State.store_mem]; exact Sparse.wf_setAll h

/-- A byte of memory after a store: the last value written to it, or its old one. -/
theorem State.peek_store {s : State} {c : List (Nat × Byte)} {a : Nat} (h : s.memWf) :
    (s.store c).peek a = (lastOf (mirrorAll s s.mirroredPages c) a).getD (s.peek a) := by
  show Sparse.get _ (s.store c).mem a = _
  rw [State.store_mem]; exact Sparse.get_setAll h

/-- With no page mirrored a store has no second copy. -/
theorem mirrorCells_nil {s : State} {c : List (Nat × Byte)} (h : ∀ x ∈ s.contexts, x.mirrored = []) :
    mirrorCells s c = [] := by
  simp only [mirrorCells, List.flatMap_eq_nil_iff]
  intro x hx
  simp [h x hx]

theorem mirrorAll_nil {s : State} {c : List (Nat × Byte)} (h : ∀ x ∈ s.contexts, x.mirrored = []) (n : Nat) :
    mirrorAll s n c = c := by
  cases n with
  | zero => rfl
  | succ n => unfold mirrorAll; rw [mirrorCells_nil h]

/-- A write of which a part may be held keeps the canonical form (R247). -/
theorem State.memWf_writeOrHold {s : State} {c : List (Nat × Byte)} (h : s.memWf) : (s.writeOrHold c).memWf := by
  unfold State.writeOrHold
  dsimp only
  have one : ∀ (b : Bool) (u v : State), u.memWf → v.memWf → (if b then u else v).memWf := by
    intro b u v hu hv; cases b <;> assumption
  exact one _ _ _ (one _ _ _ h (State.memWf_store h)) (one _ _ _ h (State.memWf_store h))

/-- The writes that are no longer held keep the canonical form (R247). -/
theorem State.memWf_releaseHeld {s : State} (h : s.memWf) : s.releaseHeld.memWf := by
  unfold State.releaseHeld
  dsimp only
  split
  · exact h
  · exact State.memWf_store (s := { s with held := _ }) h

/-- A write through a context's map keeps the canonical form. -/
theorem State.memWf_writeVa {s t : State} {a : BitVec 16} {v : Nat} {l : List Byte} (h : s.memWf)
    (e : s.writeVa a v l = some t) : t.memWf := by
  unfold State.writeVa at e
  split at e
  · cases e; exact State.memWf_writeOrHold h
  · cases e

/-! ### Cores, checkpoints, traps -/

@[simp] theorem State.mem_logMemTrap (s : State) (i : Instr) (t : TrapCond) : (s.logMemTrap i t).mem = s.mem := by
  unfold State.logMemTrap
  split
  · rfl
  · have one : ∀ (s : State) u a b, (s.logUnit u a b).mem = s.mem := by
      intro s u a b; unfold State.logUnit; split <;> rfl
    have two : ∀ (b : Bool) (u v : State), u.mem = s.mem → v.mem = s.mem → (if b then u else v).mem = s.mem := by
      intro b u v hu hv; cases b <;> assumption
    exact two _ _ _ rfl (State.foldl_mem (fun s u => one s u _ _) _ _)

@[simp] theorem State.mem_takeTrap (s : State) (t : TrapCond) (n : Nat) : (s.takeTrap t n).mem = s.mem := rfl

@[simp] theorem State.mem_makeArrivals (s : State) : s.makeArrivals.mem = s.mem := rfl

theorem State.memWf_postNow {s : State} {q : Queue} {v : Word} {r : VAddr} (h : s.memWf) :
    (s.postNow q v r).memWf := by
  unfold State.postNow
  dsimp only
  generalize e : s.writeVa q.asid _ (completionBytes q v r) = o
  refine State.memWf_of_mem_eq (s := o.getD s) ?_ (State.updQueue_mem ..)
  cases o with
  | none => exact h
  | some t => exact State.memWf_writeVa h e

theorem State.memWf_post {s : State} {q : BitVec 14} {v : Word} {r : VAddr} (h : s.memWf) : (s.post q v r).memWf := by
  unfold State.post
  split
  · exact h
  · split
    · exact State.memWf_postNow h
    · split
      · exact State.memWf_of_mem_eq h (State.updQueue_mem ..)
      · exact State.memWf_of_mem_eq h (by simp)

theorem State.memWf_flushPosts {s : State} (h : s.memWf) : s.flushPosts.memWf := by
  unfold State.flushPosts
  dsimp only
  split
  · exact h
  · exact State.foldl_memWf (fun s p hs => State.memWf_post hs) _ _ h

theorem State.memWf_performStore {s : State} {e : StoreEntry} (h : s.memWf) : (s.performStore e).memWf :=
  State.memWf_store (s := { s with core := _ }) h

theorem State.memWf_releaseFrom {l : List StoreEntry} {s : State} (h : s.memWf) : (State.releaseFrom l s).memWf := by
  induction l generalizing s with
  | nil => exact h
  | cons e l ih =>
    unfold State.releaseFrom
    split
    · exact h
    · exact ih (State.memWf_performStore h)

/-- A checkpoint keeps the canonical form (R74). -/
theorem State.memWf_checkpoint {s : State} (h : s.memWf) : s.checkpoint.memWf :=
  State.memWf_flushPosts (State.memWf_of_mem_eq (State.memWf_releaseFrom (s := { s with core := s.core.commit }) h) rfl)

/-- An operation of a slot keeps the canonical form when its effect does (R93). -/
theorem issue_memWf {i : Instr} {eff : State → State} {s t : State} (h : s.memWf)
    (he : ∀ u : State, u.memWf → (eff u).memWf) (e : issue i eff s = .next t) : t.memWf := by
  simp only [issue, Host.Outcome.next.injEq] at e
  subst e
  split
  · exact State.memWf_of_mem_eq h (by simp)
  · exact h
  · exact State.memWf_checkpoint (s := { s with core := _ }) h
  · unfold issued
    dsimp only
    split
    · exact h
    · exact he _ h

/-- The memory of the state after reset is canonical. -/
theorem reset_memWf : State.reset.memWf := rfl

end Sys2Proof.Machine
end

