-- ==== Sys2Proof/Laws/Engine.lean ====
section
/-! SUPPORT. What the shared operations of the engine, the array and the memory side do. -/

namespace Sys2Proof.Machine

open Sys2Proof

/-- The event code of a log record is the top byte of its detail (R366). -/
@[simp] theorem detail_code (a : BitVec 8) (b : BitVec 56) : BitVec.extractLsb' 56 8 (a ++ b) = a := by
  ext i h
  have : (a ++ b : BitVec (8 + 56)).getLsbD (56 + i) = a.getLsbD i := by
    rw [BitVec.getLsbD_append]; simp
  rw [BitVec.getElem_extractLsb']
  exact this.trans (BitVec.getLsbD_eq_getElem h)

/-- What an entry of the log holds, and that nothing else changes (R366). -/
theorem State.addLog_spec (s : State) (k : Nat) (c : BitVec 8) (d : BitVec 2) (w : BitVec 8) (n : Nat) : ∃ r,
    s.addLog k c d w n = { s with svc := { s.svc with
      log := logRoom s.svc.log ++ [r], nextSeq := s.svc.nextSeq + 1 } } ∧
    r.seq = s.svc.nextSeq ∧ r.kind = BitVec.ofNat 16 k ∧ bits r.detail 56 8 = c ∧ r.ptb = s.ptb :=
  ⟨_, rfl, rfl, rfl, detail_code .., rfl⟩

/-- With no command, arrival, post or queue about, nothing follows a completion. -/
theorem State.settle_alone {s : State} (h1 : s.core.queue = []) (h2 : s.core.running = []) (h3 : s.core.arrs = [])
    (h4 : s.core.posts = []) (h5 : s.sched.queues = []) : s.settle = s := by
  have e1 : s.core.takeTiles = s.core := by simp [Core.takeTiles, h1]
  have e2 : s.onCore Core.takeTiles = s := by simp [State.onCore, e1]
  have e3 : s.makeArrivals = s := by
    simp only [State.makeArrivals, h3, List.filter_nil, List.map_nil, List.append_nil]
    rw [show ({ s.core with arrs := [] } : Core) = s.core by rw [← h3]]
  have e4 : s.flushPosts = s := by
    simp only [State.flushPosts, h4, List.takeWhile_nil, List.length_nil, List.drop_nil, List.foldl_nil]
    rw [show ({ s.core with posts := [] } : Core) = s.core by rw [← h4]]
    cases s.core.task <;> rfl
  have e5 : s.flushSpawns = s := by simp [State.flushSpawns, h5]
  have e6 : s.pumpCore s.core.id = s := by simp [State.pumpCore, State.findCore, h2]
  simp [State.settle, e2, e3, e4, e5, e6]

/-! ### Operations at memory (R183) -/

/-- An operation at memory is one store of its new value; it answers the old one. -/
theorem State.amoAt_spec (s : State) (pa sub : Nat) (b : Word) :
    (s.amoAt pa sub b).2 = BitVec.ofNat 64 (s.peekNat pa (amoWidth sub)) ∧
    (s.amoAt pa sub b).1 = s.store (leCells pa (amoWidth sub)
      (amoNew sub (BitVec.ofNat 64 (s.peekNat pa (amoWidth sub))) b).toNat) := ⟨rfl, rfl⟩

theorem State.memWf_amoAt {s : State} {pa sub : Nat} {b : Word} (h : s.memWf) : (s.amoAt pa sub b).1.memWf :=
  State.memWf_store h

theorem State.memWf_amoEntries {l : List AmoEntry} {s : State} {pa sub : Nat} (h : s.memWf) :
    (s.amoEntries pa sub l).1.memWf := by
  induction l generalizing s with
  | nil => exact h
  | cons e l ih => exact ih (State.memWf_amoAt h)

/-! ### The array (R156, R163) -/

/-- Starting an array operation changes the scoreboard and the next id alone. -/
theorem State.startMx_spec (s : State) (k : MxKind) (b : BitVec 5) (n : Nat × Nat) (a : Bool)
    (r w d : List (BitVec 7)) (l : List (Nat × Byte)) (g : Flags) (u : AccBlock) :
    s.startMx k b n a r w d l g u = { s with core := { s.core with
      mx := s.core.mx ++ [⟨s.core.nextId, k, b, n.1, n.2, a, r, w, d, l, g, u⟩], nextId := s.core.nextId + 1 } } := rfl

end Sys2Proof.Machine
end

