-- ==== Sys2Proof/Laws/Service.lean ====
section
/-! SUPPORT. What taking a host's request can do (R360 to R362). -/

namespace Sys2Proof.Machine

open Sys2Proof

@[simp] theorem State.respond_mem (s : State) (c st : BitVec 16) (p : List Byte) : (s.respond c st p).mem = s.mem := rfl
@[simp] theorem State.respond_core (s : State) (c st : BitVec 16) (p : List Byte) : (s.respond c st p).core = s.core := rfl
@[simp] theorem State.respond_contexts (s : State) (c st : BitVec 16) (p : List Byte) :
    (s.respond c st p).contexts = s.contexts := rfl
@[simp] theorem State.respond_responses (s : State) (c st : BitVec 16) (p : List Byte) :
    (s.respond c st p).svc.responses = s.svc.responses ++ [⟨c, st, s.svc.asker.tag, s.svc.asker.ctx, p⟩] := rfl
@[simp] theorem State.serving_asker (s : State) (a : Asker) : (s.serving a).svc.asker = a := rfl
@[simp] theorem State.serving_mem (s : State) (a : Asker) : (s.serving a).mem = s.mem := rfl

/-- A deployed module that is not held in reset handles every request (R359, R364). -/
theorem State.host_up (s : State) (code : BitVec 16) (f : State → State) (h : s.svc.holdReset = false)
    (l : s.svc.life = .deployed) : s.host code f = f s := by simp [State.host, h, l]

/-- With nothing of its context and no firmware update before it, a request that arrives is handled (R361, R368). -/
theorem State.arrives_free (s : State) (code : BitVec 16) (f : State → State)
    (h : s.mustWait s.svc.nextStamp (s.requester s.occ) = false) : s.arrives code f = s.handle code f := by
  simp [State.arrives, h]

/-- What is no message and does not come from those that wait is the request itself. -/
theorem State.request_plain (s : State) (code : BitVec 16) (f : State → State) (h : ∀ l, s.occ ≠ .message l)
    (i : ∀ n, s.occ ≠ .inbox n) (w : s.mustWait s.svc.nextStamp (s.requester s.occ) = false) :
    s.request code f = s.host code f := by
  have e : s.handle code f = s.host code f := by
    unfold State.handle
    split
    · next l e => exact absurd e (h l)
    · rfl
  unfold State.request
  split
  · next n e => exact absurd e (i n)
  · next l e => exact absurd e (h l)
  · rw [State.arrives_free s code f w, e]

/-- A well-formed message of the code whose turn has come gives what it asks to the request's meaning, under its tag
(R360, R362). -/
theorem State.request_asked (s : State) (code : BitVec 16) (f : State → State) {l : List Byte} {h : MsgHeader} {o : Occ}
    (e : s.occ = .message l) (m : msgHeader l = some h) (c : h.code = code) (w : h.clean = true)
    (n : l.length = headerSize + h.len)
    (a : (s.serving ⟨h.rtag, h.ctx⟩).asks code h.ctx (l.drop headerSize) = some o)
    (up : s.svc.holdReset = false) (d : s.svc.life = .deployed)
    (t : s.mustWait s.svc.nextStamp (s.requester s.occ) = false) :
    s.request code f = f { s.serving ⟨h.rtag, h.ctx⟩ with occ := o } := by
  unfold State.request
  rw [e]
  dsimp only
  rw [m]
  dsimp only
  rw [if_pos c, State.arrives_free s code f t, State.handle, e]
  dsimp only
  rw [m]
  dsimp only
  rw [State.host_up (s.serving ⟨h.rtag, h.ctx⟩) code _ up d, w, n]
  simp only [beq_self_eq_true, Bool.and_self, if_true, a]

/-- A message of another code that a host may use is no business of this event. -/
theorem State.request_other (s : State) (code : BitVec 16) (f : State → State) {l : List Byte} {h : MsgHeader}
    (e : s.occ = .message l) (m : msgHeader l = some h) (c : h.code ≠ code) (k : h.code ∈ hostCodes) :
    s.request code f = s := by
  unfold State.request
  rw [e]
  dsimp only
  rw [m]
  dsimp only
  rw [if_neg c, if_pos (by simp [k])]

end Sys2Proof.Machine
end

