-- ==== Sys2Proof/Laws/Step.lean ====
section
/-! SUPPORT. What a step can do, said once, and the operations around `exec`. -/

namespace Sys2Proof.Machine

open Sys2Proof

/-- Writing a field of a record keeps the canonical form. -/
theorem State.memWf_setField {s : State} {a : BitVec 16} {v n x : Nat} (h : s.memWf) : (s.setField a v n x).memWf := by
  unfold State.setField
  generalize e : s.writeVa a v (bytesOfNat n x) = o
  cases o with
  | none => exact h
  | some t => exact State.memWf_writeVa h e

theorem State.memWf_agePool {s : State} {d : BitVec 2} (h : s.memWf) : (s.agePool d).memWf := by
  refine State.foldl_memWf (fun s e hs => ?_) _ _ h
  dsimp only
  split
  · exact hs
  · exact State.memWf_setField hs

@[simp] theorem State.releaseLoads_mem (s : State) : s.releaseLoads.mem = s.mem := rfl

/-- Time that passes keeps the canonical form. -/
theorem memWf_tock {s : State} (h : s.memWf) : (tock s).memWf :=
  have a : (allDies.foldl State.agePool s.elapse).memWf :=
    State.foldl_memWf (fun _ _ hs => State.memWf_agePool hs) _ _ h
  State.memWf_of_mem_eq (State.memWf_releaseHeld a) (State.releaseLoads_mem _)

/-- With no ready task, no held write and no load to answer nothing ages: a step's time adds to three counters alone. -/
theorem tock_of_idle {s : State} (hp : ∀ d, s.pool d = []) (hc : ∀ d, s.chain d = []) (hh : s.held = [])
    (hl : s.svc.loads = []) : tock s = s.elapse := by
  have one : ∀ d, s.elapse.agePool d = s.elapse := fun d => by
    have e : s.elapse.pool d ++ s.elapse.chain d = [] := by
      show s.pool d ++ s.chain d = []
      rw [hp, hc]; rfl
    unfold State.agePool; rw [e]; rfl
  have held : s.elapse.releaseHeld = s.elapse := by
    have e : s.elapse.held = [] := hh
    simp only [State.releaseHeld, e, List.filter_nil, List.isEmpty_nil, if_true]
  have e : s.elapse.svc.loads = [] := hl
  simp only [tock, allDies, List.foldl_cons, List.foldl_nil, one, held, State.releaseLoads, e, List.filter_nil,
    List.map_nil, List.append_nil]
  rw [← e]

/-- Inside a bundle nothing follows an operation. -/
theorem endBundle_of_lt {s : State} (h : s.core.slot < 9) : endBundle s = s := by simp [endBundle, h]

@[simp] theorem endBundle_mem (s : State) : (endBundle s).mem = s.mem := by
  unfold endBundle; dsimp only; split <;> [rfl; (split <;> rfl)]

@[simp] theorem endBundle_contexts (s : State) : (endBundle s).contexts = s.contexts := by
  unfold endBundle; dsimp only; split <;> [rfl; (split <;> rfl)]

/-- What a core's sequencer does next: an operation in a state, or a trap on a slot that does not decode; neither
touches memory or contexts before the operation runs. -/
theorem runTodo_cases (s : State) :
    (∃ i u, runTodo s = .exec i u ∧ u.mem = s.mem ∧ u.contexts = s.contexts) ∨
    (∃ u, runTodo s = .next u ∧ u.mem = s.mem ∧ u.contexts = s.contexts) := by
  unfold runTodo slotTodo
  dsimp only
  repeat' split
  all_goals first
    | exact .inl ⟨_, _, rfl, rfl, rfl⟩
    | exact .inr ⟨_, rfl, rfl, rfl⟩

theorem afterExec_next {o : Host.Outcome State Fault Refusal} {t : State} (h : afterExec o = .next t) :
    ∃ v, o = .next v ∧ t = tock (endBundle v) := by
  cases o with
  | next v => exact ⟨v, rfl, by simpa [afterExec] using h.symm⟩
  | fault f => cases h
  | refused r => cases h

/-- One act answers a next state through one operation, or with none. -/
theorem stepAct_cases {a : Act} {s t : State} (h : stepAct a s = .next t) :
    (∃ i u v, exec i u = .next v ∧ t = tock (endBundle v) ∧ u.mem = s.mem ∧ u.contexts = s.contexts) ∨
    (∃ u, t = tock u ∧ u.mem = s.mem ∧ u.contexts = s.contexts) := by
  cases a with
  | event i o =>
    obtain ⟨v, hv, ht⟩ := afterExec_next h
    exact .inl ⟨i, _, v, hv, ht, rfl, rfl⟩
  | core id i o =>
    obtain ⟨v, hv, ht⟩ := afterExec_next h
    exact .inl ⟨i, _, v, hv, ht, State.focus_mem .., State.focus_contexts ..⟩
  | run id =>
    simp only [stepAct] at h
    rcases runTodo_cases (s.focus id) with ⟨i, u, e, hm, hc⟩ | ⟨u, e, hm, hc⟩
    · rw [e] at h
      obtain ⟨v, hv, ht⟩ := afterExec_next h
      exact .inl ⟨i, u, v, hv, ht, hm.trans (State.focus_mem ..), hc.trans (State.focus_contexts ..)⟩
    · rw [e] at h
      exact .inr ⟨u, (Host.Outcome.next.inj h).symm, hm.trans (State.focus_mem ..), hc.trans (State.focus_contexts ..)⟩

/-- Everything a step can do: an operation in a state of the same memory and contexts, and time; or time alone. -/
theorem step_cases {s t : State} (h : step s = .next t) :
    (∃ i u v, exec i u = .next v ∧ t = tock (endBundle v) ∧ u.mem = s.mem ∧ u.contexts = s.contexts) ∨
    (∃ u, t = tock u ∧ u.mem = s.mem ∧ u.contexts = s.contexts) := by
  unfold step at h
  split at h
  · next a rest _ => exact stepAct_cases (s := { s with agenda := rest }) h
  · split at h
    · cases h
    · split at h
      · exact stepAct_cases h
      · exact .inr ⟨s, (Host.Outcome.next.inj h).symm, rfl, rfl⟩

end Sys2Proof.Machine
end

