-- ==== Sys2Proof/Laws/Tables.lean ====
section
/-! SUPPORT. The walk of a map's three-level tables ends at the leaf entry of the page that the list of leaf pages
gives (R239, R240; log 33). -/

namespace Sys2Proof.Machine

open Sys2Proof

/-- The four page sizes (R240). -/
theorem MapE.size_cases (e : BitVec 64) : (MapE.sz e).toNat = 0 ∧ MapE.size e = 0x10000 ∨
    (MapE.sz e).toNat = 1 ∧ MapE.size e = 0x200000
    ∨ (MapE.sz e).toNat = 2 ∧ MapE.size e = 0x40000000 ∨ (MapE.sz e).toNat = 3 ∧ MapE.size e = 0x200000000 := by
  have h := (MapE.sz e).isLt
  unfold MapE.size
  generalize (MapE.sz e).toNat = n at *
  interval_cases n <;> simp

/-- The page found holds the address. -/
theorem findPage_some {l : List MapPage} {a : Nat} {p : MapPage} (h : findPage l a = some p) :
    p ∈ l ∧ p.va.toNat ≤ a ∧ a < p.va.toNat + MapE.size p.entry := by
  refine ⟨List.mem_of_find?_eq_some h, ?_⟩
  simpa using List.find?_some h

/-- No page of the list holds an address at which none is found. -/
theorem findPage_none {l : List MapPage} {a : Nat} (h : findPage l a = none) (p : MapPage) (hp : p ∈ l) :
    ¬ (p.va.toNat ≤ a ∧ a < p.va.toNat + MapE.size p.entry) := by
  have := List.find?_eq_none.mp h p hp
  simpa using this

/-- Meeting is symmetric. -/
theorem stretchesMeet_comm (a n b m : Nat) : stretchesMeet a n b m = stretchesMeet b m a n := by
  simp [stretchesMeet, Bool.and_comm]

/-- Two pages of one map that meet are the same page. -/
theorem mapDisjoint_unique {l : List MapPage} (h : mapDisjoint l = true) {p q : MapPage} (hp : p ∈ l) (hq : q ∈ l)
    (m : stretchesMeet p.va.toNat (MapE.size p.entry) q.va.toNat (MapE.size q.entry) = true) : p = q := by
  induction l with
  | nil => cases hp
  | cons x r ih =>
    simp only [mapDisjoint, Bool.and_eq_true, List.all_eq_true, Bool.not_eq_true'] at h
    rcases List.mem_cons.mp hp with e | hp' <;> rcases List.mem_cons.mp hq with f | hq'
    · rw [e, f]
    · rw [e, h.1 q hq'] at m; cases m
    · rw [f, stretchesMeet_comm, h.1 p hp'] at m; cases m
    · exact ih h.2 hp' hq'

/-- A page of a map is found at each of its addresses. -/
theorem findPage_of_mem {l : List MapPage} (h : mapDisjoint l = true) {a : Nat} {p : MapPage} (hp : p ∈ l)
    (h1 : p.va.toNat ≤ a) (h2 : a < p.va.toNat + MapE.size p.entry) : findPage l a = some p := by
  cases e : findPage l a with
  | none => exact absurd ⟨h1, h2⟩ (findPage_none e p hp)
  | some q =>
    obtain ⟨hq, q1, q2⟩ := findPage_some e
    rw [mapDisjoint_unique h hp hq]
    simp only [stretchesMeet, Bool.and_eq_true, decide_eq_true_eq]; omega

/-- KIND of a table entry (R240). -/
theorem kind_tableEntry (f : BitVec 28) : MapE.kind (tableEntry f) = 1 := by
  apply BitVec.eq_of_getLsbD_eq
  intro i hi
  unfold MapE.kind tableEntry bits
  rw [BitVec.getLsbD_extractLsb', BitVec.getLsbD_append, BitVec.getLsbD_append, BitVec.getLsbD_append]
  interval_cases i <;> rfl

/-- The walk, from the entries it meets. -/
theorem walk_of_entries {c : Context} {m : Nat} {l : List MapPage} {va : Nat} {t : Bool}
    {M B : BitVec 64} (ht : pageUnder l (va / 2 ^ 42 * 2 ^ 42) (2 ^ 42) = t)
    (hM : midEntry c m l (va / 2 ^ 42) (va / 2 ^ 30 % 4096) = M)
    (hB : botEntry l (va / 2 ^ 42) (va / 2 ^ 30 % 4096) (va / 2 ^ 16 % 16384) = B) :
    walk c m l va = if t then
      (if MapE.kind M = 1 then (if MapE.kind B = 2 then some B else none) else if MapE.kind M = 2 then some M else none)
      else none := by
  unfold walk topEntry
  dsimp only
  rw [hM, hB, ht]
  cases t
  · exact if_pos (show MapE.kind (0 : BitVec 64) ≠ 1 by decide)
  · exact if_neg fun h => h (kind_tableEntry _)

/-- Of a map whose pages keep R242, the walk of its tables finds what the list of leaf pages gives (R239). -/
theorem walk_eq_findPage {c : Context} {m : Nat} {l : List MapPage} {va home : Nat}
    (hl : ∀ p ∈ l, pageOk home p = true) (hd : mapDisjoint l = true) :
    walk c m l va = (findPage l va).map (·.entry) := by
  have ok : ∀ p ∈ l, MapE.kind p.entry = 2 ∧ p.va.toNat % MapE.size p.entry = 0 := by
    intro p hp
    have := hl p hp
    simp only [pageOk, Bool.and_eq_true, beq_iff_eq] at this
    exact ⟨this.1.1.1.1.1, this.1.1.1.2⟩
  have k0 : MapE.kind (0 : BitVec 64) = 0 := by decide
  obtain ⟨x, y, z, r, ex, hx, hy, hz⟩ : ∃ x y z r, va = x * 4398046511104 + y * 1073741824 + z * 65536 + r ∧
      y < 4096 ∧ z < 16384 ∧ r < 65536 :=
    ⟨va / 2 ^ 42, va / 2 ^ 30 % 4096, va / 2 ^ 16 % 16384, va % 2 ^ 16, by omega, by omega, by omega, by omega⟩
  have e1 : va / 2 ^ 42 = x := by omega
  have e2 : va / 2 ^ 30 % 4096 = y := by omega
  have e3 : va / 2 ^ 16 % 16384 = z := by omega
  have bm : ∀ p ∈ l, ∀ w, w = x * 2 ^ 42 + y * 2 ^ 30 ∨ w = x * 2 ^ 42 + y * 2 ^ 30 + z * 2 ^ 16 →
      2 ≤ (MapE.sz p.entry).toNat ∨ w = x * 2 ^ 42 + y * 2 ^ 30 + z * 2 ^ 16 →
      ((p.va.toNat ≤ w ∧ w < p.va.toNat + MapE.size p.entry) ↔
       (p.va.toNat ≤ va ∧ va < p.va.toNat + MapE.size p.entry)) := by
    intro p hp w hw hs
    have := (ok p hp).2
    rcases MapE.size_cases p.entry with h | h | h | h <;> rw [h.2] at this ⊢ <;> omega
  have hB : botEntry l x y z = ((findPage l va).map (·.entry)).getD 0 := by
    unfold botEntry
    congr 2
    cases e : findPage l va with
    | some p =>
      obtain ⟨hp, h⟩ := findPage_some e
      have := (bm p hp _ (.inr rfl) (.inr rfl)).mpr h
      exact findPage_of_mem hd hp this.1 this.2
    | none =>
      cases e' : findPage l (x * 2 ^ 42 + y * 2 ^ 30 + z * 2 ^ 16) with
      | none => rfl
      | some q =>
        obtain ⟨hq, h⟩ := findPage_some e'
        exact absurd ((bm q hq _ (.inr rfl) (.inr rfl)).mp h) (findPage_none e q hq)
  have under : ∀ p ∈ l, p.va.toNat ≤ va → va < p.va.toNat + MapE.size p.entry →
      pageUnder l (x * 2 ^ 42) (2 ^ 42) = true ∧ pageUnder l (x * 2 ^ 42 + y * 2 ^ 30) (2 ^ 30) = true := by
    intro p hp h1 h2
    simp only [pageUnder, List.any_eq_true]
    refine ⟨⟨p, hp, ?_⟩, ⟨p, hp, ?_⟩⟩ <;>
      simp only [stretchesMeet, Bool.and_eq_true, decide_eq_true_eq] <;> omega
  rw [walk_of_entries (by rw [e1]) rfl (by rw [e1, e2, e3])]
  rw [hB, e1, e2]
  cases e : findPage l va with
  | some p =>
    obtain ⟨hp, h⟩ := findPage_some e
    rw [(under p hp h.1 h.2).1]
    simp only [if_true, Option.map_some, Option.getD_some, (ok p hp).1]
    by_cases hs : 2 ≤ (MapE.sz p.entry).toNat
    · have w := (bm p hp _ (.inl rfl) (.inl hs)).mpr h
      have : midEntry c m l x y = p.entry := by
        unfold midEntry
        dsimp only
        rw [show findPage l (x * 2 ^ 42 + y * 2 ^ 30) = some p from findPage_of_mem hd hp w.1 w.2]
        exact if_pos hs
      rw [this, (ok p hp).1]; rfl
    · have : ∃ f, midEntry c m l x y = tableEntry f := by
        unfold midEntry
        dsimp only
        cases e' : findPage l (x * 2 ^ 42 + y * 2 ^ 30) with
        | none => exact ⟨_, if_pos (under p hp h.1 h.2).2⟩
        | some q =>
          obtain ⟨hq, hw⟩ := findPage_some e'
          refine ⟨_, if_neg fun hqs => hs ?_⟩
          have := (bm q hq _ (.inl rfl) (.inl hqs)).mp hw
          rw [findPage_of_mem hd hq this.1 this.2] at e
          cases e; exact hqs
      obtain ⟨f, hf⟩ := this
      rw [hf, kind_tableEntry]; rfl
  | none =>
    have nn := findPage_none e
    simp only [Option.map_none, Option.getD_none, k0]
    have : MapE.kind (midEntry c m l x y) ≠ 2 := by
      unfold midEntry
      dsimp only
      cases e' : findPage l (x * 2 ^ 42 + y * 2 ^ 30) with
      | none => dsimp only; split <;> [rw [kind_tableEntry]; rw [k0]] <;> decide
      | some q =>
        obtain ⟨hq, hw⟩ := findPage_some e'
        dsimp only
        rw [if_neg fun hqs => nn q hq ((bm q hq _ (.inl rfl) (.inl hqs)).mp hw), kind_tableEntry]
        decide
    rw [if_neg this]
    simp

end Sys2Proof.Machine
end

