-- ==== Sys2Proof/Tests/Slice0.lean ====
section
/-! SUPPORT. The author's tests: ill-formed terms that WellFormed refuses, words written out from the spec's
encodings, a few single steps, and for every statement with hypotheses a state that meets them. -/

namespace Sys2Proof.Tests

set_option Elab.async false

open Sys2Proof Sys2Proof.Machine Sys2Proof.Claim

/-! ### A small state -/

/-- A context of two maps, nothing mapped, no transition. -/
def ctx : Context := {
  asid := 0, nmap := 2, home := 0, cur := 0, eng := .idle, pass := 0, trans := 0, flt := false, tip := false, tgt := 0
  fcode := 0, prem := 0, fltva := 0, hasEngine := false, moves := [], mirrors := [], padvs := [], heldBack := []
  maps := [[], []], loaded := [[], []], tables := [], pcid := 1, modLo := 0, modHi := 1, ranges := [], codes := [],
    images := [], objs := [] }

/-- An open queue of eight entries. -/
def queue0 : Queue := {
  qid := 0, die := 0, qst := .bound, qrk := 0, slot := 0, asid := 0, ring := 0, rsz := 8, head := 0, tail := 0
  slice := 1000, cring := 0, csz := 8, ctail := 0, ygr := 16, nsave := 1, save := 0, dbell := 0, chead := 0
  nflr := 0, nfrz := 0, ndrop := 0, closing := false, refuse := false, stamp := 0, waiting := [], reserved := []
  uncovered := false }

/-- A tile of 128 rows of 128 bytes in Z order, FP8, ready, from byte 8192 on, its tag 64. -/
def tileFp8 : BitVec 128 :=
  64#32 ++ 0x2000#22 ++ 127#8 ++ 128#12 ++ 0#1 ++ 1#1 ++ 0#2 ++ 0#12 ++ 2#4 ++ 2#2 ++ 0#6 ++ 0#26

/-- A bundle of no-ops that ends its group. -/
def stopBundle : Bundle := (Vector.replicate 8 (0 : Word)).set 7 (1 <<< 63)

/-- A nest of one FP8 element at scratchpad byte 64, every count 1, and a BVEC block of one FP8 element at 128. -/
def nestBytes : List (Nat × Byte) :=
  [(64 + 7, 0x20), (64 + 15, 0x20)] ++ ((List.range 6).map fun l => (64 + 16 + 4 * l, 1)) ++
    [(128 + 7, 0x20), (128 + 16, 1), (128 + 20, 1), (128 + 40, 1), (128 + 41, 2)]

/-- A core in the middle of a group: bank 0 owned, weights in `wb0`, tiles 1 and 2 ready, handle 0 valid, `s3` = 64,
`s4` the address of a nest, `s5` = 1, `s6` = 128. -/
def core0 : Core := { Core.reset 0 with
  mode := .running, passed := true, landed := true, grpIrrev := true, code := List.replicate 6 stopBundle, pc := 1
  own := 1, wb0 := { Latch.cleared with valid := true, fmt := 2, kel := 96 }
  tiles := ((Vector.replicate 128 0).set 1 tileFp8).set 2 tileFp8
  handles := (Vector.replicate 8 0).set 0 (1 <<< 63)
  s := ((((Vector.replicate 64 0).set 3 64).set 4 64).set 5 1).set 6 128
  usable := [⟨1, 0⟩] }

/-- The small state: `core0`, one context, one queue, quad object 3 initialised. -/
def ready : State := { State.reset with
  core := core0, contexts := [ctx], quadBars := [((0, 0, 3), ⟨1, 0, 0, true, none⟩)]
  sched := { Sched.reset with queues := [queue0] }
  mem := Sparse.setAll 0 [] (nestBytes.map fun c => (spadBase 0 + c.1, c.2)) }

/-- The same with a grid of 8 rows of 8 one-byte elements. -/
def ready8 : State := { ready with core := { core0 with shape := 0x0E7 } }

/-! ### Every slot operation runs somewhere -/

def scSamples : List Instr :=
  ([Instr.add, .sub, .mul, .mulh, .div, .divu, .rem, .remu, .and, .or, .xor, .andn, .shl, .shr, .sar, .rot, .cmpeq,
    .cmplt, .cmpltu, .cmple, .sel, .min, .max, .lea].map fun k => k ⟨2, 1, 0, 0, true, 5⟩) ++
  ([Instr.popc, .clz, .ctz, .tlook].map fun k => k ⟨2, 1, 0, 0, false, 0⟩) ++
  ([Instr.br, .brc].map fun k => k ⟨0, 0, 0, 0, true, 2⟩) ++
  ([Instr.movcr, .getid, .movsk, .movks].map fun k => k ⟨2, 0, 0, 0, true, 1⟩) ++
  [.nop, .movi ⟨2, 0, 0, 0, true, 7⟩, .movhi ⟨2, 1, 0, 0, true, 7⟩, .call ⟨9, 0, 0, 0, true, 1⟩,
    .ret ⟨0, 5, 0, 0, false, 0⟩, .jr ⟨9, 5, 0, 0, false, 0⟩, .jr ⟨0, 5, 0, 0, false, 0⟩,
    .loop ⟨0, 0, 0, 0, true, 0x40⟩, .loop ⟨0, 4, 0, 0, true, 0x41⟩, .movrc ⟨0, 0, 0, 0, true, 8⟩,
    .shape ⟨0, 0, 0, 0, true, 0x0F7⟩, .aalloc ⟨2, 0, 0, 0, true, 1⟩, .aalloc ⟨2, 0, 0, 0, true, 33⟩,
    .afree ⟨0, 0, 0, 0, true, 1⟩,
    .tdef ⟨0, 3, 0, 0, true, 5⟩, .tstate ⟨2, 0, 0, 0, true, 1⟩, .tfree ⟨0, 0, 0, 0, true, 1⟩]

def vecSamples : List Instr :=
  ([Instr.vadd, .vsub, .vmul, .vfma, .vfms, .vmin, .vmax, .vabs, .vneg, .vrcp, .vrsq, .vexp2, .vlog2, .vtanh, .vsin,
    .vcos, .vcmul, .vcfma, .vcmpeq, .vcmplt, .vcmple, .vclass, .vsel, .vmov, .vbcst, .vmovs, .vsplat, .vcvt, .vredr,
    .vredc, .vtrn, .vrot, .vperm, .vamrd, .vamwr, .vamadd, .vscale, .vrnd, .vclamp].map
      fun k => k ⟨0, 0, 0, 0, 0, 0, false, 0, 0, 0⟩) ++
  ([Instr.viadd, .visub, .vimul, .vimin, .vimax, .vshl, .vshr, .vsar, .vand, .vor, .vxor, .viota, .vpopk].map
      fun k => k ⟨1, 0, 0, 0, 0, 5, false, 0, 0, 0⟩) ++
  ([Instr.kand, .kor, .kxor, .kandn, .korn, .knot, .kmov].map fun k => k ⟨1, 0, 0⟩) ++
  [.vnop, .vmovsX ⟨2, 0, 0, 0, 0, 0, false, 0, 1, 0⟩, .vmovsX ⟨2, 0, 0, 0, 1, 0, false, 0, 1, 0⟩,
    .vscale ⟨0, 0, 0, 0, 0, 0, false, 0, 1, 0⟩,
    .vdq ⟨0, 0, 0, 0, 0, 0, false, 0, 2, 0⟩, .vcbld ⟨0, 0, 0, 0, 0, 1, false, 0, 0, 0⟩]

def memSamples : List Instr :=
  ([Instr.mswap, .mclr, .mfence, .mzero, .mstat, .mcbl].map fun k => k ⟨0, 0, 0, 0, 0, 0, 0, false, 0⟩) ++
  ([Instr.mmul, .mmulz, .mmult, .mdrain].map fun k => k ⟨0, 0, 1, 7, 2, 0, 0, false, 0⟩) ++
  ([Instr.vld, .vst, .vldg, .vsts, .sld, .sst, .kld, .kst].map fun k => k ⟨2, 3, 0, 0, 0, 0⟩) ++
  [.mnop, .lnop, .stSnop, .mldw ⟨0, 0, 1, 0, 2, 0, 0, false, 0⟩, .mldwt ⟨0, 0, 1, 0, 2, 0, 2, false, 0⟩,
    .mdraint ⟨0, 0, 1, 7, 2, 0, 2, false, 0⟩]

def cpSamples : List Instr :=
  ([Instr.copy, .copyt, .spillt, .gath, .scat, .put, .get, .fenf, .lxfer, .lxred].map
    fun k => k ⟨0, 63, 63, 63, 0, 4, 5, 0⟩) ++
  ([Instr.casw, .dcas, .enq, .chase, .preadMst, .pstat, .mapq, .pref, .mset, .tdec].map
    fun k => k ⟨0, 63, 63, 0, 0, 0, 0, 0⟩) ++
  [.cnop, .cas ⟨0, 63, 63, 0, 0, 0, 0, 0⟩, .pcon ⟨0, 63, 63, 0, 0, 0, 0, 0⟩,
    .bvec ⟨0, 63, 63, 63, 0, 6, 0, 0⟩, .xlinv ⟨0, 63, 63, 63, 0, 0, 0, 0⟩, .tdecH ⟨0, 63, 63, 32, 0, 0, 0, 0⟩,
    .amoAdd32 ⟨0, 63, 63, 0, 0, 0, 0, 0⟩, .amoAdd64 ⟨0, 63, 63, 4, 0, 0, 0, 0⟩, .amoMin ⟨0, 63, 63, 8, 0, 0, 0, 0⟩,
    .amoMax ⟨0, 63, 63, 12, 0, 0, 0, 0⟩, .amoMinu ⟨0, 63, 63, 16, 0, 0, 0, 0⟩, .amoMaxu ⟨0, 63, 63, 20, 0, 0, 0, 0⟩,
    .amoAnd ⟨0, 63, 63, 24, 0, 0, 0, 0⟩, .amoOr ⟨0, 63, 63, 28, 0, 0, 0, 0⟩, .amoXor ⟨0, 63, 63, 32, 0, 0, 0, 0⟩,
    .amoSwap ⟨0, 63, 63, 36, 0, 0, 0, 0⟩, .amoFxa ⟨0, 63, 63, 40, 0, 0, 0, 0⟩,
    .preadWbf ⟨0, 63, 63, 1, 0, 0, 0, 0⟩, .preadWf8 ⟨0, 63, 63, 2, 0, 0, 0, 0⟩, .preadMom ⟨0, 63, 63, 3, 0, 0, 0, 0⟩]

def sySamples : List Instr := [.sySnop, .wait 2 ⟨1, 0⟩ 0, .arrive ⟨1, 0⟩ 0, .arriveHandle 0 0, .bari ⟨1, 1⟩ 5 false 0,
  .bari ⟨3, 9⟩ 5 true 0, .bariAtt ⟨2, 3⟩, .twait 0 1 63, .ttest 2 0, .fence 0 5, .pnext 2 false 0 1,
    .padv 0 false 0 0, .pcancel,
  .pstatq 2, .hset 1 3, .tend, .tspawn 2 0 0, .live ⟨0, 0, false, false, false, false, false, 0⟩, .tslot 0, .notify 0,
  .svc 0 0 8, .svc 0 0 1]

/-- The forms of one-byte elements. -/
def byteSamples : List Instr := [.vldt ⟨1, 0, 0, 0, 2, 0⟩, .vstt ⟨1, 0, 0, 0, 2, 0⟩,
  .vqnt ⟨0, 0, 0, 0, 0, 2, false, 0, 0, 0⟩]

def samples : List Instr := scSamples ++ vecSamples ++ memSamples ++ cpSamples ++ sySamples

/-! ### WellFormed: a term that each check refuses -/

/-- Scalar forms: both B and the immediate, fields a form leaves 0, ranges of masks, indices and immediates. -/
theorem test_scalar_ill_formed : ∀ i ∈ [
    Instr.add ⟨1, 2, 3, 0, true, 4⟩, .add ⟨1, 2, 3, 0, false, 4⟩, .cmpeq ⟨16, 0, 0, 0, true, 0⟩,
    .lea ⟨1, 0, 0, 0, false, 0⟩, .lea ⟨1, 0, 0, 0, true, 0x08000000⟩, .movi ⟨1, 1, 0, 0, true, 0⟩,
    .movhi ⟨1, 1, 1, 0, true, 0⟩, .popc ⟨1, 1, 0, 0, false, 1⟩, .br ⟨0, 0, 0, 1, true, 1⟩, .brc ⟨1, 0, 0, 0, true, 1⟩,
    .call ⟨1, 1, 0, 0, true, 1⟩, .ret ⟨1, 1, 0, 0, false, 0⟩, .jr ⟨1, 1, 0, 0, true, 0⟩,
    .loop ⟨0, 0, 0, 0, true, 0x200⟩, .loop ⟨0, 0, 0, 0, true, 0x180⟩, .movcr ⟨1, 0, 0, 0, true, 0x12⟩,
    .movrc ⟨0, 0, 0, 0, true, 0x12⟩, .movsk ⟨1, 16, 0, 0, true, 0⟩, .movks ⟨16, 0, 0, 0, true, 0⟩,
    .shape ⟨0, 1, 0, 0, true, 0x0F7⟩, .shape ⟨0, 1, 0, 0, false, 1⟩, .getid ⟨1, 0, 0, 0, true, 4⟩,
    .aalloc ⟨1, 1, 0, 0, true, 1⟩, .afree ⟨1, 0, 0, 0, true, 1⟩, .tdef ⟨0, 1, 0, 0, true, 128⟩,
    .tstate ⟨1, 0, 0, 0, true, 0⟩, .tstate ⟨0, 0, 0, 0, true, 0⟩, .tfree ⟨0, 1, 0, 0, true, 0⟩],
    i.wellFormed = false := by decide

/-- Vector forms: a field not listed, FN, TY and RO beyond their lists, the sub-fields of IMM16. -/
theorem test_vector_ill_formed : ∀ i ∈ [
    Instr.vadd ⟨0, 0, 0, 1, 0, 0, false, 0, 0, 0⟩, .vadd ⟨0, 0, 0, 0, 0, 4, false, 0, 0, 0⟩,
    .vadd ⟨0, 0, 0, 0, 0, 0, false, 6, 0, 0⟩, .vfma ⟨0, 0, 0, 0, 0, 0, false, 0, 2, 0⟩,
    .vmin ⟨0, 0, 0, 0, 0, 0, false, 1, 0, 0⟩, .vabs ⟨0, 0, 1, 0, 0, 0, false, 0, 0, 0⟩,
    .vcmul ⟨0, 0, 0, 0, 0, 1, false, 0, 0, 0⟩, .viadd ⟨0, 0, 0, 0, 0, 5, false, 0, 3, 0⟩,
    .vshl ⟨0, 0, 0, 0, 0, 5, false, 0, 1, 32⟩, .vshl ⟨0, 0, 0, 0, 0, 5, false, 0, 0, 1⟩,
    .vcmpeq ⟨16, 0, 0, 0, 0, 0, false, 0, 0, 0⟩, .vcmpeq ⟨0, 0, 0, 0, 0, 0, false, 0, 1, 0⟩,
    .vclass ⟨0, 0, 0, 0, 0, 0, false, 0, 0, 0x400⟩, .vsel ⟨0, 0, 0, 0, 0, 0, true, 0, 0, 0⟩,
    .vbcst ⟨0, 0, 0, 0, 0, 0, false, 0, 0, 0x2000⟩, .vbcst ⟨0, 0, 0, 0, 0, 0, false, 0, 0, 0x20⟩,
    .vmovsX ⟨0, 0, 0, 0, 0, 0, false, 0, 0, 0⟩, .viota ⟨0, 0, 0, 0, 0, 0, false, 0, 0, 0⟩,
    .vsplat ⟨0, 0, 0, 0, 0, 4, false, 0, 0, 256⟩, .vcvt ⟨0, 0, 0, 0, 0, 0, false, 0, 6, 0⟩,
    .vqnt ⟨0, 0, 1, 0, 0, 2, false, 0, 0, 0⟩, .vqnt ⟨0, 0, 8, 0, 0, 7, false, 0, 0, 0⟩,
    .vdq ⟨0, 0, 0, 0, 0, 0, false, 0, 5, 0⟩, .vcbld ⟨8, 0, 0, 0, 0, 1, false, 0, 0, 0⟩,
    .vcbld ⟨0, 0, 0, 0, 0, 1, false, 0, 0, 8⟩, .vredr ⟨0, 0, 0, 0, 0, 5, false, 1, 0, 0⟩,
    .vrot ⟨0, 0, 0, 0, 0, 0, false, 0, 0, 32⟩, .vamrd ⟨0, 0, 0, 0, 0, 0, false, 0, 0, 0x60⟩,
    .vamrd ⟨0, 0, 0, 0, 0, 0, false, 0, 0, 1⟩, .vamwr ⟨1, 0, 0, 0, 0, 0, false, 0, 0, 0⟩,
    .vamadd ⟨0, 0, 0, 0, 0, 0, true, 0, 0, 0⟩, .vscale ⟨0, 0, 1, 0, 0, 0, false, 0, 0, 0⟩,
    .vscale ⟨0, 0, 0, 0, 0, 0, false, 0, 1, 1⟩, .vpopk ⟨0, 16, 0, 0, 0, 5, false, 0, 0, 0⟩,
    .vclamp ⟨0, 0, 0, 0, 0, 0, false, 0, 1, 0⟩, .knot ⟨0, 0, 1⟩], i.wellFormed = false := by decide

/-- Array, load, store, engine and synchronisation forms. -/
theorem test_other_ill_formed : ∀ i ∈ [
    Instr.mldw ⟨1, 0, 0, 0, 2, 0, 0, false, 0⟩, .mldw ⟨0, 0, 0, 0, 2, 0, 1, false, 0⟩,
    .mldw ⟨0, 0, 0, 0, 0, 0, 0, false, 0⟩, .mldwt ⟨0, 0, 0, 0, 1, 0, 1, false, 3⟩,
    .mmul ⟨0, 0, 0, 0, 2, 0, 0, false, 97⟩, .mmul ⟨0, 1, 0, 127, 2, 0, 0, false, 0⟩,
    .mmul ⟨0, 0, 0, 0, 7, 0, 0, false, 0⟩, .mmult ⟨0, 0, 0, 48, 2, 0, 0, false, 0⟩,
    .mmult ⟨0, 81, 0, 0, 2, 0, 0, false, 0⟩, .mswap ⟨1, 0, 0, 0, 0, 0, 0, false, 0⟩,
    .mzero ⟨0, 0, 1, 0, 0, 0, 0, false, 0⟩, .mdrain ⟨0, 0, 0, 0, 5, 0, 0, false, 0⟩,
    .mdrain ⟨0, 0, 0, 0, 0, 0, 1, false, 0⟩, .mdraint ⟨0, 0, 0, 0, 0, 0, 1, true, 0⟩,
    .mcbl ⟨0, 0, 8, 0, 0, 0, 0, false, 0⟩, .mstat ⟨0, 1, 0, 0, 0, 0, 0, false, 0⟩,
    .vld ⟨0, 0, 0, 0, 6, 0⟩, .vldt ⟨0, 0, 1, 0, 0, 0⟩, .sst ⟨0, 0, 0, 1, 0, 0⟩, .sld ⟨0, 0, 0, 0, 7, 0⟩,
    .vldg ⟨0, 0, 0, 0, 2, 0⟩, .kld ⟨16, 0, 0, 0, 0, 0⟩, .kst ⟨0, 0, 0, 0, 1, 0⟩,
    .copy ⟨0, 0, 0, 0, 0x060, 0, 0, 0⟩, .copy ⟨0, 0, 0, 0, 0xE60, 0, 0, 0⟩, .amoMin ⟨0, 0, 0, 0, 0, 0, 0, 0⟩,
    .cas ⟨0, 0, 0, 2, 0, 0, 0, 0⟩, .cas ⟨0, 0, 0, 0, 0, 0, 0, 1⟩, .casw ⟨0, 0, 0, 1, 0, 0, 0, 0⟩,
    .dcas ⟨0, 0, 0, 1, 0, 0, 0, 0⟩, .lxfer ⟨0, 0, 0, 0, 0, 0, 0, 1⟩, .bvec ⟨0, 0, 0, 0, 0, 0, 1, 0⟩,
    .pcon ⟨0, 0, 0, 2, 0, 0, 0, 0⟩, .preadWbf ⟨0, 0, 0, 0, 0, 0, 0, 0⟩, .preadMst ⟨0, 0, 0, 4, 0, 0, 0, 0⟩,
    .tdec ⟨0, 0, 0, 32, 0, 0, 0, 0⟩, .tdecH ⟨0, 0, 0, 32, 0, 1, 0, 0⟩, .wait 0 ⟨0, 0⟩ 0, .arrive ⟨1, 8⟩ 0,
    .bari ⟨2, 16⟩ 0 false 0, .bariAtt ⟨6, 0⟩, .fence 0 6, .pnext 0 true 0 1, .padv 0 false 1 0,
    .live ⟨65, 0, false, false, false, false, false, 0⟩], i.wellFormed = false := by decide

/-! ### Words the spec writes out (R87 to R91, R134, R170, R196) -/

theorem test_words_decode :
    decodeSlot .sc 0x0088200100000040 = .ok (.add ⟨4, 4, 0, 0, true, 64⟩) ∧
    decodeSlot .sc 0x103E000100000009 = .ok (.call ⟨31, 0, 0, 0, true, 9⟩) ∧
    decodeSlot .sc 0x1528000100000001 = .ok (.aalloc ⟨20, 0, 0, 0, true, 1⟩) ∧
    decodeSlot .sc 0x1580A00100000001 = .ok (.afree ⟨0, 20, 0, 0, true, 1⟩) ∧
    decodeSlot .va 0x090C084000000000 = .ok (.vcfma ⟨6, 1, 2, 0, 0, 0, false, 0, 0, 0⟩) ∧
    decodeSlot .va 0x18A8000000002800 = .ok (.vamrd ⟨20, 0, 0, 0, 0, 0, false, 0, 0, 0x2800⟩) ∧
    decodeSlot .mx 0x020C004BE5500400 = .ok (.mmul ⟨3, 0, 4, 95, 1, 21, 0, false, 64⟩) ∧
    decodeSlot .mx 0x040000A3E4000000 = .ok (.mdrain ⟨0, 0, 10, 31, 1, 0, 0, false, 0⟩) ∧
    decodeSlot .sy 0x8000000001A04600 = .ok (.bari ⟨2, 1⟩ 12 false 0) ∧
    decodeSlot .sy 0xC0000000098E3018 = .ok (.svc 7 6 12) := by decide +kernel

/-- The words a slot's operation encodes to decode to it again, for one operation of every mnemonic. -/
theorem test_samples_round_trip : ∀ i ∈ samples ++ byteSamples, ∀ k ∈ i.slot, (encodeBundle i).decode k = .ok i := by
  decide +kernel

/-! ### Hypotheses met: an operation of every mnemonic runs -/

theorem meets_scalar : ∀ i ∈ scSamples, Runs i ready := by unfold Runs; decide +kernel
theorem meets_vector : ∀ i ∈ vecSamples, Runs i ready := by unfold Runs; decide +kernel
theorem meets_array_load_store : ∀ i ∈ memSamples, Runs i ready := by unfold Runs; decide +kernel
theorem meets_engine : ∀ i ∈ cpSamples, Runs i ready := by unfold Runs; decide +kernel
theorem meets_synchronisation : ∀ i ∈ sySamples, Runs i ready := by unfold Runs; decide +kernel
theorem meets_bytes : ∀ i ∈ byteSamples, Runs i ready8 := by unfold Runs; decide +kernel

/-- BranchAndLoopEffects: a nest whose counts are 0, and one whose counts are 1. -/
theorem meets_loop_counts : 0 ∈ (List.range 2).map (Nest.cnt (ready.nestAt 0)) ∧
    0 ∉ (List.range 2).map (Nest.cnt (ready.nestAt 64)) := by decide +kernel

/-- AccumulatorBanksTakenAndFreed: bank 1 is the lowest free one; 33 banks are out of range. -/
theorem meets_banks : ready.core.own.getLsbD 1 = false ∧ ready.core.own.getLsbD 0 = true ∧
    (scB ⟨2, 0, 0, 0, true, 33⟩ ready.core).toNat = 33 := by decide +kernel

/-- TileTableEffects: tile 1 is the lowest of tag 64; no tile has tag 1. -/
theorem meets_tags : TileE.tag (ready.core.tile 1) = (ready.core.rs 3).setWidth 32 ∧
    TileE.tag (ready.core.tile 0) ≠ 64 ∧ (∀ i : BitVec 7,
      TileE.tag (ready.core.tile i) ≠ (ready.core.rs 5).setWidth 32) ∧
    Runs (.tlook ⟨2, 3, 0, 0, false, 0⟩) ready ∧ Runs (.tlook ⟨2, 5, 0, 0, false, 0⟩) ready := by
  unfold Runs; decide +kernel

/-- NoOpsAndGuardedOffChangeNothing: an addition whose guard `k1` is 0. -/
theorem meets_guarded_off : check (.add ⟨2, 1, 0, 1, true, 5⟩) ready = .go ∧
    guardOff (.add ⟨2, 1, 0, 1, true, 5⟩) ready.core = true := by decide +kernel

/-- VectorCompareResults: two finite codes and a NaN. -/
theorem meets_compare : decodeFp .f32 0x3F800000 = .fin 1 false ∧ decodeFp .f32 0 = .fin 0 false ∧
    isNan (decodeFp .f32 0x7FC00000) = true := by decide +kernel

/-- VectorMoveResults: the guard bit of element (0, 0) is 1 under `k0` and 0 under `k1`. -/
theorem meets_selected : (ready.core.rk 0).getLsbD 0 = true ∧ (ready.core.rk 1).getLsbD 0 = false := by decide +kernel

/-- VectorWritesReadBack: the narrowest and the widest grid. -/
theorem meets_grid : (8 ∈ [8, 16, 32] ∧ 8 ≤ 8 ∧ 32 * 8 ≤ 256) ∧ (32 ∈ [8, 16, 32] ∧ 1 ≤ 8 ∧ 1 * 32 ≤ 256) := by decide

/-- MatrixStreamEffects: the accumulators of the small state are canonical. -/
theorem meets_accumulators : Sparse.wf (0 : Word32) ready.core.acc = true := by decide +kernel

/-- A latch operation, and a drain of tile 1, in flight. -/
def latchOp : MxOp := ⟨3, .latch, 0, 0, 0, false, [1], [], [], [], 0, noBlock⟩
def drainOp : MxOp := ⟨3, .drain, 0, 0, 0, true, [], [], [1], [(8192, 1)], 0, noBlock⟩
def withMx (o : MxOp) : State := { ready with occ := .num 3, core := { core0 with mx := [o] } }

/-- MatrixCompletions. -/
theorem meets_completions : ∀ o ∈ [latchOp, drainOp], (withMx o).occ = .num 3 ∧ (withMx o).core.mx = [o] ∧
    o.id = 3 ∧ (withMx o).core.releasing = [] ∧ (withMx o).core.queue = [] ∧ (withMx o).memWf ∧
    (∀ x ∈ (withMx o).contexts, x.mirrored = []) := by decide +kernel

/-- ReleasedStoresWriteTheirBytes: one released store of a byte and an element. -/
def released : State := { ready with core := { core0 with releasing := [⟨1, [(4, 7)], [(6143, 1)], 0⟩] } }
theorem meets_released : released.core.storeBlocked ⟨1, [(4, 7)], [(6143, 1)], 0⟩ = false ∧
    (∀ x ∈ released.contexts, x.mirrored = []) ∧ released.memWf ∧
    Sparse.wf (0 : Word32) released.core.acc = true := by decide +kernel

/-- AmoPerformedAtMemory: the small state's memory is canonical and no page is mirrored. -/
theorem meets_amo : ready.memWf ∧ (∀ x ∈ ready.contexts, x.mirrored = []) := by decide +kernel

/-- BarrierInstructionEffects: the scopes of BARI, and an object a task may use. -/
theorem meets_bari : (ready.context? ready.core.asid).isSome ∧ ready.core.usableObj ⟨1, 0⟩ = true := by decide +kernel

/-- An arrival at the highest object of a scope; quad and die objects expect two. -/
def arriving (o : ObjName) : State := { ready with
  occ := .num 0, arrivals := [⟨0, ⟨0, 0, 0⟩, .obj o, 1, 0, 0, []⟩]
  core := { core0 with bars := core0.bars.set 7 ⟨1, 0, 0, true, none⟩ }
  quadBars := [((0, 0, 15), ⟨2, 1, 0, true, none⟩)]
  contexts := [{ ctx with objs := [(⟨3, 63⟩, ⟨2, 0, 0, true, none⟩), (⟨4, 63⟩, ⟨2, 0, 0, true, none⟩)] }] }

/-- BarrierArrivalAdvancesPhase, at each scope's last index. -/
theorem meets_arrival : ∀ o ∈ [⟨1, 7⟩, ⟨2, 15⟩, ⟨3, 63⟩, (⟨4, 63⟩ : ObjName)],
    arrivalReady (arriving o) ⟨0, ⟨0, 0, 0⟩, .obj o, 1, 0, 0, []⟩ = true ∧ (arriving o).core.who = ⟨0, 0, 0⟩ ∧
    ((arriving o).context? 0).isSome ∧ ((arriving o).objAt ⟨0, 0, 0⟩ o).exp ≠ 0 := by decide +kernel

/-- PhaseInstructionEffects: no transition, one under way, and one whose copies are complete. -/
def underWay (e : Couch) : State := { ready with contexts := [{ ctx with eng := e, tip := true, tgt := 1 }] }
theorem meets_phase : (ready.context? 0 = some ctx ∧ ready.core.padvWait = none) ∧
    Runs (.pnext 2 false 0 1) (underWay .copying) ∧ Runs (.pnext 2 false 0 0) (underWay .copying) ∧
    Runs (.pnext 2 false 0 0) ready ∧ Runs (.padv 0 false 0 0) ready ∧ Runs (.padv 0 false 0 1) ready ∧
    Runs (.padv 0 false 0 1) (underWay .complete) ∧ Runs (.padv 0 false 0 1) (underWay .faulted) ∧
    Runs .pcancel (underWay .copying) := by unfold Runs; decide +kernel

/-- TspawnReservesAnEntry: a queue with room, a full one, one that closes. -/
def withQueue (q : Queue) : State := { ready with sched := { Sched.reset with queues := [q] } }
theorem meets_tspawn_room : ∀ q ∈ [queue0, { queue0 with tail := 8 }, { queue0 with closing := true }],
    Runs (.tspawn 2 0 0) (withQueue q) ∧ q.qid = ((withQueue q).core.rs 0).setWidth 14 := by unfold Runs; decide +kernel

/-! ### Traps, stalls, checkpoints -/

/-- TrapsRollBack, TrapsRaisedByOperations. -/
theorem meets_trap : check (.trap 5) ready = .trap ⟨.softwareTrap, 5⟩ ∧ earlyCheck (.trap 5) ready = none ∧
    earlyCheck (.brk 5) ready = none ∧ ready.core.selected = [] ∧ ready.core.skipBrk ≠ some ready.core.pc ∧
    earlyCheck (.movrc ⟨0, 0, 0, 0, true, 5⟩) ready = none ∧ stalled (.movrc ⟨0, 0, 0, 0, true, 5⟩) ready = false := by
  decide +kernel

def passing : State := { ready with core := { core0 with skipBrk := some 1 } }
theorem meets_pass : Runs (.trap 5) passing ∧ Runs (.brk 5) passing := by unfold Runs; decide +kernel

/-- StallsHoldOneCycle, ChecksComeInOrder, GroupsBeginOrHold: a TWAIT on a busy token, before its bundle issues. -/
def busyToken : State := { ready with core := { core0 with
  passed := false, grpIrrev := false, tokens := core0.tokens.set 0 tokBusy
  code := [(Vector.replicate 8 (0 : Word)).set 7 (1 <<< 63), (encodeBundle (.twait 0 63 63)).set 7
    ((encodeBundle (.twait 0 63 63))[7] ||| 1 <<< 63)] } }
theorem meets_stall : check (.twait 0 63 63) busyToken = .wait ∧ earlyCheck (.twait 0 63 63) busyToken = none := by
  decide +kernel

theorem meets_order : encodingBad (.add ⟨1, 2, 3, 0, true, 4⟩) ready = true ∧
    (let s : State := { ready with core := { core0 with feat := 0x0FE } }
     encodingBad (.aalloc ⟨2, 0, 0, 0, true, 1⟩) s = false ∧ featureMissing (.aalloc ⟨2, 0, 0, 0, true,
       1⟩) s = some 1) ∧
    (let s : State := { ready with core := { core0 with gws := [.s 1] } }
     encodingBad (.add ⟨2, 1, 0, 0, true, 5⟩) s = false ∧ featureMissing (.add ⟨2, 1, 0, 0, true, 5⟩) s = none ∧
     groupBad (.add ⟨2, 1, 0, 0, true, 5⟩) s.core = true) ∧
    operandTraps (.trap 5) ready ≠ [] := by decide +kernel

/-- CheckpointsAndYieldPointsCommit: a core that runs no task, and a task within its slice. -/
def task0 : TaskInfo := ⟨0, 0, 0, 1, 0, 0⟩
def yielding : State := { ready with occ := .run 4, core := { core0 with task := some task0, slice := 4 } }
theorem meets_yield : yielding.core.mode = .running ∧
    (yielding.core.grpc - yielding.core.grpcStart).toNat + (4 : BitVec 23).toNat ≤ yielding.core.slice ∧
    yielding.pool (coreDie yielding.core.id) = [] := by decide +kernel

/-- ResultsLandAtGroupStart: a scalar and a mask result, due now and later. -/
theorem meets_landing : ∀ r ∈ [(⟨.s 2 9, 1, 0, 0, 0⟩ : Result), ⟨.s 0 9, 1, 0, 0, 0⟩, ⟨.k 3 5 (BitVec.allOnes 256), 1,
  0, 0, 0⟩,
    ⟨.s 2 9, 2, 0, 0, 0⟩], let s : State := { ready with core := { core0 with inflight := [r] } }
    s.core.inflight = [⟨r.val, r.rem, r.flags, r.stat, r.seq⟩] ∧ s.core.loop = none := by decide +kernel

/-- GroupsBeginOrHold: a group of no-ops goes, one that waits on a token holds. -/
def beginning : State := { ready with core := { core0 with passed := false, grpIrrev := false } }
theorem meets_begin : (match bundleAction beginning with
    | .go irrev => irrev == false
    | _ => false) = true ∧
    ((groupBundles beginning.core 8 beginning.core.pc).all fun b => b.decode .sy == .ok .sySnop) = true := by
  decide +kernel

theorem meets_hold : bundleAction busyToken = .hold busyToken.hold := by
  have h : (match bundleAction busyToken with
    | .hold _ => true
    | _ => false) = true := by decide +kernel
  split at h
  · next t e => rw [e, ← bundleAction_hold e]
  · cases h

/-! ### The engine, queues, tasks -/

/-- An idle core and one context whose page at 0 is the first 64 KiB of stack 0, writable. -/
def page0 : MapPage := ⟨0, 0x8280000000000000⟩
def mapped : State := { State.reset with
  contexts := [{ ctx with maps := [[page0], [page0]] }], sched := { Sched.reset with queues := [queue0] } }

/-- A FENF of class 0 that consumes token 1 and has made every access. -/
def cmd0 : Cmd := {
  id := 5, op := .fenf ⟨0, 1, 63, 63, 0, 0, 0, 0⟩, f := ⟨0, 1, 63, 63, 0, 0, 0, 0⟩, ra := 0, rb := 0, rc := 0, mod := 0
  env := ⟨.rne, false, false, false⟩, nest := Vector.replicate 8 0, asid := 0, map := 0, released := true
  tileTaken := false, restart := 0, faultAt := 0, pieces := [], status := 0, faults := [], why := .home
  stopped := false, deadRead := false }

/-- A copy of an empty nest. -/
def cmdCopy : Cmd := { cmd0 with op := .copy cmd0.f }

/-- BarrierArrivalAdvancesPhase: a decrement issued after a command that has not completed. -/
theorem meets_decrement_held :
    let s : State := { arriving ⟨1, 7⟩ with
      core := { core0 with queue := [{ cmdCopy with id := 1 }] }, arrivals := [⟨0, ⟨0, 0, 0⟩, .counter 0, 1, 0, 2,
        []⟩] }
    (match s.member? ⟨0, 0, 0⟩ with
     | some c => c.outstandingBefore 2
     | none => false) = true := by decide +kernel

def message : Msg := {
  id := 9, op := .readReq, core := 0, cmd := 5, idx := 0, loc := .phys 0, width := 64, data := [], sub := 0,
    entries := []
  status := 0, cls := 0, scope := 0, asid := 0, map := 0, pid := none, couch := false, since := 0, psn := false
  src := ⟨0, 0, 0⟩, dst := ⟨0, 0, 4⟩, final := ⟨0, 0, 4⟩, flits := 1, arrived := true, mid := none
  bare := false, unit := false, away := false, packet := none, replicas := 0, acks := 0, why := .home }

def withCmds (queue running : List Cmd) (tokens : BitVec 16) (msgs : List Msg) : State := { State.reset with
  occ := .num 5, net := { Net.reset with msgs := msgs }
  core := { Core.reset 0 with
    mode := .running, queue := queue, running := running, tokens := (Vector.replicate 63 0).set 1 tokens } }

/-- EngineCommandEvents: a command not released; one that starts; one that inherits a fault; one complete; one that
faulted of its own, by a loss, by inheritance; one that restarts past 256 accesses in flight. -/
theorem meets_commands :
    (withCmds [{ cmdCopy with released := false }] [] 0 []).canStart (withCmds [] [] 0 []).core
      { cmdCopy with released := false } = false ∧
    (let s := withCmds [cmdCopy] [] 0 []
     s.canStart s.core cmdCopy = true ∧ s.core.inheritedFault cmdCopy = none ∧ s.piecesOf 0 cmdCopy = []) ∧
    (let s := withCmds [cmdCopy] [] 0xC006 []
     s.canStart s.core cmdCopy = true ∧ s.core.inheritedFault cmdCopy = some 6) ∧
    (withCmds [] [cmdCopy] 0 []).finished 0 cmdCopy = true ∧
    (∀ f ∈ [(0, 6, FaultWhy.inherited), (0, 8, .landing), (0, 6, .home), (0, (7 : BitVec 8), .unperformed)],
     let q := { cmdCopy with faults := [f], stopped := true }
     q.stopped = true ∧ q.inFlight = false ∧ firstFault q.faults = some f) ∧
    (let q := { cmdCopy with why := .unperformed, stopped := true, status := 7 }
     256 ≤ ((withCmds [] [q] 0 (List.replicate 256 { message with arrived := false })).inFlight (corePort 0)).length ∧
     q.faults = [] ∧ (withCmds [] [q] 0 []).core.mode ≠ .idle) := by decide +kernel

/-- A state of one queue, what occurred, and a chained task. -/
def queued (q : Queue) (o : Occ) : State := { mapped with sched := { Sched.reset with queues := [q] }, occ := o }
def entry0 : PoolEntry := ⟨0, 128, 0, 0, 0, 0, none⟩

/-- QueueEvents: a ring of an open, a closed and a closing queue, up to its size and past it; an entry to consume, of a
readable record and of one that is not; a queue idle and closing; a pending one; a chained task. -/
theorem meets_queues :
    ((8 - queue0.head).toNat ≤ queue0.rsz ∧ queue0.rsz < (9 - queue0.head).toNat ∧ queue0.qst = .bound) ∧
    (({ queue0 with tail := 1 } : Queue).canConsume = true ∧ queue0.canConsume = false ∧
     (queued { queue0 with tail := 1 } (.queue 0)).recordReadable 0
       ((queued { queue0 with tail := 1 } (.queue 0)).field 0 0 8) = true ∧
     (queued { queue0 with tail := 1, asid := 1 } (.queue 0)).recordReadable 1 0 = false ∧
     queue0.ringFull = false) ∧
    ((queued { queue0 with closing := true } (.queue 0)).queueIdle { queue0 with closing := true } = true) ∧
    ((queued { queue0 with qst := .pending } (.die 0)).svc.drained.contains 0 = false ∧ mapped.chain 0 = []) ∧
    (({ queued queue0 (.die 0) with sched := { Sched.reset with
        queues := [queue0], chains := Sched.reset.chains.set 0 [entry0] } } : State).poolTakes 0 entry0 = true) := by
  decide +kernel

/-- A ready task whose record lies at 128: gang 1. -/
def readyTask0 : State := { mapped with
  occ := .core 0, mem := Sparse.setAll 0 [] [(134, 1)]
  sched := { Sched.reset with queues := [queue0], pools := Sched.reset.pools.set 0 [entry0] } }

/-- TasksStartAndEnd. -/
theorem meets_start : (readyTask0.findCore 0).id = 0 ∧ readyTask0.taskFor (readyTask0.findCore 0) = some entry0 ∧
    (match readyTask0.coresFor 0 entry0 with
     | [c] => c.id == 0
     | _ => false) = true ∧
    readyTask0.queue? 0 = some queue0 ∧ (match readyTask0.imagesOf 0 128 with
     | [] => true
     | _ => false) = true := by decide +kernel

def ended (mx : List MxOp) : Core := { Core.reset 0 with mode := .ending, task := some task0, mx := mx }
theorem meets_end : endReady (ended []) = true ∧ endReady (ended [latchOp]) = false ∧ task0.gang.toNat ≤ 1 ∧
    ({ State.reset with core := ended [] } : State).arrivalsGone (ended []).who = true := by decide +kernel

/-- VectorFloatResults: a value that does not overflow; two NaNs, an infinity, two zeros of either sign. -/
theorem meets_rounding : Fmt.f32.isFp = true ∧ (envRne true).fzo = false ∧ |(1 : ℚ)| ≤ maxFinite .f32 ∧
    decodeFp .f32 0x7F800000 = .inf false ∧ decodeFp .f32 0xFF800000 = .inf true ∧
    decodeFp .f32 0x80000000 = .fin 0 true ∧ isSnan (decodeFp .f32 0x7F800001) = true := by decide +kernel

/-- VectorConversionResults: a codebook of zeros, one of NaNs, one of infinities. -/
theorem meets_codebooks : (∀ i < 16, decodeFp .bf16 (cbEntry 0 i) = .fin 0 false) ∧
    (∀ i < 16, isNan (decodeFp .bf16 (cbEntry (BitVec.allOnes 256) i)) = true) ∧
    (∀ i < 16, decodeFp .bf16 (cbEntry (BitVec.ofNat 256 (0x7F80 * ((2 ^ 256 - 1) / 0xFFFF))) i) = .inf false) := by
  decide +kernel

/-- MatrixStreamEffects: lists of numbers, and of one and of both infinities. -/
theorem meets_sums : (∀ x ∈ [XR.fin 1 false, .fin (-1) true], ∃ q n, x = .fin q n) ∧
    (∀ x ∈ [XR.inf true, .fin 1 false], isNan x = false) ∧ XR.inf (!true) ∉ [XR.inf true, .fin 1 false] := by
  refine ⟨?_, by decide +kernel, by decide +kernel⟩
  intro x hx
  simp only [List.mem_cons, List.not_mem_nil, or_false] at hx
  rcases hx with h | h <;> exact ⟨_, _, h⟩

/-- PhaseInstructionEffects: a PADV that has waited and is told of the cut, or of a fault; one whose group's boundary
has made it; a transition under way toward the target. -/
def waited (e : PadvEnd) : State := { ready with core := { core0 with padvWait := some 7, padvTgt := 1, padvEnd := e } }
def made : State := { ready with core := { core0 with phasesMade := 1 } }
theorem meets_phase_ends : (∀ e ∈ [PadvEnd.met, .faulted 5], Runs (.padv 0 false 0 1) (waited e) ∧
      (waited e).core.phasesMade = 0 ∧ (waited e).core.padvWait = some 7 ∧ (waited e).core.padvEnd = e) ∧
    Runs .pcancel made ∧ Runs (.padv 0 false 0 1) made ∧ 0 < made.core.phasesMade ∧
    Runs (.padv 0 false 0 1) (underWay .copying) ∧ (underWay .copying).core.padvWait = none ∧
    ctx.cur ≠ phaseTarget false 0 1 core0 := by unfold Runs; decide +kernel

/-- TspawnReservesAnEntry: a command of the core is outstanding. -/
def spawning : State := { withQueue queue0 with core := { core0 with queue := [{ cmdCopy with id := 0 }], nextId :=
  1 } }
theorem meets_tspawn : Runs (.tspawn 2 0 0) spawning ∧ spawning.core.outstandingBefore spawning.core.nextId = true ∧
    queue0.reserved = [] ∧ (queue0.tail - queue0.head).toNat < queue0.rsz := by unfold Runs; decide +kernel

/-- BarrierArrivalAdvancesPhase: a decrement that waits for a command issued before an earlier arrival of its phase. -/
theorem meets_decrement_after :
    let s : State := { arriving ⟨1, 7⟩ with
      core := { core0 with queue := [{ cmdCopy with id := 1 }] }
      arrivals := [⟨0, ⟨0, 0, 0⟩, .counter 0, 1, 0, 0, [(⟨0, 0, 0⟩, 2)]⟩] }
    (match s.member? ⟨0, 0, 0⟩ with
     | some c => c.outstandingBefore 2
     | none => false) = true := by decide +kernel

/-- CheckpointsAndYieldPointsCommit: no page is mirrored, and no command names tile 1. -/
theorem meets_checkpoint : (∀ x ∈ ready.contexts, x.mirrored = []) ∧
    (∀ q ∈ ready.core.queue, ∀ fill, q.tile? ≠ some (1, fill)) := by simp [ready, core0, Core.reset, ctx,
      Context.mirrored]

/-- GroupsBeginOrHold: a group of one phase operation, at its boundary, before and while the context is cutting. -/
def phased (i : Instr) (x : Context) : State :=
  let c : Core := { core0 with
    passed := false, grpIrrev := false
    code := [stopBundle, encodeBundle i] }
  { ready with contexts := [x], core := { c with shadow := c.snapshot } }
def moving (e : Couch) : Context := { ctx with eng := e, tip := true, tgt := 1 }
/-- A PADV of the group has been made and has begun its cut; a PCANCEL follows in the next bundle. -/
def cutAhead : State :=
  let s := phased .pcancel (moving .cutting)
  { s with core := { s.core with
    phasesMade := 1
    code := [stopBundle,
      (encodeBundle (.padv 1 false 0 1)).set 7 ((encodeBundle (.padv 1 false 0 1))[7] &&& 0x7FFFFFFFFFFFFFFF),
      encodeBundle .pcancel] } }
def isPhases (s : State) : Bool := match bundleAction s with
  | .phases => true
  | _ => false
theorem meets_phase_group :
    (let s := cutAhead
     isPhases s = true ∧ pendingPhases s.core (groupBundles s.core 8 s.core.pc) = [(2, .pcancel)] ∧
     s.core.padvWait = none) ∧
    (let s := phased .pcancel (moving .copying)
     isPhases s = true ∧ pendingPhases s.core (groupBundles s.core 8 s.core.pc) = [(1, .pcancel)]) ∧
    (let s := phased (.padv 1 false 0 1) (moving .complete)
     isPhases s = true ∧
     pendingPhases s.core (groupBundles s.core 8 s.core.pc) = [(1, .padv 1 false 0 1)] ∧
     (s.core.token 1).toNat / 2 ^ 14 = 0 ∧ (moving .complete).cur ≠ phaseTarget false 0 1 s.core ∧
     (moving .complete).tgt = phaseTarget false 0 1 s.core ∧ (moving .complete).heldBack = []) := by decide +kernel

/-! ### Freezes and traps -/

def running0 : Core := { Core.reset 0 with mode := .running, task := some task0 }
def image0 : SaveImage := {
  queue := 0, slot := 0, freeze := true, midg := false, core := running0, spad := [], handover := true, lost := false
  nddb := true, cost := 0, stopped := 0 }

/-- FreezeAndTrapEvents: a freeze with a save slot; a handover open and done; a PADV past its limit; a trap written,
and one of a 17th report. -/
theorem meets_freeze :
    ({ mapped with core := running0 } : State).firstSlot queue0 = some 0 ∧
    (let s : State := { mapped with core := running0, sched := { Sched.reset with queues := [queue0], images :=
      [image0] } }
     s.handoverDone image0 = false ∧ ({ s with cyc := 3584 } : State).handoverDone image0 = true ∧
     s.saveBad queue0 running0 (spadSizeOf 0) 0 = false) ∧
    padvLate running0 = false := by decide +kernel

/-- A group of one PADV toward phase 1 that has waited 256 cycles at a limit of 1. -/
def latePadv : Core := { running0 with
  plim := 1, padvWait := some 255
  code := [(encodeBundle (.padv 0 false 0 1)).set 7 ((encodeBundle (.padv 0 false 0 1))[7] ||| 1 <<< 63)] }
theorem meets_late : padvLate latePadv = true ∧
    groupPadv (groupOps (groupBundles latePadv 8 latePadv.pc)) latePadv = some (0, 1) := by decide +kernel

/-- A record at 128 whose trap area is at 4096. -/
def trapped (n : Nat) : State := { mapped with
  mem := Sparse.setAll 0 [] [(128 + 49, 0x10)]
  core := { running0 with
    mode := .trapped, task := some { task0 with recVa := 128 }
    trap := some ⟨.phaseLate, 7, n, 0, 0, 0, 0, 1⟩ } }
theorem meets_trapped :
    ((trapped 16).writeTrap (trapped 16).core { task0 with recVa := 128 } ⟨.phaseLate, 7, 16, 0, 0, 0, 0, 1⟩).isSome ∧
    (trapped 17).gangQuiet { task0 with recVa := 128 } = true := by decide +kernel

/-- A COPY of one FP8 element from byte 8, of the scratchpad (space 1) or of the mapped page (0), to byte 16 of the
scratchpad. -/
def copyOne (spc : Nat) : Cmd := { cmdCopy with nest := ((((Vector.replicate 8 0x0000000100000001).set 0
  (BitVec.ofNat 64 (0x2000000000000008 + spc * 2 ^ 58))).set 1 0x2400000000000010).set 5 0) }
def onePieceOf (l : List Piece) (src : Loc) : Bool := l == [⟨0, src, .spad 128, .waiting, none⟩]
def engine (q : Cmd) (started : Bool) : State := { mapped with
  occ := .num 5
  core := { Core.reset 0 with
    mode := .running, task := some task0
    queue := if started then [] else [q], running := if started then [q] else [] } }

/-- EngineCommandEvents: a command of one element that starts, within the scratchpad and from the mapped page, and one
that restarts with room; the conditions of a completion. -/
theorem meets_command_accesses :
    (∀ p ∈ [(1, Loc.spad 64), (0, .phys 64)],
      let q := copyOne p.1
      let s := engine q false
      s.canStart s.core q = true ∧ s.core.inheritedFault q = none ∧ onePieceOf (s.piecesOf 0 q) p.2 = true ∧
        q.stopped = false ∧ s.writeHeld 0 q (.spad 128) = false ∧ s.memWf ∧ (∀ x ∈ s.contexts, x.mirrored = []) ∧
        s.isPoisoned (spadBase 0 + 8) 1 = false ∧ Nest.fmtCode q.nest false = Nest.fmtCode q.nest true ∧
        nestWidth q.nest true = 8) ∧
    (let q : Cmd := { copyOne 0 with stopped := true, why := .unperformed, status := 7, deadRead := true }
     let s := engine q true
     s.core.running = [q] ∧ q.faults = [] ∧ s.bankTaken 0 s.net.msgs q.startSpans = false ∧
       onePieceOf (s.piecesOf 0 q) (.phys 64) = true ∧ s.writeHeld 0 q (.spad 128) = false ∧ s.net.msgs = []) ∧
    (let s : State := { engine (copyOne 0) true with sched := Sched.reset }
     s.core.queue = [] ∧ s.core.arrs = [] ∧ s.core.posts = [] ∧ s.sched.queues = [] ∧
       s.finished 0 (copyOne 0) = true) := by decide +kernel

/-- ResultsLandAtGroupStart: a result of every kind, due. -/
theorem meets_results : ∀ v ∈ [ResVal.none, .s 2 9, .k 3 5 (BitVec.allOnes 256), .v 1 VReg.zero VReg.zero, .cb 7 1,
    .h 7 1, .cr 0 1, .cr 1 1, .cr 2 1, .cr 4 1, .cr 8 1],
    let s : State := { ready with core := { core0 with inflight := [⟨v, 1, 0, 0, 0⟩] } }
    s.core.inflight = [⟨v, 1, 0, 0, 0⟩] ∧ s.core.loop = none := by decide +kernel

/-- TasksStartAndEnd: a task that ends with its record at 128 and one successor counter at 1024, before and after its
decrements; the counter on a page that the final pass holds. -/
def finishing (sent : Bool) (msgs : List Msg) : State := { mapped with
  sched := Sched.reset, net := { Net.reset with msgs := msgs }, mem := Sparse.setAll 0 [] [(128 + 57, 4)]
  core := { Core.reset 0 with mode := .ending, task := some { task0 with recVa := 128 }, succSent := sent } }
def holdingPage0 (s : State) : State := { s with contexts := s.contexts.map fun x => { x with
  eng := .finalPass, tip := true, tgt := 1, moves := [⟨0, .phys 0, .phys (8 * 0x10000), 0x10000, [], [], false,
    false⟩] } }
theorem meets_task_end :
    (let s := finishing false []
     endReady s.core = true ∧ s.arrivalsGone s.core.who = true ∧ s.successors 0 128 = [1024] ∧
       s.counterHeld 0 1024 = false ∧ (holdingPage0 s).successors 0 128 = [1024] ∧
       (holdingPage0 s).counterHeld 0 1024 = true ∧
       (match s.access 0 1024 false true with
        | .ok (.phys b) => b == 8 * 1024
        | _ => false) = true) ∧
    (finishing true []).decrementsDone { task0 with recVa := 128 } = true ∧
    (finishing true [{ message with op := .counter, bare := true }]).decrementsDone { task0 with recVa := 128 } =
      false := by decide +kernel

/-- BarrierInstructionEffects: a pod object whose root is another module. -/
def farRoot : State := { ready with
  modid := Config.podRoot 1 3 + 1, contexts := [{ ctx with modHi := 0xFFF }] }
theorem meets_far_root : farRoot.podRoot farRoot.core.asid ⟨5, 3⟩ ≠ farRoot.modid := by
  have h : farRoot.isPeer 0 (Config.podRoot 1 3) = true := by
    simp only [State.isPeer, farRoot, ready, State.context?, ctx]
    simp
    generalize Config.podRoot 1 3 = m
    have := m.isLt
    bv_omega
  have e : Config.podRoot (farRoot.pcidOf farRoot.core.asid) 3 = Config.podRoot 1 3 := rfl
  have h' : farRoot.isPeer farRoot.core.asid (Config.podRoot 1 3) = true := h
  simp only [State.podRoot, e, h', Bool.and_true, decide_true, if_true]
  show Config.podRoot 1 3 ≠ Config.podRoot 1 3 + 1
  generalize Config.podRoot 1 3 = m
  bv_omega
theorem meets_far_root_runs : Runs (.bari ⟨5, 3⟩ 5 false 0) farRoot := by unfold Runs; decide +kernel

/-! ### The network -/

def flit0 : Flit := {
  plane := 0, here := 0, src := ⟨0, 0, 0⟩, dst := ⟨0, 9, 4⟩, mid := 9, hmid := 0, seq := 0, len := 1, age := 0, op :=
    .readReq
  sub := 0, loc := .phys 0, mcnt := 0, psn := false, msgs := [9], entries := [], inj := false }
def piece0 (st : Stage) : Piece := ⟨0, .phys 0, .spad 0, st, none⟩
def cmdOf (st : Stage) : Cmd := { cmdCopy with pieces := [piece0 st] }

/-- One message, one command of one element, and what occurred. -/
def netState (m : Msg) (o : Occ) : State := { mapped with
  occ := o, core := { Core.reset 0 with mode := .running, running := [cmdOf .writing] }
  net := { Net.reset with msgs := [m] } }

/-- NetworkEvents: a lone flit below its row; an access as old as its limit and younger; a message at a gateway. -/
theorem meets_network :
    ((({ mapped with net := { Net.reset with flits := [flit0] } } : State).dieCycle 0 + 1) % 1024 ≠ 0 ∧
     flit0.inj = false ∧ flit0.src.die = 0 ∧ flit0.dst.router ≠ flit0.here) ∧
    (let s : State := { mapped with occ := .flitError 9 0 .header, net := { Net.reset with flits := [flit0] } }
     s.net.flits = [flit0] ∧ s.occ = .flitError flit0.mid flit0.seq .header) ∧
    (let s : State := { netState message (.num 9) with ptb := 64000 }
     s.msg? 9 = some message ∧ s.core.id = message.core ∧ message.overFabric = false ∧ message.bare = false ∧
     64000 ≤ (s.ptb - message.since).toNat ∧
     ({ s with ptb := 63999 } : State).ptb.toNat < 64000) ∧
    (let m : Msg := { message with final := ⟨1, 0, 4⟩ }
     (netState m (.num 9)).net.msgs = [m] ∧ m.id = 9 ∧ m.arrived = true ∧ m.dst ≠ m.final) := by decide +kernel

/-- MessagesAreAnswered: a stack read; one of the service's range; a write of one byte; a merge; a parameter request
of no record and of one; a counter of a hole; each answer with a code and without. -/
theorem meets_messages :
    (netState message (.num 9)).homeCode message = 0 ∧
    (let m : Msg := { message with loc := .phys (8 * 0x10100000000) }; (netState m (.num 9)).homeCode m ≠ 0) ∧
    (let m : Msg := { message with op := .write, width := 8, data := [7] }
     (netState m (.num 9)).memWf ∧ placeOf 0 = .stack 0 ∧ m.width = 8 * m.data.length) ∧
    (let m : Msg := { message with op := .merge, sub := 10, entries := [⟨9, 1, 0, 0, 0⟩] }
     (netState m (.num 9)).homeCode m = 0 ∧ m.sub ≤ 10) ∧
    (netState { message with op := .paramReq } (.num 9)).recAt 0 = none ∧
    (netState { message with op := .paramReq } (.num 9)).recMoving 0 = false ∧
    (let m : Msg := { message with op := .counter, loc := .phys (8 * 0x10100000000) }
     (netState m (.num 9)).homeCode m ≠ 0 ∧ (netState m (.num 9)).cmd? 0 5 = some (cmdOf .writing)) ∧
    (let m : Msg := { message with op := .counter, width := 32, data := bytesOfNat 4 1 }
     let s : State := { netState m (.num 9) with mem := Sparse.setAll 0 [] [(0, 2)] }
     s.homeCode m = 0 ∧ s.memWf ∧ natOfBytes (m.data.take 4) = 1 ∧ 1 < s.peekNat 0 4) ∧
    (message.final.isTrepin = false ∧ message.bare = false ∧ message.psn = false) ∧
    (let q : Cmd := { cmdOf .reading with op := .amoAdd64 { cmd0.f with rc := 5 }, rc := 64 }
     resultOffset q = some 64) ∧
    (let q : Cmd := { cmdOf .reading with nest := Vector.replicate 8 0x2000000000000000 }
     Nest.fmtCode q.nest false = Nest.fmtCode q.nest true ∧ nestWidth q.nest true % 8 = 0) ∧
    (∀ x ∈ (netState message (.num 9)).contexts, x.mirrored = []) := by decide +kernel

/-! ### Stacks, couch engines, parameter records -/

/-- StackEvents: a dead page's frame, and a frame of no dead page. -/
def deadPage : State := { mapped with contexts := [{ ctx with maps := [[⟨0, 0x8A00000000000000⟩], []] }] }
theorem meets_stacks : placeOf 0 = .stack 0 ∧ deadPage.frameDead 0 = true ∧ deadPage.frameDead 1 = false ∧
    deadPage.unrefreshed.contains 0 = false := by decide +kernel

/-- A transition toward map 1 in a state of one context. -/
def transit (x : Context) (o : Occ) : State := { State.reset with contexts := [x], occ := o }
def move0 : PageMove := ⟨0, .phys 0, .phys (8 * 0x10000), 0x10000, [], [], false, false⟩

/-- CouchEngineEvents: maps that agree, a page carried to nowhere, a copy with nothing left, a mirroring. -/
theorem meets_couch :
    (∀ w ∈ (diffPieces [page0] [page0]).map DiffPiece.work, w = .none) ∧
    .fault ∈ (diffPieces [page0] [⟨0, 0x0100000000000000⟩]).map DiffPiece.work ∧
    (move0.todo = [] ∧ move0.dirty = []) ∧ (transit ctx .none).couchBusy 0 = false ∧
    (transit ctx .none).couchStale ctx = false ∧ (transit ctx .none).fab.arrived = [] := by decide +kernel

/-- A norm cell at 0 that expects two reports, and the record at 4096 gated on it, at step 1. -/
def cell0 : RecInfo := ⟨0, 0, 0, true, none, 0, false, false, [], []⟩
def rec0 : RecInfo := ⟨4096, 0, 4096, false, none, 0, false, true, [(4224, 1)], []⟩
def panState (r : RecInfo) (mem : List (Nat × Byte)) : State := { mapped with
  mem := Sparse.setAll 0 [] mem, pan := { Pan.reset with recs := [r] } }
def report0 : Report := ⟨0, 4, 0, 1, 0, 4096, 4096, none⟩

/-- PanUnitEvents. -/
theorem meets_pan :
    (let s : State := panState cell0 [(12, 2), (20, 1)]
     s.memWf ∧ s.isPoisoned 0 64 = false ∧ report0.asked = none ∧
     report0.step.toNat = s.peekNat (0 + 20) 4 ∧ report0.home = s.modid ∧
     s.peekNat (0 + 16) 4 + 1 ≠ s.peekNat (0 + 12) 4 ∧ 0 + 64 ≤ report0.recPa) ∧
    (let s : State := { panState { rec0 with active := false } [(4097, 2)] with pan := { Pan.reset with
       recs := [{ rec0 with active := false }], releases := [(0, 0, 4096, 7)] } }
     s.recStc 4096 = 2 ∧ s.memWf) ∧
    (let s : State := { panState { rec0 with active := false } [(4097, 3)] with pan := { Pan.reset with
       recs := [{ rec0 with active := false }], firing := [4096] } }
     s.isPoisoned 4096 recordSize = false ∧ s.memWf ∧ s.panHeld 4096 = false) ∧
    ((panState rec0 [(4097, 3)]).recStc 4096 = 3 ∧ rec0.poisoned = false ∧
     (panState rec0 [(4097, 3)]).placeHeld (.phys (8 * 4096)) = false) ∧
    (let s : State := panState rec0 [(4097, 4), (4100, 2)]
     s.recStc 4096 = 4 ∧ s.recNtf 4096 = 0 ∧ s.recCnt 4096 (1 - s.recStep 4096 % 2) ≠ s.recExp 4096) := by
  decide +kernel

/-- NetworkEvents, MessagesAreAnswered: the requester and its command; a control message; a record that PSTAT names; an
element of a COPY whose data arrives. -/
theorem meets_requester :
    (let s := netState message (.num 9)
     s.core.running = [cmdOf .writing] ∧ (cmdOf .writing).pieces = [piece0 .writing] ∧ s.parked = [] ∧
       message.core = s.core.id ∧ message.cmd = 5 ∧ (piece0 .writing).idx = message.idx ∧ message.packet = none ∧
       message.unit = false ∧ s.net.msgs = [message]) ∧
    (let m : Msg := { message with op := .control }
     (netState m (.num 9)).context? m.asid ≠ none) ∧
    (let s : State := { netState { message with op := .paramReq, sub := 6, loc := .phys (8 * 4096) } (.num 9) with
       pan := { Pan.reset with recs := [⟨4096, 0, 4096, false, none, 0, false, false, [], []⟩] } }
     (s.recAt 4096).isSome ∧ s.isPoisoned 4096 128 = false) ∧
    (let q := { cmdOf .reading with nest := Vector.replicate 8 0x2000000000000000 }
     q.pieces = [piece0 .reading] ∧ (piece0 .reading).out = none ∧ (piece0 .reading).dst = .spad 0) := by decide +kernel

/-- StackEvents: a row counted in the refresh window it lies in, a clean module. -/
theorem meets_rows (r : Row) (w n : Nat) (again : Bool) : rowIn r w [⟨r, n, again, w⟩] = ⟨r, n, again, w⟩ ∧
    State.reset.svc.holdReset = false ∧ (0 : Nat) < 0x10000000000 := by
  refine ⟨?_, by decide, by decide⟩
  simp [rowIn]

/-- CouchEngineEvents: a cut and a final pass with nothing on its way, a PADV that the cut serves, a fault of a cut. -/
theorem meets_couch_end :
    (let x : Context := { moving .cutting with padvs := [(core0.who, 5)] }
     (transit x (.context 0)).couchBusy 0 = false ∧ (transit x (.context 0)).core.who = core0.who ∧
       (transit x (.context 0)).core.running = [] ∧ (transit x (.context 0)).parked = []) ∧
    (let x : Context := { moving .finalPass with moves := [move0] }
     let s := transit x (.context 0)
     s.net.msgs = [] ∧ s.fab.arrived = [] ∧ s.pan.recs = [] ∧ move0.todo = [] ∧ move0.dirty = []) ∧
    (5 : BitVec 8).toNat = 5 ∧ (8 : BitVec 8).toNat = 8 ∧ Couch.cutting ∈ [Couch.diffing, .copying, .cutting] ∧
    (let x : Context := { ctx with mirrors := [move0] }
     (transit x (.page 0 0)).contexts = [x] ∧ (transit x (.page 0 0)).sched.images = []) := by decide +kernel

/-- PanUnitEvents: an update one of whose lines is in error, found at its start, as it ends and at its flip; a cell
apart from the record. -/
theorem meets_pan_errors :
    (let s : State := { panState { rec0 with active := false } [(4097, 3)] with
       poisoned := [4096 + 128], pan := { Pan.reset with recs := [{ rec0 with active := false }], firing := [4096] } }
     s.memWf ∧ (s.updateReads { rec0 with active := false }).any (fun p => s.isPoisoned p.1 p.2) = true ∧
       s.panHeld 4096 = false) ∧
    (∀ stc ∈ [3, 4], let s : State := { panState rec0 [(4097, stc)] with poisoned := [4096] }
     s.isPoisoned 4096 64 = true ∧ (s.recStc 4096 = stc.toNat) ∧ s.recNtf 4096 = 0 ∧ s.memWf) ∧
    (0 + 9 < 4096 ∧ 4096 + 64 ≤ 5000) := by decide +kernel

/-! ### Links and packets -/

/-- A unit whose CRC is right and in order, one in error, and one out of order. -/
def unit0 : LinkUnit := linkUnit 0 0 1 (List.replicate 64 0)
theorem meets_links : unit0.lt = 1 ∧ unit0.crc = unitCrc unit0 ∧ unit0.fseq = (State.reset.link 0).expect ∧
    ({ unit0 with crc := unit0.crc + 1 } : LinkUnit).crc ≠ unitCrc { unit0 with crc := unit0.crc + 1 } ∧
    (linkUnit 1 0 1 (List.replicate 64 0)).fseq ≠ (State.reset.link 0).expect ∧
    (State.reset.link 0).up = true ∧ (State.reset.link 0).window = [] ∧ (State.reset.link 0).asked = 0 := by
  decide +kernel

/-- A module's context that opens the first 64 KiB. -/
def openCtx : Context := { ctx with ranges := [⟨0, 0x10000, true⟩] }
def key0 : KeySlot := ⟨1, false, false, [], []⟩
def bare0 (type : BitVec 8) : Packet := { Packet.bare with type := type, smod := 1, pcid := 1 }
/-- A packet under the tag its key gives. -/
def sealed (p : Packet) : Packet := { p with htag := headerTag key0 p }
def linked (p : Packet) (msgs : List Msg) : State := { netState message (.packet (sealed p)) with
  contexts := [openCtx], net := { Net.reset with msgs := msgs }
  fab := { Fabric.reset with keys := [key0], arrived := [⟨2, sealed p⟩] } }

/-- The state behind the gate: the packet has left the list. -/
def gated (p : Packet) (msgs : List Msg) : State := { netState message (.packet (sealed p)) with
  contexts := [openCtx], net := { Net.reset with msgs := msgs }, fab := { Fabric.reset with keys := [key0] } }
theorem takeOut_linked (p : Packet) (m : List Msg) : (linked p m).takeOut (sealed p) = gated p m := by
  simp [State.takeOut, linked, gated, Fabric.reset]

/-- PacketEvents: the gateway admits a packet of each type whose tag verifies. -/
theorem meets_packets (p : Packet) (m : List Msg) (hf : packetForm p = true) (h1 : p.smod = 1) (h2 : p.pcid = 1)
    (h3 : p.kix = false) : (linked p m).gate (sealed p) = .admits (gated p m) openCtx key0 := by
  have hf : packetForm (sealed p) = true := hf
  have hn : (gated p m).isKnown (sealed p).smod = true := by simp [State.isKnown, gated, sealed, h1, openCtx, ctx]
  have hk : (gated p m).recvKey (sealed p) = some key0 := by
    simp [State.recvKey, State.keySlot, gated, sealed, h1, h3, key0]
  have ht : headerTag key0 (sealed p) = (sealed p).htag := rfl
  have hx : (gated p m).boundContext (sealed p) = some openCtx := by
    simp [State.boundContext, gated, sealed, h1, h2, openCtx, ctx]
  simp only [State.gate, takeOut_linked, hf, hn, hk, ht, hx, Bool.not_true, Bool.false_eq_true, if_false, if_true]

/-- The checks behind the gate: nothing holds the packet; a write that may be performed and a poisoned one; a read
inside the ranges and one outside; a fence whose sum agrees and one whose sum differs; an answer of an access of this
module, with a code and without; and the reserved forms. -/
theorem meets_packet_checks :
    (∀ type : BitVec 8, 1 ≤ type.toNat → type.toNat ≤ 12 → packetForm (bare0 type) = true) ∧
    (let t := gated (bare0 1) []
     t.packetWaits (bare0 1) = false ∧ t.writeCode ctx key0 (bare0 1) = 0 ∧ t.countFull (bare0 1) = false ∧
     t.landingFull (bare0 1) = false ∧ t.writeCode ctx key0 { bare0 1 with psn := true } ≠ 0 ∧
     t.fenceRecv { bare0 7 with aux := 1 } 1 ≠ 1 ∧ t.fenceRecv (bare0 7) 1 = 0 ∧
     t.admitCode ctx 0 4 true true ≠ 0 ∧ t.admitCode openCtx 0 4 true true = 0 ∧
     t.admitCode openCtx 0 0 false true = 0) ∧
    (∀ p ∈ [bare0 3, { bare0 3 with aux := 6 }], let m : Msg := { message with pid := some 0, away := true }
     (gated p [m]).answered p = some m ∧ m.replicas ≤ 1 ∧ m.core ≠ 0x3FF ∧
     p.aux ≠ auxCountFull ∧ p.aux ≠ auxLandingFull ∧ linesOk key0 p 1 = true ∧
     bareRefusal { p with htag := 1 } = false) ∧
    packetForm { bare0 1 with resZero := false } = false ∧ packetForm (bare0 13) = false ∧
    packetForm (bare0 0) = false := by
  refine ⟨fun type h1 h2 => ?_, by decide +kernel, by decide +kernel, by decide +kernel⟩
  simp [packetForm, bare0, Packet.bare, h1, h2]

/-- LinkEvents: a window of three units, of which a unit covers two; a flit that waits; a link after seven retries. -/
def busyLink (waiting : List (List Byte)) (retries : Nat) : LinkState := { LinkState.reset with
  window := [linkUnit 5 0 1 [1], linkUnit 6 0 1 [2], linkUnit 7 0 1 [3]], next := 8, waiting, retries, asked :=
    retries, askedFor := 6 }
def linkState (l : LinkState) (o : Occ) : State := { State.reset with
  occ := o, fab := { Fabric.reset with links := Vector.replicate 16 l } }
theorem meets_link_window :
    (∀ f ∈ [[], [[7]]], let l := (linkState (busyLink f 0) (.unit 0 (linkUnit 0 6 0 []))).link 0
     l.window.length ≤ 256 ∧ l.window.findIdx? (fun w => w.fseq == 6) = some 1 ∧ l.waiting = f ∧
       (linkUnit 0 6 0 []).crc = unitCrc (linkUnit 0 6 0 []) ∧ l.expect = 0) ∧
    ((linkState (busyLink [] 0) .none).link 0).window.findIdx? (fun w => w.fseq == 9) = none ∧
    8 ≤ (busyLink [] 7).retries + 1 ∧ (busyLink [] 7).askedFor = 6 ∧ 0 < (busyLink [] 7).asked := by decide +kernel

/-- A packet's message that has come to the unit that performs it, or to the unit that asked; the peer can be
answered. -/
def packetMsg (op : NetOp) (p : Packet) (final : Port) : Msg := { message with
  id := 9, op, packet := some p, src := trepinPort 2, dst := final, final }
def asks0 : Msg := { message with id := 8, op := .readReq, pid := some 0, away := true, arrived := false }
def homed (m : Msg) (others : List Msg) (q : List Cmd) : State := { mapped with
  occ := .num 9, contexts := [openCtx], core := { Core.reset 0 with mode := .running, running := q }
  net := { Net.reset with msgs := others ++ [m] }
  fab := { Fabric.reset with keys := [key0, ⟨1, true, false, [], []⟩], routes := [(1, [2])] } }
def copying : Cmd := { cmdOf .reading with nest := Vector.replicate 8 0x2000000000000000 }

/-- PacketEvents, at a home unit: a write and a scheduled block, admitted and poisoned at the range; a read inside the
ranges and one outside; an operation; a fence and a decrement, admitted and refused. -/
theorem meets_homes :
    (∀ e ∈ [(NetOp.write, (1 : BitVec 8)), (.write, 12)],
      let s := homed (packetMsg e.1 (bare0 e.2) (homePort 0)) [] []
      s.recvKey (bare0 e.2) = some key0 ∧ (s.dropMsg 9).writeCode openCtx key0 (bare0 e.2) = 0 ∧
        (s.dropMsg 9).countFull (bare0 e.2) = false ∧ (s.dropMsg 9).landingFull (bare0 e.2) = false ∧
        (homePort 0).isTrepin = false ∧ s.context? 0 = some openCtx ∧ (∀ y ∈ s.contexts, y.mirrored = [])) ∧
    (∀ e ∈ [(NetOp.readReq, (2 : BitVec 8)), (.atomic, 5), (.counter, 7), (.counter, 9)],
      let s := homed (packetMsg e.1 (bare0 e.2) (homePort 0)) [] []
      let far : Packet := { bare0 e.2 with addr := 0x20000 }
      (s.dropMsg 9).countFull (bare0 e.2) = false ∧ (s.dropMsg 9).admitCode openCtx 0 4 true true = 0 ∧
        (s.dropMsg 9).admitCode openCtx far.addr.toNat 4 true true ≠ 0) := by decide +kernel

/-- PacketEvents, at the unit that asked, and at a gateway that sends. -/
theorem meets_askers :
    (let s := homed (packetMsg .readResp (bare0 3) (corePort 0)) [asks0] [copying]
     s.answered (bare0 3) = some asks0 ∧ s.recvKey (bare0 3) = some key0 ∧
       linesOk key0 (bare0 3) (bare0 3).smod = true ∧
       asks0.id ≠ 9 ∧ asks0.cmd = copying.id ∧ bareRefusal (bare0 3) = false ∧ asks0.replicas ≤ 1 ∧ asks0.status = 0 ∧
       Nest.fmtCode copying.nest false = Nest.fmtCode copying.nest true ∧ nestWidth copying.nest true % 8 = 0) ∧
    (let s := homed (packetMsg .write (bare0 1) (trepinPort 2)) [] []
     (trepinPort 2).isTrepin = true ∧ (trepinPort 2).trepin = 2 ∧ (s.link 2).up = true ∧ (bare0 1).dmod = s.modid) := by
  decide +kernel

/-- PacketEvents: the fence's two codes at the gate. -/
theorem meets_fence_codes :
    (let p : Packet := { bare0 7 with addr := 0x20000 }
     packetForm p = true ∧ (gated p []).fenceRecv p (bits p.opnd 32 16) = p.aux ∧
       openCtx.rangeCode ((List.range 4).map (p.addr.toNat + ·)) true ≠ 0) ∧
    openCtx.rangeCode ((List.range 4).map ((bare0 7).addr.toNat + ·)) true = 0 := by decide +kernel

/-- A write whose line fails its tag. -/
def badWrite (tag : BitVec 64) : Packet := { bare0 1 with lines := [⟨1, tag, []⟩] }
theorem meets_bad_tag : ∃ tag, ∀ s : State, s.modid = 0 → s.writeCode openCtx key0 (badWrite tag) = 0x08 := by
  refine ⟨lineTag key0 (bare0 1) (lineTweak 0 0) 1 [] + 1, fun s hs => ?_⟩
  have h (t : BitVec 64) : linesOk key0 (badWrite t) 0 = (lineTag key0 (bare0 1) (lineTweak 0 0) 1 [] == t) := by
    simp [linesOk, lineTag, tagFields, bare0, Packet.bare, badWrite]
  rw [State.writeCode, hs, h]
  generalize lineTag _ _ _ _ _ = t
  have : (t == t + 1) = false := by simp
  rw [this]; rfl

/-- Full tables of counts and of landings. -/
theorem any_replicate_false {α : Type} (f : α → Bool) (a : α) (n : Nat) (h : f a = false) :
    (List.replicate n a).any f = false := by
  rw [List.any_eq_false]; intro x hx; rw [(List.mem_replicate.1 hx).2, h]; simp
def crowded (s : State) (n k : Nat) : State := { s with fab := { s.fab with
  recv := List.replicate n ⟨2, 0, 1, 0, 0⟩, landing := List.replicate k ⟨2, 0, 0, 0, []⟩ } }
theorem meets_full (s : State) : ∃ n k, (crowded s n k).countFull { bare0 1 with fcid := 1 } = true ∧
    (crowded s 0 k).countFull (bare0 12) = false ∧ (crowded s 0 k).landingFull (bare0 12) = true := by
  refine ⟨65536, 1024, ?_⟩
  generalize hn : 65536 = n
  generalize hk : 1024 = k
  have h1 := any_replicate_false (fun (e : RecvCount) => e.isFor { bare0 1 with fcid := 1 }) ⟨2, 0, 1, 0,
    0⟩ n (by decide)
  have h2 := any_replicate_false (fun (e : Landing) => e.smod == (bare0 12).smod && e.slot == (bare0 12).slot)
    ⟨2, 0, 0, 0, []⟩ k (by decide)
  rw [State.countFull, State.countFull, State.landingFull]
  simp only [crowded, h1, h2, List.length_replicate, hn, hk]
  simp [bare0, Packet.bare]

/-! ### The fabric, the service, life -/

/-- A multicast write of eight bytes to group 0, one destination. -/
def mcast : Msg := { message with
  op := .write, loc := .remote 0 (8 * (0xE * 2 ^ 40)), data := List.replicate 8 1, dst := ⟨0, 15, 4⟩, final := ⟨0, 15,
    4⟩ }
def fabState (m : Msg) (o : Occ) : State :=
  let fab : Fabric := { Fabric.reset with
    keys := [key0], groups := [⟨0, true, [(1, 64)]⟩], refused := [⟨9, 0, 1, 0, false, 0⟩]
    peers := [⟨1, true, true, 0, [], 0, 0⟩] }
  { netState m o with fab := fab }
def lxred0 : Cmd := { cmdCopy with op := .lxred cmd0.f, rb := 100, rc := 4 }

/-- FabricEvents. -/
theorem meets_fabric :
    (let s : State := fabState mcast (.num 9)
     s.unreplicated 9 = some (mcast, 8 * (0xE * 2 ^ 40)) ∧ s.cmd? 0 5 = some (cmdOf .writing) ∧
     s.replicas (8 * (0xE * 2 ^ 40)) = some [(1, 64)] ∧ s.isPeer 0 1 = true ∧
     (s.findCore 0).fenceUnderWay (cmdOf .writing) 1 0 = false ∧
     ((s.findCore 0).countReplicas 0 (fabStores mcast) [(1, 64)]).isSome) ∧
    (let m : Msg := { message with pid := some 0 }
     let s : State := { fabState m (.num 9) with ptb := 200000 }
     s.msg? 9 = some m ∧ 200000 ≤ (s.ptb - m.since).toNat ∧ s.retryDue ⟨9, 0, 1, 0, false, 0⟩ = true ∧
     (fabState m (.num 9)).retryDue ⟨9, 0, 1, 0, false, 0⟩ = false ∧ s.slotReleasable 1 false = true ∧
     s.slotReleasable 1 true = false) ∧
    (let s : State := { withCmds [lxred0] [] 0 [] with ptb := 1025600 }
     s.startable s.core lxred0 = true ∧ s.landedBlock lxred0 = none ∧
     256 * lxred0.rb.toNat + 1000000 ≤ s.ptb.toNat) := by decide +kernel

/-- FabricEvents: a write to a group before and while a command replicates to it; a message that waits, of a command of
one element; an LXRED that has elements; a retry of a message of this module. -/
theorem meets_groups :
    (let s : State := { fabState mcast (.num 9) with net := { Net.reset with msgs := [mcast], nextMsg := 10 } }
     9 < s.net.nextMsg ∧ s.groupBusy 1 = false ∧ s.core.running = [cmdOf .writing] ∧
       (s.msg? 9).isSome ∧ (s.cmd? 0 5).isSome ∧ s.fab.refused = [⟨9, 0, 1, 0, false, 0⟩] ∧ s.svc.holdReset = false) ∧
    (let piece (k : Nat) (st : Stage) : Piece := ⟨k, .spad 0, .remote 0 (8 * (0xE * 2 ^ 40)), st, none⟩
     let q : Cmd := { cmdOf .writing with pieces := [piece 0 .done, piece 1 .waiting] }
     ({ fabState mcast (.num 9) with core := { Core.reset 0 with running := [q] } } : State).groupBusy 0 = true) ∧
    (let m : Msg := { message with pid := some 0 }
     let s : State := fabState m (.num 9)
     s.net.msgs = [m] ∧ m.couch = false ∧ m.bare = false ∧ m.unit = false ∧ m.core = s.core.id ∧ m.core ≠ 0x3FF ∧
       s.parked = [] ∧ (cmdOf .writing).id = m.cmd ∧ (piece0 .writing).idx = m.idx) ∧
    0 < Nest.total (Vector.replicate 8 0x0000000100000001) ∧ Nest.total (Vector.replicate 8 0) = 0 := by decide +kernel

/-- A task's request with its argument block at 256. -/
def request (code : BitVec 10) : SvcReq := ⟨0, 0, 0, 0, code, 256, 0, 0⟩
def asking (code : BitVec 10) : State := { mapped with
  occ := .num 0, core := { running0 with task := some task0 }, svc := { Service.reset with requests :=
    [request code] } }

/-- A write inside the mapped page reaches its own physical byte. -/
theorem access_mapped (s : State) (hc : s.contexts = mapped.contexts) (a : Nat) (ha : a < 0x10000) :
    s.access 0 a false true = .ok (.phys (8 * a)) := by
  have hp : placeOf a = .stack 0 := by
    have h1 : a < 0x10000000000 := by omega
    have h2 : a % 0x2000000000 < stackSize := by simp only [stackSize]; omega
    have h3 : a / 0x2000000000 = 0 := by omega
    rw [placeOf, if_pos h1, if_pos h2, h3]
  have hf : findPage [page0] a = some page0 := by
    have h2 : page0.va.toNat = 0 := rfl
    have h3 : MapE.size page0.entry = 0x10000 := by decide +kernel
    have : (decide (page0.va.toNat ≤ a) && decide (a < page0.va.toNat + MapE.size page0.entry)) = true := by
      rw [h2, h3]; simp only [Bool.and_eq_true, decide_eq_true_eq]; omega
    rw [findPage, List.find?_cons]; rw [this]
  have hx : s.context? 0 = some { ctx with maps := [[page0], [page0]] } := by
    rw [State.context?, hc]; decide +kernel
  have e6 : MapE.pa page0.entry + (a - page0.va.toNat) = a := by
    have h1 : MapE.pa page0.entry = 0 := by decide +kernel
    have h2 : page0.va.toNat = 0 := rfl
    omega
  have acc : s.accessBy [page0] 0 a false true = .ok (.phys (8 * a)) := by
    unfold State.accessBy
    rw [hf]
    dsimp only
    rw [e6, hp, if_neg (by decide +kernel), if_neg (by decide +kernel), if_neg (by decide +kernel),
      if_neg (by decide +kernel), if_neg (by decide +kernel)]
  unfold State.access
  rw [hx]
  exact acc

theorem shake256_length (l : List Byte) : (shake256 l).length ≤ 64 := by
  simp only [shake256, sponge, List.length_take]; omega

/-- A run of bytes inside the mapped page can be written. -/
theorem writes (s : State) (hc : s.contexts = mapped.contexts) (va : Nat) (l : List Byte) (h : va + l.length ≤ 0x10000)
  :
    ∃ u, s.writeVa 0 va l = some u ∧ u.contexts = mapped.contexts := by
  suffices hm : ∀ (n : Nat) (l : List Byte), va + n + l.length ≤ 0x10000 → ∃ c,
      ((l.mapIdx fun i b => (va + n + i, b)).mapM fun c => match s.access 0 c.1 false true with
        | .ok (.phys b) => some (b / 8, c.2)
        | _ => none) = some c by
    obtain ⟨c, hm⟩ := hm 0 l (by simpa using h)
    unfold State.writeVa
    refine ⟨s.writeOrHold c, by erw [hm], ?_⟩
    simp only [State.writeOrHold]
    split <;> split <;> simp [State.store, hc, mapped, ctx, markDirty, Context.mirrored, State.poke]
  intro n l
  induction l generalizing n with
  | nil => exact fun _ => ⟨[], rfl⟩
  | cons b l ih =>
    intro hl
    simp only [List.length_cons] at hl
    obtain ⟨c, hc'⟩ := ih (n + 1) (by omega)
    refine ⟨((va + n), b) :: c, ?_⟩
    have shift : (l.mapIdx fun i x => (va + n + (i + 1), x)) = l.mapIdx fun i x => (va + (n + 1) + i, x) := by
      congr 1; funext i x; congr 1; omega
    simp only [List.mapIdx_cons, List.mapM_cons, Nat.add_zero, shift, access_mapped s hc (va + n) (by omega)]
    simp only [Nat.mul_div_cancel_left _ (show 0 < 8 by decide)]
    rw [hc']; rfl

/-- A host's message: a code, the length it claims, a tag, a handle, a payload (R360). -/
def hostMessage (code len : Nat) (payload : List Byte) : List Byte :=
  bytesOfNat 2 code ++ bytesOfNat 2 0 ++ bytesOfNat 4 len ++ bytesOfNat 8 0x1122334455667788 ++ bytesOfNat 4 0
    ++ bytesOfNat 44 0 ++ payload

/-- Messages ServiceReports and ServiceRequests speak of: the list, a code no host may use, a length that is wrong. -/
theorem meets_host_messages :
    msgHeader (hostMessage 0x100 0 []) = some ⟨0x100, 0, 0x1122334455667788, 0, true⟩ ∧
    (hostMessage 0x100 0 []).length = 64 ∧ (msgHeader (hostMessage 0x008 0 [])).map (·.code) = some 8 ∧
    (8 : BitVec 16) ∉ hostCodes ∧ (msgHeader (hostMessage 0x111 8 [])).map (·.len) = some 8 ∧
    (hostMessage 0x111 8 []).length ≠ 64 + 8 := by decide +kernel

/-- ServiceReports: a deployed module asked for a report and the log; task requests at 256: the list to 1024, one
with a reserved field, a report to 0, the log to 1024. -/
theorem meets_hosts : State.reset.svc.life = .deployed ∧ State.reset.svc.holdReset = false ∧
    (List.replicate 32 (0 : Byte)).length = 32 ∧ (mapped.context? 0).isSome := by decide +kernel

/-- `asking` with an argument block. -/
def asked (code : BitVec 10) (arg : List Byte) : State :=
  { asking code with mem := Sparse.setAll 0 [] (arg.mapIdx fun i b => (256 + i, b)) }
def listArg (res : Byte) : List Byte := bytesOfNat 8 1024 ++ bytesOfNat 4 16 ++ [res, 0, 0, 0]
def logArg : List Byte := bytesOfNat 8 0 ++ bytesOfNat 4 1 ++ bytesOfNat 4 0 ++ bytesOfNat 8 1024

theorem meets_request : ∀ p ∈ [(0x008, listArg 0), (0x008, listArg 1), (0x00A, List.replicate 40 0), (0x00C, logArg)],
    let s := asked p.1 p.2
    s.occ = .num 0 ∧ s.svc.requests = [request p.1] ∧ s.sched.images = [] ∧ s.parked = [] ∧
      (request p.1).runsOn s.core = true ∧ s.readVa 0 256 p.2.length = some p.2 := by decide +kernel

theorem meets_list : ∃ u v,
    (asked 0x008 (listArg 0)).writeVa 0 1024 ((asked 0x008 (listArg 0)).capabilityList.take 16) = some u ∧
    u.writeVa 0 272 (bytesOfNat 8 ((asked 0x008 (listArg 0)).capabilityList.take 16).length) = some v := by
  obtain ⟨u, hu, hc⟩ := writes (asked 0x008 (listArg 0)) rfl 1024 ((asked 0x008 (listArg 0)).capabilityList.take 16)
    (by simp only [List.length_take]; omega)
  obtain ⟨v, hv, -⟩ := writes u hc 272 (bytesOfNat 8 ((asked 0x008 (listArg 0)).capabilityList.take 16).length)
    (by simp [bytesOfNat])
  exact ⟨u, v, hu, hv⟩

theorem length_sign (v : Service) (d : List Byte) : (v.sign d).length = 114 := by
  unfold Service.sign
  split
  · simp only [edSign, EdPoint.encode, xtsBytes, List.length_append, List.length_map, List.length_range]
  · simp

theorem meets_attest : ∃ x u, (asked 0x00A (List.replicate 40 0)).context? 0 = some x ∧
    (asked 0x00A (List.replicate 40 0)).writeVa 0 0
      ((asked 0x00A (List.replicate 40 0)).report (some x) (List.replicate 32 0)) = some u := by
  have hx : (asked 0x00A (List.replicate 40 0)).context? 0 = some { ctx with maps := [[page0], [page0]] } :=
    by decide +kernel
  have hl (s : State) (x : Option Context) : 0 + (s.report x (List.replicate 32 0)).length ≤ 0x10000 := by
    unfold State.report
    simp only [List.length_append, List.length_replicate, length_bytesOfNat, length_sign]
    generalize Config.attestedBytes _ = d
    have := shake256_length d
    omega
  obtain ⟨u, hu, -⟩ := writes (asked 0x00A (List.replicate 40 0)) rfl 0 _ (hl _ _)
  exact ⟨_, u, hx, hu⟩

theorem meets_log : let s := asked 0x00C logArg
    ∃ u v, s.writeVa 0 1024 ((s.logFrom 0 1).flatMap logBytes) = some u ∧
      u.writeVa 0 280 (bytesOfNat 8 (s.logFrom 0 1).length) = some v := by
  intro s
  obtain ⟨u, hu, hc⟩ := writes s rfl 1024 ((s.logFrom 0 1).flatMap logBytes) (by
    have : s.logFrom 0 1 = [] := rfl
    rw [this]; simp)
  obtain ⟨v, hv, -⟩ := writes u hc 280 (bytesOfNat 8 (s.logFrom 0 1).length) (by simp [bytesOfNat])
  exact ⟨u, v, hu, hv⟩

def open0 : OpenContextReq := ⟨5, 1, 0, 1, 0, 0, [⟨0, 0x10000, true⟩], [[page0]], []⟩
def object0 : List Byte :=
  let b := (List.range 64).map fun i => BitVec.ofNat 8 i
  [0x4D, 0x5A, 0x43, 0x4F, 1, 0, 0, 0, 1, 0, 0, 0, 0, 0, 0, 0] ++ List.replicate 8 0 ++
    (shake256 b).take 32 ++ List.replicate 8 0 ++ b
def rule0 : RuleEntry := ⟨1, 0, 0x3C23D70A, 0, 0, 0, 0, 0, 0x3F800000⟩
def queueReq0 : CreateQueueReq := ⟨0, 0, 1024, 64, 64, 16, 0, 0, 1024, 0xFF⟩
def parPage : MapPage := ⟨0x10000, 0x82C0000000001000⟩

/-- The payload of an open request by R362's layout: a range, a page, an image of three bytes. -/
theorem test_open_payload :
    parseOpen ([5, 0, 1, 0, 1, 0, 0, 0, 0, 0, 1, 0, 0, 0, 0, 0] ++ [1, 0, 1, 0, 0, 0, 0, 0] ++ [0, 0, 2, 0, 0, 0, 0, 0]
      ++ [1, 0, 0, 0, 0, 0, 0, 0] ++ [0, 0, 1, 0, 0, 0, 0, 0] ++ [0, 0x10, 0, 0, 0, 0, 0xC0, 0x82]
      ++ [1, 0, 0, 0, 0, 0, 0, 0] ++ [0, 1, 0, 0, 0, 0, 0, 0] ++ [3, 0, 0, 0, 0, 0, 0, 0]
      ++ [7, 8, 9, 0, 0, 0, 0, 0]) =
    some (.openReq ⟨5, 1, 0, 1, 0, 0, [⟨0x10000, 0x20000, true⟩], [[parPage]], [⟨0x100, [7, 8, 9]⟩]⟩) := by
  decide +kernel

/-- A reserved byte that is not zero, and a module list that is not padded, are refused (R362). -/
theorem test_bad_payloads : parseKeys [1, 0, 1, 0, 0, 0, 0, 0, 5, 0] = none ∧
    parseKeys ([1, 0, 1, 0, 0, 0, 0, 0, 5, 0] ++ bytesOfNat 6 0) = some (.keyReq true [5]) ∧
    parseRestore [1, 0, 0, 0, 0, 0, 0, 1] = none ∧ parseRestore [1, 0, 0, 0, 0, 0, 0, 0] = some (.die 1) := by
  decide +kernel

theorem meets_open : State.reset.openOk open0 = true ∧ open0.firstModule.toNat = State.reset.modid.toNat ∧
    State.reset.openOk { open0 with asid := 2048 } = false ∧ (mapped.context? 7).isNone ∧
    mapped.contextRuns 0 = false ∧ mapped.core.running = [] ∧ mapped.parked = [] ∧ mapped.sched.images = [] := by
  decide +kernel

theorem meets_object : objectOk object0 = true ∧ objectOk (object0.take 64) = false ∧
    (shake256 (object0.drop 64)).take 32 = (object0.drop 24).take 32 ∧
    (mapped.serviceCells 0 0 object0).isSome := by decide +kernel

theorem meets_loads : ruleOk rule0 = true ∧ ruleOk { rule0 with tmpl := 5 } = false ∧
    queueReqOk queueReq0 = true ∧ queueReqOk { queueReq0 with rsz := 100 } = false := by decide +kernel

/-- Any free queue number will do. -/
theorem meets_queue : (mapped.context? 0).isSome ∧ (State.reset.freeQid).isSome ∧ (mapped.queueDie 0).isSome := by
  refine ⟨by decide +kernel, ?_, by decide +kernel⟩
  unfold State.freeQid
  rw [List.find?_isSome]
  exact ⟨_, List.mem_map.2 ⟨0, by simp, rfl⟩, by rfl⟩

def cellReq0 : LoadRecordReq := ⟨0x10000, 1, 0, 0, 1, 0, 0⟩
/-- A context with a parameter page. -/
def parState : State := { mapped with contexts := [{ ctx with maps := [[page0, parPage], [page0]] }] }
theorem meets_records : (parState.context? 0).isSome ∧ parState.recordOk 0 [cellReq0] cellReq0 = true ∧
    (parState.recordPlace 0 cellReq0.va.toNat 64 64).isSome ∧ (∀ x ∈ parState.contexts, x.mirrored = []) ∧
    parState.recordOk 0 [{ cellReq0 with va := 0 }] { cellReq0 with va := 0 } = false := by decide +kernel

/-- LifeEvents: nothing runs after reset; a switch 1 ms ago; frame 1 is a stack's; die 1 drained; clocks at the
limits; a deployed module returned, and one life forbids; a route whose port is down. -/
theorem meets_life :
    (State.reset.svc.life = .deployed ∧ State.reset.svc.holdReset = false ∧ State.reset.core.mode = .idle ∧
      State.reset.parked = [] ∧ State.reset.sched.images = [] ∧ State.reset.svc.retiring = [] ∧
      State.reset.core.id = (0 : BitVec 2) ++ (0 : BitVec 8) ∧ State.reset.net.msgs = [] ∧
        State.reset.core.running = [] ∧
      State.reset.contexts = [] ∧ State.reset.svc.drained = [] ∧ State.reset.svc.draining = [] ∧
      State.reset.sched.queues = [] ∧ State.reset.pool 0 = [] ∧ State.reset.chain 0 = [] ∧
      State.reset.svc.coolantLost = false) ∧
    (({ State.reset with ptb := 1000000 } : State).ptb - 0).toNat ≤ 1000000 ∧
    placeOf ((1 : BitVec 28).toNat * 0x10000) = .stack 0 ∧
    (∀ c ∈ [(1624, false, true), (1625, true, true), (2125, true, true), (2126, true, false)],
      decide (1625 ≤ c.1) = c.2.1 ∧ decide (c.1 + 125 ≤ 2250) = c.2.2) ∧
    lifeNext .deployed 3 = some .returned ∧ lifeNext .deployed 1 = none ∧
    ((({ State.reset with fab := { Fabric.reset with routes := [(1, [2])] } } : State).updLink 2
      fun l => { l with up := false }).link 2).up = false := by decide +kernel

/-- ServiceReports: a log in order, of which a range leaves one record out; nothing makes a host's request wait, nor
`asked` of a task's. -/
def logRec (n : BitVec 64) : LogRec := ⟨n, 0, 9, 1, 0, 0⟩
def logging : State := { State.reset with svc := { Service.reset with
  log := [logRec 3, logRec 4, logRec 6], nextSeq := 7 } }
theorem meets_log_order : LogInOrder logging ∧ logging.svc.nextSeq.toNat + 1 < 2 ^ 64 ∧
    logging.logFrom 4 1 = [logRec 4] ∧ logging.logFrom 4 3 = [logRec 4, logRec 6] := by
  unfold LogInOrder; decide +kernel
theorem meets_served : NothingWaits State.reset ∧ NothingWaits mapped ∧
    (let s := asked 0x008 (listArg 0)
     s.svc.update = none ∧ s.svc.inbox = [] ∧ s.svc.loads = [] ∧ (∀ x ∈ s.contexts, x.mirrored = [])) ∧
    (asking 0x008).readVa 0 0xFFF8 16 = none := by
  unfold NothingWaits; decide +kernel

/-- ServiceRequests: no message has a number still to be given; no place is held; a context that runs and one that does
not; a load on this module; a peer whose rotation has taken no step, one, two. -/
def peered (k : Nat) (o : Occ) : State := { State.reset with
  occ := o, fab := { Fabric.reset with peers := [⟨1, true, true, 0, [], 0, k⟩] } }
def localOnly (l : Option (List (Loc × Byte))) : Bool := match l with
  | some l => l.all fun c => match c.1 with
    | .phys _ => true
    | _ => false
  | none => false
theorem meets_unheld (l : Loc) : mapped.placeHeld l = false := by
  cases l <;> simp [State.placeHeld, mapped, ctx, State.reset, Service.reset]
theorem meets_host_requests :
    (∀ m ∈ mapped.net.msgs, m.id < mapped.net.nextMsg) ∧
    (({ ready with core := { core0 with task := some task0 } } : State).contextRuns 0 = true) ∧
    localOnly (mapped.serviceCells 0 0 object0) = true ∧ open0.images = [] ∧
      State.reset.peer? State.reset.modid = none ∧
    cellReq0.kind = 1 ∧
    (peered 0 (.keyReq true [1])).keySlot 1 false false = none ∧ (peered 0 (.keyReq true [1])).sendIx 1 = true := by
  decide +kernel
/-- ServiceRequests: a load on a page of another module that is no peer. -/
theorem meets_outside : (mapped.outsidePeers 0 [(.remote 5 0, 0)]) = true := by decide +kernel

/-- LifeEvents: an update that waits for a drain and one that nothing makes wait; life held in reset. -/
def updating (l : List (BitVec 2 × BitVec 2 × Asker)) : State := { State.reset with
  svc := { Service.reset with update := some ⟨0, ⟨0, 0⟩⟩, draining := l } }
theorem meets_updates : (updating []).inProgress 0 = false ∧ (updating [(0, 1, ⟨0, 0⟩)]).inProgress 0 = true ∧
    State.reset.inProgress 0 = false ∧ ({ State.reset with svc := { Service.reset with draining := [(0, 1, ⟨0,
      0⟩)] } } : State).inProgress 0 = true ∧
    State.reset.svc.retiringFrames = [] ∧ State.reset.svc.forward = [] ∧ State.reset.svc.lastSwitch = none ∧
    ({ State.reset with svc := { Service.reset with holdReset := true } } : State).svc.holdReset = true := by
  decide +kernel
/-- LifeEvents: an image that verifies is one the maker signed; every other verification fails. -/
theorem meets_no_image : imageVerifies [] = false := by decide +kernel

/-- StepRunsTheDecodedOperation: a core inside a bundle whose scalar slot is a no-op, and an event of the agenda. -/
def midBundle : State := { ready with agenda := [.run 0] }
theorem meets_step :
    let t := { midBundle with agenda := [] }.focus 0
    t.core.mode = .running ∧ t.core.midBundle = true ∧ t.core.bundle.decode (Slot.all.getD t.core.slot .sy) = .ok .nop ∧
      (match exec .nop { t with core := { t.core with
          ars := slotArs .sc (t.core.bundle.word .sc), arr1 := t.core.bundle.arr1, arr2 := t.core.bundle.arr2 } } with
        | .next v => v.core.slot
        | _ => 9) = 1 ∧ State.reset.core.slot < 9 := by decide +kernel

/-- EveryStepKeepsMemoryCanonical and SlotOperationsLeaveTheCurrentMap: a step, and an operation, from a state of
canonical memory. -/
theorem meets_invariants : ready.memWf ∧ Instr.nop.slot ≠ none ∧ (match exec .nop ready with
    | .next t => t.core.slot
    | _ => 0) = 1 ∧ (match step State.reset with
    | .next t => t.tick
    | _ => 0) = 1 := by
  decide +kernel

/-! ### Single results -/

/-- The results an operation puts in flight. -/
def resultsOf (i : Instr) (s : State) : List ResVal :=
  match exec i s with
  | .next t => t.core.inflight.map fun r => r.val
  | _ => []

/-- R100: 64 − 65 wraps to all ones. -/
theorem test_sub_wraps : resultsOf (.sub ⟨2, 3, 0, 0, true, 65⟩) ready = [.s 2 0xFFFFFFFFFFFFFFFF] := by decide +kernel
/-- R101: the shift amount is taken modulo 64, so 66 shifts by 2. -/
theorem test_shift_modulo : resultsOf (.shl ⟨2, 3, 0, 0, true, 66⟩) ready = [.s 2 256] := by decide +kernel
/-- R105: `lea s2, s3, s4, 6, 128` computes s3 + 64 × s4 + 128. -/
theorem test_lea : resultsOf (.lea ⟨2, 3, 4, 0, true, 0x06000080⟩) ready = [.s 2 (64 + 64 * 64 + 128)] :=
  by decide +kernel
/-- R117: bank 0 is owned, so bank 1 is the lowest free one. -/
theorem test_aalloc_lowest : resultsOf (.aalloc ⟨2, 0, 0, 0, true, 1⟩) ready = [.s 2 1] := by decide +kernel
/-- R114: a word of `k0` reads as ones. -/
theorem test_movsk_k0 : resultsOf (.movsk ⟨2, 0, 0, 0, true, 1⟩) ready = [.s 2 0xFFFFFFFFFFFFFFFF] := by decide +kernel

/-- The worked conversions of R52's section: 0.9375 to BF16, and at scale 256 and 512 to E4M3, with and without F8SAT.
-/
theorem test_worked_conversions :
    let env (sat : Bool) : FpEnv := ⟨.rne, sat, false, false⟩
    convert (env true) .bf16 .f32 0x3F700000 = (0x3F70, 0) ∧
    roundFp (env true) .e4m3 (.fin 240 false) = (0x77, 0) ∧
    roundFp (env true) .e4m3 (.fin 480 false) = (0x7E, 10) ∧
    roundFp (env false) .e4m3 (.fin 480 false) = (0x7F, 10) := by decide +kernel

/-- R130's worked zeros: VSIN at 0.5 and VCOS at 0.25 of a turn give +0 and no flag; 2 to the 3 is exact. -/
theorem test_exact_functions :
    let env : FpEnv := ⟨.rne, true, false, false⟩
    transc env .f32 .sin (.fin (1 / 2) false) 0x3F000000 = (0, 0) ∧
    transc env .f32 .cos (.fin (1 / 4) false) 0x3E800000 = (0, 0) ∧
    transc env .f32 .exp2 (.fin 3 false) 0x40400000 = (0x41000000, 0) := by decide +kernel

/-- R148's worked offset: in a Z-order E4M3 tile of 48 columns stored element (5, 18) lies at byte 294, and a transposed
view reads that byte as logical (18, 5). -/
theorem test_worked_offset :
    let e : BitVec 128 :=
      64#32 ++ 0#22 ++ 15#8 ++ 48#12 ++ 0#1 ++ 1#1 ++ 0#2 ++ 0#12 ++ 2#4 ++ 2#2 ++ 0#6 ++ 0#26
    TileE.bitAddr e false 5 18 = 8 * 294 ∧ TileE.bitAddr e true 18 5 = 8 * 294 := by decide +kernel

/-- R302's two headers without their check byte: core 12's lone flit at router 3, and the merged one. -/
theorem test_worked_header :
    let f : Flit := { flit0 with
      here := 3, src := ⟨0, 3, 0⟩, dst := ⟨0, 5, 4⟩, hmid := 0x21, len := 0, age := 12, op := .merge }
    f.headerBits = 0x16060840003050 ∧ ({ f with mcnt := 1 } : Flit).headerBits = 0x16060840003054 := by decide +kernel

/-- SHAKE256 of no bytes begins 46 B9 DD 2B (FIPS 202). -/
theorem test_shake256 : (shake256 []).take 4 = [0x46, 0xB9, 0xDD, 0x2B] := by decide +kernel

end Sys2Proof.Tests
end

section
/-! PROOFS. The scalar slot: the result of each arithmetic, logic, shift, compare, selection, address, constant and
bit-count operation is the number the manual gives (R100 to R107). -/

namespace Sys2Proof.ScalarProofs

open Sys2Proof Sys2Proof.Machine Sys2Proof.Claim

/-! ### An operation whose effect is one result -/

section Sends

variable {i : Instr} {f : ScF} {s : State}

/-- A result read from the state after the arrivals, which are no part of what an operation reads. -/
theorem sends_result {w : State → ResVal} {v : ResVal} (hr : Runs i s)
    (he : exec i s = issue i (fun u => u.result i (w u)) s) (hv : w (s.onCore fun c => c.addArrivals i) = v) :
    Sends i s v (latency i) 0 0 := by
  obtain ⟨hgo, hon⟩ := hr
  subst hv
  exact he.trans (issue_addResult hgo hon)

/-- Form B (R98): a function of A and B. -/
theorem sends_scBinary {op : Word → Word → Word} {x : Word} (hr : Runs i s)
    (he : exec i s = issue i (scBinary i f op) s) (hx : op (s.core.rs f.sa) (scB f s.core) = x) :
    Sends i s (.s f.sd x) (latency i) 0 0 :=
  sends_result (w := fun u => .s f.sd (op (u.core.rs f.sa) (scB f u.core))) hr he (congrArg _ hx)

/-- Form U (R98): a function of A. -/
theorem sends_scUnary {op : Word → Word} {x : Word} (hr : Runs i s)
    (he : exec i s = issue i (scUnary i f op) s) (hx : op (s.core.rs f.sa) = x) :
    Sends i s (.s f.sd x) (latency i) 0 0 :=
  sends_result (w := fun u => .s f.sd (op (u.core.rs f.sa))) hr he (congrArg _ hx)

/-- Form K (R98, R102): a compare fills its mask with its truth value. -/
theorem sends_scCompare {p : Word → Word → Bool} {P : Prop} [Decidable P] (hr : Runs i s)
    (he : exec i s = issue i (scCompare i f p) s) (hp : p (s.core.rs f.sa) (scB f s.core) = true ↔ P) :
    Sends i s (.k (f.sd.setWidth 4) (if P then BitVec.allOnes 256 else 0) (BitVec.allOnes 256)) (latency i) 0 0 :=
  sends_result
    (w := fun u => .k (f.sd.setWidth 4) (boolMask (p (u.core.rs f.sa) (scB f u.core))) (BitVec.allOnes 256)) hr he
    (congrArg (ResVal.k _ · _) (if_congr hp rfl rfl))

end Sends

/-! ### Integer arithmetic (R100) -/

section Arithmetic

variable (a b : Word)

/-- MULH's result is the high half of the 128-bit product: reducing the product modulo 2^128 changes its quotient by
2^64 by a multiple of 2^64 alone. -/
theorem mulHigh_eq_extract :
    mulHigh a b = BitVec.extractLsb' 64 64 (a.signExtend 128 * b.signExtend 128) := by
  have product : a.signExtend 128 * b.signExtend 128 = BitVec.ofInt 128 (a.toInt * b.toInt) := by
    rw [BitVec.ofInt_mul]; rfl
  apply BitVec.eq_of_toNat_eq
  rw [product, mulHigh, BitVec.extractLsb'_toNat, BitVec.toNat_ofInt, BitVec.toNat_ofInt, Nat.shiftRight_eq_div_pow]
  generalize a.toInt * b.toInt = p
  omega

theorem toInt_eq_zero_iff : b.toInt = 0 ↔ b = 0 := by
  rw [← BitVec.toInt_inj]; simp

theorem toNat_eq_zero_iff : b.toNat = 0 ↔ b = 0 := by
  rw [← BitVec.toNat_inj]; rfl

/-- The one quotient that overflows, −2^63 / −1 = 2^63, wraps to −2^63. -/
theorem divSigned_eq : divSigned a b = if b.toInt = 0 then 0xFFFFFFFFFFFFFFFF
    else if a.toInt = -2 ^ 63 ∧ b.toInt = -1 then BitVec.ofInt 64 (-2 ^ 63)
    else BitVec.ofInt 64 (a.toInt.tdiv b.toInt) := by
  simp only [divSigned, toInt_eq_zero_iff]
  split
  · rfl
  · split
    · next h => rw [h.1, h.2]; decide
    · rfl

theorem remSigned_eq : remSigned a b = if b.toInt = 0 then a
    else if a.toInt = -2 ^ 63 ∧ b.toInt = -1 then 0
    else BitVec.ofInt 64 (a.toInt - b.toInt * a.toInt.tdiv b.toInt) := by
  simp only [remSigned, toInt_eq_zero_iff, Int.tmod_def]
  split
  · rfl
  · split
    · next h => rw [h.1, h.2]; decide
    · rfl

theorem divUnsigned_eq : divUnsigned a b = if b.toNat = 0 then 0xFFFFFFFFFFFFFFFF
    else BitVec.ofNat 64 (a.toNat / b.toNat) :=
  (if_congr (toNat_eq_zero_iff b) rfl rfl).symm

theorem remUnsigned_eq : remUnsigned a b = if b.toNat = 0 then a else BitVec.ofNat 64 (a.toNat % b.toNat) :=
  (if_congr (toNat_eq_zero_iff b) rfl rfl).symm

end Arithmetic

/-! ### Shifts (R101) -/

section Shifts

variable (a b : Word)

theorem shAmt_eq_mod : shAmt b = b.toNat % 64 := by simp [shAmt, bits]

theorem shiftLeft_shAmt : a <<< shAmt b = BitVec.ofNat 64 (a.toNat * 2 ^ (b.toNat % 64)) := by
  apply BitVec.eq_of_toNat_eq
  rw [shAmt_eq_mod, BitVec.toNat_shiftLeft, BitVec.toNat_ofNat, Nat.shiftLeft_eq]

theorem ushiftRight_shAmt : a >>> shAmt b = BitVec.ofNat 64 (a.toNat / 2 ^ (b.toNat % 64)) := by
  rw [shAmt_eq_mod, ← Nat.shiftRight_eq_div_pow, ← BitVec.toNat_ushiftRight, BitVec.ofNat_toNat, BitVec.setWidth_eq]

theorem sshiftRight_shAmt : a.sshiftRight (shAmt b) = BitVec.ofInt 64 (a.toInt / 2 ^ (b.toNat % 64)) := by
  rw [shAmt_eq_mod, BitVec.sshiftRight, Int.shiftRight_eq_div_pow, Int.natCast_pow]; rfl

/-- The bits rotated out at the top fill exactly the bits the shift left empty. -/
theorem rotateLeft_shAmt : a.rotateLeft (shAmt b) =
    BitVec.ofNat 64 (a.toNat * 2 ^ (b.toNat % 64) + a.toNat / 2 ^ (64 - b.toNat % 64)) := by
  have hn : b.toNat % 64 < 64 := Nat.mod_lt _ (by decide)
  rw [shAmt_eq_mod, BitVec.rotateLeft_def, Nat.mod_eq_of_lt hn]
  generalize b.toNat % 64 = n at hn
  have disjoint : a <<< n &&& a >>> (64 - n) = 0#64 := by
    ext i hi
    by_cases h : i < n
    · simp [h]
    · have : 64 ≤ 64 - n + i := by omega
      simp [BitVec.getLsbD_of_ge _ _ this]
  rw [← BitVec.add_eq_or_of_and_eq_zero _ _ disjoint, BitVec.ofNat_add]
  apply BitVec.eq_of_toNat_eq
  simp [Nat.shiftLeft_eq, Nat.shiftRight_eq_div_pow]

end Shifts

/-- Settles O1: each operation is one result of form B, and each result is the number R100 and R101 give. -/
theorem scalarArithmeticAndLogicResults : Obligations.ScalarArithmeticAndLogicResults := by
  unfold Obligations.ScalarArithmeticAndLogicResults
  constructor
  · intro f s a b ones
    refine ⟨?add, ?sub, ?mul, ?mulh, ?div, ?divu, ?rem, ?remu⟩ <;> intro runs
    case add => exact sends_scBinary runs rfl rfl
    case sub => exact sends_scBinary runs rfl rfl
    case mul => exact sends_scBinary runs rfl rfl
    case mulh => exact sends_scBinary runs rfl (mulHigh_eq_extract a b)
    case div => exact sends_scBinary runs rfl (divSigned_eq a b)
    case divu => exact sends_scBinary runs rfl (divUnsigned_eq a b)
    case rem => exact sends_scBinary runs rfl (remSigned_eq a b)
    case remu => exact sends_scBinary runs rfl (remUnsigned_eq a b)
  · intro f s a b n
    refine ⟨?and, ?or, ?xor, ?andn, ?shl, ?shr, ?sar, ?rot⟩ <;> intro runs
    case and => exact sends_scBinary runs rfl rfl
    case or => exact sends_scBinary runs rfl rfl
    case xor => exact sends_scBinary runs rfl rfl
    case andn => exact sends_scBinary runs rfl rfl
    case shl => exact sends_scBinary runs rfl (shiftLeft_shAmt a b)
    case shr => exact sends_scBinary runs rfl (ushiftRight_shAmt a b)
    case sar => exact sends_scBinary runs rfl (sshiftRight_shAmt a b)
    case rot => exact sends_scBinary runs rfl (rotateLeft_shAmt a b)

/-! ### Minimum and maximum (R104) -/

section MinMax

variable (a b : Word)

theorem minSigned_eq_ofInt : (if b.slt a then b else a) = BitVec.ofInt 64 (min a.toInt b.toInt) := by
  rw [min_comm, min_def_lt, apply_ite (BitVec.ofInt 64), BitVec.ofInt_toInt, BitVec.ofInt_toInt]
  exact if_congr BitVec.slt_iff_toInt_lt rfl rfl

theorem maxSigned_eq_ofInt : (if a.slt b then b else a) = BitVec.ofInt 64 (max a.toInt b.toInt) := by
  rw [max_def_lt, apply_ite (BitVec.ofInt 64), BitVec.ofInt_toInt, BitVec.ofInt_toInt]
  exact if_congr BitVec.slt_iff_toInt_lt rfl rfl

end MinMax

/-! ### Addresses and constants (R105, R106) -/

/-- LEA's sum, a signed displacement on an unsigned base and index. -/
theorem lea_eq_ofInt (a b : Word) (n : Nat) (d : BitVec 24) : a + (b <<< n) + d.signExtend 64 =
    BitVec.ofInt 64 ((a.toNat : Int) + b.toNat * 2 ^ n + d.toInt) := by
  have index : b <<< n = BitVec.ofInt 64 (b.toNat * 2 ^ n) := by
    rw [show (b.toNat * 2 ^ n : Int) = ((b.toNat * 2 ^ n : Nat) : Int) by push_cast; rfl, BitVec.ofInt_natCast,
      ← Nat.shiftLeft_eq]
    rfl
  rw [BitVec.ofInt_add, BitVec.ofInt_add, BitVec.ofInt_natCast, BitVec.ofNat_toNat, BitVec.setWidth_eq, index]
  rfl

/-- MOVHI's word: the constant above the low half. -/
theorem movhi_eq_ofNat (x : BitVec 32) (a : Word) :
    x ++ bits a 0 32 = BitVec.ofNat 64 (x.toNat * 2 ^ 32 + a.toNat % 2 ^ 32) := by
  have low : a.toNat % 2 ^ 32 < 2 ^ 32 := Nat.mod_lt _ (by decide)
  apply BitVec.eq_of_toNat_eq
  rw [BitVec.toNat_append, bits, BitVec.extractLsb'_toNat, Nat.shiftRight_zero,
    ← Nat.shiftLeft_add_eq_or_of_lt low, Nat.shiftLeft_eq, BitVec.toNat_ofNat]
  have high := x.isLt
  exact (Nat.mod_eq_of_lt (by omega)).symm

/-! ### Bit counts (R107) -/

/-- The first numbers below `m` that meet `p` end at `m` or at the first that does not. -/
theorem length_takeWhile_range (p : Nat → Bool) (m : Nat) :
    ((List.range m).takeWhile p).length ≤ m ∧
    (∀ i < ((List.range m).takeWhile p).length, p i = true) ∧
    (((List.range m).takeWhile p).length < m → p ((List.range m).takeWhile p).length = false) := by
  have le : (List.range m).findIdx (fun i => !p i) ≤ m := by
    simpa using List.findIdx_le_length (p := fun i => !p i) (xs := List.range m)
  have len : ((List.range m).takeWhile p).length = (List.range m).findIdx fun i => !p i := by
    rw [List.takeWhile_eq_take_findIdx_not, List.length_take, List.length_range, Nat.min_eq_left le]
  rw [len]
  refine ⟨le, fun i hi => ?_, fun h => ?_⟩
  · simpa using List.not_of_lt_findIdx hi
  · simpa using List.findIdx_getElem (p := fun i => !p i) (w := h.trans_eq List.length_range.symm)

/-- CLZ's count: the bits above it are 0 and the bit it stops at is 1. -/
theorem leadingZeros_spec (a : Word) : leadingZeros a ≤ 64 ∧ a.toNat < 2 ^ (64 - leadingZeros a) ∧
    (leadingZeros a < 64 → a.getLsbD (63 - leadingZeros a) = true) := by
  obtain ⟨le, zeros, stop⟩ := length_takeWhile_range (fun i => !a.getLsbD (63 - i)) 64
  rw [← leadingZeros] at le zeros stop
  refine ⟨le, Nat.lt_pow_two_of_testBit _ fun j hj => ?_, fun h => by simpa using stop h⟩
  by_cases h : j < 64
  · have zero := zeros (63 - j) (by omega)
    rw [show 63 - (63 - j) = j by omega] at zero
    simpa [BitVec.testBit_toNat] using zero
  · exact BitVec.getLsbD_of_ge _ _ (not_lt.mp h)

/-- CTZ's count: the bits below it are 0 and the bit it stops at is 1. -/
theorem trailingZeros_spec (a : Word) : trailingZeros a ≤ 64 ∧ 2 ^ trailingZeros a ∣ a.toNat ∧
    (trailingZeros a < 64 → a.getLsbD (trailingZeros a) = true) := by
  obtain ⟨le, zeros, stop⟩ := length_takeWhile_range (fun i => !a.getLsbD i) 64
  rw [← trailingZeros] at le zeros stop
  refine ⟨le, Nat.dvd_of_mod_eq_zero (Nat.eq_of_testBit_eq fun j => ?_), fun h => by simpa using stop h⟩
  rw [Nat.testBit_mod_two_pow, Nat.zero_testBit]
  by_cases h : j < trailingZeros a
  · have zero : a.getLsbD j = false := by simpa using zeros j h
    simpa [h, BitVec.testBit_toNat] using zero
  · simp [h]

/-- Settles O2: each operation is one result, and each result is the mask or the number R102 to R107 give. -/
theorem scalarCompareSelectCountResults : Obligations.ScalarCompareSelectCountResults := by
  unfold Obligations.ScalarCompareSelectCountResults
  constructor
  · intro f s a b kd all fill
    refine ⟨?cmpeq, ?cmplt, ?cmpltu, ?cmple, ?sel, ?min, ?max⟩ <;> intro runs
    case cmpeq => exact sends_scCompare runs rfl beq_iff_eq
    case cmplt => exact sends_scCompare runs rfl BitVec.slt_iff_toInt_lt
    case cmpltu => exact sends_scCompare runs rfl BitVec.ult_iff_toNat_lt
    case cmple => exact sends_scCompare runs rfl BitVec.sle_iff_toInt_le
    case sel => exact sends_result runs rfl rfl
    case min => exact sends_scBinary runs rfl (minSigned_eq_ofInt a b)
    case max => exact sends_scBinary runs rfl (maxSigned_eq_ofInt a b)
  · intro f s a
    refine ⟨?lea, ?movi, ?movhi, ?popc, ?clz, ?ctz⟩ <;> intro runs
    case lea => exact sends_result runs rfl (congrArg (ResVal.s f.sd) (lea_eq_ofInt ..))
    case movi => exact sends_result runs rfl rfl
    case movhi => exact sends_scUnary runs rfl (movhi_eq_ofNat f.imm a)
    case popc => exact sends_scUnary runs rfl rfl
    case clz =>
      obtain ⟨le, high, stop⟩ := leadingZeros_spec a
      exact ⟨leadingZeros a, le, sends_scUnary runs rfl rfl, high, stop⟩
    case ctz =>
      obtain ⟨le, low, stop⟩ := trailingZeros_spec a
      exact ⟨trailingZeros a, le, sends_scUnary runs rfl rfl, low, stop⟩

end Sys2Proof.ScalarProofs
end

section
/-! PROOFS. The encoder and the decoder agree: fields stand where they are read, and an operation's opcode is its place in its
slot's table (R63 to R65, R87 to R92). -/

namespace Sys2Proof.EncodingProofs

open Sys2Proof Sys2Proof.Machine Sys2Proof.Claim

/-! ### Fields of concatenated bits -/

section Fields

variable {m n l w : Nat}

-- Memory is bounded and each thread holds some: what stands before is checked before more is begun.
set_option Elab.async false in
/-- The width of a concatenation is a numeral where a layout writes it, so that no index may hold it as a sum. -/
theorem bits_append_of_le {x : BitVec m} {y : BitVec n} (h : n ≤ l) :
    bits (HAppend.hAppend (γ := no_index (BitVec (m + n))) x y) l w = bits x (l - n) w :=
  BitVec.extractLsb'_append_eq_of_le h

theorem bits_append_of_add_le {x : BitVec m} {y : BitVec n} (h : l + w ≤ n) :
    bits (HAppend.hAppend (γ := no_index (BitVec (m + n))) x y) l w = bits y l w :=
  BitVec.extractLsb'_append_eq_of_add_le h

@[simp] theorem bits_self (x : BitVec n) : bits x 0 n = x := BitVec.extractLsb'_eq_self ..

theorem bitOf_append {x : BitVec m} {y : BitVec n} :
    bitOf (HAppend.hAppend (γ := no_index (BitVec (m + n))) x y) l = if l < n then bitOf y l else bitOf x (l - n) := by
  simp only [bitOf, BitVec.getLsbD_append]

@[simp] theorem bitOf_ofBool (b : Bool) : bitOf (BitVec.ofBool b) 0 = b := by cases b <;> rfl

@[simp] theorem bits_zero : bits (0#n) l w = 0#w := by simp [bits]

@[simp] theorem bitOf_zero : bitOf (0#n) l = false := by simp [bitOf]

theorem bits_or (x y : BitVec n) : bits (x ||| y) l w = bits x l w ||| bits y l w := BitVec.extractLsb'_or

theorem bitOf_or (x y : BitVec n) : bitOf (x ||| y) l = (bitOf x l || bitOf y l) := BitVec.getLsbD_or

end Fields

/-! ### Operand layouts (R81 to R85) -/

@[simp] theorem ScF.unpack_pack (f : ScF) : ScF.unpack f.pack = f := by
  simp [ScF.unpack, ScF.pack, bits_append_of_le, bits_append_of_add_le, bitOf_append]

@[simp] theorem VecF.unpack_pack (f : VecF) : VecF.unpack f.pack = f := by
  simp [VecF.unpack, VecF.pack, bits_append_of_le, bits_append_of_add_le, bitOf_append]

@[simp] theorem MxF.unpack_pack (f : MxF) : MxF.unpack f.pack = f := by
  simp [MxF.unpack, MxF.pack, bits_append_of_le, bits_append_of_add_le, bitOf_append]

@[simp] theorem LsF.unpack_pack (f : LsF) : LsF.unpack f.pack = f := by
  simp [LsF.unpack, LsF.pack, bits_append_of_le, bits_append_of_add_le]

@[simp] theorem CpF.unpack_pack (f : CpF) : CpF.unpack f.pack = f := by
  simp [CpF.unpack, CpF.pack, bits_append_of_le, bits_append_of_add_le]

theorem bits_pack_mx (f : MxF) : bits f.pack 0 4 = 0#4 := by simp [MxF.pack, bits_append_of_add_le]

theorem bits_pack_ls (f : LsF) : bits f.pack 0 6 = 0#6 := by simp [LsF.pack, bits_append_of_add_le]

theorem bits_pack_cp (f : CpF) : bits f.pack 0 1 = 0#1 := by simp [CpF.pack, bits_append_of_add_le]

/-! ### Slot words (R64, R65) -/

section SlotWords

variable {n : Nat} (ops : BitVec 55)

theorem opcode_slotWord (h : n < 128) : (bits (slotWord n ops) 55 7).toNat = n := by
  simp [slotWord, bits_append_of_le, bits_append_of_add_le, Nat.mod_eq_of_lt h]

@[simp] theorem operands_slotWord : bits (slotWord n ops) 0 55 = ops := by simp [slotWord, bits_append_of_add_le]

@[simp] theorem arrivals_slotWord : bits (slotWord n ops) 62 2 = 0#2 := by simp [slotWord, bits_append_of_le]

end SlotWords

/-! ### Opcode tables (R87 to R90) -/

theorem checked_of_wellFormed {i : Instr} (h : i.wellFormed = true) : checked i = .ok i := if_pos h

theorem wellFormed_of_checked {i j : Instr} (h : checked j = .ok i) : i.wellFormed = true := by
  unfold checked at h
  split at h <;> cases h
  assumption

/-- The operation at place `n` of a slot's table has opcode `n + 1`: opcode 0 is the no-op. -/
theorem decodeTable_succ {F : Type} {none0 : Instr} {table : List (F → Instr)} {unpack : BitVec 55 → F} {n : Nat}
    {ops : BitVec 55} {c : F → Instr} (e : table[n]? = some c) (h : (c (unpack ops)).wellFormed = true) :
    decodeTable none0 table unpack (n + 1) ops = .ok (c (unpack ops)) := by
  simp [decodeTable, e, checked_of_wellFormed h]

theorem wellFormed_of_decodeTable {F : Type} {none0 i : Instr} {table : List (F → Instr)} {unpack : BitVec 55 → F}
    {n : Nat} {ops : BitVec 55} (h0 : none0.wellFormed = true) (h : decodeTable none0 table unpack n ops = .ok i) :
    i.wellFormed = true := by
  unfold decodeTable at h
  split at h
  · split at h <;> cases h
    exact h0
  · split at h
    · exact wellFormed_of_checked h
    · cases h

/-- An operation's place in its slot's table: the no-op, or the constructor one below its opcode. -/
def Listed {F : Type} (none0 : Instr) (table : List (F → Instr)) (pack : F → BitVec 55) (i : Instr) : Prop :=
  i = none0 ∨ ∃ n c f, encode i = slotWord (n + 1) (pack f) ∧ table[n]? = some c ∧ i = c f

theorem listed_sc {i : Instr} (h : i.slot = some .sc) : Listed .nop scTable ScF.pack i := by
  cases i <;> cases h
  case nop => exact .inl rfl
  all_goals exact .inr ⟨_, _, _, rfl, rfl, rfl⟩

/-- Opcode 0x25 is two operations, told apart by FN, which the well-formed ones hold as it must be (R134). -/
theorem listed_va {i : Instr} (h : i.slot = some .va) (hw : i.wellFormed = true) :
    Listed .vnop vecTable VecF.pack i := by
  cases i <;> cases h
  case vnop => exact .inl rfl
  case vmovs f =>
    have fn : f.fn = 0 := by
      simp only [Instr.wellFormed, VecF.arith2, VecF.uses, Bool.and_eq_true, decide_eq_true_eq] at hw
      exact BitVec.eq_of_toNat_eq (Nat.le_zero.mp hw.1.1.2)
    exact .inr ⟨_, _, f, rfl, rfl, by rw [if_neg (by simp [fn])]⟩
  case vmovsX f =>
    have fn : f.fn = 1 := by
      simp only [Instr.wellFormed, Bool.and_eq_true, beq_iff_eq] at hw
      exact hw.1.2
    exact .inr ⟨_, _, f, rfl, rfl, by rw [if_pos (by simp [fn])]⟩
  all_goals exact .inr ⟨_, _, _, rfl, rfl, rfl⟩

theorem listed_mx {i : Instr} (h : i.slot = some .mx) : Listed .mnop mxTable MxF.pack i := by
  cases i <;> cases h
  case mnop => exact .inl rfl
  all_goals exact .inr ⟨_, _, _, rfl, rfl, rfl⟩

theorem listed_ld {i : Instr} (h : i.slot = some .ld) : Listed .lnop ldTable LsF.pack i := by
  cases i <;> cases h
  case lnop => exact .inl rfl
  all_goals exact .inr ⟨_, _, _, rfl, rfl, rfl⟩

theorem listed_st {i : Instr} (h : i.slot = some .st) : Listed .stSnop stTable LsF.pack i := by
  cases i <;> cases h
  case stSnop => exact .inl rfl
  all_goals exact .inr ⟨_, _, _, rfl, rfl, rfl⟩

/-- The commands' table asks SEL as well, which the well-formed ones hold as it must be (R184, R192, R194). -/
theorem listed_cp {i : Instr} (h : i.slot = some .cp) (hw : i.wellFormed = true) :
    i = .cnop ∨ ∃ n c f, encode i = slotWord (n + 1) (CpF.pack f) ∧ cpTable[n]? = some c ∧ c f = some i := by
  cases i <;> cases h
  case cnop => exact .inl rfl
  case amoAdd32 | amoAdd64 | amoMin | amoMax | amoMinu | amoMaxu | amoAnd | amoOr | amoXor | amoSwap | amoFxa =>
    simp only [Instr.wellFormed, CpF.amoForm, Bool.and_eq_true, beq_iff_eq] at hw
    exact .inr ⟨_, _, _, rfl, rfl, by rw [hw.2]; rfl⟩
  case preadMst | preadWbf | preadWf8 | preadMom =>
    simp only [Instr.wellFormed, CpF.preadForm, Bool.and_eq_true, beq_iff_eq] at hw
    exact .inr ⟨_, _, _, rfl, rfl, by rw [hw.1.2]; rfl⟩
  case tdec f =>
    simp only [Instr.wellFormed, Bool.and_eq_true, Bool.not_eq_true'] at hw
    exact .inr ⟨_, _, f, rfl, rfl, if_neg (by rw [hw.1.2]; decide)⟩
  case tdecH f =>
    simp only [Instr.wellFormed, Bool.and_eq_true] at hw
    exact .inr ⟨_, _, f, rfl, rfl, if_pos hw.1.2⟩
  all_goals exact .inr ⟨_, _, _, rfl, rfl, rfl⟩

theorem length_table_lt {α : Type} {l : List α} {n : Nat} {c : α} (e : l[n]? = some c) (h : l.length < 128) :
    n + 1 < 128 := by
  have := (List.getElem?_eq_some_iff.mp e).1
  omega

/-- The slot word of a listed operation, read through its slot's table. -/
theorem decodeTable_of_listed {F : Type} {none0 i : Instr} {table : List (F → Instr)} {pack : F → BitVec 55}
    {unpack : BitVec 55 → F} (hl : Listed none0 table pack i) (up : ∀ f, unpack (pack f) = f)
    (h0 : encode none0 = 0) (len : table.length < 128) (hw : i.wellFormed = true) :
    decodeTable none0 table unpack (bits (encode i) 55 7).toNat (bits (encode i) 0 55) = .ok i := by
  rcases hl with rfl | ⟨n, c, f, e, et, rfl⟩
  · simp [h0, decodeTable]
  · rw [e, opcode_slotWord _ (length_table_lt et len), operands_slotWord,
      decodeTable_succ et (by rw [up]; exact hw), up]

/-- The bits below the operands of a layout whose lowest bits are 0 are 0. -/
theorem low_of_listed {F : Type} {none0 i : Instr} {table : List (F → Instr)} {pack : F → BitVec 55} {w : Nat}
    (hl : Listed none0 table pack i) (h0 : encode none0 = 0) (low : ∀ f, bits (pack f) 0 w = 0#w) :
    bits (bits (encode i) 0 55) 0 w = 0#w := by
  rcases hl with rfl | ⟨n, c, f, e, -, -⟩
  · simp [h0]
  · rw [e, operands_slotWord, low]

theorem decodeSlot_encode_cp {i : Instr} (h : i.slot = some .cp) (hw : i.wellFormed = true) :
    decodeSlot .cp (encode i) = .ok i := by
  rcases listed_cp h hw with rfl | ⟨n, c, f, e, et, ec⟩
  · rfl
  · simp [decodeSlot, e, opcode_slotWord _ (length_table_lt et (by decide)), bits_pack_cp, et, ec, checked_of_wellFormed hw]

/-! ### The SY slot (R65, R71, R196) -/

/-- STOP, which an operation's own bundle sets. -/
abbrev stopBit : Word := 0x8000000000000000

section StopWords

variable {n : Nat} (x : BitVec 23)

theorem sopc_syWord (h : n < 64) : (bits (stopBit ||| syWord n x) 23 6).toNat = n := by
  rw [bits_or, show bits stopBit 23 6 = 0 by decide]
  simp [syWord, bits_append_of_le, bits_append_of_add_le, Nat.mod_eq_of_lt h]

theorem sops_syWord : bits (stopBit ||| syWord n x) 0 23 = x := by
  rw [bits_or, show bits stopBit 0 23 = 0 by decide]
  simp [syWord, bits_append_of_add_le]

/-- A bundle that declares no arrivals, takes no checkpoint, does not yield and stops holds the SY operation itself. -/
theorem decodeSy_syWord (h : n < 64) : decodeSy (stopBit ||| syWord n x) = decodeSyOp n x := by
  have stop : bitOf (stopBit ||| syWord n x) 63 = true := by
    rw [bitOf_or, show bitOf stopBit 63 = true by decide, Bool.true_or]
  have yield : bitOf (stopBit ||| syWord n x) 61 = false := by
    rw [bitOf_or, show bitOf stopBit 61 = false by decide]
    simp [syWord, bitOf_append]
  have arr1 : bits (stopBit ||| syWord n x) 37 8 = 0#8 := by
    rw [bits_or, show bits stopBit 37 8 = 0 by decide]
    simp [syWord, bits_append_of_le]
  have arr2 : bits (stopBit ||| syWord n x) 29 8 = 0#8 := by
    rw [bits_or, show bits stopBit 29 8 = 0 by decide]
    simp [syWord, bits_append_of_le]
  simp only [decodeSy, stop, yield, arr1, arr2, sopc_syWord x h, sops_syWord]
  simp only [Bool.not_true, Bool.false_and, Bool.false_eq_true, if_false, if_true]
  rw [if_neg (by decide)]
  split
  · next e => exact e.symm
  · rfl

end StopWords

/-- An object that exists has no handle's scope. -/
theorem ObjName.scope_ne_of_ok {o : ObjName} (h : o.ok = true) : o.scope ≠ 7#3 := by
  rintro e
  simp [ObjName.ok, e] at h

theorem decodeSlot_encode_sy {i : Instr} (h : i.slot = some .sy) (hw : i.wellFormed = true) :
    decodeSlot .sy (stopBit ||| encode i) = .ok i := by
  have ok := checked_of_wellFormed hw
  cases i <;> cases h
  case sySnop => rfl
  all_goals refine (decodeSy_syWord _ (by decide)).trans ?_
  case arrive o sa =>
    have scope := ObjName.scope_ne_of_ok hw
    simp [decodeSyOp, bits_append_of_le, bits_append_of_add_le, scope, ok, Except.bind]
  case arriveHandle hn sa =>
    simp [decodeSyOp, bits_append_of_le, bits_append_of_add_le, show bits 56#6 3 3 = 7#3 by decide,
      show bits 56#6 0 3 = 0#3 by decide, ok, Except.bind]
  case bariAtt o =>
    simp [decodeSyOp, bits_append_of_le, bits_append_of_add_le, bitOf_append, show bitOf 1#1 0 = true by decide, ok]
  all_goals simp [decodeSyOp, bits_append_of_le, bits_append_of_add_le, bitOf_append, ok]

section PredicateLogic

variable {n : Nat} (f : PlF)

theorem operation_plWord (h : n < 16) : (bits (stopBit ||| plWord n f) 57 4).toNat = n := by
  rw [bits_or, show bits stopBit 57 4 = 0 by decide]
  simp [plWord, bits_append_of_le, bits_append_of_add_le, Nat.mod_eq_of_lt h]

theorem masks_plWord : (⟨bits (stopBit ||| plWord n f) 53 4, bits (stopBit ||| plWord n f) 49 4,
    bits (stopBit ||| plWord n f) 45 4⟩ : PlF) = f := by
  rw [bits_or, bits_or, bits_or, show bits stopBit 53 4 = 0 by decide, show bits stopBit 49 4 = 0 by decide,
    show bits stopBit 45 4 = 0 by decide]
  simp [plWord, bits_append_of_le, bits_append_of_add_le]

theorem second_plWord : bits (stopBit ||| plWord n f) 45 4 = f.kb := congrArg PlF.kb (masks_plWord f)

end PredicateLogic

theorem decodeSlot_encode_pl {i : Instr} (h : i.slot = some .pl) (hw : i.wellFormed = true) :
    decodeSlot .pl (stopBit ||| encode i) = .ok i := by
  cases i <;> cases h
  all_goals change decodePl (stopBit ||| plWord _ _) = _
  case knot f | kmov f =>
    have kb : f.kb = 0 := by simpa [Instr.wellFormed] using hw
    simp only [decodePl, operation_plWord, Nat.reduceLT, masks_plWord]
    exact if_pos ((second_plWord f).trans kb)
  all_goals simp only [decodePl, operation_plWord, Nat.reduceLT, masks_plWord]

/-! ### What a slot decodes to is well-formed (R92) -/

theorem wellFormed_of_decodePl {w : Word} {i : Instr} (h : decodePl w = .ok i) : i.wellFormed = true := by
  unfold decodePl at h
  dsimp only at h
  repeat' split at h
  all_goals cases h
  case h_7.isTrue e => exact beq_iff_eq.mpr e
  case h_8.isTrue e => exact beq_iff_eq.mpr e
  all_goals rfl

theorem bind_eq_ok {ε α β : Type} {x : Except ε α} {f : α → Except ε β} {b : β} :
    x.bind f = .ok b ↔ ∃ a, x = .ok a ∧ f a = .ok b := by
  cases x <;> simp [Except.bind]

theorem wellFormed_of_decodeSyOp {n : Nat} {x : BitVec 23} {i : Instr} (h : decodeSyOp n x = .ok i) :
    i.wellFormed = true := by
  have res : ∀ {b : Bool} {i j : Instr},
      (if b then checked j else .error .reservedBits) = Except.ok i → i.wellFormed = true := by
    intro b i j e
    split at e
    · exact wellFormed_of_checked e
    · cases e
  unfold decodeSyOp at h
  dsimp only at h
  split at h
  case h_1 =>
    split at h <;> cases h
    rfl
  case h_3 =>
    obtain ⟨j, hj, e⟩ := bind_eq_ok.mp h
    split at e <;> cases e
    exact res hj
  case h_4 =>
    split at h
    · exact res h
    · exact res h
  case h_21 => cases h
  all_goals exact res h

theorem wellFormed_of_decodeSy {w : Word} {i : Instr} (h : decodeSy w = .ok i) : i.wellFormed = true := by
  unfold decodeSy at h
  split at h
  · cases h
  · split at h
    · cases h
    · split at h
      · split at h <;> cases h
        rfl
      · split at h
        · split at h <;> cases h
          rfl
        · exact wellFormed_of_decodeSyOp h

theorem wellFormed_of_decodeSlot {k : Slot} {w : Word} {i : Instr} (h : decodeSlot k w = .ok i) :
    i.wellFormed = true := by
  cases k
  case sc => exact wellFormed_of_decodeTable (none0 := .nop) rfl h
  case va => exact wellFormed_of_decodeTable (none0 := .vnop) rfl h
  case vb => exact wellFormed_of_decodeTable (none0 := .vnop) rfl h
  case mx | ld | st =>
    simp only [decodeSlot] at h
    split at h
    · exact wellFormed_of_decodeTable (by rfl) h
    · cases h
  case cp =>
    simp only [decodeSlot] at h
    split at h
    · split at h <;> cases h
      rfl
    · split at h
      · cases h
      · split at h
        · cases h
        · split at h
          · exact wellFormed_of_checked h
          · cases h
  case pl => exact wellFormed_of_decodePl h
  case sy => exact wellFormed_of_decodeSy h

/-! ### Bundles (R61, R72) -/

/-- An operation that selects no arrival is what its slot's word decodes to. -/
theorem Bundle.decode_of_noArrivals {b : Bundle} {k : Slot} (h : slotArs k (b.word k) = 0#2) :
    b.decode k = decodeSlot k (b.word k) := by
  simp [Bundle.decode, h]

/-- The word an operation is read from in its own bundle. -/
theorem word_encodeBundle {i : Instr} {k : Slot} (h : i.slot = some k) :
    (encodeBundle i).word k = if k = .pl ∨ k = .sy then stopBit ||| encode i else encode i := by
  unfold encodeBundle
  rw [h]
  cases k <;> rfl

theorem slot_ne_vb (i : Instr) : i.slot ≠ some .vb := by cases i <;> nofun


/-- A slot word selects no arrival. -/
theorem slotArs_of_listed {F : Type} {none0 i : Instr} {table : List (F → Instr)} {pack : F → BitVec 55} {k : Slot}
    (hl : Listed none0 table pack i) (h0 : encode none0 = 0) : slotArs k (encode i) = 0#2 := by
  have select : bits (encode i) 62 2 = 0#2 := by
    rcases hl with rfl | ⟨n, c, f, e, -, -⟩
    · rw [h0]; rfl
    · rw [e, arrivals_slotWord]
  unfold slotArs
  split
  · rfl
  · rfl
  · exact select

theorem slotArs_encode_cp {i : Instr} (h : i.slot = some .cp) (hw : i.wellFormed = true) :
    slotArs .cp (encode i) = 0#2 := by
  rcases listed_cp h hw with rfl | ⟨n, c, f, e, -, -⟩
  · rfl
  · rw [e]; exact arrivals_slotWord _

/-- An operation encoded alone in a bundle is what the word in its slot decodes to. -/
theorem decode_encodeBundle {i : Instr} {k : Slot} {w : Word} (h : i.slot = some k)
    (e : (if k = .pl ∨ k = .sy then stopBit ||| encode i else encode i) = w) (a : slotArs k w = 0#2) :
    (encodeBundle i).decode k = decodeSlot k w := by
  rw [← word_encodeBundle h] at e
  subst e
  exact Bundle.decode_of_noArrivals a

theorem decode_encodeBundle_self {i : Instr} {k : Slot} (h : i.slot = some k) (hw : i.wellFormed = true) :
    (encodeBundle i).decode k = .ok i := by
  cases k
  case sc =>
    have hl := listed_sc h
    exact (decode_encodeBundle h rfl (slotArs_of_listed hl rfl)).trans
      (decodeTable_of_listed hl ScF.unpack_pack rfl (by decide) hw)
  case va =>
    have hl := listed_va h hw
    exact (decode_encodeBundle h rfl (slotArs_of_listed hl rfl)).trans
      (decodeTable_of_listed hl VecF.unpack_pack rfl (by decide) hw)
  case vb => exact absurd h (slot_ne_vb i)
  case mx =>
    have hl := listed_mx h
    have low := beq_iff_eq.mpr (low_of_listed hl rfl bits_pack_mx)
    exact (decode_encodeBundle h rfl (slotArs_of_listed hl rfl)).trans ((if_pos low).trans
      (decodeTable_of_listed hl MxF.unpack_pack rfl (by decide) hw))
  case ld =>
    have hl := listed_ld h
    have low := beq_iff_eq.mpr (low_of_listed hl rfl bits_pack_ls)
    exact (decode_encodeBundle h rfl (slotArs_of_listed hl rfl)).trans ((if_pos low).trans
      (decodeTable_of_listed hl LsF.unpack_pack rfl (by decide) hw))
  case st =>
    have hl := listed_st h
    have low := beq_iff_eq.mpr (low_of_listed hl rfl bits_pack_ls)
    exact (decode_encodeBundle h rfl (slotArs_of_listed hl rfl)).trans ((if_pos low).trans
      (decodeTable_of_listed hl LsF.unpack_pack rfl (by decide) hw))
  case cp => exact (decode_encodeBundle h rfl (slotArs_encode_cp h hw)).trans (decodeSlot_encode_cp h hw)
  case pl => exact (decode_encodeBundle h rfl rfl).trans (decodeSlot_encode_pl h hw)
  case sy => exact (decode_encodeBundle h rfl rfl).trans (decodeSlot_encode_sy h hw)

/-- Settles O54: an operation's fields and opcode are read back from where the encoder puts them, and every branch of
the decoder that answers an operation has checked it. -/
theorem decodeOfEncodeIsTheOperation : Obligations.DecodeOfEncodeIsTheOperation := by
  unfold Obligations.DecodeOfEncodeIsTheOperation
  exact ⟨fun i k => decode_encodeBundle_self, fun k w i => wellFormed_of_decodeSlot⟩

/-- Settles O55: the words stand in the tables as the spec writes them out. -/
theorem writtenOutWordsDecode : Obligations.WrittenOutWordsDecode := by
  unfold Obligations.WrittenOutWordsDecode
  refine ⟨?add, ?loop, ?vfma, ?mldw, ?mmulz, ?copyt, ?wait, ?nop, ?tend⟩ <;> decide

end Sys2Proof.EncodingProofs
end

section
/-! PROOFS. What every operation has in common: it answers a next state, a stall holds it, a guard that is off takes its
effect away, and a step runs it (R8, R76, R93, R97). -/

namespace Sys2Proof.StepProofs

open Sys2Proof Sys2Proof.Machine Sys2Proof.Claim

/-! ### Every operation answers a next state -/

/-- PADV is an issue, or its table has it wait or trap (R209). -/
theorem execPadv_answers (tko : BitVec 6) (rf : Bool) (r n : BitVec 6) (s : State) :
    ∃ t, execPadv tko rf r n s = .next t := by
  unfold execPadv
  split
  · exact issue_answers ..
  · split
    · split
      · exact ⟨_, rfl⟩
      · exact ⟨_, rfl⟩
      · exact issue_answers ..
    · exact issue_answers ..

theorem exec_answers (i : Instr) (s : State) : ∃ t, exec i s = .next t := by
  cases i
  case padv => exact execPadv_answers ..
  all_goals exact ⟨_, rfl⟩

theorem afterExec_answers {o : Host.Outcome State Fault Refusal} (h : ∃ t, o = .next t) : ∃ t, afterExec o = .next t := by
  obtain ⟨t, rfl⟩ := h
  exact ⟨_, rfl⟩

theorem stepAct_answers (a : Act) (s : State) : ∃ t, stepAct a s = .next t := by
  cases a with
  | event i o => exact afterExec_answers (exec_answers ..)
  | core id i o => exact afterExec_answers (exec_answers ..)
  | run id =>
    simp only [stepAct]
    split
    · exact afterExec_answers (exec_answers ..)
    · exact ⟨_, rfl⟩

theorem canStep_of_awake {s : State} (h : s.agenda ≠ [] ∨ s.svc.holdReset = false) : s.canStep := by
  unfold State.canStep step
  split
  · exact stepAct_answers ..
  · next e =>
    have awake : s.svc.holdReset = false := h.resolve_left fun n => n e
    rw [awake, if_neg (by decide)]
    split
    · exact stepAct_answers ..
    · exact ⟨_, rfl⟩

/-- Settles O57: an event and an issue answer by their form, PADV by its stages. -/
theorem everyOperationAnswersANextState : Obligations.EveryOperationAnswersANextState := by
  unfold Obligations.EveryOperationAnswersANextState
  refine ⟨exec_answers, fun s => canStep_of_awake, fun s e h => ?_⟩
  simp [step, e, h]

/-! ### Stalls and guards -/

/-- Settles O34: every operation of a slot asks its checks before anything else. -/
theorem stallsHoldOneCycle : Obligations.StallsHoldOneCycle := by
  unfold Obligations.StallsHoldOneCycle
  intro i s hs hw
  cases i
  case padv tko rf r n =>
    show execPadv tko rf r n s = _
    unfold execPadv
    split
    · exact issue_wait hw
    · rw [hw]; exact issue_wait hw
  -- an event has no slot; every other operation is an issue
  all_goals try exact absurd rfl hs
  all_goals exact issue_wait hw

/-- An operation with a guard is an issue of its effect. -/
theorem exec_of_guardOff {i : Instr} {s : State} (h : guardOff i s.core = true) : ∃ eff, exec i s = issue i eff s := by
  cases i
  -- an operation without a guard is never off
  all_goals try cases h
  all_goals exact ⟨_, rfl⟩

/-- Settles O7: the no-ops' effect is none, and a guard that is off takes the effect away. -/
theorem noOpsAndGuardedOffChangeNothing : Obligations.NoOpsAndGuardedOffChangeNothing := by
  unfold Obligations.NoOpsAndGuardedOffChangeNothing
  constructor
  · intro s f a b c sa i hi hr
    obtain ⟨hgo, hon⟩ := hr
    have none : exec i s = issue i id s := by
      simp only [List.mem_cons, List.not_mem_nil, or_false] at hi
      rcases hi with rfl | rfl | rfl | rfl | rfl | rfl | rfl | rfl | rfl | rfl <;> rfl
    exact none.trans (issue_runs hgo hon)
  · intro i s hgo hoff
    obtain ⟨eff, he⟩ := exec_of_guardOff hoff
    exact he.trans (issue_off hgo hoff)

/-- Settles O16: each operation is one mask result. -/
theorem predicateLogicResults : Obligations.PredicateLogicResults := by
  unfold Obligations.PredicateLogicResults
  intro f s a b sends
  refine ⟨?kand, ?kor, ?kxor, ?kandn, ?korn, ?knot, ?kmov⟩ <;> intro runs
  all_goals exact ScalarProofs.sends_result runs rfl rfl

/-! ### Steps -/

theorem slotTodo_of_decode {s : State} {i : Instr}
    (h : s.core.bundle.decode (Slot.all.getD s.core.slot .sy) = .ok i) :
    slotTodo s = .exec i (s.onCore fun d => d.atSlot s.core.bundle s.core.slot) := by
  have op : s.core.slotOp = some i := by rw [Core.slotOp, h]
  simp only [slotTodo, op]

theorem runTodo_of_running {s : State} (h : s.core.mode = .running) (m : s.core.midBundle = true) :
    runTodo s = slotTodo s := by simp [runTodo, h, m]

theorem step_event {s : State} {rest : List Act} {i : Instr} {o : Occ} (h : s.agenda = .event i o :: rest) :
    step s = afterExec (exec i { s with agenda := rest, occ := o }) := by simp [step, h, stepAct]

theorem step_run {s t : State} {rest : List Act} {id : BitVec 10} {i : Instr} (h : s.agenda = .run id :: rest)
    (e : runTodo ({ s with agenda := rest }.focus id) = .exec i t) : step s = afterExec (exec i t) := by
  simp [step, h, stepAct, e]

/-- Settles O56: the agenda's head is the act, and what follows an operation is the passing of time. -/
theorem stepRunsTheDecodedOperation : Obligations.StepRunsTheDecodedOperation := by
  unfold Obligations.StepRunsTheDecodedOperation
  intro s rest aged timed
  constructor
  · intro id i ha t b k u hm hb hd v hv
    have todo : runTodo t = .exec i u := (runTodo_of_running hm hb).trans (slotTodo_of_decode hd)
    rw [step_run ha todo, hv]
    refine ⟨fun h => ?_, fun _ => rfl⟩
    rw [afterExec, endBundle_of_lt h]
    rfl
  · intro i o ha v hv h
    rw [step_event ha, hv, afterExec, endBundle_of_lt h]
    rfl

/-! ### Reset -/

/-- Settles O60: each part of the state after reset is written out. -/
theorem resetState : Obligations.ResetState := by
  unfold Obligations.ResetState
  have rs : ∀ i, (Core.reset 0).rs i = 0 := by simp [Core.rs, Core.reset]
  have token : ∀ i, (Core.reset 0).token i = 0 := fun i => by
    show (Vector.replicate 63 (0 : BitVec 16)).toList.getD i.toNat 0 = 0
    rw [Vector.toList_replicate, List.getD_eq_getElem?_getD, List.getElem?_replicate]
    split <;> rfl
  have rk : ∀ i, (Core.reset 0).rk i = if i = 0 then BitVec.allOnes 256 else 0 := by decide
  have level : ∀ d r, (State.reset.router d r).level = 0 := by simp [State.router, State.reset, Net.reset]
  have links : ∀ p, (State.reset.link p).next = 0 ∧ (State.reset.link p).acked = 0xFFF := by
    simp [State.link, State.reset, Fabric.reset, LinkState.reset]
  exact ⟨rfl, fun _ => rfl, rfl, rfl, rfl, rfl, rfl, rfl, rfl, rfl, rfl, rfl, rfl, rfl, rfl, rfl, rs, token, rk, level, links⟩

end Sys2Proof.StepProofs
end

section
/-! PROOFS. The control half of the scalar slot: branches, the loop, control registers and masks, accumulator banks, the
tile table (R108 to R122). -/

namespace Sys2Proof.ScalarControlProofs
open Sys2Proof Sys2Proof.Machine Sys2Proof.Claim Sys2Proof.EncodingProofs

/-! ### What an operation that runs has passed -/

section Runs

variable {i : Instr} {s t : State}

theorem firstTrap_eq_none {l : List TrapCond} : firstTrap l = none ↔ l = [] := by
  cases l with
  | nil => simp [firstTrap]
  | cons t l =>
    simp only [firstTrap, reduceCtorEq, iff_false]
    split
    · split <;> simp
    · simp

theorem earlyCheck_eq_none : earlyCheck i s = none ↔
    encodingBad i s = false ∧ featureMissing i s = none ∧ groupBad i s.core = false := by
  unfold earlyCheck
  split
  · simp_all
  · split
    · simp_all
    · split <;> simp_all

/-- An operation that runs is well-formed and meets its entry's own conditions (R92). -/
theorem runs_encoding (h : Runs i s) : i.wellFormed = true ∧ entryBad i s = false := by
  have enc := (earlyCheck_eq_none.mp (check_go_iff.mp h.1).1).1
  simp only [encodingBad, Bool.or_eq_false_iff, Bool.not_eq_false'] at enc
  exact ⟨enc.1.1, enc.2⟩

/-- An operation that runs raises no trap of its entry (R93). -/
theorem runs_entryTraps (h : Runs i s) : entryTraps i s = [] := by
  have none := firstTrap_eq_none.mp (check_go_iff.mp h.1).2.2.1
  exact (List.append_eq_nil_iff.mp none).1

/-- The state in which an operation has its effect: the arrivals are no part of what an operation reads. -/
abbrev withArrs (s : State) (l : List PendArr) : State := { s with core := { s.core with arrs := l } }

/-- An operation that runs does what its effect does, whatever the arrivals. -/
theorem does_of_effect {eff : State → State} (h : Runs i s) (he : exec i s = issue i eff s)
    (ht : ∀ l, eff (withArrs s l) = withArrs t l) (gws : t.core.gws = s.core.gws := by rfl)
    (slot : t.core.slot = s.core.slot := by rfl) : Does i s t := by
  refine (he.trans (issue_runs h.1 h.2)).trans (congrArg _ ?_)
  have e := ht (s.core.addArrivals i).arrs
  show (eff (withArrs s (s.core.addArrivals i).arrs)).onCore _ = _
  rw [e]
  simp only [State.onCore, booked, gws, slot]

/-- An operation whose effect is one result. -/
theorem sends_of_effect {w : State → ResVal} {g : State → Flags} {st : State → BitVec 5} {v : ResVal} {fl : Flags}
    {b : BitVec 5} (h : Runs i s)
    (he : exec i s = issue i (fun u => u.result i (w u) (g u) (st u)) s) (hv : ∀ l, w (withArrs s l) = v)
    (hg : ∀ l, g (withArrs s l) = fl) (hb : ∀ l, st (withArrs s l) = b) :
    Sends i s v (latency i) fl b := by
  refine does_of_effect h he fun l => ?_
  rw [hv, hg, hb]
  rfl

end Runs

/-- Settles O3: the effects set the delay, the link or the loop and nothing else. -/
theorem branchAndLoopEffects : Obligations.BranchAndLoopEffects := by
  unfold Obligations.BranchAndLoopEffects
  constructor
  · intro f s goes link rel
    refine ⟨?br, ?brc, ?call, ?ret, ?jrLink, ?jr⟩ <;> intro runs
    case br => exact does_of_effect runs rfl fun _ => rfl
    case brc => exact does_of_effect runs rfl fun _ => rfl
    case call => exact does_of_effect runs rfl fun _ => rfl
    case ret => exact does_of_effect runs rfl fun _ => rfl
    case jrLink =>
      intro h
      refine does_of_effect runs rfl fun l => ?_
      have lat : latency (.jr f) = 1 := if_neg h
      simp only [if_neg h, State.result, lat]
      rfl
    case jr =>
      intro h
      refine does_of_effect runs rfl fun l => ?_
      simp only [if_pos h]
      rfl
  · intro f s d body counts
    have effect : ∀ l, loopStart f (withArrs s l) = (withArrs s l).onCore fun c =>
        if counts.contains 0 then { c with delay := some ⟨1, some (c.pc + 1 + body)⟩ }
        else { c with loop := some ⟨c.pc + 1, body, counts, counts.map fun _ => 0⟩ } := fun _ => rfl
    constructor <;> intro runs zero
    · refine does_of_effect runs rfl fun l => ?_
      rw [effect, List.contains_iff_mem.mpr zero]
      rfl
    · refine does_of_effect runs rfl fun l => ?_
      have none : counts.contains 0 = false := by simpa using zero
      have zeros : (counts.map fun _ => 0) = List.replicate d 0 := by simp [counts, List.map_map, Function.comp_def]
      rw [effect, none, zeros]
      rfl

/-- Settles O4: each is one result; which registers a read or write may name, the checks have asked. -/
theorem controlMaskIdentityResults : Obligations.ControlMaskIdentityResults := by
  unfold Obligations.ControlMaskIdentityResults
  intro f s a w kd
  refine ⟨?movcr, ?movrc, ?movsk, ?movks, ?shape, ?getid⟩ <;> intro runs
  case movcr =>
    have listed : ∃ x, s.readCr f.imm.toNat = some x := by
      have form := (runs_encoding runs).1
      simp only [Instr.wellFormed, Bool.and_eq_true, decide_eq_true_eq] at form
      obtain ⟨-, le⟩ := form
      interval_cases f.imm.toNat <;> exact ⟨_, rfl⟩
    obtain ⟨x, hx⟩ := listed
    refine ⟨x, hx, sends_of_effect runs rfl (fun l => ?_) (fun _ => rfl) fun _ => rfl⟩
    have e : (withArrs s l).readCr f.imm.toNat = some x := hx
    simp only [e, Option.getD_some]
  case movrc =>
    have none := runs_entryTraps runs
    simp only [entryTraps, runs.2, Bool.false_or] at none
    refine ⟨by_contra fun h => ?_, sends_of_effect runs rfl (fun _ => rfl) (fun _ => rfl) fun _ => rfl⟩
    simp [crWritable, h] at none
  case movsk => exact sends_of_effect runs rfl (fun _ => rfl) (fun _ => rfl) fun _ => rfl
  case movks =>
    refine ⟨(s.core.rk kd &&& ~~~((BitVec.allOnes 64).setWidth 256 <<< w)) ||| a.setWidth 256 <<< w,
      sends_of_effect runs rfl (fun _ => rfl) (fun _ => rfl) fun _ => rfl, fun i hi => ?_⟩
    simp only [BitVec.getLsbD_or, BitVec.getLsbD_and, BitVec.getLsbD_not, BitVec.getLsbD_shiftLeft,
      BitVec.getLsbD_setWidth, BitVec.getLsbD_allOnes, hi]
    by_cases h : w ≤ i ∧ i < w + 64
    · simp [h, show ¬ i < w by omega, show i - w < 64 by omega, show i - w < 256 by omega]
    · rw [if_neg h]
      by_cases n : i < w
      · simp [n]
      · simp [n, show ¬ i - w < 64 by omega, BitVec.getLsbD_of_ge a (i - w) (by omega)]
  case shape => exact sends_of_effect runs rfl (fun _ => rfl) (fun _ => rfl) fun _ => rfl
  case getid =>
    refine ⟨idValue s (bits f.imm 0 3).toNat,
      sends_of_effect runs rfl (fun _ => rfl) (fun _ => rfl) fun _ => rfl, ?_⟩
    have form := (runs_encoding runs).1
    simp only [Instr.wellFormed, ScF.formX, Bool.and_eq_true, decide_eq_true_eq] at form
    have lt : f.imm.toNat < 4 := form.2.2
    have sel : (bits f.imm 0 3).toNat = f.imm.toNat := by
      simp [bits]
      omega
    rw [sel]
    clear_value a
    interval_cases f.imm.toNat
    · show ((0#40 ++ s.modid ++ 0#2 ++ s.core.id : BitVec 64)).toNat = _
      simp only [BitVec.toNat_append]
      rw [← Nat.shiftLeft_add_eq_or_of_lt s.core.id.isLt, ← Nat.shiftLeft_add_eq_or_of_lt (by decide),
        ← Nat.shiftLeft_add_eq_or_of_lt s.modid.isLt]
      simp [Nat.shiftLeft_eq]
      omega
    · rfl
    · rfl
    · rfl

/-- The lowest base of a run of free banks, where there is one. -/
theorem freeRun_eq_some {own : BitVec 32} {n b : Nat} : freeRun own n = some b ↔
    (b < 33 - n ∧ ∀ i < n, own.getLsbD (b + i) = false) ∧ ∀ c < b, ∃ i < n, own.getLsbD (c + i) = true := by
  simp [freeRun]
  tauto

theorem freeRun_eq_none {own : BitVec 32} {n : Nat} : freeRun own n = none ↔
    ∀ b < 33 - n, ∃ i < n, own.getLsbD (b + i) = true := by
  simp [freeRun]

theorem getLsbD_bankSet (b n i : Nat) : (bankSet b n).getLsbD i = decide (i < 32 ∧ b ≤ i ∧ i < b + n) := by
  rw [bankSet, ← Nat.shiftLeft_eq, BitVec.getLsbD_ofNat, Nat.testBit_shiftLeft, Nat.testBit_two_pow_sub_one]
  rw [Bool.eq_iff_iff]
  simp
  omega

/-- AALLOC's and AFREE's banks are written to zero, and no other element of the accumulator memory changes (R16). -/
theorem get_clear_inBanks {m : Sparse Word32} {b n k : Nat} (h : b + n ≤ 32) :
    (b ≤ k / 6144 ∧ k / 6144 < b + n → Sparse.get 0 (Sparse.clear (inBanks (bankSet b n)) m) k = 0) ∧
    (¬ (b ≤ k / 6144 ∧ k / 6144 < b + n) →
      Sparse.get 0 (Sparse.clear (inBanks (bankSet b n)) m) k = Sparse.get 0 m k) := by
  rw [Sparse.get_clear, inBanks, getLsbD_bankSet]
  constructor <;> intro hk
  · rw [if_pos (by simp; omega)]
  · rw [if_neg (by simp; omega)]

/-- Settles O5: the banks taken are the lowest free run, and those given up lie in range, as the checks have asked. -/
theorem accumulatorBanksTakenAndFreed : Obligations.AccumulatorBanksTakenAndFreed := by
  unfold Obligations.AccumulatorBanksTakenAndFreed
  intro f s n free base within cleared res
  refine ⟨?noRun, ?run, ?afree⟩
  case noRun =>
    intro runs no
    have none : allocRun n s.core.own = none := by
      unfold allocRun
      split
      · next le =>
        have taken := no.resolve_left (not_not.mpr le)
        refine freeRun_eq_none.mpr fun b hb => ?_
        by_contra h
        simp only [not_exists, not_and, Bool.not_eq_true] at h
        exact taken b ⟨by omega, h⟩
      · rfl
    refine does_of_effect runs rfl fun l => ?_
    have e : allocRun (scB f (withArrs s l).core).toNat (withArrs s l).core.own = Option.none := none
    simp only [allocBanks, e]
    rfl
  case run =>
    intro runs le le' b hb least
    have some : allocRun n s.core.own = some b := by
      rw [allocRun, if_pos ⟨le, le'⟩, freeRun_eq_some]
      obtain ⟨fit, own⟩ := hb
      refine ⟨⟨by omega, own⟩, fun c hc => ?_⟩
      by_contra h
      simp only [not_exists, not_and] at h
      exact least c hc ⟨by omega, by simpa using h⟩
    have effect : Does (.aalloc f) s { s with core := { s.core.zeroBanks (bankSet b n) with
        own := s.core.own ||| bankSet b n, inflight := s.core.inflight ++ res b, seq := s.core.seq + 1 } } := by
      refine does_of_effect runs rfl fun l => ?_
      have e : allocRun (scB f (withArrs s l).core).toNat (withArrs s l).core.own = Option.some b := some
      simp only [allocBanks, e]
      rfl
    refine ⟨_, effect, rfl, fun i hi => ?_, fun k => get_clear_inBanks hb.1⟩
    show (s.core.own ||| bankSet b n).getLsbD i = true ↔ _
    rw [BitVec.getLsbD_or, getLsbD_bankSet]
    simp [hi, within]
  case afree =>
    intro runs
    have bound : 1 ≤ n ∧ base + n ≤ 32 := by
      have none := runs_entryTraps runs
      simp only [entryTraps, runs.2] at none
      by_contra h
      rw [if_neg (by decide), if_pos (show n = 0 ∨ 32 < n ∨ 32 < base + n by omega)] at none
      cases none
    have effect : Does (.afree f) s { s with core := { s.core.zeroBanks (bankSet base n) with
        own := s.core.own &&& ~~~bankSet base n } } := does_of_effect runs rfl fun _ => rfl
    refine ⟨_, effect, rfl, fun i hi => ?_, fun k => get_clear_inBanks bound.2⟩
    show (s.core.own &&& ~~~bankSet base n).getLsbD i = true ↔ _
    rw [BitVec.getLsbD_and, BitVec.getLsbD_not, getLsbD_bankSet]
    simp [hi, within, imp_iff_not_or]

/-! ### The tile table (R119 to R122) -/

/-- The lowest entry of a tag (R119). -/
theorem tileOfTag_eq_some {c : Core} {x : Word} {n : Nat} : c.tileOfTag x = some n ↔
    x.setWidth 32 ≠ (0 : Word32) ∧ n < 128 ∧ TileE.tag (c.tile (BitVec.ofNat 7 n)) = x.setWidth 32 ∧
      ∀ j < n, TileE.tag (c.tile (BitVec.ofNat 7 j)) ≠ x.setWidth 32 := by
  have low : bits x 0 32 = x.setWidth 32 := by ext; simp [bits]
  simp only [Core.tileOfTag, low]
  by_cases zero : x.setWidth 32 = (0 : Word32)
  · simp [zero]
  · rw [if_neg zero, List.find?_range_eq_some]
    simp only [beq_iff_eq, List.mem_range, Bool.not_eq_true', beq_eq_false_iff_ne]
    tauto

theorem tileOfTag_eq_none {c : Core} {x : Word} : c.tileOfTag x = none ↔
    x.setWidth 32 = (0 : Word32) ∨ ∀ n < 128, TileE.tag (c.tile (BitVec.ofNat 7 n)) ≠ x.setWidth 32 := by
  have low : bits x 0 32 = x.setWidth 32 := by ext; simp [bits]
  simp only [Core.tileOfTag, low]
  by_cases zero : x.setWidth 32 = (0 : Word32)
  · simp [zero]
  · rw [if_neg zero, or_iff_right zero, List.find?_eq_none]
    simp

@[simp] theorem state_withState (e : BitVec 128) (st : BitVec 2) (p : BitVec 6) : TileE.state (TileE.withState e st p) = st := by
  simp [TileE.state, TileE.withState, bits_append_of_le, bits_append_of_add_le]

@[simp] theorem ptok_withState (e : BitVec 128) (st : BitVec 2) (p : BitVec 6) : TileE.ptok (TileE.withState e st p) = p := by
  simp [TileE.ptok, TileE.withState, bits_append_of_le, bits_append_of_add_le]

@[simp] theorem withState_withState (e : BitVec 128) (st st' : BitVec 2) (p p' : BitVec 6) :
    TileE.withState (TileE.withState e st p) st' p' = TileE.withState e st' p' := by
  simp [TileE.withState, bits_append_of_le, bits_append_of_add_le]

/-- A field of a field. -/
theorem bits_bits {n l w l' w' : Nat} {x : BitVec n} (h : l' + w' ≤ w) :
    bits (bits x l w) l' w' = bits x (l + l') w' := by
  ext i hi
  simp [bits, show l' + i < w by omega, Nat.add_assoc]

/-- The other fields are as they were. -/
theorem getLsbD_withState_of_ne {e : BitVec 128} {st : BitVec 2} {i : Nat} (hi : i < 96) (no : ¬ (32 ≤ i ∧ i < 34)) :
    (TileE.withState e st (TileE.ptok e)).getLsbD i = e.getLsbD i := by
  simp only [TileE.withState, TileE.ptok, bits, BitVec.getLsbD_append, BitVec.getLsbD_extractLsb']
  by_cases low : i < 26
  · simp [low]
  · by_cases mid : i < 32
    · simp [low, show i - 26 < 6 by omega, show 26 + (i - 26) = i by omega]
    · simp [low, show ¬ i - 26 < 6 by omega, show ¬ i - 26 - 6 < 2 by omega, show i - 26 - 6 - 2 < 94 by omega,
        show 34 + (i - 26 - 6 - 2) = i by omega]

/-- Settles O6: the lookup is the first entry of the tag; the others write one entry or two registers. -/
theorem tileTableEffects : Obligations.TileTableEffects := by
  unfold Obligations.TileTableEffects
  intro f s n e tag x writes
  refine ⟨?found, ?none, ?tdef, ?tstate, ?tfree⟩
  case found =>
    intro runs i hi nonzero here least
    have e : s.core.tileOfTag (s.core.rs f.sa) = some i := tileOfTag_eq_some.mpr ⟨nonzero, hi, here, least⟩
    refine sends_of_effect runs rfl (fun l => ?_) (fun _ => rfl) fun _ => rfl
    have e' : s.core.tileOfTag ((withArrs s l).core.rs f.sa) = some i := e
    simp only [e']
  case none =>
    intro runs no
    have e : s.core.tileOfTag (s.core.rs f.sa) = none := tileOfTag_eq_none.mpr no
    refine sends_of_effect runs rfl (fun l => ?_) (fun _ => rfl) fun _ => rfl
    have e' : s.core.tileOfTag ((withArrs s l).core.rs f.sa) = none := e
    simp only [e']
    rfl
  case tdef =>
    intro runs
    let image := BitVec.ofNat 128 (natOfBytes (s.spadBytes (s.core.rs f.sa).toNat 16))
    exact ⟨TileE.withState image TileE.empty 0, does_of_effect runs rfl fun _ => rfl, state_withState ..,
      ptok_withState .., withState_withState ..⟩
  case tstate =>
    intro runs
    refine does_of_effect runs rfl fun l => ?_
    simp only [State.result, State.onCore, Core.addResult, List.append_assoc, List.cons_append, List.nil_append]
    rfl
  case tfree =>
    intro runs
    refine ⟨0#32 ++ bits (TileE.withState e TileE.empty (TileE.ptok e)) 0 96, does_of_effect runs rfl fun _ => rfl,
      ?_, ?_, fun i hi no => ?_⟩
    · simp [TileE.tag, bits_append_of_le]
    · simp only [TileE.state, bits_append_of_add_le (show 32 + 2 ≤ 96 by decide), bits_bits (show 32 + 2 ≤ 96 by decide),
        Nat.zero_add]
      exact state_withState ..
    · rw [BitVec.getLsbD_append, if_pos hi, bits, BitVec.getLsbD_extractLsb', Nat.zero_add, decide_eq_true hi,
        Bool.true_and]
      exact getLsbD_withState_of_ne hi no

end Sys2Proof.ScalarControlProofs
end

section
/-! PROOFS. The order in which an operation's traps and stalls are found, and what a trap leaves (R77, R93, R326). -/

namespace Sys2Proof.TrapProofs

open Sys2Proof Sys2Proof.Machine Sys2Proof.Claim Sys2Proof.ScalarControlProofs

/-! ### The trap an operation raises -/

/-- The trap raised is one that was found, and none found has a lower rank (R93). -/
theorem firstTrap_spec {l : List TrapCond} (h : l ≠ []) :
    ∃ t ∈ l, firstTrap l = some t ∧ ∀ u ∈ l, t.cause.rank ≤ u.cause.rank := by
  induction l with
  | nil => exact absurd rfl h
  | cons t l ih =>
    by_cases e : l = []
    · subst e
      exact ⟨t, List.mem_cons_self .., rfl, by simp⟩
    · obtain ⟨u, hu, first, least⟩ := ih e
      simp only [firstTrap, first]
      by_cases lt : u.cause.rank < t.cause.rank
      · rw [if_pos lt]
        refine ⟨u, List.mem_cons_of_mem _ hu, rfl, fun v hv => ?_⟩
        rcases List.mem_cons.mp hv with rfl | hv
        · exact lt.le
        · exact least v hv
      · rw [if_neg lt]
        refine ⟨t, List.mem_cons_self .., rfl, fun v hv => ?_⟩
        rcases List.mem_cons.mp hv with rfl | hv
        · exact le_rfl
        · exact (not_lt.mp lt).trans (least v hv)

/-- A first trap below which none ranks is raised. -/
theorem firstTrap_cons_of_le {t : TrapCond} {l : List TrapCond} (h : ∀ u ∈ l, t.cause.rank ≤ u.cause.rank) :
    firstTrap (t :: l) = some t := by
  by_cases e : l = []
  · subst e; rfl
  · obtain ⟨u, hu, first, -⟩ := firstTrap_spec e
    simp only [firstTrap, first, if_neg (not_lt.mpr (h u hu))]

/-- Settles O35: the checks are asked one after another, and the lowest rank among the operand traps is raised. -/
theorem checksComeInOrder : Obligations.ChecksComeInOrder := by
  unfold Obligations.ChecksComeInOrder
  intro i s
  refine ⟨fun enc => ?_, fun enc b feat => ?_, fun enc feat grp => ?_, check_wait, fun early still found => ?_⟩
  · exact check_trap_of_early (by simp [earlyCheck, enc])
  · exact check_trap_of_early (by simp [earlyCheck, enc, feat])
  · exact check_trap_of_early (by simp [earlyCheck, enc, feat, grp])
  · obtain ⟨t, mem, first, least⟩ := firstTrap_spec found
    exact ⟨t, mem, by rw [check_of_quiet early still, first], least⟩

/-! ### What a trap leaves -/

/-- A slot operation whose checks find a trap takes it (R93, R326). -/
theorem exec_of_trap {i : Instr} {s : State} {t : TrapCond} (hs : i.slot ≠ none) (h : check i s = .trap t) :
    exec i s = .next ((s.logMemTrap i t).takeTrap t s.core.slotPos) := by
  cases i
  case padv tko rf r n =>
    show execPadv tko rf r n s = _
    unfold execPadv
    split
    · exact issue_trap h
    · rw [h]; exact issue_trap h
  -- an event has no slot; every other operation is an issue
  all_goals try exact absurd rfl hs
  all_goals exact issue_trap h

/-- A trap taken: the core is its shadow set's, the record kept, and of the rest the log alone changes. -/
theorem exec_trap_spec {i : Instr} {s : State} {t : TrapCond} (hs : i.slot ≠ none) (h : check i s = .trap t) :
    ∃ v r l, exec i s = .next { s with
        core := { s.core.rollback with mode := .trapped, trap := some r, lastTrap := l }, svc := v } ∧
      r.cause = t.cause ∧ r.info = t.info ∧ r.slot = s.core.slotPos ∧ r.bidx = s.core.pc ∧
      r.ckidx = s.core.shadow.pc ∧ r.grpc = s.core.grpc ∧ r.ptb = s.ptb := by
  have run := exec_of_trap hs h
  rw [State.logMemTrap_frame] at run
  obtain ⟨r, l, taken, record⟩ := State.takeTrap_spec { s with svc := (s.logMemTrap i t).svc } t s.core.slotPos
  exact ⟨_, r, l, run.trans (congrArg _ taken), record⟩

/-- Settles O32: a rollback copies the shadow set back and drops what is not committed. -/
theorem trapsRollBack : Obligations.TrapsRollBack := by
  unfold Obligations.TrapsRollBack
  intro i s t hs h
  obtain ⟨v, r, l, run, cause, info, slot, bidx, ckidx, grpc, ptb⟩ := exec_trap_spec hs h
  have released : ∀ q ∈ s.core.rollback.queue, q.released = true := fun q hq => by
    simpa using (List.mem_filter.mp hq).2
  have committed : ∀ p ∈ s.core.rollback.posts, p.committed = true := fun p hp => by
    simpa using (List.mem_filter.mp hp).2
  exact ⟨_, r, run, rfl, rfl, cause, info, slot, bidx, ckidx, grpc, ptb, rfl, rfl, rfl, rfl, rfl, rfl, rfl, rfl, rfl,
    rfl, rfl, rfl, rfl, released, committed, rfl, rfl, rfl, rfl, rfl, rfl, rfl, rfl⟩

theorem cause_of_mem_handleTrap {c : Core} {h : BitVec 3} {u : TrapCond} (hu : u ∈ handleTrap c h) :
    u.cause = .handleInvalid := by
  unfold handleTrap at hu
  split at hu
  · cases hu
  · rw [List.mem_singleton.mp hu]

/-- Settles O33: TRAP and BRK never stall and find their own trap alone; a privileged operation ranks below the
invalid handle of an arrival. -/
theorem trapsRaisedByOperations : Obligations.TrapsRaisedByOperations := by
  unfold Obligations.TrapsRaisedByOperations
  constructor
  · intro s code raised passed
    have found : ∀ (i : Instr) (k : Cause), i.slot ≠ none → stalled i s = false →
        (s.core.skipBrk ≠ some s.core.pc → entryTraps i s = [⟨k, code.setWidth 64⟩]) → raised i k := by
      intro i k hs still entry early none brk
      have one : operandTraps i s = [⟨k, code.setWidth 64⟩] := by simp [operandTraps, entry brk, none]
      have trap : check i s = .trap ⟨k, code.setWidth 64⟩ := by rw [check_of_quiet early still, one]; rfl
      obtain ⟨v, r, l, run, cause, info, -⟩ := exec_trap_spec hs trap
      exact ⟨_, r, run, rfl, rfl, cause, info⟩
    refine ⟨found _ _ nofun rfl fun brk => ?_, found _ _ nofun rfl fun brk => ?_, fun runs => ?_, fun runs => ?_⟩
    · simp [entryTraps, brk]
    · simp [entryTraps, brk]
    · exact does_of_effect runs rfl fun _ => rfl
    · exact does_of_effect runs rfl fun _ => rfl
  · intro f s early still on priv
    have off : crWritable f.imm.toNat = false := by simpa [crWritable] using priv
    have entry : entryTraps (.movrc f) s = [⟨.privilegedOperation, BitVec.ofNat 64 s.core.slotPos⟩] := by
      simp [entryTraps, on, off]
    have raised : firstTrap (operandTraps (.movrc f) s) = some ⟨.privilegedOperation, BitVec.ofNat 64 s.core.slotPos⟩ := by
      rw [operandTraps, entry, List.singleton_append]
      refine firstTrap_cons_of_le fun u hu => ?_
      obtain ⟨x, -, hx⟩ := List.mem_flatMap.mp hu
      rw [cause_of_mem_handleTrap hx]
      exact show 1 ≤ 7 by decide
    rw [check_of_quiet early still, raised]
end Sys2Proof.TrapProofs
end

section
/-! PROOFS. The vector slots: an operation's result is a grid of elements, each the value the manual gives (R123 to R140). -/

namespace Sys2Proof.VectorProofs

open Sys2Proof Sys2Proof.Machine Sys2Proof.Claim Sys2Proof.ScalarControlProofs

/-! ### Operations whose effect is a grid of elements (R125) -/

section Grids

variable {i : Instr} {f : VecF} {s : State}

-- Memory is bounded and each thread holds some: what stands before is checked before more is begun.
set_option Elab.async false in
theorem vecSends_of_effect {w : State → Nat} {el : State → Nat → Nat → Code × Flags} {w' : Nat}
    {el' : Nat → Nat → Code × Flags} (h : Runs i s)
    (he : exec i s = issue i (fun u => vecWrite i f (w u) (el u) u) s) (hw : ∀ l, w (withArrs s l) = w')
    (hel : ∀ l r c, el (withArrs s l) r c = el' r c) : VecSends i f s w' (latency i) el' := by
  refine does_of_effect h he fun l => ?_
  rw [hw, show el (withArrs s l) = el' from funext fun r => funext fun c => hel l r c]
  rfl

theorem vec1_of_effect {op : Core → Code → Code × Flags} {op' : Code → Code × Flags} (h : Runs i s)
    (he : exec i s = issue i (vec1 i f op) s) (hop : ∀ l a, op (withArrs s l).core a = op' a) :
    Vec1 i f s (latency i) op' :=
  vecSends_of_effect (w := fun u => u.core.grid.w) (el := fun u r c => op u.core (velem (u.core.rv f.va) u.core.grid.w r c))
    h he (fun _ => rfl) fun _ _ _ => hop ..

theorem vec2_of_effect {op : Core → Code → Code → Code × Flags} {op' : Code → Code → Code × Flags} (h : Runs i s)
    (he : exec i s = issue i (vec2 i f op) s) (hop : ∀ l a b, op (withArrs s l).core a b = op' a b) :
    Vec2 i f s (latency i) op' :=
  vecSends_of_effect (w := fun u => u.core.grid.w)
    (el := fun u r c => op u.core (velem (u.core.rv f.va) u.core.grid.w r c) (velem (u.core.rv f.vb) u.core.grid.w r c))
    h he (fun _ => rfl) fun _ _ _ => hop ..

theorem vec3_of_effect {op : Core → Code → Code → Code → Code × Flags} {op' : Code → Code → Code → Code × Flags}
    (h : Runs i s) (he : exec i s = issue i (vec3 i f op) s)
    (hop : ∀ l a b d, op (withArrs s l).core a b d = op' a b d) : Vec3 i f s (latency i) op' :=
  vecSends_of_effect (w := fun u => u.core.grid.w)
    (el := fun u r c => op u.core (velem (u.core.rv f.va) u.core.grid.w r c) (velem (u.core.rv f.vb) u.core.grid.w r c)
      (velem (u.core.rv f.vc) u.core.grid.w r c))
    h he (fun _ => rfl) fun _ _ _ => hop ..

theorem moves_of_effect {src : State → Nat → Nat → Nat × Nat} {src' : Nat → Nat → Nat × Nat} (h : Runs i s)
    (he : exec i s = issue i (fun u => vecMove i f (src u) u) s) (lat : latency i = 2)
    (hsrc : ∀ l r c, src (withArrs s l) r c = src' r c) : Moves i f s src' := by
  unfold Moves
  rw [← lat]
  exact vecSends_of_effect (w := fun u => u.core.grid.w)
    (el := fun u r c => (velem (u.core.rv f.va) u.core.grid.w (src u r c).1 (src u r c).2, 0))
    h he (fun _ => rfl) fun l r c => by rw [hsrc]; rfl

end Grids

/-! ### Complex products (R131) -/

/-- Settles O10: a pair of columns holds the two parts of one exact product. -/
theorem vectorComplexResults : Obligations.VectorComplexResults := by
  unfold Obligations.VectorComplexResults
  intro f s env g x part cells sends
  have part_eq : ∀ r c, part r c =
      (let p := complexMul env.mode (f.fn.getLsbD 0) (f.fn.getLsbD 1) (x f.va r (c / 2 * 2)) (x f.va r (c / 2 * 2 + 1))
        (x f.vb r (c / 2 * 2)) (x f.vb r (c / 2 * 2 + 1))
      if c % 2 = 0 then p.1 else p.2) := by
    intro r c
    by_cases neg : f.fn.getLsbD 1 = true <;> by_cases even : c % 2 = 0 <;>
      simp only [part, complexMul, neg, even, if_true, if_false, Bool.false_eq_true]
  have sent : ∀ (i : Instr) (fma : Bool), Runs i s → exec i s = issue i (vecComplex i f fma) s → latency i = 4 →
      sends i (cells fma) := by
    intro i fma runs he lat
    simp only [sends]
    refine does_of_effect runs he fun l => ?_
    simp only [vecComplex, State.result, lat, cells, part_eq]
    rfl
  exact ⟨fun runs => sent _ _ runs rfl rfl, fun runs => sent _ _ runs rfl rfl⟩

/-! ### Integers (R132) -/

/-- A two's-complement code's value, by its top bit. -/
theorem intOf_eq {w : Nat} (h : 0 < w) (a : Code) : intOf w a =
    if 2 ^ (w - 1) ≤ a.toNat % 2 ^ w then ((a.toNat % 2 ^ w : Nat) : Int) - 2 ^ w else ((a.toNat % 2 ^ w : Nat) : Int) := by
  have top : 2 ^ w = 2 * 2 ^ (w - 1) := by
    rw [← Nat.pow_succ', Nat.succ_eq_add_one, Nat.sub_one_add_one h.ne']
  rw [intOf, BitVec.toInt_eq_toNat_cond, BitVec.toNat_setWidth]
  by_cases neg : 2 ^ (w - 1) ≤ a.toNat % 2 ^ w
  · rw [if_neg (by omega), if_pos neg]
    push_cast
    rfl
  · rw [if_pos (by omega), if_neg neg]

theorem saturate_eq {x lo hi : Int} (h : lo ≤ hi) : saturate x lo hi = max lo (min hi x) := by
  unfold saturate
  split
  · omega
  · split <;> omega

theorem grid_w_pos (c : Core) : 0 < c.grid.w := by
  simp only [Core.grid, gridOf]
  positivity

/-- A shift's amount is modulo the width (R132). -/
theorem shift_of_effect {i : Instr} {f : VecF} {s : State} {op : Nat → Code → Nat → Code} (h : Runs i s)
    (he : exec i s = issue i (vecShift i f op) s) : Vec2 i f s (latency i) fun a b =>
      (op s.core.grid.w a ((if f.fn = 0 then b.toNat % 2 ^ s.core.grid.w else (bits f.imm 0 5).toNat) % s.core.grid.w),
        0) :=
  vecSends_of_effect (w := fun u => u.core.grid.w) (el := fun u r c =>
    let w := u.core.grid.w
    (op w (velem (u.core.rv f.va) w r c)
      ((if f.fn = 0 then (uintOf w (velem (u.core.rv f.vb) w r c)).toNat else (bits f.imm 0 5).toNat) % w), 0))
    h he (fun _ => rfl) fun _ _ _ => by simp only [uintOf, Int.toNat_natCast]; rfl

/-- Settles O11: each element is its integer result, wrapped, saturated or halved. -/
theorem vectorIntegerResults : Obligations.VectorIntegerResults := by
  unfold Obligations.VectorIntegerResults
  intro f s w u i code clip arith side amount
  have signed : ∀ a, intOf w a = i a := intOf_eq (grid_w_pos s.core)
  have pow : (0 : Int) < 2 ^ (w - 1) := by positivity
  have pow' : (0 : Int) < 2 ^ w := by positivity
  have sides : ∀ a, intSide w (f.fn == 1) a = side a := by
    intro a
    simp only [intSide, side, beq_iff_eq, signed]
    rfl
  have arithmetic : ∀ op a b, intArith f s.core op a b = arith op a b := by
    intro op a b
    have low : saturate (op (intOf w a) (intOf w b)) (intLo w) (intHi w) =
        clip (-2 ^ (w - 1)) (2 ^ (w - 1) - 1) (op (i a) (i b)) := by
      simp only [clip, intLo, intHi, signed, Nat.cast_pow, Nat.cast_ofNat]
      exact saturate_eq (by omega)
    have high : saturate (op (uintOf w a) (uintOf w b)) 0 (2 ^ w - 1) = clip 0 (2 ^ w - 1) (op (u a) (u b)) :=
      saturate_eq (by omega)
    have wrap : op (intOf w a) (intOf w b) = op (i a) (i b) := by rw [signed, signed]
    simp only [intArith, arith, code]
    generalize f.fn.toNat = form
    rcases form with _ | _ | _ | form
    · exact congrArg (fun n => (BitVec.ofInt 64 n, 0)) wrap
    · exact congrArg (fun n => (BitVec.ofInt 64 n, 0)) low
    · exact congrArg (fun n => (BitVec.ofInt 64 n, 0)) high
    · exact congrArg (fun n => (BitVec.ofInt 64 n, 0)) wrap
  have product : ∀ a b, intMul f s.core a b = code (match f.fn.toNat with
      | 1 => i a * i b / 2 ^ w
      | 2 => u a * u b / 2 ^ w
      | _ => i a * i b) := by
    intro a b
    rw [← signed, ← signed]
    rfl
  refine ⟨?viadd, ?visub, ?vimul, ?vimin, ?vimax, ?vshl, ?vshr, ?vsar, ?vand, ?vor, ?vxor⟩ <;> intro runs
  case viadd => exact vec2_of_effect runs rfl fun l a b => arithmetic _ a b
  case visub => exact vec2_of_effect runs rfl fun l a b => arithmetic _ a b
  case vimul => exact vec2_of_effect runs rfl fun l a b => product a b
  case vimin =>
    refine vec2_of_effect runs rfl fun l a b => ?_
    show (intMinMax w (f.fn == 1) false a b, (0 : Flags)) = _
    simp only [intMinMax, sides, Bool.bne_false, decide_eq_true_eq]
  case vimax =>
    refine vec2_of_effect runs rfl fun l a b => ?_
    show (intMinMax w (f.fn == 1) true a b, (0 : Flags)) = _
    rw [intMinMax, sides, sides]
    by_cases lt : side b < side a <;> simp [lt]
  case vshl => exact shift_of_effect (op := fun _ a n => a <<< n) runs rfl
  case vshr => exact shift_of_effect (op := fun _ a n => a >>> n) runs rfl
  case vsar =>
    have shifted : ∀ a b, code (i a / 2 ^ amount b) = (BitVec.ofInt 64 (intOf w a / 2 ^ amount b), 0) := fun a b => by
      rw [← signed]
    rw [show (fun a b => code (i a / 2 ^ amount b)) = _ from funext₂ shifted]
    exact shift_of_effect (op := fun w a n => BitVec.ofInt 64 (intOf w a / 2 ^ n)) runs rfl
  case vand => exact vec2_of_effect (op := fun _ a b => (a &&& b, 0)) runs rfl fun _ _ _ => rfl
  case vor => exact vec2_of_effect (op := fun _ a b => (a ||| b, 0)) runs rfl fun _ _ _ => rfl
  case vxor => exact vec2_of_effect (op := fun _ a b => (a ^^^ b, 0)) runs rfl fun _ _ _ => rfl

/-- Settles O13: each element of the result is an element that is there already, or a constant. -/
theorem vectorMoveResults : Obligations.VectorMoveResults := by
  unfold Obligations.VectorMoveResults
  intro f s g row col k at0 index
  refine ⟨?vsel, ?vmov, ?vbcst, ?vmovs, ?found, ?off, ?viota, ?vsplat, ?vtrn, ?vrot, ?vperm⟩ <;> intro runs
  case vsel => 
    refine ⟨_, rfl, does_of_effect runs rfl fun l => ?_⟩
    rfl
  case vmov => exact moves_of_effect (src := fun _ r c => (r, c)) runs rfl rfl fun _ _ _ => rfl
  case vbcst => exact moves_of_effect (src := fun _ r c => match f.fn.toNat with
    | 0 => (selRow f, selCol f)
    | 1 => (selRow f, c)
    | _ => (r, selCol f)) runs rfl rfl fun _ _ _ => rfl
  case vmovs => exact vecSends_of_effect runs rfl (fun _ => rfl) fun _ _ _ => rfl
  case found =>
    intro on
    refine does_of_effect runs rfl fun l => ?_
    have on' : ((withArrs s l).core.rk f.gm).getLsbD (selRow f * 32 + selCol f) = true := on
    simp only [on', if_true]
    rfl
  case off =>
    intro off
    refine does_of_effect runs rfl fun l => ?_
    have off' : ((withArrs s l).core.rk f.gm).getLsbD (selRow f * 32 + selCol f) = false := off
    simp only [off', Bool.false_eq_true, if_false]
    cases f.z <;> rfl
  case viota => exact vecSends_of_effect runs rfl (fun _ => rfl) fun _ _ _ => rfl
  case vsplat =>
    refine vecSends_of_effect runs rfl (fun _ => rfl) fun _ _ _ => congrArg (·, (0 : Flags)) ?_
    rw [splatConst]
    generalize f.ty.toNat = type
    rcases type with _ | _ | _ | _ | _ | _ | type
    · show f.imm.setWidth 64 <<< 16 = BitVec.ofNat 64 (f.imm.toNat * 2 ^ 16)
      apply BitVec.eq_of_toNat_eq
      simp [Nat.shiftLeft_eq]
    iterate 4 exact (BitVec.ofNat_toNat ..).symm
    · rfl
    · exact (BitVec.ofNat_toNat ..).symm
  case vtrn => exact moves_of_effect (src := fun _ r c => (c, r)) runs rfl rfl fun _ _ _ => rfl
  case vrot => exact moves_of_effect runs rfl rfl fun _ _ _ => rfl
  case vperm => exact moves_of_effect runs rfl rfl fun _ _ _ => rfl

end Sys2Proof.VectorProofs
end

section
/-! PROOFS. How a grid of elements, and a mask, are packed into a register, and what is read back (R12, R13, R125, R133). -/

namespace Sys2Proof.PackingProofs

open Sys2Proof Sys2Proof.Machine Sys2Proof.Claim Sys2Proof.ScalarControlProofs

/-! ### Numbers by their digits -/

/-- The number whose digits in base `b`, the least first, are those of a list. -/
def ofDigits {α : Type} (b : Nat) (d : α → Nat) (l : List α) : Nat := l.foldr (fun e a => a * b + d e) 0

theorem ofDigits_cons {α : Type} (b : Nat) (d : α → Nat) (e : α) (l : List α) :
    ofDigits b d (e :: l) = ofDigits b d l * b + d e := rfl

/-- A digit of a number, 0 past the list's end. -/
theorem digit_ofDigits {α : Type} {b : Nat} {d : α → Nat} {l : List α} (h : ∀ e ∈ l, d e < b) (i : Nat) :
    ofDigits b d l / b ^ i % b = (l[i]?.map d).getD 0 := by
  induction l generalizing i with
  | nil => simp [ofDigits]
  | cons e l ih =>
    obtain ⟨first, rest⟩ := List.forall_mem_cons.mp h
    have pos : 0 < b := Nat.lt_of_le_of_lt (Nat.zero_le _) first
    cases i with
    | zero => simp [ofDigits_cons, Nat.mod_eq_of_lt first]
    | succ i =>
      rw [ofDigits_cons, Nat.pow_succ', ← Nat.div_div_eq_div_mul, Nat.add_comm, Nat.add_mul_div_right _ _ pos,
        Nat.div_eq_of_lt first, Nat.zero_add, ih rest, List.getElem?_cons_succ]

theorem ofDigits_lt {α : Type} {b : Nat} {d : α → Nat} (h : ∀ e, d e < b) (l : List α) :
    ofDigits b d l < b ^ l.length := by
  induction l with
  | nil => simp [ofDigits]
  | cons e l ih =>
    have := h e
    rw [ofDigits_cons, List.length_cons, Nat.pow_succ]
    nlinarith

/-! ### Rows of elements (R125) -/

/-- An element's code and enable as digits of its row. -/
def codeDigit (w : Nat) : CellW → Nat
  | none => 0
  | some (x, _) => x.toNat % 2 ^ w

def enableDigit (w : Nat) : CellW → Nat
  | none => 0
  | some _ => 2 ^ w - 1

theorem codeDigit_lt (w : Nat) (e : CellW) : codeDigit w e < 2 ^ w := by
  cases e with
  | none => exact Nat.two_pow_pos w
  | some x => exact Nat.mod_lt _ (Nat.two_pow_pos w)

theorem enableDigit_lt (w : Nat) (e : CellW) : enableDigit w e < 2 ^ w := by
  have := Nat.two_pow_pos w
  cases e <;> simp [enableDigit]

theorem packRow_eq (w : Nat) (l : List CellW) : packRow w l =
    (BitVec.ofNat 256 (ofDigits (2 ^ w) (codeDigit w) l), BitVec.ofNat 256 (ofDigits (2 ^ w) (enableDigit w) l)) := by
  have fold : l.foldr (fun (e : CellW) (a : Nat × Nat) =>
      let s := 2 ^ w
      match e with
      | none => (a.1 * s, a.2 * s)
      | some (x, _) => (a.1 * s + x.toNat % s, a.2 * s + (s - 1))) (0, 0) =
      (ofDigits (2 ^ w) (codeDigit w) l, ofDigits (2 ^ w) (enableDigit w) l) := by
    induction l with
    | nil => rfl
    | cons e l ih =>
      rw [List.foldr_cons, ih]
      cases e <;> rfl
  exact congrArg (fun r : Nat × Nat => (BitVec.ofNat 256 r.1, BitVec.ofNat 256 r.2)) fold

/-- A bit of a row is a bit of the digit of its element. -/
theorem getLsbD_row {α : Type} {w j k : Nat} {d : α → Nat} {l : List α} (hd : ∀ e ∈ l, d e < 2 ^ w) (hk : k < w)
    (inside : j * w + k < 256) :
    (BitVec.ofNat 256 (ofDigits (2 ^ w) d l)).getLsbD (j * w + k) = ((l[j]?.map d).getD 0).testBit k := by
  rw [← digit_ofDigits hd, BitVec.getLsbD_ofNat, decide_eq_true inside, Bool.true_and, Nat.testBit_mod_two_pow,
    decide_eq_true hk, Bool.true_and, ← Nat.pow_mul, ← Nat.shiftRight_eq_div_pow, Nat.testBit_shiftRight, Nat.mul_comm w j]

/-- A bit of an element's code. -/
theorem testBit_velem {v : VReg} {w r j k : Nat} (hk : k < w) :
    ((vrow v r).toNat / 2 ^ (j * w) % 2 ^ w).testBit k = (vrow v r).getLsbD (j * w + k) := by
  rw [Nat.testBit_mod_two_pow, decide_eq_true hk, Bool.true_and, ← Nat.shiftRight_eq_div_pow, Nat.testBit_shiftRight,
    BitVec.testBit_toNat]

theorem vrow_eq {v : VReg} {r : Nat} (h : r < 8) : vrow v r = v[r] := by
  simp [vrow, List.getD_eq_getElem?_getD, h]

theorem vrow_vofRows {l : List VRow} {r : Nat} (h : r < 8) : vrow (vofRows l) r = l.getD r 0 := by
  rw [vrow_eq h]
  simp [vofRows]

/-- A row of a register after a write of the bits of `e`. -/
theorem vrow_writeV {c : Core} {v : BitVec 6} {x e : VReg} {r : Nat} (h : r < 8) :
    vrow ((c.writeV v x e).rv v) r = (vrow (c.rv v) r &&& ~~~vrow e r) ||| (vrow x r &&& vrow e r) := by
  rw [vrow_eq h, vrow_eq h, vrow_eq h, vrow_eq h]
  simp [Core.writeV, Core.rv]

/-- What an element's place of a grid result holds. -/
theorem getElem?_gridCells {g : Grid} {f : Nat → Nat → CellW} {r : Nat} (h : r < g.rows) :
    (gridCells g f)[r]? = some ((List.range g.cols).map (f r)) := by
  simp [gridCells, h]

/-- The cell at a place of the grid; none outside it. -/
def cellAt (g : Grid) (f : Nat → Nat → CellW) (r j : Nat) : CellW := if r < g.rows ∧ j < g.cols then f r j else none

theorem getLsbD_packGrid {g : Grid} {f : Nat → Nat → CellW} {w r j k : Nat} (hr : r < 8) (hk : k < w)
    (inside : j * w + k < 256) :
    (vrow (packGrid w (gridCells g f)).1 r).getLsbD (j * w + k) = (codeDigit w (cellAt g f r j)).testBit k ∧
    (vrow (packGrid w (gridCells g f)).2 r).getLsbD (j * w + k) = (enableDigit w (cellAt g f r j)).testBit k := by
  simp only [packGrid, vrow_vofRows hr, List.map_map]
  by_cases h : r < g.rows
  · have row : ∀ p : VRow × VRow → VRow, (((gridCells g f).map (packRow w)).map p).getD r 0 =
        p (packRow w ((List.range g.cols).map (f r))) := fun p => by
      simp [List.getD_eq_getElem?_getD, getElem?_gridCells h]
    rw [← List.map_map, ← List.map_map, row, row, packRow_eq]
    refine ⟨(getLsbD_row (fun e _ => codeDigit_lt w e) hk inside).trans ?_,
      (getLsbD_row (fun e _ => enableDigit_lt w e) hk inside).trans ?_⟩
    all_goals by_cases hc : j < g.cols <;> simp [cellAt, h, hc, codeDigit, enableDigit]
  · have row : ∀ p : VRow × VRow → VRow, (((gridCells g f).map (packRow w)).map p).getD r 0 = 0 := fun p => by
      simp [List.getD_eq_getElem?_getD, gridCells, h]
    rw [← List.map_map, ← List.map_map, row, row]
    simp [cellAt, h, codeDigit, enableDigit]

/-- An element of a register after a grid result lands on it. -/
theorem velem_writeV_packGrid {c : Core} {v : BitVec 6} {g : Grid} {f : Nat → Nat → CellW} {w r j : Nat} (hr : r < 8)
    (hj : (j + 1) * w ≤ 256) :
    velem ((c.writeV v (packGrid w (gridCells g f)).1 (packGrid w (gridCells g f)).2).rv v) w r j =
      match cellAt g f r j with
      | none => velem (c.rv v) w r j
      | some (x, _) => BitVec.ofNat 64 (x.toNat % 2 ^ w) := by
  have field : (vrow ((c.writeV v (packGrid w (gridCells g f)).1 (packGrid w (gridCells g f)).2).rv v) r).toNat
      / 2 ^ (j * w) % 2 ^ w = match cellAt g f r j with
        | none => (vrow (c.rv v) r).toNat / 2 ^ (j * w) % 2 ^ w
        | some (x, _) => x.toNat % 2 ^ w := by
    refine Nat.eq_of_testBit_eq fun k => ?_
    by_cases hk : k < w
    · have inside : j * w + k < 256 := by
        have : (j + 1) * w = j * w + w := by ring
        omega
      obtain ⟨code, enable⟩ := getLsbD_packGrid (g := g) (f := f) hr hk inside
      rw [testBit_velem hk, vrow_writeV hr, BitVec.getLsbD_or, BitVec.getLsbD_and, BitVec.getLsbD_and,
        BitVec.getLsbD_not, code, enable]
      cases cellAt g f r j with
      | none => simp [codeDigit, enableDigit, testBit_velem hk, inside]
      | some x => simp [codeDigit, enableDigit, Nat.testBit_two_pow_sub_one, hk]
    · have big : ∀ n, (n % 2 ^ w).testBit k = false := fun n => by simp [Nat.testBit_mod_two_pow, hk]
      cases cellAt g f r j <;> simp only [big]
  rw [velem, field]
  cases cellAt g f r j <;> rfl

/-- Settles O17: each place of the register holds its cell. -/
theorem vectorWritesReadBack : Obligations.VectorWritesReadBack := by
  unfold Obligations.VectorWritesReadBack
  intro c v k z g el hw hrows hcols p d r hr j hj
  refine (velem_writeV_packGrid hr hj).trans ?_
  by_cases inside : r < g.rows ∧ j < g.cols
  · cases on : k.getLsbD (r * 32 + j) <;> cases z <;> simp [cellAt, guarded, inside, on]
  · have out : ∀ q, ¬ (r < g.rows ∧ j < g.cols ∧ q) := fun q h => inside ⟨h.1, h.2.1⟩
    simp only [cellAt, if_neg inside, if_neg (out _)]

end Sys2Proof.PackingProofs
end

section
namespace Sys2Proof.CompareProofs

open Sys2Proof Sys2Proof.Machine Sys2Proof.Claim Sys2Proof.ScalarControlProofs Sys2Proof.PackingProofs

/-! ### Masks (R12, R133) -/

/-- The digit a cell of a mask puts into its value: 0 where nothing is written. -/
def bitDigit : Option Bool → Nat
  | none => 0
  | some b => b.toNat

/-- The digit a cell puts into the mask of written bits. -/
def writtenDigit : Option Bool → Nat
  | none => 0
  | some _ => 1

theorem bitDigit_lt (e : Option Bool) : bitDigit e < 2 := by
  cases e with
  | none => decide
  | some b => cases b <;> decide

theorem writtenDigit_lt (e : Option Bool) : writtenDigit e < 2 := by
  cases e with
  | none => decide
  | some b => exact Nat.lt_succ_self 1

/-- A mask of 8 rows of 32 bits, as digits of digits. -/
theorem packMask_eq (cells : List (List (Option Bool))) : packMask cells =
    (BitVec.ofNat 256 (ofDigits (2 ^ 32) (ofDigits 2 bitDigit) cells),
      BitVec.ofNat 256 (ofDigits (2 ^ 32) (ofDigits 2 writtenDigit) cells)) := by
  have row : ∀ l : List (Option Bool), l.foldr (fun e (a : Nat × Nat) => match e with
      | none => (a.1 * 2, a.2 * 2)
      | some b => (a.1 * 2 + b.toNat, a.2 * 2 + 1)) (0, 0) = (ofDigits 2 bitDigit l, ofDigits 2 writtenDigit l) := by
    intro l
    induction l with
    | nil => rfl
    | cons e l ih =>
      rw [List.foldr_cons, ih]
      cases e <;> rfl
  have rows : ∀ l : List (List (Option Bool)), l.foldr (fun l (a : Nat × Nat) =>
      let x := l.foldr (fun e (a : Nat × Nat) => match e with
        | none => (a.1 * 2, a.2 * 2)
        | some b => (a.1 * 2 + b.toNat, a.2 * 2 + 1)) (0, 0)
      (a.1 * 2 ^ 32 + x.1, a.2 * 2 ^ 32 + x.2)) (0, 0) =
      (ofDigits (2 ^ 32) (ofDigits 2 bitDigit) l, ofDigits (2 ^ 32) (ofDigits 2 writtenDigit) l) := by
    intro l
    induction l with
    | nil => rfl
    | cons r l ih =>
      rw [List.foldr_cons, ih, row]
      rfl
  exact congrArg (fun r : Nat × Nat => (BitVec.ofNat 256 r.1, BitVec.ofNat 256 r.2)) (rows cells)

/-- Bit `r * 32 + c` of rows of digits: the digit at (r, c). -/
theorem getLsbD_rows {d : Option Bool → Nat} (hd : ∀ e, d e < 2) {cell : Nat → Nat → Option Bool} {r c : Nat} (hr : r < 8)
    (hc : c < 32) :
    (BitVec.ofNat 256 (ofDigits (2 ^ 32) (ofDigits 2 d)
      ((List.range 8).map fun r => (List.range 32).map (cell r)))).getLsbD (r * 32 + c) = (d (cell r c)).testBit 0 := by
  have row_lt : ∀ l ∈ (List.range 8).map fun r => (List.range 32).map (cell r), ofDigits 2 d l < 2 ^ 32 := by
    intro l hl
    obtain ⟨r, -, rfl⟩ := List.mem_map.mp hl
    exact (ofDigits_lt hd _).trans_eq (by simp)
  have digit := digit_ofDigits (b := 2) (d := d) (l := (List.range 32).map (cell r)) (fun e _ => hd e) c
  have bit := congrArg (Nat.testBit · 0) digit
  simp only [← Nat.shiftRight_eq_div_pow, Nat.testBit_mod_two_pow (j := 1), Nat.testBit_shiftRight] at bit
  rw [getLsbD_row row_lt hc (by omega)]
  simp [hr, hc] at bit ⊢
  exact bit


/-- A fold whose steps add a bit where `p` holds has the bit when it started with it or `p` held somewhere. -/
theorem getLsbD_foldl {α : Type} {g : Flags → α → Flags} {p : α → Prop} {b : Nat}
    (h : ∀ a e, (g a e).getLsbD b = true ↔ a.getLsbD b = true ∨ p e) (l : List α) (a : Flags) :
    (l.foldl g a).getLsbD b = true ↔ a.getLsbD b = true ∨ ∃ e ∈ l, p e := by
  induction l generalizing a with
  | nil => simp
  | cons e l ih => rw [List.foldl_cons, ih, h, List.exists_mem_cons_iff, or_assoc]

/-- The cell of a mask result: what the guard and the zeroing form leave of an element test. -/
def testCell (m : Mask) (z : Bool) (el : Nat → Nat → Bool × Flags) (r c : Nat) : Option (Bool × Flags) :=
  if m.getLsbD (r * 32 + c) then some (el r c) else if z then some (false, 0) else none

/-- Its bit: outside the grid 0 is written. -/
def testBitCell (g : Grid) (m : Mask) (z : Bool) (el : Nat → Nat → Bool × Flags) (r c : Nat) : Option Bool :=
  if r < g.rows then if c < g.cols then (testCell m z el r c).map (·.1) else some false else some false

/-- The flags of a mask result: those of the guarded tests. -/
def testFlags (g : Grid) (m : Mask) (z : Bool) (el : Nat → Nat → Bool × Flags) : Flags :=
  (List.range g.rows).foldl (fun a r => (List.range g.cols).foldl (fun (a : Flags) c =>
    a ||| (((testCell m z el r c).map (·.2)).getD 0)) a) 0

theorem getLsbD_testFlags {g : Grid} {m : Mask} {z : Bool} {el : Nat → Nat → Bool × Flags} {j : Nat} :
    (testFlags g m z el).getLsbD j = true ↔
      ∃ r < g.rows, ∃ c < g.cols, m.getLsbD (r * 32 + c) = true ∧ (el r c).2.getLsbD j = true := by
  have cell : ∀ r c, (((testCell m z el r c).map (·.2)).getD 0 : Flags).getLsbD j = true ↔
      m.getLsbD (r * 32 + c) = true ∧ (el r c).2.getLsbD j = true := by
    intro r c
    unfold testCell
    by_cases on : m.getLsbD (r * 32 + c) = true
    · rw [if_pos on]
      exact (and_iff_right on).symm
    · rw [if_neg on]
      cases z <;> simp [on]
  have row : ∀ r (a : Flags), ((List.range g.cols).foldl (fun (a : Flags) c =>
      a ||| (((testCell m z el r c).map (·.2)).getD 0)) a).getLsbD j = true ↔ a.getLsbD j = true ∨
      ∃ c ∈ List.range g.cols, m.getLsbD (r * 32 + c) = true ∧ (el r c).2.getLsbD j = true := fun r =>
    getLsbD_foldl (fun a c => by rw [BitVec.getLsbD_or, Bool.or_eq_true, cell]) _
  refine (getLsbD_foldl (fun a r => row r a) _ 0).trans ?_
  rw [show ((0 : Flags).getLsbD j = true) = False by simp, false_or]
  simp only [List.mem_range]

theorem testBit_bitDigit (b : Bool) : (bitDigit (some b)).testBit 0 = b := by
  cases b <;> rfl

/-- The bits of a mask result are those of its cells. -/
theorem getLsbD_packMask {cell : Nat → Nat → Option Bool} {r c : Nat} (hr : r < 8) (hc : c < 32) :
    let p := packMask ((List.range 8).map fun r => (List.range 32).map (cell r))
    p.1.getLsbD (r * 32 + c) = (cell r c).getD false ∧ p.2.getLsbD (r * 32 + c) = (cell r c).isSome := by
  rw [packMask_eq]
  refine ⟨(getLsbD_rows bitDigit_lt hr hc).trans ?_, (getLsbD_rows writtenDigit_lt hr hc).trans ?_⟩
  · cases cell r c with
    | none => rfl
    | some b => exact testBit_bitDigit b
  · cases cell r c with
    | none => rfl
    | some b => exact Nat.testBit_one_zero

theorem maskSends_of_effect {i : Instr} {f : VecF} {s : State} {el : State → Nat → Nat → Bool × Flags}
    {el' : Nat → Nat → Bool × Flags} (h : Runs i s) (he : exec i s = issue i (fun u => maskWrite i f (el u) u) s)
    (lat : latency i = 1) (hel : ∀ l r c, el (withArrs s l) r c = el' r c) : MaskSends i f s el' := by
  let p := packMask ((List.range 8).map fun r => (List.range 32).map
    (testBitCell s.core.grid (s.core.rk f.gm) f.z el' r))
  refine ⟨p.1, p.2, testFlags s.core.grid (s.core.rk f.gm) f.z el', does_of_effect h he fun l => ?_, fun r hr c hc => ?_,
    fun j _ => getLsbD_testFlags⟩
  · rw [show el (withArrs s l) = el' from funext fun r => funext fun c => hel l r c]
    simp only [maskWrite, State.result, lat]
    rfl
  · clear he hel
    simp only [p]
    generalize s.core.grid = g, s.core.rk f.gm = m
    refine (getLsbD_packMask (cell := testBitCell g m f.z el') hr hc).imp (fun bit => bit.trans ?_) fun en => en.trans ?_
    all_goals
      by_cases inGrid : r < g.rows ∧ c < g.cols
      · obtain ⟨inR, inC⟩ := inGrid
        cases on : m.getLsbD (r * 32 + c) <;> cases f.z <;> simp [testBitCell, testCell, inR, inC, on]
      · have out : testBitCell g m f.z el' r c = some false := by
          unfold testBitCell
          split_ifs with inR inC
          · exact absurd ⟨inR, inC⟩ inGrid
          · rfl
          · rfl
        simp [out, inGrid]

/-- Settles O12: a mask result is read back cell by cell, and the flags of its tests are gathered along the grid. -/
theorem vectorCompareResults : Obligations.VectorCompareResults := by
  unfold Obligations.VectorCompareResults
  constructor
  · intro f s t w side test
    have ints : ∀ a, intSide w (f.fn == 1) a = side a := fun a => by
      simp only [intSide, side, beq_iff_eq]
      rfl
    have cmp : ∀ {i : Instr} (k : Nat) (op : Int → Int → Bool), Runs i s → exec i s = issue i (vecCmp i f k) s →
        latency i = 1 → (op = fun p q => match k with
          | 0 => decide (p = q)
          | 1 => decide (p < q)
          | _ => decide (p ≤ q)) → MaskSends i f s (test k op) := by
      intro i k op runs he lat hop
      refine maskSends_of_effect runs he lat fun l r c => ?_
      simp only [test, hop, ← ints]
      rfl
    exact ⟨fun runs => cmp 0 _ runs rfl rfl rfl, fun runs => cmp 1 _ runs rfl rfl rfl,
      fun runs => cmp 2 _ runs rfl rfl rfl, fun runs => maskSends_of_effect runs rfl rfl fun _ _ _ => rfl⟩
  · intro t a b nan snan
    refine ⟨?_, ?_, ?_, ?_⟩
    · intro h k
      have nan' : (isNan (decodeFp t a) || isNan (decodeFp t b)) = true := h
      simp only [fpCmp, nan', Bool.not_true, Bool.false_and]
    · rfl
    · intro k hk
      simp only [fpCmp, if_neg hk]
      rfl
    · intro p q n m ha hb
      simp only [fpCmp, ha, hb]
      refine ⟨?_, ?_, ?_⟩
      · rfl
      · rfl
      · simp [isNan, xrLt, xrEq, le_iff_lt_or_eq]

end Sys2Proof.CompareProofs
end

section
/-! PROOFS. The current map of a context (R209, R243, R248, R249), in states that list one ASID twice. -/

namespace Sys2Proof.CurrentMapProofs

open Sys2Proof Sys2Proof.Machine Sys2Proof.Claim

/-- A context of two maps with no transition under way, under ASID 0. -/
def idleContext (cur : BitVec 6) : Context where
  asid := 0
  nmap := 2
  home := 0
  cur := cur
  eng := .idle
  pass := 0
  trans := 0
  flt := false
  tip := false
  tgt := 0
  fcode := 0
  prem := 0
  fltva := 0
  hasEngine := false
  moves := []
  mirrors := []
  padvs := []
  heldBack := []
  maps := [[], []]
  loaded := [[], []]
  tables := []
  pcid := 1
  modLo := 0
  modHi := 1
  ranges := []
  codes := []
  images := []
  objs := []

/-- Core 0 inside a group, in a module with two contexts of ASID 0 whose current maps differ. -/
def twoOfOneAsid : State := { State.reset with
  core := { Core.reset 0 with
    mode := .running, passed := true, landed := true, grpIrrev := true
    code := List.replicate 6 ((Vector.replicate 8 (0 : Word)).set 7 (1 <<< 63)), pc := 1 }
  contexts := [idleContext 0, idleContext 1] }

theorem runs_pnext : Runs (.pnext 2 false 0 0) twoOfOneAsid := by
  unfold Runs
  decide +kernel

/-- Refutes O59: PNEXT replaces every context of its ASID by the first one found with that ASID, so that of two
contexts of one ASID the second takes over the current map of the first. -/
theorem not_slotOperationsLeaveTheCurrentMap : ¬ Obligations.SlotOperationsLeaveTheCurrentMap := by
  unfold Obligations.SlotOperationsLeaveTheCurrentMap
  intro h
  have maps := h (.pnext 2 false 0 0) twoOfOneAsid _ (by decide) (issue_runs runs_pnext.1 runs_pnext.2)
  exact absurd (congrArg (List.map fun x => x.2.1) maps) (by decide +kernel)

end Sys2Proof.CurrentMapProofs
end

section
/-! PROOFS. Every operation and event keeps the memory's canonical form: one lemma for each function of the state, in the
order of the model. A function that does not touch memory has an equation `_mem`; one that may write it keeps the
canonical form (R226, R236). -/

namespace Sys2Proof.MemoryProofs

open Sys2Proof Sys2Proof.Machine Sys2Proof.Machine.State

/-- The canonical form of a memory: addresses rising, no byte listed that reads as an unlisted one does. -/
def Canonical (m : Sparse Byte) : Prop := Sparse.wf 0 m = true

theorem canonical_nil : Canonical [] := rfl
@[simp] theorem canonical_setAll {m : Sparse Byte} {d : Byte} (l : List (Nat × Byte)) (h : Canonical m) (hd : d = 0) :
    Canonical (Sparse.setAll d m l) := hd ▸ Sparse.wf_setAll h

@[simp] theorem canonical_clear {m : Sparse Byte} (p : Nat → Bool) (h : Canonical m) : Canonical (Sparse.clear p m) :=
  Sparse.wf_clear h

@[simp] theorem mem_ite (c : Prop) [Decidable c] (a b : State) :
    (if c then a else b).mem = if c then a.mem else b.mem := apply_ite State.mem c a b

@[simp] theorem canonical_ite (c : Prop) [Decidable c] (a b : Sparse Byte) :
    Canonical (if c then a else b) ↔ if c then Canonical a else Canonical b := by split <;> rfl

@[simp] theorem foldl_mem' {β : Type} {f : State → β → State} {l : List β} {s : State} (h : ∀ s b, (f s b).mem = s.mem) :
    (l.foldl f s).mem = s.mem := State.foldl_mem h l s

@[simp] theorem canonical_foldl {β : Type} {f : State → β → State} {l : List β} {s : State}
    (step : ∀ s b, Canonical s.mem → Canonical (f s b).mem) (h : Canonical s.mem) : Canonical (l.foldl f s).mem :=
  State.foldl_memWf step l s h

@[simp] theorem canonical_store {s : State} (l : List (Nat × Byte)) (h : Canonical s.mem) : Canonical (s.store l).mem :=
  State.memWf_store h
theorem canonical_writeVa {s t : State} {a : BitVec 16} {v : Nat} {l : List Byte} (e : s.writeVa a v l = some t)
    (h : Canonical s.mem) : Canonical t.mem := State.memWf_writeVa h e
@[simp] theorem canonical_poke {s : State} (l : List (Nat × Byte)) (h : Canonical s.mem) : Canonical (s.poke l).mem :=
  State.memWf_poke h

/-! ### Mem -/

@[simp] theorem updCore_mem (s : State) (id : BitVec 10) (f : Core → Core) :
    (updCore s id f).mem = s.mem := by simp [updCore]

@[simp] theorem focus_mem (s : State) (id : BitVec 10) : (focus s id).mem = s.mem := by simp [focus]

@[simp] theorem onCore_mem (s : State) (f : Core → Core) : (onCore s f).mem = s.mem := (rfl)

@[simp] theorem updContext_mem (s : State) (asid : BitVec 16) (f : Context → Context) :
    (updContext s asid f).mem = s.mem := (rfl)

@[simp] theorem updQueue_mem (s : State) (q : BitVec 14) (f : Queue → Queue) : (updQueue s q f).mem = s.mem := (rfl)

@[simp] theorem touchAll_mem (s : State) (a n : Nat) : (s.touchAll a n).mem = s.mem :=
  State.foldl_mem (fun s _ => s.touch_mem _) _ _

@[simp] theorem logUnit_mem (s : State) (u : Nat) (stackCode sramCode : BitVec 8) :
    (logUnit s u stackCode sramCode).mem = s.mem := by
  unfold logUnit; split <;> simp

@[simp] theorem logPoison_mem (s : State) (pa n : Nat) : (logPoison s pa n).mem = s.mem := by simp [logPoison]

/-! ### NetSend -/

@[simp] theorem updMsg_mem (s : State) (n : Nat) (f : Msg → Msg) : (State.updMsg s n f).mem = s.mem := (rfl)

@[simp] theorem relaunch_mem (s : State) (p : Port) : (State.relaunch s p).mem = s.mem := by
  unfold State.relaunch; split <;> simp

@[simp] theorem arrive_mem (s : State) (f : Flit) : (State.arrive s f).mem = s.mem := by
  unfold State.arrive; split <;> simp

@[simp] theorem takeFlit_mem (s : State) (f : Flit) : (s.takeFlit f).1.mem = s.mem := by
  unfold State.takeFlit
  split <;> simp

@[simp] theorem drainStore_mem (n : Nat) (s : State) (p : Port) : (State.drainStore n s p).mem = s.mem := by
  induction n generalizing s with
  | zero => rfl
  | succ n ih =>
    rw [State.drainStore]
    split
    · rw [ih, takeFlit_mem]
    · rfl

@[simp] theorem dropMsg_mem (s : State) (n : Nat) : (s.dropMsg n).mem = s.mem := by
  unfold State.dropMsg
  split
  · rfl
  · dsimp only
    split <;> simp

@[simp] theorem canonical_reply (s : State) (m : Msg) (op : NetOp) (data : List Byte) (code : BitVec 8)    
    (why : FaultWhy := .home) (h : Canonical s.mem) : Canonical (State.reply s m op data code why).mem := by
  simp +contextual [State.reply, h]

@[simp] theorem sendLater_mem (s : State) (since : Nat) (m : Msg) :
    (State.sendLater s since m).mem = s.mem := by simp [State.sendLater]

@[simp] theorem settleOwed_mem (s : State) (n : Nat) : (State.settleOwed s n).mem = s.mem := by simp [State.settleOwed]

@[simp] theorem canonical_replyLater (s : State) (since : Nat) (m : Msg) (op : NetOp) (data : List Byte)
    (code : BitVec 8)     (why : FaultWhy := .home) (h : Canonical s.mem) : Canonical (State.replyLater s since m op data code why).mem := by
  simp +contextual [State.replyLater, h]

/-! ### FabBase -/

@[simp] theorem updLink_mem (s : State) (port : BitVec 4) (f : LinkState → LinkState) :
    (State.updLink s port f).mem = s.mem := (rfl)

@[simp] theorem updPeer_mem (s : State) (m : BitVec 12) (f : Peer → Peer) : (State.updPeer s m f).mem = s.mem := (rfl)

@[simp] theorem takePid_mem (s : State) : (State.takePid s).mem = s.mem := (rfl)

@[simp] theorem noteAway_mem (s : State) (m : Msg) : (State.noteAway s m).mem = s.mem := (rfl)

@[simp] theorem sendBarrier_mem (s : State) (p : Packet) : (State.sendBarrier s p).mem = s.mem := by
  unfold State.sendBarrier; split <;> simp

@[simp] theorem sendDecrement_mem (s : State) (src : Port) (core : BitVec 10) (asid : BitVec 16) (fcid : BitVec 56)
    (m : BitVec 12)     (pa : Nat) (n : BitVec 32) (va : VAddr) (rec : Nat) : (State.sendDecrement s src core asid fcid m pa n va rec).mem = s.mem := by simp [State.sendDecrement]

@[simp] theorem answerFrom_mem (s : State) (src : Port) (p : Packet) (type : BitVec 8) (aux : BitVec 32)
    (opnd : Word)     (data : List Byte) : (State.answerFrom s src p type aux opnd data).mem = s.mem := by simp [State.answerFrom]

@[simp] theorem answerPacket_mem (s : State) (p : Packet) (type : BitVec 8) (aux : BitVec 32) (opnd : Word)    
    (data : List Byte) : (State.answerPacket s p type aux opnd data).mem = s.mem := by simp [State.answerPacket]

@[simp] theorem answerLater_mem (s : State) (since : Nat) (p : Packet) (q : Packet)     (lines : List
    (Nat × BitVec 64 × List Byte)) : (State.answerLater s since p q lines).mem = s.mem := by
  unfold State.answerLater; split <;> simp

@[simp] theorem ackPacket_mem (s : State) (p : Packet) (code : BitVec 8) :
    (State.ackPacket s p code).mem = s.mem := by simp [State.ackPacket]

@[simp] theorem refusePacket_mem (s : State) (port : BitVec 4) (p : Packet) :
    (State.refusePacket s port p).mem = s.mem := by
  unfold State.refusePacket; dsimp only; repeat' split
  all_goals simp

/-! ### Store -/

@[simp] theorem couchRead_mem (s : State) (asid : BitVec 16) (m : BitVec 12) (a n : Nat) (t : CouchTag) :
    (State.couchRead s asid m a n t).mem = s.mem := by simp [State.couchRead]

@[simp] theorem canonical_writeOrHold (s : State) (c : List (Nat × Byte)) (h : Canonical s.mem) :
    Canonical (s.writeOrHold c).mem := State.memWf_writeOrHold h

@[simp] theorem canonical_releaseHeld (s : State) (h : Canonical s.mem) : Canonical s.releaseHeld.mem :=
  State.memWf_releaseHeld h

/-! ### Ops -/

@[simp] theorem makeArrivals_mem (s : State) : (State.makeArrivals s).mem = s.mem := (rfl)

@[simp] theorem arriveNow_mem (s : State) (t : ArrTarget) (n : BitVec 32) :
    (State.arriveNow s t n).mem = s.mem := by simp [State.arriveNow]

@[simp] theorem canonical_postNow (s : State) (q : Queue) (v : Word) (r : VAddr) (h : Canonical s.mem) :
    Canonical (s.postNow q v r).mem := State.memWf_postNow h

@[simp] theorem canonical_post (s : State) (qid : BitVec 14) (value : Word) (recVa : VAddr) (h : Canonical s.mem) :
    Canonical (State.post s qid value recVa).mem := by
  unfold State.post; split <;> simp +contextual [h]

@[simp] theorem canonical_flushPosts (s : State) (h : Canonical s.mem) : Canonical (State.flushPosts s).mem := by
  unfold State.flushPosts; dsimp only; repeat' split
  all_goals simp +contextual [h]

@[simp] theorem canonical_performStore (s : State) (e : StoreEntry) (h : Canonical s.mem) :
    Canonical (s.performStore e).mem := State.memWf_performStore h

@[simp] theorem canonical_releaseFrom (l : List StoreEntry) (s : State) (h : Canonical s.mem) :
    Canonical (State.releaseFrom l s).mem := State.memWf_releaseFrom h

@[simp] theorem canonical_releaseStores (s : State) (h : Canonical s.mem) : Canonical (State.releaseStores s).mem := by
  simp +contextual [State.releaseStores, h]

@[simp] theorem canonical_checkpoint (s : State) (h : Canonical s.mem) : Canonical s.checkpoint.mem :=
  State.memWf_checkpoint h

@[simp] theorem canonical_forcedCheckpoint (s : State) (h : Canonical s.mem) :
    Canonical (State.forcedCheckpoint s).mem := by
  simp +contextual [State.forcedCheckpoint, h]

@[simp] theorem takeTrap_mem (s : State) (t : TrapCond) (slot : Nat) : (State.takeTrap s t slot).mem = s.mem := (rfl)

@[simp] theorem groupStart_mem (s : State) : (State.groupStart s).mem = s.mem := (rfl)

/-! ### Cache -/

@[simp] theorem cachePage_mem (s : State) (u : Translator) (x : Context) (m : Nat) (p : MapPage) :
    (s.cachePage u x m p).mem = s.mem := by
  have touched : ∀ l : List Nat, (l.foldl State.touch s).mem = s.mem := fun l =>
    State.foldl_mem (fun s _ => s.touch_mem _) l s
  unfold State.cachePage
  split
  · rfl
  · dsimp only
    split <;> simp [touched]

@[simp] theorem canonical_cachePlaces (s : State) (core : BitVec 10) (q : Cmd) (l : List Loc) (h : Canonical s.mem) :
    Canonical (State.cachePlaces s core q l).mem := by
  unfold State.cachePlaces; split <;> simp +contextual [h]

@[simp] theorem invalidate_mem (s : State) (asid : BitVec 16) (a n : Nat) (f : Translator → Bool) :
    (State.invalidate s asid a n f).mem = s.mem := (rfl)

@[simp] theorem xlinv_mem (s : State) (core : BitVec 10) (q : Cmd) : (State.xlinv s core q).mem = s.mem := (rfl)

/-! ### Checks -/

@[simp] theorem setObj_mem (s : State) (w : Member) (o : ObjName) (b : Barrier) :
    (State.setObj s w o b).mem = s.mem := by
  unfold State.setObj; split <;> simp

@[simp] theorem clearQuad_mem (s : State) (asid : BitVec 16) (recVa : VAddr) :
    (State.clearQuad s asid recVa).mem = s.mem := (rfl)

/-! ### Issue -/

@[simp] theorem logMemTrap_mem (s : State) (i : Instr) (t : TrapCond) :
    (State.logMemTrap s i t).mem = s.mem := by simp [State.logMemTrap]

/-- The state in which a PADV waits. -/
def padvState (s : State) : PadvStage → State
  | .wait t => t
  | _ => s

@[simp] theorem padvState_mem (tko n : BitVec 6) (s : State) : (padvState s (padvStage tko n s)).mem = s.mem := by
  have held : ∀ (u : State) (k : Nat), u.mem = s.mem → (padvState s (padvHold u tko n k)).mem = s.mem := by
    intro u k hu
    unfold padvHold
    dsimp only
    split
    · rfl
    · exact hu
  unfold padvStage
  dsimp only
  repeat' split
  all_goals first
    | rfl
    | exact held _ _ rfl

theorem mem_of_padvStage {tko n : BitVec 6} {s t : State} (e : padvStage tko n s = .wait t) : t.mem = s.mem :=
  show (padvState s (.wait t)).mem = s.mem from e ▸ padvState_mem tko n s

@[simp] theorem previewAll_mem (ops : List (Nat × Instr)) (s : State) : (previewAll ops s).mem = s.mem := (rfl)

/-! ### Scalar -/

@[simp] theorem result_mem (s : State) (i : Instr) (val : ResVal) (flags : Flags := 0) (stat : BitVec 5 := 0) :
    (State.result s i val flags stat).mem = s.mem := (rfl)

@[simp] theorem scBinary_mem (i : Instr) (f : ScF) (op : Word → Word → Word) (s : State) :
    (scBinary i f op s).mem = s.mem := (rfl)

@[simp] theorem scUnary_mem (i : Instr) (f : ScF) (op : Word → Word) (s : State) :
    (scUnary i f op s).mem = s.mem := (rfl)

@[simp] theorem scCompare_mem (i : Instr) (f : ScF) (p : Word → Word → Bool) (s : State) :
    (scCompare i f p s).mem = s.mem := (rfl)

@[simp] theorem branchTo_mem (t : Option Nat) (s : State) : (branchTo t s).mem = s.mem := (rfl)

@[simp] theorem loopStart_mem (f : ScF) (s : State) : (loopStart f s).mem = s.mem := (rfl)

@[simp] theorem allocBanks_mem (f : ScF) (s : State) : (allocBanks f s).mem = s.mem := by
  unfold allocBanks; dsimp only; repeat' split
  all_goals simp

@[simp] theorem freeBanks_mem (f : ScF) (s : State) : (freeBanks f s).mem = s.mem := (rfl)

@[simp] theorem defineTile_mem (f : ScF) (s : State) : (defineTile f s).mem = s.mem := (rfl)

@[simp] theorem freeTile_mem (f : ScF) (s : State) : (freeTile f s).mem = s.mem := (rfl)

/-! ### Engine -/

@[simp] theorem enqueue_mem (i : Instr) (f : CpF) (s : State) : (enqueue i f s).mem = s.mem := (rfl)

/-! ### Queue -/

@[simp] theorem canonical_setField (s : State) (a : BitVec 16) (v n x : Nat) (h : Canonical s.mem) :
    Canonical (s.setField a v n x).mem := State.memWf_setField h

@[simp] theorem canonical_setTaskState (s : State) (asid : BitVec 16) (rec : VAddr) (x : Nat) (h : Canonical s.mem) :
    Canonical (State.setTaskState s asid rec x).mem := by
  simp +contextual [State.setTaskState, h]

@[simp] theorem canonical_orTaskFlag (s : State) (asid : BitVec 16) (rec : VAddr) (m : Nat) (h : Canonical s.mem) :
    Canonical (State.orTaskFlag s asid rec m).mem := by
  simp +contextual [State.orTaskFlag, h]

@[simp] theorem updPool_mem (s : State) (die : BitVec 2) (f : List PoolEntry → List PoolEntry) :
    (State.updPool s die f).mem = s.mem := (rfl)

@[simp] theorem updChain_mem (s : State) (die : BitVec 2) (f : List PoolEntry → List PoolEntry) :
    (State.updChain s die f).mem = s.mem := (rfl)

@[simp] theorem canonical_setLink (s : State) (e : PoolEntry) (x : Nat) (h : Canonical s.mem) :
    Canonical (State.setLink s e x).mem := by
  simp +contextual [State.setLink, h]

@[simp] theorem canonical_linkAll (s : State) (l : List PoolEntry) (h : Canonical s.mem) :
    Canonical (s.linkAll l).mem := by
  induction l generalizing s with
  | nil => exact h
  | cons e l ih => exact ih _ (canonical_setLink _ _ _ h)

@[simp] theorem canonical_relink (s : State) (die : BitVec 2) (h : Canonical s.mem) :
    Canonical (State.relink s die).mem := by
  simp +contextual [State.relink, h]

@[simp] theorem canonical_bindTo (s : State) (q : BitVec 14) (slot : Nat) (h : Canonical s.mem) :
    Canonical (State.bindTo s q slot).mem := by
  simp +contextual [State.bindTo, h]

@[simp] theorem canonical_bindQueue (s : State) (q : BitVec 14) (h : Canonical s.mem) :
    Canonical (s.bindQueue q).mem := by
  unfold State.bindQueue
  split
  · exact h
  · split_ifs
    · exact h
    · exact h
    · split
      · exact canonical_bindTo _ _ _ h
      · dsimp only
        split
        · exact canonical_bindTo _ _ _ h
        · exact h

@[simp] theorem tellUncovered_mem (s : State) (die : BitVec 2) : (State.tellUncovered s die).mem = s.mem := (rfl)

@[simp] theorem canonical_poolPush (s : State) (die : BitVec 2) (e : PoolEntry) (h : Canonical s.mem) :
    Canonical (State.poolPush s die e).mem := by
  simp +contextual [State.poolPush, h]

@[simp] theorem canonical_readyTask (s : State) (a : BitVec 16) (r : VAddr) (q : BitVec 14) (n : Option Nat)
    (h : Canonical s.mem) : Canonical (s.readyTask a r q n).mem := by
  unfold State.readyTask
  split
  · exact h
  · have started : Canonical (if n.isNone then s.setTaskState a r 2 else s).mem := by simp [h]
    exact canonical_poolPush _ _ _ (canonical_bindQueue _ _
      (canonical_setField _ _ _ _ _ (canonical_setField _ _ _ _ _ started)))

@[simp] theorem canonical_decrementAt (s : State) (pa : Nat) (va : VAddr) (n : BitVec 32) (h : Canonical s.mem) :
    Canonical (State.decrementAt s pa va n).mem := by
  unfold State.decrementAt; dsimp only; repeat' split
  all_goals simp +contextual [h]

@[simp] theorem canonical_flushSpawns (s : State) (h : Canonical s.mem) : Canonical s.flushSpawns.mem := by
  unfold State.flushSpawns
  refine canonical_foldl (fun s q h => ?_) h
  dsimp only
  split
  · exact h
  · refine canonical_bindQueue _ _ ?_
    rw [State.updQueue_mem]
    exact canonical_foldl (fun s r h => canonical_setField _ _ _ _ _ h) h

/-! ### NetMsg -/

@[simp] theorem homeLog_mem (s : State) (m : Msg) : (State.homeLog s m).mem = s.mem := by simp [State.homeLog]

@[simp] theorem logRecord_mem (s : State) (code : BitVec 8) (pa : Nat) (va : VAddr) :
    (State.logRecord s code pa va).mem = s.mem := (rfl)

@[simp] theorem dropLog_mem (s : State) (m : Msg) (code : BitVec 8) :
    (State.dropLog s m code).mem = s.mem := by simp [State.dropLog]

@[simp] theorem sendCounter_mem (s : State) (core : BitVec 10) (w : Member) (va : VAddr) (n : BitVec 32) :
    (State.sendCounter s core w va n).mem = s.mem := by
  unfold State.sendCounter; split <;> simp

/-! ### AtMem -/

@[simp] theorem canonical_amoAt (s : State) (pa sub : Nat) (b : Word) (h : Canonical s.mem) :
    Canonical (s.amoAt pa sub b).1.mem := State.memWf_amoAt h

@[simp] theorem canonical_amoEntries (s : State) (pa sub : Nat) (l : List AmoEntry) (h : Canonical s.mem) :
    Canonical (s.amoEntries pa sub l).1.mem := State.memWf_amoEntries h

@[simp] theorem canonical_casAt (s : State) (pa w : Nat) (d : List Byte) (c : BitVec 8) (h : Canonical s.mem) :
    Canonical (s.casAt pa w d c).state.mem := by
  unfold State.casAt
  dsimp only
  split_ifs <;> simp [h]

@[simp] theorem canonical_dcasAt (s : State) (pa pb : Nat) (d : List Byte) (c : BitVec 8) (h : Canonical s.mem) :
    Canonical (s.dcasAt pa pb d c).state.mem := by
  unfold State.dcasAt
  dsimp only
  split_ifs <;> simp [h]

@[simp] theorem canonical_enqueue' (s : State) (hd tl n v : Nat) (o : Nat × Nat) (h : Canonical s.mem) :
    Canonical (s.enqueue' hd tl n v o).state.mem := by
  unfold State.enqueue'
  dsimp only
  split <;> exact canonical_store _ (canonical_store _ h)

@[simp] theorem canonical_enqAt (s : State) (a : BitVec 16) (m : BitVec 6) (d n : Nat) (h : Canonical s.mem) :
    Canonical (s.enqAt a m d n).state.mem := by
  unfold State.enqAt
  dsimp only
  repeat' split
  all_goals simp [h]

@[simp] theorem canonical_atomicAt (s : State) (m : Msg) (h : Canonical s.mem) :
    Canonical (s.atomicAt m).state.mem := by
  unfold State.atomicAt
  dsimp only
  repeat' split
  all_goals simp [h]

/-! ### NetServe -/

@[simp] theorem canonical_serveRead (s : State) (m : Msg) (h : Canonical s.mem) :
    Canonical (State.serveRead s m).mem := by
  simp +contextual [State.serveRead, h]

@[simp] theorem canonical_writeAt (s : State) (m : Msg) (h : Canonical s.mem) : Canonical (s.writeAt m).1.mem := by
  unfold State.writeAt
  dsimp only
  repeat' split
  all_goals simp [h]

@[simp] theorem canonical_serveWrite (s : State) (m : Msg) (h : Canonical s.mem) :
    Canonical (State.serveWrite s m).mem := by
  simp +contextual [State.serveWrite, h]

@[simp] theorem canonical_replyEntry (s : State) (since : Nat) (m : Msg) (x : Nat × Word × BitVec 8)
    (h : Canonical s.mem) : Canonical (State.replyEntry s since m x).mem := by
  unfold State.replyEntry; split <;> simp +contextual [h]

@[simp] theorem canonical_mergeEntries (s : State) (m : Msg) (l : List AmoEntry) (h : Canonical s.mem) :
    Canonical (s.mergeEntries m l).1.mem := by
  induction l generalizing s with
  | nil => exact h
  | cons e l ih =>
    refine ih _ ?_
    split
    · exact canonical_amoAt _ _ _ _ h
    · exact h

@[simp] theorem canonical_serveMerge (s : State) (m : Msg) (h : Canonical s.mem) :
    Canonical (State.serveMerge s m).mem := by
  simp +contextual [State.serveMerge, h]

@[simp] theorem canonical_serveAtomic (s : State) (m : Msg) (h : Canonical s.mem) :
    Canonical (State.serveAtomic s m).mem := by
  simp +contextual [State.serveAtomic, h]

@[simp] theorem canonical_serveCounter (s : State) (m : Msg) (h : Canonical s.mem) :
    Canonical (State.serveCounter s m).mem := by
  simp +contextual [State.serveCounter, h]

/-! ### Params -/

@[simp] theorem updRec_mem (s : State) (pa : Nat) (f : RecInfo → RecInfo) : (State.updRec s pa f).mem = s.mem := (rfl)

@[simp] theorem canonical_setStc (s : State) (pa st : Nat) (h : Canonical s.mem) :
    Canonical (State.setStc s pa st).mem := by
  simp +contextual [State.setStc, h]

@[simp] theorem canonical_orRecFlag (s : State) (pa m : Nat) (h : Canonical s.mem) :
    Canonical (State.orRecFlag s pa m).mem := by
  simp +contextual [State.orRecFlag, h]

@[simp] theorem canonical_poisonRec (s : State) (r : RecInfo) (h : Canonical s.mem) :
    Canonical (State.poisonRec s r).mem := by
  simp +contextual [State.poisonRec, h]

@[simp] theorem canonical_gateError (s : State) (pa : Nat) (va : VAddr) (h : Canonical s.mem) :
    Canonical (State.gateError s pa va).mem := by
  simp +contextual [State.gateError, h]

@[simp] theorem notePan_mem (s : State) (asid : BitVec 16) (m : BitVec 12) (a : Nat) (kind : Nat) (pa : Nat)
    (va : VAddr) : (State.notePan s asid m a kind pa va).mem = s.mem := (rfl)

@[simp] theorem sendReport_mem (s : State) (r : RecInfo) (m : BitVec 12) (a : Nat) (sum : Nat) (e : Int) (step : Nat) :
    (State.sendReport s r m a sum e step).mem = s.mem := by simp [State.sendReport]

@[simp] theorem canonical_sendGate (s : State) (r : RecInfo) (p : Nat) (h : Canonical s.mem) :
    Canonical (State.sendGate s r p).mem := by
  unfold State.sendGate; dsimp only; repeat' split
  all_goals simp +contextual [h]

@[simp] theorem canonical_fire (s : State) (r : RecInfo) (u : RuleEntry) (h : Canonical s.mem) :
    Canonical (s.fire r u).mem := by
  unfold State.fire
  dsimp only
  have gated : Canonical ((s.updRec r.pa fun r => { r with rule := some u }).setStc r.pa recGated).mem := by simp [h]
  split_ifs
  · exact canonical_store _ h
  · exact canonical_poisonRec _ _ gated
  · exact canonical_sendGate _ _ _ gated

@[simp] theorem canonical_fireIfDue (s : State) (r : RecInfo) (h : Canonical s.mem) :
    Canonical (State.fireIfDue s r).mem := by
  simp +contextual [State.fireIfDue, h]

@[simp] theorem canonical_contribute (s : State) (r : RecInfo) (t : Nat) (v : List XR) (h : Canonical s.mem) :
    Canonical (s.contribute r t v).1.mem := by
  have marked : ∀ (c : Bool) (u : State) (f : State → State), (∀ u, Canonical u.mem → Canonical (f u).mem) →
      Canonical u.mem → Canonical (if c then f u else u).mem := by
    intro c u f hf hu
    split
    · exact hf u hu
    · exact hu
  unfold State.contribute
  dsimp only
  by_cases poisoned : r.poisoned = true
  · rw [if_pos poisoned]
    exact h
  rw [if_neg poisoned]
  by_cases header : s.isPoisoned r.pa 128 = true
  · rw [if_pos header]
    exact canonical_poisonRec _ _ h
  rw [if_neg header]
  split
  · exact h
  split
  · exact canonical_poisonRec _ _ h
  split
  · exact h
  · refine marked _ _ (fun u => u.fire r _) (fun u => canonical_fire u _ _) ?_
    refine marked _ _ (fun u => u.setStc r.pa recCollecting) (fun u => canonical_setStc u _ _) ?_
    refine marked _ _ (fun u => u.orRecFlag r.pa 2) (fun u => canonical_orRecFlag u _ _) ?_
    refine marked _ _ (fun u => u.orRecFlag r.pa 1) (fun u => canonical_orRecFlag u _ _) ?_
    exact canonical_store _ h

@[simp] theorem sendRelease_mem (s : State) (c : RecInfo) (m : BitVec 12) (pa : Nat) (n : Word32) :
    (State.sendRelease s c m pa n).mem = s.mem := by simp [State.sendRelease]

@[simp] theorem canonical_answerReport (s : State) (x : Report) (code : BitVec 8) (head : Nat) (h : Canonical s.mem) :
    Canonical (State.answerReport s x code head).mem := by
  unfold State.answerReport; split <;> simp +contextual [h]

@[simp] theorem poisonCell_mem (s : State) (c : RecInfo) :
    (State.poisonCell s c).mem = s.mem := by simp [State.poisonCell]

@[simp] theorem canonical_performReport (s : State) (c : RecInfo) (x : Report) (h : Canonical s.mem) :
    Canonical (s.performReport c x).mem := by
  unfold State.performReport
  dsimp only
  have told := canonical_answerReport s x 0 (s.peekNat (c.pa + 32) 8) h
  have released : ∀ (l : List (BitVec 12 × Nat)) (n : Word32) (t : State), Canonical t.mem →
      Canonical (l.foldl (fun (s : State) p => s.sendRelease c p.1 p.2 n) t).mem := fun l n t h =>
    canonical_foldl (fun s p h => by simpa using h) h
  split_ifs
  · simp [h]
  · simp [h]
  · exact canonical_store _ (released _ _ _ (canonical_store _ told))
  · exact released _ _ _ (canonical_store _ told)
  · exact canonical_store _ told

@[simp] theorem canonical_panAnswer (s : State) (m : Msg) (data : Word) (code : BitVec 8) (h : Canonical s.mem) :
    Canonical (State.panAnswer s m data code).mem := by
  simp +contextual [State.panAnswer, h]

@[simp] theorem canonical_releaseRec (s : State) (pa : Nat) (n : Word32) (h : Canonical s.mem) :
    Canonical (State.releaseRec s pa n).mem := by
  unfold State.releaseRec; split <;> simp +contextual [h]

@[simp] theorem canonical_notifyNtf (s : State) (r : RecInfo) (ntf : Nat) (h : Canonical s.mem) :
    Canonical (State.notifyNtf s r ntf).mem := by
  unfold State.notifyNtf; dsimp only; repeat' split
  all_goals simp +contextual [h]

@[simp] theorem canonical_flipRec (s : State) (r : RecInfo) (h : Canonical s.mem) : Canonical (s.flipRec r).mem := by
  unfold State.flipRec
  dsimp only
  split
  · exact canonical_fireIfDue _ _ (canonical_notifyNtf _ _ _ (canonical_store _ h))
  · exact canonical_notifyNtf _ _ _ (canonical_store _ h)

/-- The state a parameter request leaves. -/
def paramState (s : State) : ParamResult → State
  | .wait => s
  | .answer t _ _ => t

@[simp] theorem paramState_wait (s : State) : paramState s .wait = s := rfl
@[simp] theorem paramState_answer (s t : State) (l : List Byte) (c : BitVec 8) : paramState s (.answer t l c) = t := rfl

@[simp] theorem canonical_preadAt (s : State) (r : RecInfo) (n q : Nat) (h : Canonical s.mem) :
    Canonical (paramState s (s.preadAt r n q)).mem := by
  unfold State.preadAt
  dsimp only
  repeat' split
  all_goals simp [h]

@[simp] theorem canonical_paramAt (s : State) (m : Msg) (h : Canonical s.mem) :
    Canonical (paramState s (s.paramAt m)).mem := by
  unfold State.paramAt
  dsimp only
  split
  · split <;> exact h
  · split_ifs <;> simp [h]

theorem canonical_of_paramAt {s : State} {m : Msg} {t : State} {l : List Byte} {c : BitVec 8}
    (e : s.paramAt m = .answer t l c) (h : Canonical s.mem) : Canonical t.mem :=
  show Canonical (paramState s (.answer t l c)).mem from e ▸ canonical_paramAt s m h

/-! ### EngineExec -/

@[simp] theorem updCmd_mem (s : State) (core : BitVec 10) (id : Nat) (f : Cmd → Cmd) :
    (State.updCmd s core id f).mem = s.mem := by simp [State.updCmd]

@[simp] theorem markPiece_mem (s : State) (core : BitVec 10) (id idx : Nat) (st : Stage) :
    (State.markPiece s core id idx st).mem = s.mem := by simp [State.markPiece]

@[simp] theorem failPiece_mem (s : State) (core : BitVec 10) (id idx : Nat) (code : BitVec 8) (why : FaultWhy) :
    (State.failPiece s core id idx code why).mem = s.mem := by simp [State.failPiece]

@[simp] theorem noteStatus_mem (s : State) (core : BitVec 10) (id : Nat) (code : BitVec 8) :
    (State.noteStatus s core id code).mem = s.mem := by simp [State.noteStatus]

@[simp] theorem indexLog_mem (s : State) (core : BitVec 10) (q : Cmd) (p : Piece) (code : BitVec 8) :
    (State.indexLog s core q p code).mem = s.mem := by
  unfold State.indexLog; split <;> simp

theorem sendFabric_mem {s t : State} {m : Msg} {q : Cmd} {d : BitVec 12} {b : Nat} (e : s.sendFabric m q d b = some t) :
    t.mem = s.mem := by
  unfold State.sendFabric at e
  dsimp only at e
  split at e
  · cases e
  · split at e
    · rw [← Option.some.inj e]
      simp
    · cases e

theorem sendAccess_mem {s t : State} {m : Msg} {q : Cmd} (e : s.sendAccess m q = some t) : t.mem = s.mem := by
  unfold State.sendAccess at e
  split at e
  · rw [← Option.some.inj e, State.sendMsg_mem]
  · split at e
    · rw [← Option.some.inj e, State.sendMsg_mem]
    · exact sendFabric_mem e
  · rw [← Option.some.inj e]

@[simp] theorem canonical_ownWrite (s : State) (core : BitVec 10) (off : Nat) (l : List Byte) (h : Canonical s.mem) :
    Canonical (State.ownWrite s core off l).mem := by
  simp +contextual [State.ownWrite, h]

@[simp] theorem setPiece_mem (s : State) (core : BitVec 10) (id idx : Nat) (st : Stage) (out : Option (List Byte)) :
    (State.setPiece s core id idx st out).mem = s.mem := by simp [State.setPiece]

@[simp] theorem sendWrite_mem (s : State) (core : BitVec 10) (q : Cmd) (p : Piece) (loc : Loc) (w : Nat)
    (l : List Byte) :
    (s.sendWrite core q p loc w l).mem = s.mem := by
  unfold State.sendWrite
  split
  case h_1 e => exact (setPiece_mem ..).trans (sendAccess_mem e)
  case h_2 => exact setPiece_mem ..

@[simp] theorem writeNibble_mem (s : State) (core : BitVec 10) (q : Cmd) (p : Piece) (m : BitVec 12) (b x : Nat) :
    (s.writeNibble core q p m b x).mem = s.mem := by
  unfold State.writeNibble
  dsimp only
  split
  · split <;> simp
  · split
    · simp
    · split
      case h_1 e => exact (setPiece_mem ..).trans (sendAccess_mem e)
      case h_2 => rfl

@[simp] theorem canonical_writeElem (s : State) (core : BitVec 10) (q : Cmd) (p : Piece) (w : Nat) (l : List Byte)
    (h : Canonical s.mem) : Canonical (State.writeElem s core q p w l).mem := by
  unfold State.writeElem; split <;> simp +contextual [h]

@[simp] theorem canonical_haveData (s : State) (core : BitVec 10) (q : Cmd) (p : Piece) (l : List Byte)
    (h : Canonical s.mem) : Canonical (State.haveData s core q p l).mem := by
  simp +contextual [State.haveData, h]

@[simp] theorem donePiece_mem (s : State) (core : BitVec 10) (id idx : Nat) :
    (State.donePiece s core id idx).mem = s.mem := by simp [State.donePiece]

@[simp] theorem canonical_finishPiece (s : State) (core : BitVec 10) (q : Cmd) (idx : Nat) (l : List Byte)
    (h : Canonical s.mem) : Canonical (State.finishPiece s core q idx l).mem := by
  unfold State.finishPiece; split <;> simp +contextual [h]

@[simp] theorem canonical_chaseNext (s : State) (core : BitVec 10) (q : Cmd) (w : Walk) (code : BitVec 8)
    (h : Canonical s.mem) : Canonical (s.chaseNext core q w code).mem := by
  unfold State.chaseNext
  dsimp only
  split_ifs
  · simp [h]
  · simp [h]
  · split
    · split
      case h_1 e => rw [updCmd_mem, sendAccess_mem e]; exact h
      case h_2 => rw [updCmd_mem]; exact h
    · simp [h]
    · simp [h]
    · split
      case h_1 e => rw [updCmd_mem, sendAccess_mem e]; exact h
      case h_2 => rw [updCmd_mem]; exact h

@[simp] theorem canonical_casDead (s : State) (core : BitVec 10) (q : Cmd) (blk : List Byte) (h : Canonical s.mem) :
    Canonical (State.casDead s core q blk).mem := by
  simp +contextual [State.casDead, h]

@[simp] theorem canonical_sendCas (s : State) (core : BitVec 10) (q : Cmd) (p : Piece) (h : Canonical s.mem) :
    Canonical (s.sendCas core q p).mem := by
  unfold State.sendCas
  dsimp only
  split
  · simp [h]
  · split
    · simp [h]
    · simp [h]
    · split
      case h_1 e => rw [markPiece_mem, sendAccess_mem e]; exact h
      case h_2 => exact h

@[simp] theorem sendOne_mem (s : State) (core : BitVec 10) (q : Cmd) (p : Piece) (op : NetOp) (w sub : Nat)
    (l : List AmoEntry) (d : List Byte) : (s.sendOne core q p op w sub l d).mem = s.mem := by
  unfold State.sendOne
  dsimp only
  split
  · simp
  · simp
  all_goals
    split
    case h_1 e => rw [markPiece_mem, sendAccess_mem e]
    case h_2 => rfl

@[simp] theorem canonical_bvecWrite (s : State) (core : BitVec 10) (q : Cmd) (h : Canonical s.mem) :
    Canonical (State.bvecWrite s core q).mem := by
  simp +contextual [State.bvecWrite, h]

@[simp] theorem bvecLog_mem (s : State) (core : BitVec 10) (q : Cmd) : (s.bvecLog core q).mem = s.mem := by
  unfold State.bvecLog
  dsimp only
  rw [foldl_mem' fun s i => logPoison_mem ..]
  refine foldl_mem' fun s l => ?_
  split <;> simp

@[simp] theorem enqRead_mem (s : State) (core : BitVec 10) (q : Cmd) (p : Piece) (m : BitVec 12) (b : Nat) :
    (s.enqRead core q p m b).mem = s.mem := by
  unfold State.enqRead
  split
  · split
    · split
      case h_1 e => rw [markPiece_mem, sendAccess_mem e]
      case h_2 => rfl
    · simp
  all_goals simp

@[simp] theorem enqSend_mem (s : State) (core : BitVec 10) (q : Cmd) (p : Piece) (n : Nat) :
    (s.enqSend core q p n).mem = s.mem := by
  unfold State.enqSend
  dsimp only
  split
  · split
    · split
      case h_1 e => rw [markPiece_mem, sendAccess_mem e]
      case h_2 => simp
    · simp
    · simp
  · simp

@[simp] theorem canonical_beginFresh (s : State) (core : BitVec 10) (q : Cmd) (p : Piece) (h : Canonical s.mem) :
    Canonical (s.beginFresh core q p).mem := by
  unfold State.beginFresh
  dsimp only
  repeat' split
  all_goals simp [h]
  all_goals
    rw [sendAccess_mem ‹_›]
    exact h

@[simp] theorem canonical_beginPiece (s : State) (core : BitVec 10) (q : Cmd) (p : Piece) (h : Canonical s.mem) :
    Canonical (State.beginPiece s core q p).mem := by
  unfold State.beginPiece; split <;> simp +contextual [h]

@[simp] theorem canonical_pump (s : State) (core : BitVec 10) (n : Nat) (h : Canonical s.mem) :
    Canonical (s.pump core n).mem := by
  unfold State.pump
  split
  · exact h
  · refine canonical_foldl (fun s p h => ?_) h
    split
    · split
      · exact canonical_beginPiece _ _ _ _ h
      · exact h
    · exact h

@[simp] theorem canonical_pumpCore (s : State) (core : BitVec 10) (h : Canonical s.mem) :
    Canonical (s.pumpCore core).mem := by
  unfold State.pumpCore
  exact canonical_foldl (fun s q h => canonical_pump _ _ _ h) h

@[simp] theorem canonical_pumpAll (s : State) (h : Canonical s.mem) : Canonical s.pumpAll.mem := by
  unfold State.pumpAll
  exact canonical_foldl (fun s q h => canonical_pumpCore _ _ h) h

@[simp] theorem canonical_mergeNibble (s : State) (core : BitVec 10) (q : Cmd) (p : Piece) (nibble old : List Byte)
    (h : Canonical s.mem) : Canonical (State.mergeNibble s core q p nibble old).mem := by
  simp +contextual [State.mergeNibble, h]

@[simp] theorem canonical_takeData (s : State) (m : Msg) (q : Cmd) (p : Piece) (data : List Byte)
    (h : Canonical s.mem) : Canonical (State.takeData s m q p data).mem := by
  unfold State.takeData; dsimp only; repeat' split
  all_goals simp +contextual [h]

@[simp] theorem canonical_deliver (s : State) (m : Msg) (data : List Byte) (code : BitVec 8) (why : FaultWhy)
    (h : Canonical s.mem) : Canonical (State.deliver s m data code why).mem := by
  unfold State.deliver; dsimp only; repeat' split
  all_goals simp +contextual [h]

@[simp] theorem canonical_startCmd (s : State) (h : Canonical s.mem) : Canonical (startCmd s).mem := by
  unfold startCmd
  split
  · dsimp only
    split
    · split
      · exact canonical_pump _ _ _ (canonical_cachePlaces _ _ _ _ h)
      · exact h
    · exact canonical_pump _ _ _ h
  · exact h

@[simp] theorem canonical_completionEffect (s : State) (q : Cmd) (h : Canonical s.mem) :
    Canonical (State.completionEffect s q).mem := by
  unfold State.completionEffect; split <;> simp +contextual [h]

@[simp] theorem canonical_settle (s : State) (h : Canonical s.mem) : Canonical s.settle.mem :=
  canonical_pumpCore _ _ (canonical_flushSpawns _ (canonical_flushPosts _ h))

@[simp] theorem canonical_completeCmd (s : State) (h : Canonical s.mem) : Canonical (completeCmd s).mem := by
  unfold completeCmd
  split
  · split
    · split
      · exact canonical_settle _ (canonical_completionEffect _ _ h)
      · exact h
    · exact h
  · exact h

@[simp] theorem canonical_faultCmd (s : State) (h : Canonical s.mem) : Canonical (faultCmd s).mem := by
  unfold faultCmd
  split
  · split
    · split
      · split
        · dsimp only
          split
          · exact canonical_settle _ h
          · exact h
        · exact h
      · exact h
    · exact h
  · exact h

@[simp] theorem canonical_restartCmd (s : State) (h : Canonical s.mem) : Canonical (restartCmd s).mem := by
  unfold restartCmd
  split
  · split
    · split
      · split
        · exact canonical_pump _ _ _ h
        · exact canonical_settle _ h
        · exact h
      · exact h
    · exact h
  · exact h

/-! ### Loader -/

@[simp] theorem fetchOn_mem (s : State) (c : BitVec 10) (n : Nat) : (s.fetchOn c n).mem = s.mem := by
  induction n generalizing s with
  | zero => rfl
  | succ n ih =>
    rw [State.fetchOn]
    dsimp only
    repeat' split
    all_goals simp [ih]

@[simp] theorem canonical_codeArrived (s : State) (core : BitVec 10) (data : List Byte) (h : Canonical s.mem) :
    Canonical (State.codeArrived s core data).mem := by
  unfold State.codeArrived; dsimp only; repeat' split
  all_goals simp +contextual [h]

@[simp] theorem canonical_loadStore (s : State) (core : BitVec 10) (h : Canonical s.mem) :
    Canonical (State.loadStore s core).mem := by
  simp +contextual [State.loadStore, h]

/-! ### Phase -/

@[simp] theorem canonical_zeroRange (s : State) (a n : Nat) (h : Canonical s.mem) :
    Canonical (State.zeroRange s a n).mem := by
  simp +contextual [State.zeroRange, h]

@[simp] theorem canonical_zeroPiece (s : State) (asid : BitVec 16) (d : DiffPiece) (h : Canonical s.mem) :
    Canonical (State.zeroPiece s asid d).mem := by
  unfold State.zeroPiece; split <;> simp +contextual [h]

@[simp] theorem canonical_copyTo (s : State) (asid : BitVec 16) (m : PageMove) (off : Nat) (l : List Byte)
    (h : Canonical s.mem) : Canonical (State.copyTo s asid m off l).mem := by
  unfold State.copyTo; split <;> simp +contextual [h]

@[simp] theorem canonical_copySub (s : State) (asid : BitVec 16) (m : PageMove) (b : Nat) (h : Canonical s.mem) :
    Canonical (State.copySub s asid m b).mem := by
  unfold State.copySub; split <;> simp +contextual [h]

@[simp] theorem canonical_secondLine (s : State) (asid : BitVec 16) (trans : Nat) (m : PageMove) (off : Nat)
    (bytes : BitVec 64)     (l : List Byte) (h : Canonical s.mem) : Canonical (State.secondLine s asid trans m off bytes l).mem := by
  unfold State.secondLine; split <;> simp +contextual [h]

@[simp] theorem canonical_couchAnswer (s : State) (m : Msg) (l : List Byte) (c : BitVec 8) (h : Canonical s.mem) :
    Canonical (s.couchAnswer m l c).mem := by
  unfold State.couchAnswer
  split
  · exact h
  · split_ifs
    · simp [h]
    · simp [h]
    · exact h
    · split <;> simp [h]
    · split <;> simp [h]
    · exact h

@[simp] theorem canonical_mirrorLine (s : State) (asid : BitVec 16) (trans : Nat) (d : BitVec 12) (line va : Nat)
    (bytes : BitVec 64) (h : Canonical s.mem) : Canonical (State.mirrorLine s asid trans d line va bytes).mem := by
  simp +contextual [State.mirrorLine, h]

@[simp] theorem canonical_remoteWrote (s : State) (a : BitVec 16) (l : Loc) (n : Nat) (h : Canonical s.mem) :
    Canonical (s.remoteWrote a l n).mem := by
  unfold State.remoteWrote
  split
  · exact canonical_foldl (fun s m h => canonical_foldl (fun s i h => canonical_mirrorLine _ _ _ _ _ _ _ h) h) h
  · exact h

@[simp] theorem canonical_copyTodo (s : State) (a : BitVec 16) (f : Nat → Bool) (h : Canonical s.mem) :
    Canonical (s.copyTodo a f).mem := by
  unfold State.copyTodo
  split
  · exact h
  · exact canonical_foldl (fun s w h => canonical_copySub _ _ _ _ h) h

@[simp] theorem canonical_beginPass (s : State) (asid : BitVec 16) (h : Canonical s.mem) :
    Canonical (State.beginPass s asid).mem := by
  simp +contextual [State.beginPass, h]

@[simp] theorem canonical_readMaps (s : State) (x : Context) (h : Canonical s.mem) :
    Canonical (State.readMaps s x).mem := by
  simp +contextual [State.readMaps, h]

@[simp] theorem canonical_diffEnds (s : State) (x : Context) (h : Canonical s.mem) : Canonical (diffEnds s x).mem := by
  unfold diffEnds
  dsimp only
  have read := canonical_readMaps s x h
  split
  · rw [State.faultTransition_mem]
    exact read
  · split
    · exact read
    · exact canonical_beginPass _ _ (canonical_foldl (fun s d h => canonical_zeroPiece _ _ _ h) read)

/-! ### Sync -/

@[simp] theorem status_mem (s : State) (i : Instr) (kd : BitVec 4) (first second : Bool) :
    (State.status s i kd first second).mem = s.mem := (rfl)

@[simp] theorem waitEffect_mem (kd : BitVec 4) (obj : ObjName) (sb : BitVec 6) (s : State) :
    (waitEffect kd obj sb s).mem = s.mem := (rfl)

@[simp] theorem notifyPhase_mem (s : State) (asid : BitVec 16) (o : ObjName) (phase : BitVec 16) (fresh : Bool)    
    (but : BitVec 12) : (State.notifyPhase s asid o phase fresh but).mem = s.mem := by
  unfold State.notifyPhase; split <;> simp

/-- The state in which a group is held at its pod objects. -/
def podState (s : State) : PodStage → State
  | .hold t => t
  | _ => s

@[simp] theorem podState_mem1 (s : State) (pc : Nat) (o : ObjName) (b : Option Barrier) :
    (podState s (podStage1 s pc o b)).mem = s.mem := by
  unfold podStage1
  dsimp only
  split
  · rfl
  · split
    · split <;> rfl
    · cases b <;> simp [podState]

@[simp] theorem podState_mem (s : State) (l : List (Nat × Bundle)) : (podState s (podStage s l)).mem = s.mem := by
  induction l with
  | nil => rfl
  | cons p l ih =>
    have first : ∀ x : PodStage, (podState s x).mem = s.mem →
        (podState s (match x with | .ready => podStage s l | y => y)).mem = s.mem := by
      intro x hx
      cases x with
      | ready => exact ih
      | hold t => exact hx
      | trap n => rfl
    obtain ⟨pc, b⟩ := p
    rw [podStage]
    refine first _ ?_
    split
    · exact podState_mem1 ..
    · exact podState_mem1 ..
    · rfl

@[simp] theorem bariEffect_mem (obj : ObjName) (sa : BitVec 6) (e : Bool) (h : BitVec 3) (s : State) :
    (bariEffect obj sa e h s).mem = s.mem := by
  unfold bariEffect; dsimp only; repeat' split
  all_goals simp

@[simp] theorem completions_mem (s : State) (a : Arrival) (va : VAddr) (k : Nat) :
    (State.completions s a va k).mem = s.mem := (rfl)

@[simp] theorem arriveAt_mem (s : State) (a : Arrival) (o : ObjName) : (State.arriveAt s a o).mem = s.mem := by
  unfold State.arriveAt; dsimp only; repeat' split
  all_goals simp

@[simp] theorem performArrival_mem (s : State) : (performArrival s).mem = s.mem := by
  unfold performArrival; dsimp only; repeat' split
  all_goals simp

@[simp] theorem pnextEffect_mem (kd : BitVec 4) (rf : Bool) (r n : BitVec 6) (s : State) :
    (pnextEffect kd rf r n s).mem = s.mem := by
  unfold pnextEffect; split <;> simp

@[simp] theorem padvEffect_mem (tko : BitVec 6) (rf : Bool) (r n : BitVec 6) (s : State) :
    (padvEffect tko rf r n s).mem = s.mem := by
  unfold padvEffect; dsimp only; repeat' split
  all_goals simp

@[simp] theorem phaseIssued_mem (s : State) : (phaseIssued s).mem = s.mem := (rfl)

@[simp] theorem pcancelEffect_mem (s : State) : (pcancelEffect s).mem = s.mem := (rfl)

/-- The state of a verdict on a group's phase operations. -/
def phaseState : PhaseVerdict → State
  | .ready t => t
  | .hold t => t
  | .trap _ _ t => t

theorem makePhases_cons (pc : Nat) (i : Instr) (l : List (Nat × Instr)) (s : State) : makePhases ((pc, i) :: l) s =
    if phaseHeld i s then .hold s.hold
    else match i with
      | .padv tko rf r n =>
        (match (if s.core.padvWait.isNone then outTrap s.core tko else []) with
         | t :: _ => .trap t pc s
         | [] => match padvStage tko (phaseTarget rf r n s.core) s with
           | .wait u => .hold u.hold
           | .trap t => .trap t pc s
           | _ => makePhases l ((padvEffect tko rf r n s).onCore fun c => { c with phasesMade := c.phasesMade + 1 }))
      | .pcancel => makePhases l ((pcancelEffect s).onCore fun c => { c with phasesMade := c.phasesMade + 1 })
      | _ => makePhases l s := rfl

@[simp] theorem phaseState_mem (l : List (Nat × Instr)) (s : State) : (phaseState (makePhases l s)).mem = s.mem := by
  induction l generalizing s with
  | nil => rfl
  | cons p l ih =>
    obtain ⟨pc, i⟩ := p
    have next : ∀ u : State, u.mem = s.mem →
        (phaseState (makePhases l (u.onCore fun c => { c with phasesMade := c.phasesMade + 1 }))).mem = s.mem :=
      fun u hu => (ih _).trans hu
    rw [makePhases_cons]
    by_cases held : phaseHeld i s = true
    · rw [if_pos held]
      rfl
    · rw [if_neg held]
      cases i
      case padv tko rf r n =>
        dsimp only
        split
        · rfl
        · split
          case h_1 u e => exact show u.mem = s.mem from mem_of_padvStage e
          case h_2 => rfl
          case h_3 => exact next _ (padvEffect_mem ..)
      case pcancel => exact next _ (pcancelEffect_mem ..)
      all_goals exact ih s

@[simp] theorem dropFreeze_mem (s : State) : (State.dropFreeze s).mem = s.mem := (rfl)

@[simp] theorem sendSuccessors_mem (s : State) (t : TaskInfo) :
    (State.sendSuccessors s t).mem = s.mem := by simp [State.sendSuccessors]

@[simp] theorem canonical_endTask (s : State) (t : TaskInfo) (h : Canonical s.mem) :
    Canonical (State.endTask s t).mem := by
  simp +contextual [State.endTask, h]

@[simp] theorem canonical_finishWork (s : State) (h : Canonical s.mem) : Canonical s.finishWork.mem :=
  canonical_flushSpawns _ (canonical_flushPosts _ (canonical_releaseStores _ h))

@[simp] theorem canonical_tendStep (s : State) (h : Canonical s.mem) : Canonical (tendStep s).mem := by
  unfold tendStep; dsimp only; repeat' split
  all_goals simp +contextual [h]

@[simp] theorem canonical_tspawnEffect (kd : BitVec 4) (sa sb : BitVec 6) (s : State) (h : Canonical s.mem) :
    Canonical (tspawnEffect kd sa sb s).mem := by
  unfold tspawnEffect; dsimp only; repeat' split
  all_goals simp +contextual [h]

@[simp] theorem passTrap_mem (s : State) : (passTrap s).mem = s.mem := (rfl)

@[simp] theorem endCall_mem (s : State) (r : SvcReq) (tok : BitVec 16) :
    (State.endCall s r tok).mem = s.mem := by simp [State.endCall]

@[simp] theorem takeCall_mem (s : State) (m : Msg) : (State.takeCall s m).mem = s.mem := by simp [State.takeCall]

@[simp] theorem svcEffect_mem (tko sa : BitVec 6) (code : BitVec 10) (s : State) :
    (svcEffect tko sa code s).mem = s.mem := by simp [svcEffect]

@[simp] theorem logBundleTrap_mem (s : State) (t : TrapCond) (m n : Nat) : (s.logBundleTrap t m n).mem = s.mem := by
  unfold State.logBundleTrap
  split
  · split
    · exact State.mem_logMemTrap ..
    · rfl
  · rfl

@[simp] theorem trapAt_mem (s : State) (t : TrapCond) (slot bundle : Nat) :
    (State.trapAt s t slot bundle).mem = s.mem := (rfl)

@[simp] theorem canonical_boundary (s : State) (h : Canonical s.mem) : Canonical (boundary s).mem := by
  have pods : ∀ {l t}, podStage s l = .hold t → Canonical t.mem := fun {l t} e => by
    have m : (podState s (.hold t)).mem = s.mem := e ▸ podState_mem s l
    exact m ▸ h
  have phases : ∀ {l v}, makePhases l s = v → Canonical (phaseState v).mem := fun {l v} e => by
    rw [← e, phaseState_mem]
    exact h
  unfold boundary
  dsimp only
  split
  · simp [h]
  case h_2 e => rw [bundleAction_hold e]; exact h
  · simp [h]
  · simp [h]
  · split
    · exact h
    case h_2 e => exact pods e
    · simp [h]
  · split
    · split
      case h_1 e => exact phases e
      case h_2 e => exact phases e
      case h_3 e => exact phases e
    case h_2 e => exact pods e
    · simp [h]

/-! ### Fabric -/

@[simp] theorem logLink_mem (s : State) (p : BitVec 4) (code : BitVec 8) (fseq : BitVec 12) :
    (State.logLink s p code fseq).mem = s.mem := (rfl)

@[simp] theorem askReplay_mem (s : State) (p : BitVec 4) :
    (State.askReplay s p).mem = s.mem := by simp [State.askReplay]

@[simp] theorem packetIn_mem (s : State) (port : BitVec 4) (flits : List (List Byte)) :
    (State.packetIn s port flits).mem = s.mem := (rfl)

@[simp] theorem acceptFlit_mem (s : State) (p : BitVec 4) (u : LinkUnit) :
    (State.acceptFlit s p u).mem = s.mem := by simp [State.acceptFlit]

@[simp] theorem takeUnit_mem (s : State) (p : BitVec 4) (u : LinkUnit) : (takeUnit s p u).mem = s.mem := by
  unfold takeUnit; split <;> simp

@[simp] theorem replayFrom_mem (s : State) (p : BitVec 4) (first : BitVec 12) :
    (replayFrom s p first).mem = s.mem := by simp [replayFrom]

@[simp] theorem logFabric_mem (s : State) (u : BitVec 2 × BitVec 8) (code : BitVec 8) (m : BitVec 12) (a : Nat) :
    (State.logFabric s u code m a).mem = s.mem := (rfl)

@[simp] theorem takeOut_mem (s : State) (p : Packet) : (State.takeOut s p).mem = s.mem := (rfl)

/-- The state of a verdict of the gateway. -/
def gateState : Gate → State
  | .drop t => t
  | .refuse t => t
  | .admits t _ _ => t

@[simp] theorem gateState_mem (s : State) (p : Packet) : (gateState (s.gate p)).mem = s.mem := by
  unfold State.gate
  dsimp only
  split_ifs
  · simp [gateState]
  · simp [gateState]
  · split
    · split
      · split <;> simp [gateState]
      · simp [gateState]
    · simp [gateState]

theorem mem_of_gate {s : State} {p : Packet} {g : Gate} (e : s.gate p = g) : (gateState g).mem = s.mem :=
  e ▸ gateState_mem s p

@[simp] theorem toHome_mem (s : State) (port : BitVec 4) (x : Context) (p : Packet) :
    (State.toHome s port x p).mem = s.mem := by simp [State.toHome]

@[simp] theorem takeRequest_mem (s : State) (p : Packet) : (takeRequest s p).mem = s.mem := by
  unfold takeRequest
  split
  case h_1 e => exact mem_of_gate e
  case h_2 e => exact mem_of_gate e
  case h_3 e => exact (toHome_mem ..).trans (mem_of_gate e)

@[simp] theorem admitLog_mem (s : State) (x : Context) (a n : Nat) (write : Bool) :
    (State.admitLog s x a n write).mem = s.mem := by simp [State.admitLog]

@[simp] theorem logTag_mem (s : State) (p : Packet) : (State.logTag s p).mem = s.mem := (rfl)

@[simp] theorem countRecv_mem (s : State) (p : Packet) (n : Nat) : (State.countRecv s p n).mem = s.mem := (rfl)

@[simp] theorem land_mem (s : State) (p : Packet) (cells : List (Nat × Byte)) :
    (State.land s p cells).mem = s.mem := (rfl)

@[simp] theorem canonical_homeWrite (sched : Bool) (t : State) (p : Packet) (x : Context) (k : KeySlot)
    (h : Canonical t.mem) : Canonical (homeWrite sched t p x k).mem := by
  simp +contextual [homeWrite, h]

@[simp] theorem homeRead_mem (t : State) (p : Packet) (x : Context) (k : KeySlot) : (homeRead t p x k).mem = t.mem := by
  unfold homeRead
  dsimp only
  split
  · split <;> simp
  · simp

@[simp] theorem canonical_fabEnq (s : State) (x : Context) (a : Nat) (d : List Byte) (h : Canonical s.mem) :
    Canonical (s.fabEnq x a d).state.mem := by
  unfold State.fabEnq
  dsimp only
  repeat' split
  all_goals simp [h]

@[simp] theorem canonical_fabAtomic (s : State) (x : Context) (k : KeySlot) (p : Packet) (h : Canonical s.mem) :
    Canonical (s.fabAtomic x k p).state.mem := by
  unfold State.fabAtomic
  extract_lets a fwd sub blk w read own wcode r b second
  have hr : Canonical r.1.mem := canonical_amoAt _ _ _ _ h
  split_ifs <;> simp [h, hr]

@[simp] theorem canonical_homeAtomic (t : State) (p : Packet) (x : Context) (k : KeySlot) (h : Canonical t.mem) :
    Canonical (homeAtomic t p x k).mem := by
  unfold homeAtomic
  dsimp only
  have done := canonical_fabAtomic t x k p h
  split_ifs <;> simp [h, done]

@[simp] theorem takeFence_mem (s : State) (p : Packet) : (takeFence s p).mem = s.mem := by
  unfold takeFence
  split
  case h_1 e => exact mem_of_gate e
  case h_2 e => exact mem_of_gate e
  case h_3 t x k e =>
    have m : t.mem = s.mem := mem_of_gate e
    dsimp only
    split_ifs <;> simp [m]

@[simp] theorem canonical_homeCounter (c : BitVec 8) (t : State) (p : Packet) (x : Context) (k : KeySlot)
    (h : Canonical t.mem) : Canonical (homeCounter c t p x k).mem := by
  unfold homeCounter
  dsimp only
  split_ifs <;> simp [h]

@[simp] theorem podNotice_mem (s : State) (x : Context) (o : ObjName) (phase : BitVec 16) (fresh : Bool) :
    (State.podNotice s x o phase fresh).mem = s.mem := by
  unfold State.podNotice; dsimp only; repeat' split
  all_goals simp

@[simp] theorem podAnswered_mem (s : State) (pid : BitVec 32) (ok : Bool) :
    (State.podAnswered s pid ok).mem = s.mem := (rfl)

@[simp] theorem takeBarrier_mem (s : State) (p : Packet) : (takeBarrier s p).mem = s.mem := by
  unfold takeBarrier
  split
  case h_1 e => exact mem_of_gate e
  case h_2 e => exact mem_of_gate e
  case h_3 t x k e =>
    have m : t.mem = s.mem := mem_of_gate e
    dsimp only
    split_ifs <;> simp [m]

@[simp] theorem canonical_finishFabric (s : State) (m : Msg) (l : List Byte) (c : BitVec 8) (w : FaultWhy) (n : Word)
    (h : Canonical s.mem) : Canonical (s.finishFabric m l c w n).mem := by
  have wrote : ∀ (l : List (Loc × Nat)) (t : State), Canonical t.mem →
      Canonical (l.foldl (fun (t : State) w => t.remoteWrote m.asid w.1 w.2) t).mem := fun l t h =>
    canonical_foldl (fun t w h => canonical_remoteWrote _ _ _ _ h) h
  have dropped : Canonical (s.dropMsg m.id).mem := by simpa using h
  unfold State.finishFabric
  dsimp only
  split_ifs <;> simp [dropped, wrote, -dropMsg_mem]

@[simp] theorem answerData_mem (s : State) (m : Msg) (k : KeySlot) (p : Packet) :
    (s.answerData m k p).1.mem = s.mem := by
  unfold State.answerData
  dsimp only
  repeat' split
  all_goals simp

@[simp] theorem toAsker_mem (s : State) (port : BitVec 4) (m : Msg) (p : Packet) :
    (State.toAsker s port m p).mem = s.mem := by simp [State.toAsker]

@[simp] theorem takeAnswerPacket_mem (s : State) (p : Packet) : (takeAnswerPacket s p).mem = s.mem := by
  have pass : ∀ t : State, (match t.answered p with | some m => t.toAsker (s.portFor p) m p | none => t).mem = t.mem :=
    fun t => by split <;> simp
  unfold takeAnswerPacket
  dsimp only
  split
  · exact pass (s.takeOut p)
  · split
    case h_1 e => exact mem_of_gate e
    case h_2 e => exact mem_of_gate e
    case h_3 t _ _ e => exact (pass t).trans (mem_of_gate e)

@[simp] theorem canonical_ackOf (t : State) (m : Msg) (p : Packet) (h : Canonical t.mem) :
    Canonical (ackOf t m p).mem := by
  simp +contextual [ackOf, h]

@[simp] theorem canonical_homeParam (n : Msg) (t : State) (p : Packet) (x : Context) (k : KeySlot)
    (h : Canonical t.mem) :
    Canonical (homeParam n t p x k).mem := by
  unfold homeParam
  extract_lets reply code
  have replied : ∀ u l c, Canonical u.mem → Canonical (reply u l c).mem := fun u l c hu => by simp [reply, hu]
  split_ifs
  · exact replied _ _ _ (by simpa using h)
  · exact replied _ _ _ h
  · exact replied _ _ _ h
  · split
    · exact h
    case h_2 e => exact replied _ _ _ (canonical_of_paramAt e h)

@[simp] theorem canonical_paramResponse (t : State) (m : Msg) (k : KeySlot) (p : Packet) (h : Canonical t.mem) :
    Canonical (paramResponse t m k p).mem := by
  simp +contextual [paramResponse, h]

@[simp] theorem canonical_homeNorm (t : State) (p : Packet) (x : Context) (k : KeySlot) (h : Canonical t.mem) :
    Canonical (homeNorm t p x k).mem := by
  simp +contextual [homeNorm, h]

@[simp] theorem canonical_takeParameter (s : State) (p : Packet) (h : Canonical s.mem) :
    Canonical (takeParameter s p).mem := by
  simp +contextual [takeParameter, h]

theorem canonical_atHome {f : State → Packet → Context → KeySlot → State}
    (hf : ∀ t p x k, Canonical t.mem → Canonical (f t p x k).mem) (s : State) (m : Msg) (p : Packet)
    (h : Canonical s.mem) : Canonical (s.atHome m p f).mem := by
  unfold State.atHome
  dsimp only
  split
  · exact hf _ _ _ _ h
  · simp [h]
  · simp [h]

@[simp] theorem canonical_takeReply (s : State) (n : Msg) (p : Packet) (h : Canonical s.mem) :
    Canonical (s.takeReply n p).mem := by
  unfold State.takeReply
  dsimp only
  split
  · simp [h]
  · split_ifs
    · simp [h]
    · simp [h]
    · split
      · simp [h]
      · split <;> simp [h]

@[simp] theorem canonical_packetEnd (s : State) (m : Msg) (p : Packet) (h : Canonical s.mem) :
    Canonical (s.packetEnd m p).mem := by
  have whole : ∀ f : State → Packet → Context → KeySlot → State,
      (∀ t p x k, Canonical t.mem → Canonical (f t p x k).mem) →
      Canonical (s.atHome m p fun t p x k => f (t.dropMsg m.id) p x k).mem := fun f hf =>
    canonical_atHome (fun t p x k h => hf _ p x k (by simpa using h)) s m p h
  unfold State.packetEnd
  dsimp only
  split
  · exact whole _ (canonical_homeWrite false)
  · exact whole _ fun t p x k h => (homeRead_mem t p x k).symm ▸ h
  · exact whole _ canonical_homeAtomic
  · exact whole _ (canonical_homeCounter 0x08)
  · exact whole _ (canonical_homeCounter 0x04)
  · exact whole _ (canonical_homeWrite true)
  · split_ifs
    · exact canonical_takeReply _ _ _ h
    · exact canonical_atHome (canonical_homeParam m) s m p h
    · exact whole _ canonical_homeNorm
  · exact canonical_takeReply _ _ _ h

@[simp] theorem canonical_replicate (s : State) (m : Msg) (b : Nat) (h : Canonical s.mem) :
    Canonical (replicate s m b).mem := by
  unfold replicate
  split
  · simp [h]
  · simp [h]
  · extract_lets ds
    split
    · simp [h]
    · split
      · exact h
      · split
        · exact h
        · refine canonical_foldl (fun s d h => ?_) (by simpa using h)
          simpa using h

@[simp] theorem writeGroup_mem (s : State) (e : McGroup) : (State.writeGroup s e).mem = s.mem := (rfl)

@[simp] theorem landingTimeout_mem (s : State) (n : Nat) : (landingTimeout s n).mem = s.mem := by
  unfold landingTimeout; split <;> simp

@[simp] theorem resend_mem (s : State) (r : Refused) : (State.resend s r).mem = s.mem := by
  unfold State.resend; dsimp only; repeat' split
  all_goals simp

@[simp] theorem retry_mem (s : State) (landing : Bool) (due : Refused → Bool) : (retry s landing due).mem = s.mem := by
  unfold retry; dsimp only; repeat' split
  all_goals simp

/-! ### Network -/

@[simp] theorem canonical_ejectFlit (s : State) (die : BitVec 2) (f : Flit) (h : Canonical s.mem) :
    Canonical (State.ejectFlit s die f).mem := by
  simp +contextual [State.ejectFlit, h]

@[simp] theorem countRouter_mem (s : State) (die : BitVec 2) (r : BitVec 6) (n : Nat) :
    (State.countRouter s die r n).mem = s.mem := (rfl)

@[simp] theorem canonical_routerWork (s t : State) (d : BitVec 2) (r : BitVec 6) (h : Canonical t.mem) :
    Canonical (s.routerWork t d r).mem := by
  unfold State.routerWork
  refine canonical_foldl (fun t p h => ?_) h
  dsimp only
  split
  · exact h
  · rw [countRouter_mem]
    exact canonical_foldl (fun t f h => canonical_ejectFlit _ _ _ h) h

@[simp] theorem canonical_routerCycleOn (s : State) (h : Canonical s.mem) : Canonical (routerCycleOn s).mem := by
  unfold routerCycleOn
  split
  · dsimp only
    have worked : ∀ d (l : List Nat), Canonical (l.foldl (fun (t : State) r => s.routerWork t d (BitVec.ofNat 6 r)) s).mem :=
      fun d l => canonical_foldl (fun t r h => canonical_routerWork _ _ _ _ h) h
    split <;> exact worked _ _
  · exact h

@[simp] theorem canonical_loseBare (s : State) (n : Nat) (h : Canonical s.mem) :
    Canonical (State.loseBare s n).mem := by
  unfold State.loseBare; split <;> simp +contextual [h]

@[simp] theorem canonical_flitErrorOn (s : State) (mid seq : Nat) (what : FlitError) (h : Canonical s.mem) :
    Canonical (flitErrorOn s mid seq what).mem := by
  unfold flitErrorOn; dsimp only; repeat' split
  all_goals simp +contextual [h]

@[simp] theorem canonical_activate (s : State) (l : List (Nat × Nat)) (h : Canonical s.mem) :
    Canonical (State.activate s l).mem := by
  simp +contextual [State.activate, h]

@[simp] theorem canonical_takeOver (s : State) (m : Msg) (p : Packet) (h : Canonical s.mem) :
    Canonical (State.takeOver s m p).mem := by
  simp +contextual [State.takeOver, h]

theorem canonical_takeMsg {s : State} {t : State} (m : Msg) (h : Canonical s.mem) (ht : Canonical t.mem) :
    Canonical (s.takeMsg m t).mem := by
  unfold State.takeMsg
  dsimp only
  repeat' split
  all_goals simp [h, ht]

@[simp] theorem canonical_serveBvec (s : State) (m : Msg) (h : Canonical s.mem) :
    Canonical (State.serveBvec s m).mem := by
  unfold State.serveBvec; split <;> simp +contextual [h]

@[simp] theorem canonical_serveParam (s : State) (m : Msg) (h : Canonical s.mem) : Canonical (s.serveParam m).mem := by
  unfold State.serveParam
  split
  · simp [h]
  · split
    · exact h
    case h_2 e => simp [canonical_of_paramAt e h]

@[simp] theorem canonical_takeAnswer (s : State) (op : NetOp) (h : Canonical s.mem) :
    Canonical (s.takeAnswer op).mem := by
  unfold State.takeAnswer
  split
  · refine canonical_takeMsg _ h ?_
    split <;> simp [h]
  · exact h

/-! ### Image -/

@[simp] theorem canonical_markLost (s : State) (n : Nat) (h : Canonical s.mem) : Canonical (s.markLost n).mem :=
  canonical_poke _ h

@[simp] theorem canonical_writeImage (s : State) (b n : Nat) (r : VAddr) (m : SaveImage) (h : Canonical s.mem) :
    Canonical (s.writeImage b n r m).mem :=
  canonical_poke _ (canonical_foldl (fun s r h => canonical_zeroRange _ _ _ h) h)

/-! ### Sched -/

@[simp] theorem canonical_ringTail (s : State) (q : Queue) (x : BitVec 32) (h : Canonical s.mem) :
    Canonical (ringTail s q x).mem := by
  simp +contextual [ringTail, h]

@[simp] theorem canonical_admitPosts (s : State) (q : BitVec 14) (l : List (Word × VAddr)) (h : Canonical s.mem) :
    Canonical (s.admitPosts q l).mem := by
  induction l generalizing s with
  | nil => exact h
  | cons p l ih =>
    rw [State.admitPosts]
    split
    · split
      · exact h
      · exact ih _ (canonical_postNow _ _ _ _ (by simpa using h))
    · exact h

@[simp] theorem canonical_consume (s : State) (q : Queue) (h : Canonical s.mem) : Canonical (consume s q).mem := by
  unfold consume
  extract_lets entry va recVa u v w armed x
  have hu : Canonical u.mem := h
  have hw : Canonical w.mem := canonical_setField _ _ _ _ _ hu
  have hv : Canonical v.mem := by
    simp only [v]
    split
    · split
      · exact (logPoison_mem ..).symm ▸ hu
      · exact hu
    · exact hu
  split_ifs
  · exact canonical_post _ _ _ _ hv
  · exact canonical_post _ _ _ _ (canonical_orTaskFlag _ _ _ _ (canonical_setTaskState _ _ _ _ hu))
  · exact canonical_readyTask _ _ _ _ _ hw
  · exact canonical_setTaskState _ _ _ _ hw

@[simp] theorem canonical_takeSlot (s : State) (d : BitVec 2) (h : Canonical s.mem) : Canonical (s.takeSlot d).mem := by
  unfold State.takeSlot
  split
  · exact h
  · split
    · exact canonical_bindTo _ _ _ h
    · split
      · exact canonical_bindTo _ _ _ h
      · exact h

@[simp] theorem canonical_enterPool (s : State) (die : BitVec 2) (h : Canonical s.mem) :
    Canonical (enterPool s die).mem := by
  unfold enterPool; split <;> simp +contextual [h]

@[simp] theorem canonical_agePool (s : State) (d : BitVec 2) (h : Canonical s.mem) : Canonical (s.agePool d).mem :=
  State.memWf_agePool h

@[simp] theorem canonical_zeroSpad (s : State) (id : BitVec 10) (h : Canonical s.mem) :
    Canonical (State.zeroSpad s id).mem := by
  simp +contextual [State.zeroSpad, h]

@[simp] theorem clearObjs_mem (s : State) (asid : BitVec 16) (rec : VAddr) :
    (State.clearObjs s asid rec).mem = s.mem := (rfl)

@[simp] theorem canonical_startFresh (s : State) (id : BitVec 10) (e : PoolEntry) (t : TaskInfo) (q : Queue)
    (h : Canonical s.mem) : Canonical (State.startFresh s id e t q).mem := by
  simp +contextual [State.startFresh, h]

@[simp] theorem canonical_restore (s : State) (i : BitVec 10) (m : SaveImage) (t : TaskInfo) (n : Nat) (q : Queue)
    (h : Canonical s.mem) : Canonical (s.restore i m t n q).mem := by
  refine canonical_poke _ ?_
  rw [State.updCore_mem]
  exact canonical_poke _ (canonical_zeroSpad _ _ h)

@[simp] theorem canonical_loseContext (s : State) (q : Queue) (a : BitVec 16) (r : VAddr) (h : Canonical s.mem) :
    Canonical (s.loseContext q a r).mem := by
  have lost : ∀ (l : List SaveImage) (t : State), Canonical t.mem → Canonical (l.foldl (fun (s : State) m =>
      (if m.handover then s.updCore m.core.id Core.vacate else s).markLost (q.slotBase m.slot)) t).mem := fun l t h =>
    canonical_foldl (fun s m h => canonical_markLost _ _ (by simpa using h)) h
  unfold State.loseContext
  extract_lets t u v w
  have ht : Canonical t.mem := canonical_orTaskFlag _ _ _ _ (canonical_setTaskState _ _ _ _ h)
  have hu : Canonical u.mem := lost _ _ ht
  clear_value u
  have hw : Canonical w.mem := hu
  clear_value w
  rw [State.addLog_mem]
  exact canonical_post _ _ _ _ hw

@[simp] theorem canonical_markRunning (s : State) (e : PoolEntry) (aged : Nat) (h : Canonical s.mem) :
    Canonical (State.markRunning s e aged).mem := by
  simp +contextual [State.markRunning, h]

@[simp] theorem canonical_startMember (s : State) (e : PoolEntry) (q : Queue) (g n : Nat) (c : BitVec 10) (i : Nat)
    (h : Canonical s.mem) : Canonical (s.startMember e q g n c i).mem := by
  unfold State.startMember
  dsimp only
  split
  · exact canonical_restore _ _ _ _ _ _ h
  · split
    · exact h
    · exact canonical_startFresh _ _ _ _ _ h

@[simp] theorem canonical_startMembers (s : State) (e : PoolEntry) (q : Queue) (g : Nat) (l : List (BitVec 10))
    (h : Canonical s.mem) : Canonical (s.startMembers e q g l).mem := by
  unfold State.startMembers
  split
  · exact canonical_loseContext _ _ _ _ (by simpa using h)
  · exact canonical_foldl (fun s x h => canonical_startMember _ _ _ _ _ _ _ h) (by simpa using h)

@[simp] theorem canonical_startTask (s : State) (e : PoolEntry) (l : List Core) (h : Canonical s.mem) :
    Canonical (s.startTask e l).mem := by
  unfold State.startTask
  split
  · exact h
  · exact canonical_startMembers _ _ _ _ _ (canonical_markRunning _ _ _ h)

@[simp] theorem canonical_dispatchOn (s : State) (id : BitVec 10) (h : Canonical s.mem) :
    Canonical (dispatchOn s id).mem := by
  unfold dispatchOn; dsimp only; repeat' split
  all_goals simp +contextual [h]

@[simp] theorem canonical_dispatchAll (n : Nat) (s : State) (d : BitVec 2) (h : Canonical s.mem) :
    Canonical (s.dispatchAll n d).mem := by
  induction n generalizing s with
  | zero => exact h
  | succ n ih =>
    rw [State.dispatchAll]
    split
    · exact h
    · split
      · exact ih _ (canonical_dispatchOn _ _ h)
      · exact h

@[simp] theorem saveLog_mem (s : State) (q : Queue) (c : Core) (n m : Nat) : (s.saveLog q c n m).mem = s.mem := by
  unfold State.saveLog
  rw [foldl_mem' fun s b => State.addLog_mem .., logPoison_mem, logPoison_mem]

@[simp] theorem canonical_saveYield (s : State) (t : TaskInfo) (q : Queue) (n : Nat) (h : Canonical s.mem) :
    Canonical (s.saveYield t q n).mem := by
  unfold State.saveYield
  extract_lets id k core c d m u sched v w
  have hu : Canonical u.mem := canonical_writeImage _ _ _ _ _ h
  clear_value u
  have hv : Canonical v.mem := hu
  clear_value v
  have hw : Canonical w.mem := canonical_setTaskState _ _ _ _ (canonical_setField _ _ _ _ _
    (canonical_setField _ _ _ _ _ hv))
  clear_value w
  split
  · refine canonical_loseContext _ _ _ _ ?_
    rw [State.onCore_mem]
    refine canonical_markLost _ _ ?_
    rw [saveLog_mem]
    exact h
  · refine canonical_readyTask _ _ _ _ _ ?_
    rw [State.onCore_mem]
    exact hw

@[simp] theorem canonical_takeIncoming (s : State) (e : PoolEntry) (n : Nat) (h : Canonical s.mem) :
    Canonical (s.takeIncoming e n).mem := by
  unfold State.takeIncoming
  dsimp only
  split
  · exact h
  · have started : ∀ q g l, Canonical ((s.markRunning e g).startMembers e q g l).mem := fun q g l =>
      canonical_startMembers _ _ _ _ _ (canonical_markRunning _ _ _ h)
    split
    · rw [State.updQueue_mem, State.onCore_mem]
      exact started _ _ _
    · rw [State.onCore_mem]
      exact started _ _ _

@[simp] theorem canonical_switchNow (s : State) (h : Canonical s.mem) : Canonical (switchNow s).mem := by
  have worked := canonical_finishWork s h
  unfold switchNow
  dsimp only
  split
  · exact worked
  · split
    · split
      · split
        · exact canonical_takeIncoming _ _ _ (canonical_saveYield _ _ _ _ worked)
        · exact worked
      · exact worked
    · exact worked

@[simp] theorem canonical_arbitrate (s : State) (r : Nat) (h : Canonical s.mem) : Canonical (arbitrate s r).mem := by
  unfold arbitrate
  extract_lets u c
  have hu : Canonical u.mem := canonical_dispatchAll _ _ _ h
  split
  · exact hu
  · split
    · exact hu
    · split_ifs
      · exact hu
      · exact hu
      · exact hu
      · split
        · exact hu
        · exact hu

/-! ### Freeze -/

@[simp] theorem canonical_keepTask (s : State) (c : Core) (h : Canonical s.mem) :
    Canonical (State.keepTask s c).mem := by
  unfold State.keepTask; split <;> simp +contextual [h]

@[simp] theorem canonical_askFreeze (s : State) (t : TaskInfo) (why : FreezeWhy) (late : Bool) (h : Canonical s.mem) :
    Canonical (State.askFreeze s t why late).mem := by
  simp +contextual [State.askFreeze, h]

@[simp] theorem holdFrozen_mem (s : State) (t : TaskInfo) (why : FreezeWhy) :
    (State.holdFrozen s t why).mem = s.mem := by simp [State.holdFrozen]

@[simp] theorem canonical_freezeMember (s : State) (q : Queue) (i : BitVec 10) (h : Canonical s.mem) :
    Canonical (s.freezeMember q i).mem := by
  unfold State.freezeMember
  dsimp only
  have hu : Canonical (s.focus i).mem := (State.focus_mem s i).symm ▸ h
  generalize s.focus i = u at hu ⊢
  split
  · have hv : Canonical ((u.releaseStores.makeArrivals.pumpCore i).onCore Core.dropPadv).mem := by
      rw [State.onCore_mem]
      refine canonical_pumpCore _ _ ?_
      rw [State.mem_makeArrivals]
      exact canonical_releaseStores _ hu
    generalize (u.releaseStores.makeArrivals.pumpCore i).onCore Core.dropPadv = v at hv ⊢
    refine canonical_setField _ _ _ _ _ (canonical_setTaskState _ _ _ _ ?_)
    rw [State.onCore_mem]
    dsimp only
    exact canonical_writeImage _ _ _ _ _ hv
  · exact hu

@[simp] theorem canonical_freezeNow (s : State) (h : Canonical s.mem) : Canonical (freezeNow s).mem := by
  have frozen : ∀ q (l : List Core), Canonical (l.foldl (fun (s : State) c => s.freezeMember q c.id) s).mem := fun q l =>
    canonical_foldl (fun s c h => canonical_freezeMember _ _ _ h) h
  unfold freezeNow
  dsimp only
  repeat' split
  all_goals simp [h, frozen]

@[simp] theorem canonical_poolFrozen (s : State) (asid : BitVec 16) (rec : VAddr) (queue : BitVec 14) (n slot : Nat)
    (h : Canonical s.mem) : Canonical (State.poolFrozen s asid rec queue n slot).mem := by
  simp +contextual [State.poolFrozen, h]

@[simp] theorem canonical_closeHandover (s : State) (m : SaveImage) (h : Canonical s.mem) :
    Canonical (closeHandover s m).mem := by
  unfold closeHandover
  dsimp only
  split
  · exact h
  · split
    · exact h
    · split
      · exact canonical_loseContext _ _ _ _ (by simpa using h)
      · exact canonical_poolFrozen _ _ _ _ _ _ (by simp [h])

theorem canonical_writeTrap {s u : State} {c : Core} {t : TaskInfo} {r : TrapRec} (e : s.writeTrap c t r = some u)
    (h : Canonical s.mem) : Canonical u.mem := by
  unfold State.writeTrap at e
  dsimp only at e
  split at e
  · cases e
  · exact canonical_writeVa e h

@[simp] theorem canonical_submitHandler (s : State) (t : TaskInfo) (n : Nat) (h : Canonical s.mem) :
    Canonical (s.submitHandler t n).mem := by
  unfold State.submitHandler
  split
  · split
    · exact h
    · exact canonical_bindQueue _ _ (canonical_setField _ _ _ _ _ h)
  · exact h

@[simp] theorem canonical_failTask (s : State) (t : TaskInfo) (v : Word) (h : Canonical s.mem) :
    Canonical (s.failTask t v).mem :=
  canonical_foldl (fun s c h => by simpa using h)
    (canonical_post _ _ _ _ (canonical_orTaskFlag _ _ _ _ (canonical_setTaskState _ _ _ _ h)))

@[simp] theorem stopGang_mem (s : State) (t : TaskInfo) : (State.stopGang s t).mem = s.mem := by simp [State.stopGang]

@[simp] theorem canonical_retireTask (s : State) (t : TaskInfo) (r : TrapRec) (h : Canonical s.mem) :
    Canonical (s.retireTask t r).mem := by
  have stopped : Canonical (s.stopGang t).mem := by simpa using h
  unfold State.retireTask
  dsimp only
  split
  · split
    case h_1 e => exact canonical_submitHandler _ _ _ (canonical_failTask _ _ _ (canonical_writeTrap e stopped))
    case h_2 => exact canonical_failTask _ _ _ stopped
  · exact stopped

@[simp] theorem canonical_answerTrap (s : State) (t : TaskInfo) (r : TrapRec) (h : Canonical s.mem) :
    Canonical (answerTrap s t r).mem := by
  unfold answerTrap
  split
  · exact h
  · exact canonical_retireTask _ _ _ h
  · split
    case h_1 u e => exact show Canonical u.mem from canonical_writeTrap e h
    case h_2 => exact canonical_retireTask _ _ _ h
  · split
    case h_1 u e =>
      have hu : Canonical u.mem := canonical_writeTrap e h
      exact canonical_askFreeze _ _ _ _ hu
    case h_2 => exact canonical_retireTask _ _ _ h

/-! ### Service -/

@[simp] theorem naming_mem (s : State) (h : BitVec 32) : (State.naming s h).mem = s.mem := (rfl)

theorem canonical_host {f : State → State} (hf : ∀ t, Canonical t.mem → Canonical (f t).mem) (s : State) (c : BitVec 16)
    (h : Canonical s.mem) : Canonical (s.host c f).mem := by
  unfold State.host
  split_ifs
  · exact h
  · exact h
  · exact hf s h

theorem canonical_handle {f : State → State} (hf : ∀ t, Canonical t.mem → Canonical (f t).mem) (s : State)
    (c : BitVec 16) (h : Canonical s.mem) : Canonical (s.handle c f).mem := by
  unfold State.handle
  split
  · split
    · exact h
    · refine canonical_host (fun t ht => ?_) _ c h
      split
      · exact hf _ ht
      · exact ht
  · exact canonical_host hf s c h

theorem canonical_arrives {f : State → State} (hf : ∀ t, Canonical t.mem → Canonical (f t).mem) (s : State)
    (c : BitVec 16) (h : Canonical s.mem) : Canonical (s.arrives c f).mem := by
  unfold State.arrives
  dsimp only
  split
  · exact h
  · exact canonical_handle hf s c h

theorem canonical_request {f : State → State} (hf : ∀ t, Canonical t.mem → Canonical (f t).mem) (s : State)
    (c : BitVec 16) (h : Canonical s.mem) : Canonical (s.request c f).mem := by
  unfold State.request
  split
  · split
    · split
      · exact canonical_handle hf _ c h
      · exact h
    · exact h
  · split
    · exact h
    · split_ifs
      · exact canonical_arrives hf s c h
      · exact h
      · exact h
  · exact canonical_arrives hf s c h

@[simp] theorem respondAfter_mem (s : State) (asid : BitVec 16) (since : Nat) (code status : BitVec 16) :
    (State.respondAfter s asid since code status).mem = s.mem := by simp [State.respondAfter]

@[simp] theorem endRequest_mem (s : State) (n : Nat) (r : SvcReq) (tok : BitVec 16) :
    (State.endRequest s n r tok).mem = s.mem := by simp [State.endRequest]

theorem canonical_serveTask {f : State → SvcReq → List Byte → Option State}
    (hf : ∀ t r l u, f t r l = some u → Canonical t.mem → Canonical u.mem) (s : State) (c : BitVec 10) (n : Nat)
    (h : Canonical s.mem) : Canonical (s.serveTask c n f).mem := by
  unfold State.serveTask
  split
  · exact h
  · split
    · simpa using h
    · split
      case h_1 e => simpa using hf _ _ _ _ e h
      case h_2 => simpa using h

@[simp] theorem loadSlot_mem (s : State) (k : KeySlot) : (State.loadSlot s k).mem = s.mem := (rfl)

@[simp] theorem firstKeys_mem (s : State) (m : BitVec 12) : (State.firstKeys s m).mem = s.mem := (rfl)

@[simp] theorem loadRoute_mem (s : State) (m : BitVec 12) :
    (State.loadRoute s m).mem = s.mem := by simp [State.loadRoute]

@[simp] theorem loadPeer_mem (s : State) (m : BitVec 12) : (State.loadPeer s m).mem = s.mem := by simp [State.loadPeer]

@[simp] theorem canonical_place (s : State) (asid : BitVec 16) (cells : List (Loc × Byte)) (h : Canonical s.mem) :
    Canonical (State.place s asid cells).mem := by
  simp +contextual [State.place, h]

@[simp] theorem canonical_loadImages (s : State) (r : OpenContextReq) (h : Canonical s.mem) :
    Canonical (State.loadImages s r).mem := by
  simp +contextual [State.loadImages, h]

@[simp] theorem canonical_openNow (s : State) (r : OpenContextReq) (h : Canonical s.mem) :
    Canonical (openNow s r).mem := by
  simp +contextual [openNow, h]

@[simp] theorem canonical_retireQueued (s : State) (asid : BitVec 16) (rec : VAddr) (h : Canonical s.mem) :
    Canonical (State.retireQueued s asid rec).mem := by
  simp +contextual [State.retireQueued, h]

@[simp] theorem canonical_dropTasks (s : State) (a : BitVec 16) (h : Canonical s.mem) :
    Canonical (s.dropTasks a).mem :=
  canonical_foldl (fun s w h => canonical_retireQueued _ _ _ h)
    (canonical_foldl (fun s e h => canonical_retireQueued _ _ _ h) h)

@[simp] theorem closeQueues_mem (s : State) (asid : BitVec 16) : (State.closeQueues s asid).mem = s.mem := (rfl)

@[simp] theorem forget_mem (s : State) (x : Context) : (State.forget s x).mem = s.mem := (rfl)

@[simp] theorem canonical_closeNow (s : State) (x : Context) (h : Canonical s.mem) : Canonical (closeNow s x).mem := by
  unfold closeNow
  extract_lets u v
  have hu : Canonical u.mem := by simp [u, h]
  clear_value u
  have hd : Canonical ((u.dropTasks x.asid).closeQueues x.asid).mem := by
    rw [closeQueues_mem]
    exact canonical_dropTasks _ _ hu
  have hv : Canonical v.mem := canonical_pumpAll _ hd
  clear_value v
  split
  · rw [State.respond_mem]
    exact hv
  · rw [State.respond_mem, forget_mem]
    exact hv

@[simp] theorem canonical_loadCode (s : State) (r : LoadCodeReq) (h : Canonical s.mem) :
    Canonical (loadCode s r).mem := by
  unfold loadCode; dsimp only; repeat' split
  all_goals simp +contextual [h]

@[simp] theorem canonical_loadRules (s : State) (l : List (BitVec 6 × RuleEntry)) (h : Canonical s.mem) :
    Canonical (loadRules s l).mem := by
  simp +contextual [loadRules, h]

@[simp] theorem createQueue_mem (s : State) (r : CreateQueueReq) : (createQueue s r).mem = s.mem := by
  unfold createQueue; dsimp only; repeat' split
  all_goals simp

@[simp] theorem rotateKeys_mem (s : State) (m : BitVec 12) : (State.rotateKeys s m).mem = s.mem := by
  unfold State.rotateKeys; split <;> simp

@[simp] theorem rotateOn_mem (s : State) (m : BitVec 12) : (State.rotateOn s m).mem = s.mem := by
  unfold State.rotateOn; dsimp only; repeat' split
  all_goals simp

@[simp] theorem exchangeKeys_mem (s : State) (rotate : Bool) (l : List (BitVec 12)) :
    (exchangeKeys s rotate l).mem = s.mem := by simp [exchangeKeys]

@[simp] theorem canonical_loadRecord (s : State) (asid : BitVec 16) (e : LoadRecordReq) (h : Canonical s.mem) :
    Canonical (State.loadRecord s asid e).mem := by
  unfold State.loadRecord; dsimp only; repeat' split
  all_goals simp +contextual [h]

@[simp] theorem canonical_loadRecords (s : State) (asid : BitVec 16) (l : List LoadRecordReq) (h : Canonical s.mem) :
    Canonical (loadRecords s asid l).mem := by
  simp +contextual [loadRecords, h]

/-! ### Life -/

@[simp] theorem canonical_wiped (s : State) : Canonical s.wiped.mem := canonical_nil

@[simp] theorem canonical_boot (s : State) : Canonical (boot s).mem := canonical_nil

@[simp] theorem goOnUpdate_mem (s : State) : (State.goOnUpdate s).mem = s.mem := by
  unfold State.goOnUpdate; split <;> simp

@[simp] theorem updateFirmware_mem (s : State) (version : BitVec 64) (image : List Byte) :
    (updateFirmware s version image).mem = s.mem := by simp [updateFirmware]

@[simp] theorem revertFirmware_mem (s : State) : (revertFirmware s).mem = s.mem := by
  unfold revertFirmware; split <;> simp

@[simp] theorem canonical_askCore (s : State) (id : BitVec 10) (h : Canonical s.mem) :
    Canonical (State.askCore s id).mem := by
  unfold State.askCore; dsimp only; repeat' split
  all_goals simp +contextual [h]

@[simp] theorem canonical_beginRetire (s : State) (id : BitVec 10) (pipeline : Bool) (h : Canonical s.mem) :
    Canonical (State.beginRetire s id pipeline).mem := by
  simp +contextual [State.beginRetire, h]

@[simp] theorem endRetire_mem (s : State) (id : BitVec 10) (pipeline : Bool) (by' : Asker) :
    (State.endRetire s id pipeline by').mem = s.mem := by simp [State.endRetire]

@[simp] theorem goOnRetire_mem (s : State) (id : BitVec 10) : (State.goOnRetire s id).mem = s.mem := by
  unfold State.goOnRetire; split <;> simp

@[simp] theorem canonical_retireUnit (s : State) (id : BitVec 10) (pipeline : Bool) (h : Canonical s.mem) :
    Canonical (retireUnit s id pipeline).mem := by
  simp +contextual [retireUnit, h]

@[simp] theorem canonical_copyRegion (s : State) (base size to' : Nat) (h : Canonical s.mem) :
    Canonical (State.copyRegion s base size to').mem := by
  simp +contextual [State.copyRegion, h]

@[simp] theorem canonical_moveFrame (s : State) (f : BitVec 28) (h : Canonical s.mem) :
    Canonical (State.moveFrame s f).mem := by
  simp +contextual [State.moveFrame, h]

@[simp] theorem canonical_goOnFrame (s : State) (f : BitVec 28) (h : Canonical s.mem) :
    Canonical (s.goOnFrame f).mem := by
  unfold State.goOnFrame
  extract_lets r u src v n
  split
  · split
    · have hu : Canonical u.mem := canonical_moveFrame _ _ h
      have hv : Canonical v.mem := hu
      rw [State.respond_mem, State.serving_mem]
      exact canonical_pumpAll _ ((State.addLog_mem ..).symm ▸ hv)
    · exact h
  · exact h

@[simp] theorem canonical_retireFrame (s : State) (f : BitVec 28) (h : Canonical s.mem) :
    Canonical (retireFrame s f).mem := by
  unfold retireFrame
  split
  · split
    · exact h
    · exact canonical_goOnFrame _ _ h
  · exact h

@[simp] theorem canonical_moveSave (s : State) (q : Queue) (h : Canonical s.mem) :
    Canonical (State.moveSave s q).mem := by
  simp +contextual [State.moveSave, h]

@[simp] theorem canonical_moveQueues (s : State) (d e : BitVec 2) (h : Canonical s.mem) :
    Canonical (s.moveQueues d e).mem := by
  unfold State.moveQueues
  dsimp only
  refine canonical_foldl (fun s e h => canonical_poolPush _ _ _ h) (canonical_foldl (fun s q h => ?_)
    (canonical_foldl (fun s q h => canonical_moveSave _ _ h) h))
  split
  · exact canonical_bindQueue _ _ h
  · exact h

@[simp] theorem gateDie_mem (s : State) (die : BitVec 2) : (State.gateDie s die).mem = s.mem := (rfl)

@[simp] theorem canonical_goOnDrain (s : State) (die : BitVec 2) (h : Canonical s.mem) :
    Canonical (State.goOnDrain s die).mem := by
  unfold State.goOnDrain; split <;> simp +contextual [h]

@[simp] theorem canonical_drainDie (s : State) (d e : BitVec 2) (h : Canonical s.mem) :
    Canonical (drainDie s d e).mem := by
  unfold drainDie
  split
  · exact h
  · split
    · exact h
    · extract_lets svc u
      have hu : Canonical u.mem := h
      exact canonical_goOnDrain _ _ (canonical_foldl (fun s c h => canonical_askCore _ _ h) hu)

@[simp] theorem restoreDie_mem (s : State) (die : BitVec 2) : (restoreDie s die).mem = s.mem := by simp [restoreDie]

@[simp] theorem canonical_wipe (s : State) : Canonical s.wipe.mem := canonical_nil

@[simp] theorem canonical_lifeChange (s : State) (t : BitVec 8) (c g : List Byte) (h : Canonical s.mem) :
    Canonical (lifeChange s t c g).mem := by
  unfold lifeChange
  split
  · exact h
  · split
    · exact h
    · split
      · exact canonical_nil
      · exact h

@[simp] theorem logPower_mem (s : State) (code : BitVec 8) : (State.logPower s code).mem = s.mem := (rfl)

@[simp] theorem canonical_loseCoolant (s : State) (h : Canonical s.mem) : Canonical (loseCoolant s).mem := by
  simp +contextual [loseCoolant, h]

@[simp] theorem routeAgain_mem (s : State) (m : BitVec 12) : (routeAgain s m).mem = s.mem := by simp [routeAgain]

/-! ### Matrix -/

@[simp] theorem startMx_mem (s : State) (kind : MxKind) (bank : BitVec 5) (band : Nat × Nat) (aligned : Bool)    
    (reads writes drains : List (BitVec 7)) (bytes : List (Nat × Byte)) (flags : Flags) (sums : AccBlock) : (State.startMx s kind bank band aligned reads writes drains bytes flags sums).mem = s.mem := (rfl)

@[simp] theorem startLatch_mem (s : State) (reads writes : List (BitVec 7)) (bytes : List (Nat × Byte)) :
    (State.startLatch s reads writes bytes).mem = s.mem := (rfl)

@[simp] theorem streamStart_mem (f : MxF) (ow trans : Bool) (s : State) :
    (streamStart f ow trans s).mem = s.mem := (rfl)

@[simp] theorem zeroRows_mem (f : MxF) (s : State) : (zeroRows f s).mem = s.mem := (rfl)

@[simp] theorem drainStart_mem (f : MxF) (tiles : List (BitVec 7)) (b : List (Nat × Byte) × Flags) (s : State) :
    (drainStart f tiles b s).mem = s.mem := (rfl)

@[simp] theorem canonical_finishMx (s : State) (o : MxOp) (h : Canonical s.mem) :
    Canonical (State.finishMx s o).mem := by
  simp +contextual [State.finishMx, h]

@[simp] theorem canonical_mxComplete (b : Bool) (s : State) (h : Canonical s.mem) : Canonical (mxComplete b s).mem := by
  unfold mxComplete
  split
  · split
    · exact canonical_finishMx _ _ h
    · exact h
  · exact h

/-! ### Stacks -/

@[simp] theorem logMemory_mem (s : State) (a : Nat) (stackCode sramCode : BitVec 8) :
    (State.logMemory s a stackCode sramCode).mem = s.mem := by simp [State.logMemory]

@[simp] theorem poisonAt_mem (s : State) (a : Nat) : (State.poisonAt s a).mem = s.mem := by simp [State.poisonAt]

@[simp] theorem canonical_bundleError (s : State) (a : Nat) (lost : Bool) (h : Canonical s.mem) :
    Canonical (State.bundleError s a lost).mem := by
  simp +contextual [State.bundleError, h]

/-! ### Agenda -/

@[simp] theorem elapse_mem (s : State) : (State.elapse s).mem = s.mem := (rfl)

@[simp] theorem canonical_tock (s : State) (h : Canonical s.mem) : Canonical (tock s).mem := memWf_tock h

/-! ### LocalMem -/

@[simp] theorem loadGrid_mem (i : Instr) (vd : BitVec 6) (gm : BitVec 4) (addr : Nat → Nat → Nat) (s : State) :
    (loadGrid i vd gm addr s).mem = s.mem := (rfl)

@[simp] theorem withhold_mem (bytes : List (Nat × Byte)) (s : State) : (withhold bytes s).mem = s.mem := (rfl)

/-! ### Vector -/

@[simp] theorem vecWrite_mem (i : Instr) (f : VecF) (w : Nat) (el : Nat → Nat → Code × Flags) (s : State) :
    (vecWrite i f w el s).mem = s.mem := (rfl)

@[simp] theorem vec1_mem (i : Instr) (f : VecF) (op : Core → Code → Code × Flags) (s : State) :
    (vec1 i f op s).mem = s.mem := (rfl)

@[simp] theorem vec2_mem (i : Instr) (f : VecF) (op : Core → Code → Code → Code × Flags) (s : State) :
    (vec2 i f op s).mem = s.mem := (rfl)

@[simp] theorem vec3_mem (i : Instr) (f : VecF) (op : Core → Code → Code → Code → Code × Flags) (s : State) :
    (vec3 i f op s).mem = s.mem := (rfl)

@[simp] theorem vecMove_mem (i : Instr) (f : VecF) (src : Nat → Nat → Nat × Nat) (s : State) :
    (vecMove i f src s).mem = s.mem := (rfl)

@[simp] theorem vecComplex_mem (i : Instr) (f : VecF) (fma : Bool) (s : State) :
    (vecComplex i f fma s).mem = s.mem := (rfl)

@[simp] theorem vecShift_mem (i : Instr) (f : VecF) (op : Nat → Code → Nat → Code) (s : State) :
    (vecShift i f op s).mem = s.mem := (rfl)

@[simp] theorem vecBits_mem (i : Instr) (f : VecF) (op : Code → Code → Code) (s : State) :
    (vecBits i f op s).mem = s.mem := (rfl)

@[simp] theorem maskWrite_mem (i : Instr) (f : VecF) (el : Nat → Nat → Bool × Flags) (s : State) :
    (maskWrite i f el s).mem = s.mem := (rfl)

@[simp] theorem vecCmp_mem (i : Instr) (f : VecF) (k : Nat) (s : State) : (vecCmp i f k s).mem = s.mem := (rfl)

@[simp] theorem vecConvert_mem (i : Instr) (f : VecF) (el : Core → Code → Code × Flags) (s : State) :
    (vecConvert i f el s).mem = s.mem := (rfl)

@[simp] theorem redWrite_mem (i : Instr) (f : VecF) (cells : List (List CellW)) (s : State) :
    (redWrite i f cells s).mem = s.mem := (rfl)

@[simp] theorem accRead_mem (f : VecF) (s : State) : (accRead f s).mem = s.mem := (rfl)

@[simp] theorem accWithhold_mem (elems : List (Nat × Word32)) (flags : Flags) (s : State) :
    (accWithhold elems flags s).mem = s.mem := (rfl)

@[simp] theorem accWrite_mem (f : VecF) (s : State) : (accWrite f s).mem = s.mem := (rfl)

@[simp] theorem accAdd_mem (f : VecF) (s : State) : (accAdd f s).mem = s.mem := (rfl)

@[simp] theorem plWrite_mem (i : Instr) (kd : BitVec 4) (x : Mask) (s : State) : (plWrite i kd x s).mem = s.mem := (rfl)

end Sys2Proof.MemoryProofs
end

section
/-! PROOFS. Every step keeps the memory canonical (O58). -/

namespace Sys2Proof.MemoryProofs

open Sys2Proof Sys2Proof.Machine Sys2Proof.Machine.State

-- Memory is bounded and each thread holds some: what stands before is checked before more is begun.
set_option Elab.async false in
theorem canonical_of_event {u t : State} (e : event u = .next t) (h : Canonical u.mem) : Canonical t.mem := by
  cases e
  exact h

theorem canonical_of_awake {s u t : State} (e : awake s u = .next t) (hs : Canonical s.mem) (hu : Canonical u.mem) :
    Canonical t.mem := by
  refine canonical_of_event e ?_
  split
  · exact hs
  · exact hu

theorem canonical_of_issue {i : Instr} {eff : State → State} {s t : State} (e : issue i eff s = .next t)
    (h : Canonical s.mem) (heff : ∀ u, Canonical u.mem → Canonical (eff u).mem) : Canonical t.mem :=
  issue_memWf h (fun u hu => heff u hu) e

theorem canonical_of_answerEvent {s t : State} {c : BitVec 8} (e : answerEvent s c = .next t) (h : Canonical s.mem) :
    Canonical t.mem := by
  refine canonical_of_event e ?_
  split
  · exact (takeAnswerPacket_mem ..).symm ▸ h
  · exact h




/-- What answers a request of a task by writes to its memory. -/
theorem canonical_of_writes {s u : State} {a : BitVec 16} {v w : Nat} {l m : List Byte}
    (e : ((s.writeVa a v l).bind fun t => t.writeVa a w m) = some u) (h : Canonical s.mem) : Canonical u.mem := by
  obtain ⟨t, et, eu⟩ := Option.bind_eq_some_iff.mp e
  exact canonical_writeVa eu (canonical_writeVa et h)

theorem canonical_of_padv {k n r : BitVec 6} {rf : Bool} {s t : State} (e : exec (.padv k rf r n) s = .next t)
    (h : Canonical s.mem) : Canonical t.mem := by
  have waits : ∀ u, padvStage k (phaseTarget rf r n s.core) s = .wait u → Canonical u.hold.mem := fun u eu => by
    rw [State.hold_mem, mem_of_padvStage eu]
    exact h
  have issues : ∀ {eff : State → State} {t : State}, (∀ u, (eff u).mem = u.mem) →
      issue (.padv k rf r n) eff s = .next t → Canonical t.mem := fun heff e =>
    canonical_of_issue e h fun u hu => (heff u).symm ▸ hu
  change execPadv k rf r n s = .next t at e
  unfold execPadv at e
  split at e
  · exact issues phaseIssued_mem e
  · split at e
    · split at e
      case h_1 u eu =>
        cases e
        exact waits u eu
      case h_2 =>
        cases e
        exact h
      case h_3 => exact issues (padvEffect_mem k rf r n) e
    · exact issues (padvEffect_mem k rf r n) e

theorem exec_canonical {i : Instr} {s t : State} (h : Canonical s.mem) (e : exec i s = .next t) : Canonical t.mem := by
  cases i
  case padv => exact canonical_of_padv e h
  case trepinReadResponse | trepinWriteAck | trepinAtMemoryResponse | fenceResponse =>
    exact canonical_of_answerEvent e h
  case netReadRequest | netWrite | mergeableAtMemoryOperation | unmergeableAtMemoryOperation
      | parameterRequest | counterDecrement | serviceControl =>
    refine canonical_of_event e ?_
    split
    · refine canonical_takeMsg _ h ?_
      simp [h]
    · exact h
  case readCapabilityList | attestModuleOrContext | readErrorLog | openContext | closeContext
      | loadCodeObject | loadRuleTableEntries | createAndMapQueue | loadParameterRecords | restoreDie
      | lifeCycleChange =>
    refine canonical_of_event e (canonical_request (fun u hu => ?_) _ _ h)
    repeat' split
    all_goals simp [hu]
  case keyExchange | updateFirmwareLive | retireCoreOrPipeline | retireHbmFrame | drainDie =>
    refine canonical_of_event e ?_
    split
    · simp [h]
    · refine canonical_request (fun u hu => ?_) _ _ h
      repeat' split
      all_goals simp [hu]
  case taskReadCapabilityList | taskReadErrorLog =>
    refine canonical_of_event e (canonical_serveTask (fun u r l v ev hu => ?_) _ _ _ h)
    split at ev
    · cases ev
    · exact canonical_of_writes ev hu
  case attestCallingContext =>
    refine canonical_of_event e (canonical_serveTask (fun u r l v ev hu => ?_) _ _ _ h)
    obtain ⟨x, -, ex⟩ := Option.bind_eq_some_iff.mp ev
    exact canonical_writeVa ex hu
  case yieldPoint =>
    have committed : Canonical s.checkpoint.flushSpawns.mem := canonical_flushSpawns _ (canonical_checkpoint _ h)
    refine canonical_of_event e ?_
    split
    · exact canonical_switchNow _ h
    · split
      · exact canonical_arbitrate _ _ committed
      · exact h
    · exact committed
  case passEnd =>
    refine canonical_of_event e ?_
    split
    case h_1 x ex =>
      have copied := canonical_copyTodo s x.asid (fun _ => true) h
      dsimp only
      generalize s.copyTodo x.asid (fun _ => true) = u at copied ⊢
      split
      · exact copied
      · split
        · exact canonical_beginPass _ _ copied
        · exact copied
    case h_2 => exact h
  case finalPassDone =>
    refine canonical_of_event e ?_
    split
    · dsimp only
      split
      · exact h
      · have copied := fun a b f g => canonical_copyTodo (s.updContext a f) b g h
        split
        · exact copied _ _ _ _
        · refine canonical_pumpAll _ ?_
          rw [State.updContext_mem]
          exact copied _ _ _ _
    · exact h
  case normReport =>
    refine canonical_of_event e ?_
    split
    · split
      · dsimp only
        split
        · split
          · exact canonical_performReport _ _ _ h
          · exact canonical_answerReport _ _ _ _ h
        · exact canonical_answerReport _ _ _ _ h
      · exact h
    · exact h
  case doorbellChead =>
    refine canonical_of_event e ?_
    split
    · split
      · exact canonical_admitPosts _ _ _ h
      · exact h
    · exact h
  case trepinPacketDiscard =>
    refine canonical_of_event e ?_
    split
    · split
      case h_1 g => exact (mem_of_gate g : _ = _) ▸ h
      case h_2 => exact h
    · exact h
  case mxOperationComplete | drainComplete | engineCommandStart | engineCommandComplete | engineFault
      | faultRestart | tendComplete | checkpoint | resultVisible | stallUntil | withheldStoreRelease
      | barrierArrival | routerCycle | creditReturn | throttleWindow | accessTimeout | netReadResponse
      | netWriteAcknowledgement | atMemoryResponse | parameterResponse | flitUnknownOp | ucieMessage
      | deadFrameRefreshStop | couchEngineFree | diffDone | transitionFault | cutDone | mirroringEnd
      | releaseFromCell | panUpdateStart | updateWritesDone | flip | doorbellTail | hqsConsume
      | slotTakeover | queueCloseComplete | poolOverflowEntry | dispatch | overrunFreeze | freezeRequest
      | freezeStop | handoverClose | trapRecord | linkUnit | replayRequest | retrain | linkDown
      | trepinWrite | trepinReadRequest | trepinAtMemoryOperation | fencePacket | trepinCounterDecrement
      | podBarrierArrival | trepinParameter | scheduledBlock | multicastReplication | multicastGroupWrite
      | fabricTimeout | lxredLandingTimeout | scheduledBlockRetry | fenceCountRetry | keySlotRelease | reset
      | firmwareRevert | phaseLate | releaseByNddb =>
    refine canonical_of_event e ?_
    repeat' split
    all_goals simp [h]
  case patrolScrub | refreshManagement | podTimeBase | clockStepDown | clockStepUp | coolantFlowLost
      | routeExistsAgain =>
    refine canonical_of_awake e h ?_
    repeat' split
    all_goals simp [h]
  case jr | aalloc | vmovsX | vscale | mdraint | mclr | arrive | arriveHandle | bari | pnext | pcancel
      | tspawn | svc =>
    refine canonical_of_issue e h fun u hu => ?_
    repeat' split
    all_goals simp [hu]
  all_goals exact canonical_of_issue e h fun u hu => hu

/-- Settles O58: only six functions write memory, each keeps the canonical form, and every operation, every event and
the passing of time reach memory through them. -/
theorem everyStepKeepsMemoryCanonical : Obligations.EveryStepKeepsMemoryCanonical := by
  unfold Obligations.EveryStepKeepsMemoryCanonical
  intro s t hs e
  rcases step_cases e with ⟨i, u, v, hv, ht, hm, -⟩ | ⟨u, ht, hm, -⟩
  · have canonical : Canonical v.mem := exec_canonical (hm.symm ▸ hs) hv
    exact ht ▸ memWf_tock (State.memWf_of_mem_eq canonical (endBundle_mem v))
  · exact ht ▸ memWf_tock (State.memWf_of_mem_eq hs hm)

end Sys2Proof.MemoryProofs
end

section
/-! PROOFS. The start of the array's operations: the weight latches, the drains and the status word (R149 to R151,
R158 to R162); and MZERO, which repairs words (R155, R236). -/

namespace Sys2Proof.MatrixProofs

open Sys2Proof Sys2Proof.Machine Sys2Proof.Claim Sys2Proof.ScalarControlProofs Sys2Proof.CompareProofs
open Sys2Proof.CurrentMapProofs Sys2Proof.EncodingProofs

/-! ### Lists of writes -/

/-- A value that a list of writes ends with for an address is one it writes there. -/
theorem mem_of_lastOf {α : Type} {l : List (Nat × α)} {a : Nat} {x : α} (h : lastOf l a = some x) : (a, x) ∈ l := by
  induction l with
  | nil => simp at h
  | cons c l ih =>
    rw [lastOf_cons] at h
    cases e : lastOf l a with
    | some y => rw [e] at h; exact List.mem_cons_of_mem _ (ih (e.trans h))
    | none =>
      rw [e, Option.none_or] at h
      split at h
      · next ca => cases h; exact List.mem_cons.mpr (.inl (Prod.ext ca.symm rfl))
      · cases h

/-- A list of writes that gives an address one value alone ends with it. -/
theorem lastOf_eq_some {α : Type} {l : List (Nat × α)} {a : Nat} {x : α} (mem : (a, x) ∈ l)
    (one : ∀ c ∈ l, c.1 = a → c.2 = x) : lastOf l a = some x := by
  cases e : lastOf l a with
  | some y => exact congrArg some (one _ (mem_of_lastOf e) rfl)
  | none =>
    exfalso
    induction l with
    | nil => cases mem
    | cons c l ih =>
      rw [lastOf_cons, Option.or_eq_none_iff] at e
      obtain ⟨rest, head⟩ := e
      rcases List.mem_cons.mp mem with rfl | mem
      · simp at head
      · exact ih mem (fun c h => one c (List.mem_cons_of_mem _ h)) rest

/-- A list that writes for each key a function of the address it names. -/
theorem lastOf_map_eq {α β : Type} {l : List β} {k : β → Nat} {g : Nat → α} {a : Nat} (h : ∃ p ∈ l, k p = a) :
    lastOf (l.map fun p => (k p, g (k p))) a = some (g a) := by
  obtain ⟨p, mem, rfl⟩ := h
  refine lastOf_eq_some (List.mem_map.mpr ⟨p, mem, rfl⟩) fun c hc e => ?_
  obtain ⟨q, -, rfl⟩ := List.mem_map.mp hc
  exact congrArg g e

/-! ### Bytes of elements (R44, R158) -/

section Elements

variable {s : State} {l : List (Nat × Code)}

theorem nibbleAfter_lt (a : Nat) : s.nibbleAfter l a < 16 := by
  unfold State.nibbleAfter
  split <;> omega

/-- The byte that nibbles leave at an address. -/
def nibbleByte (s : State) (l : List (Nat × Code)) (b : Nat) : Byte :=
  BitVec.ofNat 8 (s.nibbleAfter l (8 * b) + 16 * s.nibbleAfter l (8 * b + 4))

theorem nibble_nibbleByte {a : Nat} (h : a % 8 = 0 ∨ a % 8 = 4) :
    (nibbleByte s l (a / 8)).toNat / 2 ^ (a % 8) % 16 = s.nibbleAfter l a := by
  have low := nibbleAfter_lt (s := s) (l := l) (8 * (a / 8))
  have high := nibbleAfter_lt (s := s) (l := l) (8 * (a / 8) + 4)
  have byte : (nibbleByte s l (a / 8)).toNat =
      s.nibbleAfter l (8 * (a / 8)) + 16 * s.nibbleAfter l (8 * (a / 8) + 4) :=
    (BitVec.toNat_ofNat ..).trans (Nat.mod_eq_of_lt (by omega))
  rw [byte]
  rcases h with h | h
  · rw [h, show s.nibbleAfter l a = s.nibbleAfter l (8 * (a / 8)) from congrArg _ (by omega)]
    omega
  · rw [h, show s.nibbleAfter l a = s.nibbleAfter l (8 * (a / 8) + 4) from congrArg _ (by omega)]
    omega

theorem elemBytes_nibbles : s.elemBytes 4 l = l.map fun p => (p.1 / 8, nibbleByte s l (p.1 / 8)) :=
  List.map_eq_flatMap.symm

/-- The bytes of elements set them, and keep the other half of a nibble's byte. -/
theorem setBytes_elemBytes (w : Nat) : SetBytes s w l (s.elemBytes w l) := by
  refine ⟨fun wide => by simp only [State.elemBytes, if_neg wide], ?_⟩
  rintro rfl a half
  rw [elemBytes_nibbles]
  have nibble := nibble_nibbleByte (s := s) (l := l) half
  constructor
  · intro x hx
    refine ⟨_, lastOf_map_eq ⟨_, mem_of_lastOf hx, rfl⟩, nibble.trans ?_⟩
    simp only [State.nibbleAfter, hx]
  · intro untouched b hb
    obtain ⟨p, -, e⟩ := List.mem_map.mp (mem_of_lastOf hb)
    obtain ⟨at', rfl⟩ := Prod.mk.inj e
    rw [at', nibble]
    simp only [State.nibbleAfter, untouched]

end Elements

/-! ### Weight latches (R149 to R151) -/

theorem tileElem_eq (s : State) (t : BitVec 7) (tr : Bool) (r c : Nat) :
    s.tileElem t tr r c = BitVec.ofNat 64 (tileCode s t tr r c) := rfl

/-- The codes a weight load takes are the tile's. -/
theorem get_loadLatch {f : MxF} {s : State} {k j : Nat} (hk : k < kel f) (hj : j < 48) :
    Sparse.get 0 (loadLatch f s).w (48 * k + j) = (s.tileElem f.tile f.tr k j).setWidth 16 := by
  refine (Sparse.get_setAll rfl).trans ?_
  rw [lastOf_eq_some (x := (s.tileElem f.tile f.tr k j).setWidth 16)]
  · rfl
  · simp only [List.mem_flatMap, List.mem_range, List.mem_map]
    exact ⟨k, hk, j, hj, rfl⟩
  · intro c mem e
    simp only [List.mem_flatMap, List.mem_range, List.mem_map] at mem
    obtain ⟨k', -, j', hj', rfl⟩ := mem
    dsimp only at e
    obtain ⟨rfl, rfl⟩ : k' = k ∧ j' = j := by omega
    rfl

/-- Settles O18: a load's codes are written at the places of distinct lanes; the other operations are their effects. -/
theorem weightLatchEffects : Obligations.WeightLatchEffects := by
  unfold Obligations.WeightLatchEffects
  intro f s c starts loaded e copied
  have load : loaded (loadLatch f s) := by
    refine ⟨rfl, rfl, rfl, rfl, fun c4 => if_pos c4, fun k hk j hj => ?_, fun k j => rfl⟩
    rw [get_loadLatch hk hj, tileElem_eq, BitVec.toNat_setWidth, BitVec.toNat_ofNat]
    exact Nat.mod_mod_of_dvd _ (by decide)
  refine ⟨?mldw, ?mldwt, ?mswap, ?mcbl, ?mclr⟩ <;> intro runs
  case mldw => exact ⟨loadLatch f s, does_of_effect runs rfl fun _ => rfl, load⟩
  case mldwt =>
    exact ⟨loadLatch f s, copyBytes f s, does_of_effect runs rfl fun _ => rfl, load, setBytes_elemBytes _⟩
  case mswap => exact does_of_effect runs rfl fun _ => rfl
  case mcbl => exact does_of_effect runs rfl fun _ => rfl
  case mclr => exact does_of_effect runs rfl fun _ => rfl

/-! ### MZERO and words in error (R155, R236) -/

/-- Core 0 inside a group, the owner of bank 0, whose first accumulator word is in error. -/
def poisonedAcc : State := { State.reset with
  core := { Core.reset 0 with
    mode := .running, passed := true, landed := true, grpIrrev := true, own := 1, poisonedWords := [0]
    code := List.replicate 6 ((Vector.replicate 8 (0 : Word)).set 7 (1 <<< 63)), pc := 1 } }

/-- MZERO of row 0 of bank 0. -/
def zeroRow : MxF := ⟨0, 0, 0, 0, 0, 0, 0, false, 0⟩

theorem runs_mzero : Runs (.mzero zeroRow) poisonedAcc := by
  unfold Runs
  decide +kernel

/-- Refutes O19: MZERO of a row that holds a word in error takes the word off the list of words in error, which the
statement keeps as it was. -/
theorem not_matrixStreamEffects : ¬ Obligations.MatrixStreamEffects := by
  unfold Obligations.MatrixStreamEffects
  intro h
  obtain ⟨-, -, -, zero⟩ := h.1 zeroRow poisonedAcc
  obtain ⟨a, starts, -⟩ := zero runs_mzero
  have run : exec (.mzero zeroRow) poisonedAcc = .next _ := issue_runs runs_mzero.1 runs_mzero.2
  have words : _ = [0] := congrArg (fun s : State => s.core.poisonedWords) (Host.Outcome.next.inj (run.symm.trans starts))
  exact absurd words (by decide +kernel)

/-! ### Drains and the status word (R158, R159, R162) -/

/-- A flag is among those of a drain's cells when some element raised it. -/
theorem getLsbD_drainInto {f : MxF} {t : BitVec 7} {k : Word32} {trans : Bool} {s : State} {b : Nat} :
    (drainInto f t k trans s).2.getLsbD b = true ↔ ∃ i < mxRows f, ∃ j < 48,
      (drainElem s.core.fpc (TileE.fmt (s.core.tile t)) k (s.core.accRaw (accKey f.bank (f.row.toNat + i) j))).2.getLsbD b
        = true := by
  refine (getLsbD_foldl (p := fun e : Nat × (Code × Flags) => e.2.2.getLsbD b = true)
    (fun a e => by rw [BitVec.getLsbD_or, Bool.or_eq_true]) _ 0).trans ?_
  simp only [BitVec.ofNat_eq_ofNat, BitVec.getLsbD_zero, Bool.false_eq_true, false_or, drainCells, List.mem_flatMap,
    List.mem_range, List.mem_map]
  constructor
  · rintro ⟨-, ⟨i, hi, j, hj, rfl⟩, h⟩
    exact ⟨i, hi, j, hj, h⟩
  · rintro ⟨i, hi, j, hj, h⟩
    exact ⟨_, ⟨i, hi, j, hj, rfl⟩, h⟩

/-- The bytes of a drain set its quantised elements. -/
theorem setBytes_drainInto (f : MxF) (t : BitVec 7) (k : Word32) (trans : Bool) (s : State) :
    SetBytes s (TileE.width (s.core.tile t)) ((drainCells f t k trans s).map fun p => (p.1, p.2.1))
      (drainInto f t k trans s).1 := setBytes_elemBytes _

/-- A drain into two tiles starts. -/
theorem drainStart_two (f : MxF) (t u : BitVec 7) (b : List (Nat × Byte) × Flags) (s : State) (l : List PendArr) :
    drainStart f [t, u] b (withArrs s l) = withArrs { s with core :=
      let d := [t, u].foldl (fun c t => c.setTile t TileE.draining 0) s.core
      { d with
        nextId := s.core.nextId + 1
        mx := s.core.mx ++ [⟨s.core.nextId, .drain, f.bank, f.row.toNat / 8, (f.row.toNat + mxRows f - 1) / 8,
          f.row.toNat % 8 == 0 && mxRows f % 8 == 0, [], [], [t, u], b.1, b.2, sumBlock f false⟩] } } l := by
  have arrs : ∀ (c : Core) (t : BitVec 7), Core.setTile { c with arrs := l } t TileE.draining 0 =
      { c.setTile t TileE.draining 0 with arrs := l } := fun _ _ => rfl
  rw [drainStart, withArrs, withArrs, State.onCore]
  simp only [List.foldl_cons, List.foldl_nil, arrs]
  rfl

/-- The bits of a sum of distinct powers of two. -/
theorem testBit_powers (p : Nat → Bool) (n j : Nat) :
    ((List.range n).foldl (fun a b => a + if p b then 2 ^ b else 0) 0).testBit j = (decide (j < n) && p j) ∧
      (List.range n).foldl (fun a b => a + if p b then 2 ^ b else 0) 0 < 2 ^ n := by
  induction n with
  | zero => simp
  | succ n ih =>
    obtain ⟨bit, lt⟩ := ih
    rw [List.range_succ, List.foldl_append, List.foldl_cons, List.foldl_nil]
    generalize (List.range n).foldl (fun a b => a + if p b then 2 ^ b else 0) 0 = x at *
    refine ⟨?_, by split <;> omega⟩
    have e : x + (if p n then 2 ^ n else 0) = 2 ^ n * (p n).toNat + x := by
      cases p n <;> simp [Nat.add_comm]
    rw [e, Nat.testBit_two_pow_mul_add _ lt, bit]
    rcases Nat.lt_trichotomy j n with h | rfl | h
    · simp [h, Nat.lt_succ_of_lt h]
    · cases p j <;> simp
    · have far : (p n).toNat.testBit (j - n) = false :=
        Nat.testBit_lt_two_pow ((Bool.toNat_lt _).trans_le (Nat.le_self_pow (by omega) 2))
      simp [show ¬ j < n by omega, show ¬ j < n + 1 by omega, far]

/-- The fields of a status word (R162). -/
theorem status_fields (own : BitVec 32) (f1 f0 : BitVec 3) (v1 v0 : Bool) (n z : BitVec 4) (b : BitVec 16) :
    let x : Word := own ++ f1 ++ f0 ++ BitVec.ofBool v1 ++ BitVec.ofBool v0 ++ n ++ z ++ b
   BitVec.extractLsb' 32 32 x = own ∧ BitVec.extractLsb' 29 3 x = f1 ∧
    BitVec.extractLsb' 26 3 x = f0 ∧ x.getLsbD 25 = v1 ∧ x.getLsbD 24 = v0 ∧ ∀ j < 16, x.getLsbD j = b.getLsbD j := by
  refine ⟨?_, ?_, ?_, ?_, ?_, fun j hj => ?_⟩
  · change bits _ 32 32 = own
    simp [bits_append_of_le]
  · change bits _ 29 3 = f1
    simp [bits_append_of_le, bits_append_of_add_le]
  · change bits _ 26 3 = f0
    simp [bits_append_of_le, bits_append_of_add_le]
  · change bitOf _ 25 = v1
    simp [bitOf_append]
  · change bitOf _ 24 = v0
    simp [bitOf_append]
  · change bitOf _ j = bitOf b j
    simp [bitOf_append, hj]

/-- Settles O20: a drain's bytes are those of its elements; the status word is a concatenation of its fields. -/
theorem drainAndStatusEffects : Obligations.DrainAndStatusEffects := by
  unfold Obligations.DrainAndStatusEffects
  intro f s c n k1 k2 quantised el held raised starts
  have elem : ∀ t k i j, drainElem s.core.fpc (TileE.fmt (s.core.tile t)) k
      (s.core.accRaw (accKey f.bank (f.row.toNat + i) j)) = el t k i j := by
    intro t k i j
    simp only [drainElem, el, quantised]
    split
    · rfl
    · cases scaleOk k <;> rfl
  have holds : ∀ t k trans, held t k trans (drainInto f t k trans s).1 := by
    intro t k trans
    have set := setBytes_drainInto f t k trans s
    simp only [drainCells, List.map_flatMap, List.map_map, Function.comp_def, elem] at set
    exact set
  let a := drainInto f f.tile k1 false s
  let a' := drainInto f f.tile2 k2 true s
  refine ⟨?mdrain, ?mdraint, ?mstat⟩ <;> intro runs
  case mdrain =>
    refine ⟨a.1, a.2, does_of_effect runs rfl fun _ => rfl, holds f.tile k1 false, fun b hb => ?_⟩
    rw [getLsbD_drainInto]
    simp only [elem]
    rfl
  case mdraint =>
    refine ⟨a.1, a'.1, a.2 ||| a'.2, does_of_effect runs rfl (fun l => drainStart_two ..), holds f.tile k1 false, holds f.tile2 k2 true,
      fun b hb => ?_⟩
    rw [BitVec.getLsbD_or, Bool.or_eq_true, getLsbD_drainInto, getLsbD_drainInto]
    simp only [elem, ← exists_or, ← and_or_left]
    rfl
  case mstat =>
    refine ⟨mxStatus c f.bank, sends_of_effect runs rfl (fun _ => rfl) (fun _ => rfl) fun _ => rfl, ?_⟩
    obtain ⟨own, fmt1, fmt0, valid1, valid0, busy⟩ := status_fields c.own c.wb1.fmt c.wb0.fmt c.wb1.valid c.wb0.valid
      (BitVec.ofNat 4 (c.mx.filter fun o => o.kind == .drain).length) 0#4 (BitVec.ofNat 16 (if c.owns f.bank then
        (List.range 16).foldl (fun (a : Nat) b =>
          a + (if c.bandWriteBit f.bank b b || c.bandReadBit f.bank b b then 2 ^ b else 0)) 0
      else 0))
    refine ⟨own, fmt1, fmt0, valid1, valid0, fun j hj => (busy j hj).trans ?_⟩
    rw [BitVec.getLsbD_ofNat]
    cases c.owns f.bank with
    | false => rw [if_neg Bool.false_ne_true, Nat.zero_testBit, Bool.and_false, Bool.false_and]
    | true =>
      rw [if_pos rfl, (testBit_powers (fun b => c.bandWriteBit f.bank b b || c.bandReadBit f.bank b b) 16 j).1]
      simp [hj]

end Sys2Proof.MatrixProofs
end

section
/-! PROOFS. What a store changes beside memory (R245, R246), and the releases that write the bytes withheld: a store
that leaves the store buffer, an operation of the array that completes (R28, R157, R163). -/

namespace Sys2Proof.ReleaseProofs

open Sys2Proof Sys2Proof.Machine Sys2Proof.Claim Sys2Proof.ScalarControlProofs

/-! ### Sending changes the network and the fabric alone -/

/-- Two states that differ in the network and the fabric alone. -/
def OnNet (s t : State) : Prop := ∃ n f, t = { s with net := n, fab := f }

section OnNet

variable {s t u : State}

-- Memory is bounded and each thread holds some: what stands before is checked before more is begun.
set_option Elab.async false in
theorem OnNet.refl (s : State) : OnNet s s := ⟨s.net, s.fab, rfl⟩

theorem OnNet.trans (h : OnNet s t) (h' : OnNet t u) : OnNet s u := by
  obtain ⟨n, f, rfl⟩ := h
  obtain ⟨n', f', rfl⟩ := h'
  exact ⟨n', f', rfl⟩

theorem onNet_foldl {β : Type} {g : State → β → State} (h : ∀ s b, OnNet s (g s b)) (l : List β) (s : State) :
    OnNet s (l.foldl g s) := by
  induction l generalizing s with
  | nil => exact .refl s
  | cons b l ih => exact (h s b).trans (ih _)

theorem onNet_launch (s : State) (m : Msg) : OnNet s (s.launch m) := by
  unfold State.launch
  split
  · exact ⟨_, _, rfl⟩
  · exact .refl s

theorem onNet_sendMsg (s : State) (m : Msg) : OnNet s (s.sendMsg m) :=
  .trans ⟨_, s.fab, rfl⟩ (onNet_launch ..)

theorem onNet_carry (s : State) (src : Port) (op : NetOp) (p : Packet) : OnNet s (s.carry src op p) := by
  unfold State.carry
  split
  · exact onNet_sendMsg ..
  · exact .refl s

theorem onNet_sendPacket (s : State) (src : Port) (op : NetOp) (p : Packet) (m : BitVec 12)
    (l : List (Nat × BitVec 64 × List Byte)) : OnNet s (s.sendPacket src op p m l) := by
  refine .trans (t := s.takePid) ⟨s.net, _, rfl⟩ ?_
  unfold State.sendPacket State.sendAs
  split
  · exact onNet_carry ..
  · exact .refl _

theorem onNet_couchWrite (s : State) (a : BitVec 16) (m : BitVec 12) (c : List (Nat × Byte)) (t : CouchTag) :
    OnNet s (s.couchWrite a m c t) :=
  onNet_foldl (fun s _ => .trans (t := s.noteCouch ..) ⟨_, s.fab, rfl⟩ (onNet_sendPacket ..)) _ _

end OnNet

/-! ### A transition that faults changes tokens of cores and their waits -/

/-- Two cores that differ in their tokens and in the end of a PADV's wait alone. -/
def OnTokens (c d : Core) : Prop :=
  ∃ tok shadowTok e, d = { c with tokens := tok, shadow := { c.shadow with tokens := shadowTok }, padvEnd := e }

section OnTokens

variable {b c d : Core}

theorem OnTokens.refl (c : Core) : OnTokens c c := ⟨c.tokens, c.shadow.tokens, c.padvEnd, rfl⟩

theorem OnTokens.trans (h : OnTokens b c) (h' : OnTokens c d) : OnTokens b d := by
  obtain ⟨t, t', e, rfl⟩ := h
  obtain ⟨u, u', e', rfl⟩ := h'
  exact ⟨u, u', e', rfl⟩

theorem onTokens_completeToken (c : Core) (i : BitVec 6) (x : BitVec 16) : OnTokens c (c.completeToken i x) := by
  unfold Core.completeToken Core.setToken
  split
  · exact ⟨_, _, _, rfl⟩
  · exact .refl c

theorem onTokens_faultMet (c : Core) (a : BitVec 16) (n : BitVec 6) (k : Nat) (code : BitVec 8) :
    OnTokens c (c.faultMet a n k code) := by
  unfold Core.faultMet
  split
  · exact ⟨_, _, _, rfl⟩
  · exact .refl c

theorem onTokens_foldl {β : Type} {g : State → β → State} (h : ∀ s b, OnTokens s.core (g s b).core) (l : List β)
    (s : State) : OnTokens s.core (l.foldl g s).core := by
  induction l generalizing s with
  | nil => exact .refl _
  | cons b l ih => exact (h s b).trans (ih _)

theorem OnNet.onTokens {s t : State} (h : OnNet s t) : OnTokens s.core t.core := by
  obtain ⟨n, f, rfl⟩ := h
  exact .refl _

theorem onTokens_updCore {s : State} {f : Core → Core} (h : ∀ c, OnTokens c (f c)) (i : BitVec 10) :
    OnTokens s.core (s.updCore i f).core := by
  unfold State.updCore
  split
  · exact h _
  · exact .refl _

theorem onTokens_updMember {s : State} {f : Core → Core} (h : ∀ c, OnTokens c (f c)) (w : Member) :
    OnTokens s.core (s.updMember w f).core := by
  unfold State.updMember
  split
  · exact onTokens_updCore h _
  · exact .refl _

theorem onTokens_faultTransition (s : State) (a : BitVec 16) (code : BitVec 8) (v : VAddr) :
    OnTokens s.core (s.faultTransition a code v).core := by
  unfold State.faultTransition
  split
  · exact .refl _
  · split
    · exact .refl _
    · next x _ _ =>
      refine .trans (onTokens_faultMet s.core a x.tgt x.trans code) ?_
      exact onTokens_foldl (fun s p => onTokens_updMember (fun c => onTokens_completeToken ..) _) _ _

theorem onTokens_secondCopy (s : State) (a : BitVec 16) (n : Nat) (m : PageMove) (l : List (Nat × Byte)) :
    OnTokens s.core (s.secondCopy a n m l).core := by
  unfold State.secondCopy State.secondFails
  split
  · split
    · exact .refl _
    · split
      · exact onTokens_faultTransition ..
      · exact .refl _
  · exact (onNet_couchWrite ..).onTokens
  · exact .refl _

/-- A store changes no more of the core than a transition that faults by it. -/
theorem onTokens_store (s : State) (l : List (Nat × Byte)) : OnTokens s.core (s.store l).core := by
  refine onTokens_foldl (fun s x => onTokens_foldl (fun s m => ?_) _ _) _ _
  unfold State.mirrorOut
  dsimp only
  split
  · exact .refl _
  · exact onTokens_secondCopy ..

end OnTokens

/-- What a store of a module without mirrored pages leaves at an address. -/
theorem peek_store_of_unmirrored {s : State} {l : List (Nat × Byte)} (h : s.memWf)
    (unmirrored : ∀ x ∈ s.contexts, x.mirrored = []) (a : Nat) : (s.store l).peek a = match lastOf l a with | some x => x | none => s.peek a := by
  rw [State.peek_store h, mirrorAll_nil unmirrored]
  cases lastOf l a <;> rfl

theorem store_mem_of_nil (s : State) : (s.store []).mem = s.mem := by
  have cells : mirrorCells s [] = [] := by simp [mirrorCells]
  have all : ∀ n, mirrorAll s n [] = [] := fun n => by cases n with
    | zero => rfl
    | succ n => unfold mirrorAll; rw [cells]
  rw [State.store_mem, all]
  rfl

/-- The state in which a released store's bytes are written: its elements are in the accumulator. -/
def accWritten (s : State) (e : StoreEntry) : State :=
  { s with core := (s.core.setAcc e.elems).retire (.store e.id) }

/-- The bytes of a store at their physical addresses. -/
def spadCells (s : State) (l : List (Nat × Byte)) : List (Nat × Byte) := l.map fun b => (spadBase s.core.id + b.1, b.2)

theorem performStore_eq (s : State) (e : StoreEntry) :
    s.performStore e = (accWritten s e).store (spadCells s e.bytes) := rfl

theorem releaseStores_one {s : State} {e : StoreEntry} (one : s.core.releasing = [e]) (free : s.core.storeBlocked e = false) :
    s.releaseStores = (s.performStore e).onCore fun c => { c with releasing := [] } := by
  rw [State.releaseStores, one, State.releaseFrom, free, if_neg Bool.false_ne_true, State.releaseFrom]
  rfl

/-- Settles O24: the release performs the one store, whose cells are its bytes. -/
theorem releasedStoresWriteTheirBytes : Obligations.ReleasedStoresWriteTheirBytes := by
  unfold Obligations.ReleasedStoresWriteTheirBytes
  intro s e one free unmirrored wf accWf
  have bytes := peek_store_of_unmirrored (s := accWritten s e) (l := spadCells s e.bytes) wf unmirrored
  obtain ⟨tok, shadowTok, w, core⟩ := onTokens_store (accWritten s e) (spadCells s e.bytes)
  rw [← performStore_eq] at bytes core
  refine ⟨s.releaseStores.makeArrivals, rfl, ?_⟩
  rw [releaseStores_one one free]
  generalize s.performStore e = t at *
  refine ⟨rfl, bytes, fun k => ?_, (congrArg Core.s core :), (congrArg Core.k core :), (congrArg Core.v core :),
    (congrArg Core.stores core :)⟩
  have acc : t.core.acc = Sparse.setAll 0 s.core.acc e.elems := congrArg Core.acc core
  show Sparse.get 0 t.core.acc k = _
  rw [acc, Sparse.get_setAll accWf]
  cases lastOf e.elems k <;> rfl

/-! ### Completions of the array -/

/-- Tile states that are set one after another leave every other field of a core that `get` reads. -/
theorem foldl_setTile {α : Type} {get : Core → α} {st : BitVec 2} {p : BitVec 6}
    (h : ∀ c i, get (c.setTile i st p) = get c) (l : List (BitVec 7)) (c : Core) :
    get (l.foldl (fun c t => c.setTile t st p) c) = get c := by
  induction l generalizing c with
  | nil => rfl
  | cons t l ih => rw [List.foldl_cons, ih, h]

/-- A tile of a list whose states are set has the state; another tile's entry is as it was. -/
theorem tile_foldl_setTile (st : BitVec 2) (p : BitVec 6) (l : List (BitVec 7)) (c : Core) (u : BitVec 7) :
    (l.foldl (fun c t => c.setTile t st p) c).tile u = if u ∈ l then TileE.withState (c.tile u) st p else c.tile u := by
  induction l generalizing c with
  | nil => rfl
  | cons t l ih =>
    rw [List.foldl_cons, ih, Core.tile_setTile]
    by_cases tu : u = t
    · subst tu
      simp
    · simp [tu]

/-- The core when an operation of the array completes: without it, with its flags and its tiles ready. -/
def mxDone (o : MxOp) (c : Core) : Core :=
  o.drains.foldl (fun c t => c.setTile t TileE.ready 0) { c with
    mx := c.mx.filter fun p => p.id != o.id, fpc := orFpc c.fpc o.flags
    shadow := { c.shadow with fpc := orFpc c.shadow.fpc o.flags } }

theorem mxDone_queue (o : MxOp) (c : Core) : (mxDone o c).queue = c.queue :=
  foldl_setTile (get := Core.queue) (fun _ _ => rfl) ..

theorem mxDone_releasing (o : MxOp) (c : Core) : (mxDone o c).releasing = c.releasing :=
  foldl_setTile (get := Core.releasing) (fun _ _ => rfl) ..

theorem takeTiles_of_empty {c : Core} (h : c.queue = []) : c.takeTiles = c := by
  rw [Core.takeTiles, h]
  rfl

theorem releaseStores_of_empty {s : State} (h : s.core.releasing = []) :
    s.releaseStores = s.onCore fun c => { c with releasing := [] } := by
  rw [State.releaseStores, h]
  rfl

/-- An operation completes while no store and no command waits for it. -/
theorem finishMx_eq {s : State} {o : MxOp} (released : s.core.releasing = []) (queue : s.core.queue = []) :
    s.finishMx o = ((s.store (spadCells s o.bytes)).onCore fun c =>
      { (mxDone o c).retire (.mx o.id) with releasing := [] }).makeArrivals := by
  obtain ⟨tok, shadowTok, e, core⟩ := onTokens_store s (spadCells s o.bytes)
  show State.makeArrivals (State.releaseStores ((s.store (spadCells s o.bytes)).onCore fun c =>
    ((mxDone o c).retire (.mx o.id)).takeTiles)) = _
  generalize s.store (spadCells s o.bytes) = t at *
  have q : ((mxDone o t.core).retire (.mx o.id)).queue = [] :=
    (mxDone_queue o t.core).trans ((congrArg Core.queue core).trans queue)
  have r : ((mxDone o t.core).retire (.mx o.id)).releasing = [] :=
    (mxDone_releasing o t.core).trans ((congrArg Core.releasing core).trans released)
  rw [State.onCore, takeTiles_of_empty q, releaseStores_of_empty r]
  rfl

theorem mxDone_mx (o : MxOp) (c : Core) : (mxDone o c).mx = c.mx.filter fun p => p.id != o.id :=
  foldl_setTile (get := Core.mx) (fun _ _ => rfl) ..

theorem mxDone_fpc (o : MxOp) (c : Core) : (mxDone o c).fpc = orFpc c.fpc o.flags :=
  foldl_setTile (get := Core.fpc) (fun _ _ => rfl) ..

theorem mxDone_tile (o : MxOp) (c : Core) (u : BitVec 7) :
    (mxDone o c).tile u = if u ∈ o.drains then TileE.withState (c.tile u) TileE.ready 0 else c.tile u :=
  tile_foldl_setTile ..

theorem mxComplete_of_one {s : State} {o : MxOp} (occ : s.occ = .num o.id) (one : s.core.mx = [o]) {drain : Bool}
    (kind : (o.kind == .drain) = drain) : mxComplete drain s = s.finishMx o := by
  simp only [mxComplete, occ, one, List.find?_cons, kind, BEq.rfl, Bool.and_self]

section

variable {s : State} {o : MxOp} (released : s.core.releasing = []) (queue : s.core.queue = [])
include released queue

/-- The core after a completion, up to what the store changes of it. -/
theorem finishMx_core : ∃ c arrs, OnTokens s.core c ∧
    (s.finishMx o).core = { mxDone o c with arrs := arrs, releasing := [] } := by
  refine ⟨_, ((((mxDone o (s.store (spadCells s o.bytes)).core).retire (.mx o.id)).arrs).filter fun p => !p.due),
    onTokens_store s (spadCells s o.bytes), ?_⟩
  rw [finishMx_eq released queue]
  rfl

/-- What a completion leaves of the core. -/
theorem finishMx_get {α : Type} (get : Core → α)
    (h : ∀ c i, get (c.setTile i TileE.ready 0) = get c := by intros; rfl)
    (h' : ∀ (c : Core) m f sh tok e a r, get { c with
      mx := m, fpc := f, shadow := sh, tokens := tok, padvEnd := e, arrs := a, releasing := r } = get c := by
        intros; rfl) :
    get (s.finishMx o).core = get s.core := by
  obtain ⟨-, arrs, ⟨tok, shadowTok, e, rfl⟩, core⟩ := finishMx_core (o := o) released queue
  have ends : ∀ c : Core, get { c with arrs := arrs, releasing := [] } = get c := fun c =>
    h' c c.mx c.fpc c.shadow c.tokens c.padvEnd arrs []
  rw [core, ends, mxDone, foldl_setTile h]
  exact h' s.core _ _ _ tok e s.core.arrs s.core.releasing

end

/-- Settles O21: the store writes the bytes held, and of the core changes no register. -/
theorem matrixCompletions : Obligations.MatrixCompletions := by
  unfold Obligations.MatrixCompletions
  rintro s o n occ one rfl released queue fl lands common
  have done : common (s.finishMx o) := by
    obtain ⟨c, arrs, ⟨tok, shadowTok, e, rfl⟩, core⟩ := finishMx_core (o := o) released queue
    have mem : (s.finishMx o).mem = (s.store (spadCells s o.bytes)).mem := by
      rw [finishMx_eq released queue]
      rfl
    refine ⟨?_, ?_, fun wf unmirrored a => ?_, fun h => ?_, finishMx_get released queue Core.s,
      finishMx_get released queue Core.k, finishMx_get released queue Core.v, finishMx_get released queue Core.acc,
      finishMx_get released queue Core.wb0, finishMx_get released queue Core.wb1⟩
    · exact (congrArg Core.mx core).trans ((mxDone_mx ..).trans (by simp [one]))
    · exact (congrArg Core.fpc core).trans (mxDone_fpc ..)
    · exact (congrArg (fun m => Sparse.get 0 m a) mem).trans (peek_store_of_unmirrored wf unmirrored a)
    · rw [mem, h]
      exact store_mem_of_nil s
  have tile : ∀ u, (s.finishMx o).core.tile u =
      if u ∈ o.drains then TileE.withState (s.core.tile u) TileE.ready 0 else s.core.tile u := fun u => by
    obtain ⟨c, arrs, ⟨tok, shadowTok, e, rfl⟩, core⟩ := finishMx_core (o := o) released queue
    exact (congrArg (fun c => Core.tile c u) core).trans (mxDone_tile ..)
  constructor
  · intro other none
    refine ⟨_, congrArg Host.Outcome.next (mxComplete_of_one occ one (by simpa using other)), done, ?_⟩
    obtain ⟨c, arrs, ⟨tok, shadowTok, e, rfl⟩, core⟩ := finishMx_core (o := o) released queue
    rw [core, mxDone, none]
    rfl
  · intro drain
    refine ⟨_, congrArg Host.Outcome.next (mxComplete_of_one occ one (by simpa using drain)), done, fun u hu => ?_,
      fun u hu => (tile u).trans (if_neg hu)⟩
    rw [tile, if_pos hu]
    exact ⟨state_withState .., ptok_withState ..⟩

end Sys2Proof.ReleaseProofs
end

section
/-! PROOFS. The load and store slots (R28, R165 to R170). -/

namespace Sys2Proof.LoadStoreProofs

open Sys2Proof Sys2Proof.Machine Sys2Proof.Claim Sys2Proof.ScalarControlProofs Sys2Proof.VectorProofs

/-- A vector load of guarded elements, whatever the arrivals. -/
theorem loads_of_effect {i : Instr} {s : State} {vd : BitVec 6} {gm : BitVec 4} {addr : State → Nat → Nat → Nat}
    {bit : Nat → Nat → Nat} (h : Runs i s) (he : exec i s = issue i (fun u => loadGrid i vd gm (addr u) u) s)
    (hb : ∀ l, addr (withArrs s l) = bit) :
    let cells := gridCells s.core.grid fun r col =>
      if (s.core.rk gm).getLsbD (r * 32 + col) then some (s.spadElem (bit r col) s.core.grid.w, 0) else none
    Sends i s (.v vd (packGrid s.core.grid.w cells).1 (packGrid s.core.grid.w cells).2) (latency i) 0 0 := by
  refine does_of_effect h he fun l => ?_
  rw [hb]
  rfl

/-- The widths of a type: whole bytes, but for C4. -/
theorem tyWidth_bytes (t : BitVec 3) :
    tyWidth t = 4 ∧ t = 7 ∨ 0 < tyWidth t ∧ tyWidth t ≤ 64 ∧ 8 * (tyWidth t / 8) = tyWidth t := by
  revert t
  decide

/-- The element SLD reads (R167). -/
theorem sldValue_eq (f : LsF) (s : State) :
    let w := tyWidth f.ty
    let x := natOfBytes (s.spadBytes (s.core.rs f.br + f.ofs.signExtend 64).toNat (w / 8)) % 2 ^ w
    sldValue f s = if f.ty.toNat ∈ [4, 5, 6] ∧ 2 ^ (w - 1) ≤ x then BitVec.ofInt 64 ((x : Int) - 2 ^ w)
      else BitVec.ofNat 64 x := by
  intro w x
  have elem : s.spadElem (8 * lsEa f s.core) (8 * (w / 8)) = BitVec.ofNat 64 (natOfBytes
      (s.spadBytes (s.core.rs f.br + f.ofs.signExtend 64).toNat (w / 8)) % 2 ^ (8 * (w / 8))) := by
    rw [State.spadElem, Nat.mul_mod_right, pow_zero, Nat.div_one, Nat.mul_div_cancel_left _ (by omega),
      show (8 * (w / 8) + 7) / 8 = w / 8 by omega]
    rfl
  simp only [sldValue, List.contains_iff_mem]
  rw [show 8 * lsBytes f = 8 * (w / 8) from rfl, elem]
  rcases tyWidth_bytes f.ty with ⟨c4, ty⟩ | ⟨pos, le, whole⟩
  · have four : w = 4 := c4
    have none : x = 0 := by simp only [x, four]; rfl
    simp [ty, none, four, natOfBytes, State.spadBytes]
  · have whole : 8 * (w / 8) = w := whole
    have lt : x < 2 ^ w := Nat.mod_lt _ (Nat.two_pow_pos w)
    have code : (BitVec.ofNat 64 x).toNat % 2 ^ w = x := by
      rw [BitVec.toNat_ofNat, Nat.mod_mod_of_dvd _ (Nat.pow_dvd_pow 2 le), Nat.mod_eq_of_lt lt]
    rw [whole, show natOfBytes _ % 2 ^ w = x from rfl, intOf_eq pos, show tyWidth f.ty = w from rfl, code]
    by_cases int : f.ty.toNat ∈ [4, 5, 6]
    · by_cases neg : 2 ^ (w - 1) ≤ x
      · simp only [int, neg, and_self, if_true]
      · simp only [int, neg, and_false, if_true, if_false]
        rfl
    · simp only [int, false_and, if_false]

/-- Settles O22: the elements are read through the withheld stores. -/
theorem loadResults : Obligations.LoadResults := by
  unfold Obligations.LoadResults
  intro f s c g ea e o grid w x
  refine ⟨?vld, ?vldt, ?vldg, ?sld, ?kld⟩ <;> intro runs
  case vld => exact loads_of_effect runs rfl fun _ => rfl
  case vldt => exact loads_of_effect runs rfl fun _ => rfl
  case vldg => exact loads_of_effect runs rfl fun _ => rfl
  case sld =>
    have value := sldValue_eq f s
    exact sends_of_effect runs rfl (fun l => congrArg (ResVal.s f.rg) value) (fun _ => rfl) fun _ => rfl
  case kld => exact sends_of_effect runs rfl (fun _ => rfl) (fun _ => rfl) fun _ => rfl

/-- A byte as loads see it after one more store is withheld. -/
theorem spadByte_withhold (s : State) (e : StoreEntry) (a : Nat) :
    State.spadByte { s with core := { s.core with stores := s.core.stores ++ [e] } } a =
      (lastOf e.bytes a).getD (s.spadByte a) := by
  simp only [State.spadByte, Core.withheld, ← List.append_assoc, List.reverse_append, List.reverse_singleton,
    List.cons_append, List.findSome?_cons]
  cases lastOf e.bytes a <;> rfl

/-- Settles O23: a store takes an entry, whose bytes loads find first. -/
theorem storesAreWithheld : Obligations.StoresAreWithheld := by
  unfold Obligations.StoresAreWithheld
  constructor
  · intro f s c g ea puts on elems
    refine ⟨?vst, ?vstt, ?vsts, ?sst, ?kst⟩ <;> intro runs <;> exact does_of_effect runs rfl fun _ => rfl
  · intro f s t ea n runs run
    have done : exec (.sst f) s = .next _ := issue_runs runs.1 runs.2
    cases Host.Outcome.next.inj (done.symm.trans run)
    have byte : ∀ a, State.spadByte _ a = _ := spadByte_withhold s ⟨s.core.nextId, sstBytes f s.core, [], 0⟩
    have cell : ∀ a, lastOf (sstBytes f s.core) a =
        if ea ≤ a then (bytesOfNat n (s.core.rs f.rg).toNat)[a - ea]? else none := fun a => lastOf_cellsFrom ..
    refine ⟨fun j hj => (byte _).trans ?_, fun a out => (byte _).trans ?_, rfl⟩
    · rw [cell, if_pos (by omega), Nat.add_sub_cancel_left, getElem?_bytesOfNat, if_pos hj]
      rfl
    · rw [cell]
      split
      · rw [getElem?_bytesOfNat, if_neg (by omega)]
        rfl
      · rfl

end Sys2Proof.LoadStoreProofs
end

section
/-! PROOFS. What an engine command captures as it issues (R53, R75, R172). -/

namespace Sys2Proof.CommandProofs

open Sys2Proof Sys2Proof.Machine Sys2Proof.Claim Sys2Proof.ScalarControlProofs

/-- The engine's commands (R91). -/
def commands (f : CpF) : List Instr :=
  [.copy f, .copyt f, .spillt f, .gath f, .scat f, .amoAdd32 f, .amoAdd64 f, .amoMin f,
    .amoMax f, .amoMinu f, .amoMaxu f, .amoAnd f, .amoOr f, .amoXor f, .amoSwap f, .amoFxa f, .cas f, .casw f,
    .dcas f, .enq f, .chase f, .put f, .get f, .fenf f, .lxfer f, .lxred f, .bvec f, .pcon f, .preadMst f,
    .preadWbf f, .preadWf8 f, .preadMom f, .pstat f, .mapq f, .pref f, .mset f, .tdec f, .tdecH f, .xlinv f]

/-- Every command of the engine issues by entering the queue. -/
theorem exec_command (f : CpF) (s : State) : ∀ i ∈ commands f, exec i s = issue i (enqueue i f) s := by
  simp only [commands, List.forall_mem_cons, List.not_mem_nil, false_imp_iff, implies_true, and_true]
  and_intros <;> rfl

/-- Only TDEC.H takes its address from a handle (R194). -/
theorem capturedAddress_command (f : CpF) (c : Core) : ∀ i ∈ commands f, capturedAddress i f c =
    if i = .tdecH f then (bits (c.handle (bits f.tk3 2 3)) 0 56).setWidth 64 else c.rs f.ra := by
  simp only [commands, List.forall_mem_cons, List.not_mem_nil, false_imp_iff, implies_true, and_true]
  and_intros <;> rfl

theorem setToken_arrs (c : Core) (i : BitVec 6) (x : BitVec 16) (l : List PendArr) :
    Core.setToken { c with arrs := l } i x = { c.setToken i x with arrs := l } := by
  unfold Core.setToken
  split <;> rfl

/-- A nested command captures the record that RA names (R172, R177). -/
theorem capturedRecord_nested (f : CpF) (s : State) :
    ∀ i ∈ [Instr.copy f, .copyt f, .spillt f, .gath f, .scat f, .lxfer f, .lxred f, .bvec f],
      capturedRecord i f s = s.nestAt (s.core.rs f.ra).toNat := by
  simp only [List.forall_mem_cons, List.not_mem_nil, false_imp_iff, implies_true, and_true]
  and_intros <;> rfl

/-- Settles O25: the command that enters the queue is the one captured. -/
theorem commandsAreCaptured : Obligations.CommandsAreCaptured := by
  unfold Obligations.CommandsAreCaptured
  intro f s c all nested i mem runs
  refine ⟨captured i f s, does_of_effect runs (exec_command f s i mem) (fun l => ?_) ?_ ?_, rfl, rfl, rfl, rfl, rfl,
    capturedAddress_command f c i mem, ?_, rfl, rfl, rfl, rfl, rfl, capturedRecord_nested f s i⟩
  · simp only [enqueue, State.onCore, setToken_arrs]
    rfl
  · exact (Core.setToken_gws ..)
  · exact (Core.setToken_slot ..)
  · show effMod f c.mdef = _
    rw [effMod, BitVec.setWidth_eq_extractLsb' (by decide)]
    rfl

end Sys2Proof.CommandProofs
end

section
/-! PROOFS. Atomic operations at memory (R183, R184). -/

namespace Sys2Proof.AtomicProofs

open Sys2Proof Sys2Proof.Machine Sys2Proof.Claim Sys2Proof.ReleaseProofs

/-- What the statement's arithmetic gives is the model's new value (R184). -/
theorem amoNew_eq (sub : Nat) (old b : Word) : amoNew sub old b = match sub with
    | 0 => BitVec.ofNat 64 ((old.toNat + b.toNat) % 2 ^ 32)
    | 1 => old + b
    | 2 => BitVec.ofInt 64 (min old.toInt b.toInt)
    | 3 => BitVec.ofInt 64 (max old.toInt b.toInt)
    | 4 => BitVec.ofNat 64 (min old.toNat b.toNat)
    | 5 => BitVec.ofNat 64 (max old.toNat b.toNat)
    | 6 => old &&& b
    | 7 => old ||| b
    | 8 => old ^^^ b
    | 9 => b
    | _ => old + (toFx64 (decodeFp .f32 ((bits b 0 32).setWidth 64)) (bits b 32 8).toInt).1 := by
  have nat : ∀ x : Word, x = BitVec.ofNat 64 x.toNat := fun x => by simp
  match sub with
  | 0 =>
    apply BitVec.eq_of_toNat_eq
    simp [amoNew, bits, BitVec.toNat_add]
  | 2 =>
    show (if old.toInt ≤ b.toInt then old else b) = BitVec.ofInt 64 (min old.toInt b.toInt)
    rw [min_def]
    split <;> exact (BitVec.ofInt_toInt).symm
  | 3 =>
    show (if old.toInt ≤ b.toInt then b else old) = BitVec.ofInt 64 (max old.toInt b.toInt)
    rw [max_def]
    split <;> exact (BitVec.ofInt_toInt).symm
  | 4 =>
    show (if old.toNat ≤ b.toNat then old else b) = BitVec.ofNat 64 (min old.toNat b.toNat)
    rw [min_def]
    split <;> exact nat _
  | 5 =>
    show (if old.toNat ≤ b.toNat then b else old) = BitVec.ofNat 64 (max old.toNat b.toNat)
    rw [max_def]
    split <;> exact nat _
  | 1 | 6 | 7 | 8 | 9 | _ + 10 => rfl

/-- Settles O26: the word's bytes are the cells of the one store. -/
theorem amoPerformedAtMemory : Obligations.AmoPerformedAtMemory := by
  unfold Obligations.AmoPerformedAtMemory
  rintro s pa sub b - wf unmirrored
  intro w old new
  obtain ⟨answer, stored⟩ := State.amoAt_spec s pa sub b
  have cell : ∀ a, (s.amoAt pa sub b).1.peek a =
      match (if pa ≤ a then (bytesOfNat w new.toNat)[a - pa]? else none) with
      | some x => x
      | none => s.peek a := by
    intro a
    rw [stored, peek_store_of_unmirrored wf unmirrored, amoNew_eq]
    exact congrArg (fun o => match o with | some x => x | none => s.peek a) (lastOf_cellsFrom ..)
  refine ⟨answer, fun j hj => ?_, fun a out => ?_⟩
  · rw [cell, if_pos (by omega), Nat.add_sub_cancel_left, getElem?_bytesOfNat, if_pos hj]
  · have none : (if pa ≤ a then (bytesOfNat w new.toNat)[a - pa]? else none) = none := by
      split
      · rw [getElem?_bytesOfNat, if_neg (by omega)]
      · rfl
    rw [cell, none]

end Sys2Proof.AtomicProofs
end

section
/-! PROOFS. Barrier objects: their instructions and the arrivals at them (R198 to R203). -/

namespace Sys2Proof.BarrierProofs

open Sys2Proof Sys2Proof.Machine Sys2Proof.Claim Sys2Proof.ScalarControlProofs

/-! ### Writing and reading an object (R26, R309) -/

/-- The context of an ASID after a change of it that keeps the ASID. -/
theorem context?_updContext {s : State} {a : BitVec 16} {f : Context → Context} {x : Context}
    (h : s.context? a = some x) (keeps : ∀ y : Context, (f y).asid = y.asid) : (s.updContext a f).context? a = some (f x) := by
  simp only [State.context?, State.updContext_contexts] at h ⊢
  generalize s.contexts = l at h
  induction l with
  | nil => cases h
  | cons y l ih =>
    rw [List.find?_cons] at h
    by_cases same : y.asid = a
    · simp only [same, beq_self_eq_true, Option.some.injEq] at h
      subst h
      simp [same, keeps]
    · rw [beq_false_of_ne same] at h
      simp [same, ih h]

/-- The focused core is the first that names its task. -/
theorem member?_who (s : State) : s.member? s.core.who = some s.core := by
  simp [State.member?]

theorem updMember_who (s : State) (f : Core → Core) : s.updMember s.core.who f = s.onCore f := by
  simp only [State.updMember, List.find?_cons, beq_self_eq_true, State.updCore, if_true]
  rfl

section

variable {s : State} {w : Member} {o : ObjName}

theorem objAt_core (h : o.scope.toNat = 1) : s.objAt w o =
    ((s.member? w).map fun c => c.bars.toList.getD o.index.toNat Barrier.fresh).getD Barrier.fresh := by
  simp only [State.objAt, h]

theorem objAt_quad (h : o.scope.toNat = 2) : s.objAt w o =
    ((s.quadBars.find? fun p => p.1 == (w.asid, w.recVa, o.index.setWidth 4)).map (·.2)).getD Barrier.fresh := by
  simp only [State.objAt, h]

theorem objAt_context (h : o.scope.toNat ≠ 1) (h' : o.scope.toNat ≠ 2) {x : Context} (hx : s.context? w.asid = some x) :
    s.objAt w o = ((x.objs.find? fun p => p.1 == o).map (·.2)).getD Barrier.fresh := by
  simp only [State.objAt, hx]

/-- A core object's write, by its own core. -/
def Core.setBar (o : ObjName) (b : Barrier) (c : Core) : Core :=
  if h : o.index.toNat < 8 then { c with bars := c.bars.set o.index.toNat b h } else c

theorem setBar_who (b : Barrier) (c : Core) : (Core.setBar o b c).who = c.who := by
  unfold Core.setBar
  split <;> rfl

theorem setObj_core (b : Barrier) (h : o.scope.toNat = 1) : s.setObj s.core.who o b = s.onCore (Core.setBar o b) := by
  simp only [State.setObj, h]
  exact updMember_who ..

/-- An object as it was written: a core object by its own core, one of a context by a task of it. -/
theorem objAt_setObj {b : Barrier} (core : o.scope.toNat = 1 → o.index.toNat < 8 ∧ w = s.core.who)
    (context : o.scope.toNat ≠ 1 → o.scope.toNat ≠ 2 → (s.context? w.asid).isSome) : (s.setObj w o b).objAt w o = b := by
  by_cases one : o.scope.toNat = 1
  · obtain ⟨lt, rfl⟩ := core one
    have member : (s.onCore (Core.setBar o b)).member? s.core.who = some (Core.setBar o b s.core) := by
      rw [← setBar_who b s.core]
      exact member?_who (s.onCore (Core.setBar o b))
    rw [setObj_core b one, objAt_core one, member]
    simp [Core.setBar, lt]
  by_cases two : o.scope.toNat = 2
  · rw [objAt_quad two]
    simp [State.setObj, two]
  · obtain ⟨x, hx⟩ := Option.isSome_iff_exists.mp (context one two)
    have written : s.setObj w o b =
        s.updContext w.asid fun x => { x with objs := (o, b) :: x.objs.filter fun p => p.1 != o } := by
      simp only [State.setObj]
    have found := context?_updContext (f := fun x => { x with objs := (o, b) :: x.objs.filter fun p => p.1 != o }) hx
      fun _ => rfl
    rw [written, objAt_context one two found]
    simp

end

/-- What writing an object leaves alone. -/
theorem setObj_mem_arrivals (s : State) (w : Member) (o : ObjName) (b : Barrier) :
    (s.setObj w o b).mem = s.mem ∧ (s.setObj w o b).arrivals = s.arrivals := by
  unfold State.setObj
  split
  · unfold State.updMember
    split
    · unfold State.updCore
      split <;> exact ⟨rfl, rfl⟩
    · exact ⟨rfl, rfl⟩
  · exact ⟨rfl, rfl⟩
  · exact ⟨rfl, rfl⟩

theorem podRoot_of_scope_ne {s : State} {a : BitVec 16} {o : ObjName} (h : o.scope ≠ 5) : s.podRoot a o = s.modid := by
  simp only [State.podRoot, h, decide_false, Bool.false_and, Bool.false_eq_true, if_false]

/-! ### Arrivals (R200) -/

/-- An arrival may be performed: what it follows has been, and its object is one this module holds. -/
theorem performArrival_obj {s : State} {n : Nat} {a : Arrival} {o : ObjName} (occ : s.occ = .num n)
    (at' : s.arrivals[n]? = some a) (obj : a.target = .obj o)
    (stores : ∀ c, s.member? a.who = some c → ∀ e ∈ c.releasing, a.stores ≤ e.id) :
    performArrival s = ({ s with arrivals := s.arrivals.eraseIdx n } : State).arriveAt a o := by
  have ready : arrivalReady s a = true := by
    simp only [arrivalReady, obj, Bool.and_true]
    cases member : s.member? a.who with
    | none => rfl
    | some c => simpa using stores c member
  simp only [performArrival, occ, at', ready, if_true, obj]

section

variable {s : State} {a : Arrival} {o : ObjName} {b r : Barrier} {k : Nat} (near : o.scope ≠ 5) (found : s.objAt a.who o = b)
  (arrived : b.arrive a.amount.toNat = (r, k))
include near found arrived

/-- An arrival at an object that is not a pod's and counts down no counter. -/
theorem arriveAt_plain (handle : b.handle = none) : s.arriveAt a o = s.setObj a.who o r := by
  simp only [State.arriveAt, podRoot_of_scope_ne near, ne_eq, not_true, if_false, near, decide_false, Bool.false_and,
    Bool.false_eq_true, found, arrived, handle]

/-- An arrival at an object that is not a pod's: each phase that ends sends a decrement. -/
theorem arriveAt_counted {va : VAddr} (handle : b.handle = some va) :
    s.arriveAt a o = (s.setObj a.who o r).completions a va k := by
  simp only [State.arriveAt, podRoot_of_scope_ne near, ne_eq, not_true, if_false, near, decide_false, Bool.false_and,
    Bool.false_eq_true, found, arrived, handle]

end

/-- Settles O28: the arrival is the object's own, and a decrement is on its way for each phase it ends. -/
theorem barrierArrivalAdvancesPhase : Obligations.BarrierArrivalAdvancesPhase := by
  unfold Obligations.BarrierArrivalAdvancesPhase
  intro s n a o b occ at'
  constructor
  · intro obj stores scope core context same exp k
    refine ⟨_, congrArg Host.Outcome.next (performArrival_obj occ at' obj stores), ?_⟩
    have near : o.scope ≠ 5 := by rintro five; simp [five] at scope
    let s' : State := { s with arrivals := s.arrivals.eraseIdx n }
    let after : Barrier := { b with
      cnt := BitVec.ofNat 24 ((b.cnt.toNat + a.amount.toNat) % b.exp.toNat), phase := b.phase + BitVec.ofNat 16 k }
    have arrived : b.arrive a.amount.toNat = (after, k) := by simp only [Barrier.arrive, if_neg exp]; rfl
    have holds : (s'.setObj a.who o after).objAt a.who o = after := objAt_setObj core fun one two => context (by
      simp at scope; omega)
    obtain ⟨mem, arrivals⟩ := setObj_mem_arrivals s' a.who o after
    have found : s'.objAt a.who o = b := same
    rcases Option.eq_none_or_eq_some b.handle with handle | ⟨va, handle⟩
    · rw [arriveAt_plain near found arrived handle]
      refine ⟨holds, arrivals.trans ?_, mem⟩
      rw [handle]
      exact (List.append_nil _).symm
    · rw [arriveAt_counted near found arrived handle]
      refine ⟨holds, ?_, mem⟩
      rw [handle]
      exact congrArg (· ++ _) arrivals
  · intro va target waits
    have early : arrivalReady s a = false := by
      simp only [arrivalReady, target, State.quietBefore, Bool.and_eq_false_iff]
      rcases waits with ⟨c, member, out⟩ | ⟨x, mem, c, member, out⟩
      · exact .inr (.inl (.inl (by simp [member, out])))
      · refine .inr (.inl (.inr (List.all_eq_false.mpr ⟨x, mem, ?_⟩)))
        simp [member, out]
    simp only [exec, execBarrierArrival, performArrival, occ, at', early, Bool.false_eq_true, if_false]
    rfl

/-! ### Instructions (R198 to R203) -/

theorem tokenPassed_eq {p : BitVec 16} {x : Word} {d : Nat} (h : d = (p.toNat + 2 ^ 16 - x.toNat % 2 ^ 16) % 2 ^ 16) :
    tokenPassed p (x.setWidth 16) = (decide (1 ≤ d ∧ d < 2 ^ 15), decide (2 ≤ d ∧ d < 2 ^ 15)) := by
  have e : (p - x.setWidth 16).toNat = d := by
    rw [BitVec.toNat_sub, BitVec.toNat_setWidth]
    omega
  simp only [tokenPassed, e, Bool.decide_and]

theorem arriveAmount_eq (sa : BitVec 6) (c : Core) :
    arriveAmount sa c = if sa = 0 then 1 else BitVec.ofNat 32 ((c.rs sa).toNat % 2 ^ 24) := by
  unfold arriveAmount
  split
  · rfl
  · apply BitVec.eq_of_toNat_eq
    simp [bits]

/-- An explicit arrival, whatever the arrivals of the slot. -/
theorem arrives_of_effect {i : Instr} {s : State} {x : ArrTarget} {n : BitVec 32} {y : State → ArrTarget}
    {m : State → BitVec 32} (h : Runs i s) (he : exec i s = issue i (fun u => u.arriveNow (y u) (m u)) s)
    (hy : ∀ l, y (withArrs s l) = x) (hm : ∀ l, m (withArrs s l) = n) :
    Does i s (if n = 0 then s
      else { s with arrivals := s.arrivals ++ [⟨s.core.id, s.core.who, x, n, s.core.nextId, s.core.nextId, []⟩] }) := by
  refine does_of_effect h he (fun l => ?_) (by split <;> rfl) (by split <;> rfl)
  rw [hy, hm]
  unfold State.arriveNow
  split <;> rfl

/-- An object is usable after it is prepared, and no other is by that (R199). -/
theorem mem_prepare (c : Core) (o q : ObjName) : q ∈ (c.prepare o).usable ↔ q = o ∨ q ∈ c.usable := by
  by_cases h : q = o <;> simp [Core.prepare, h]

/-- BARI at an object this module holds and no pod shares. -/
theorem bariEffect_near {o : ObjName} (near : o.scope ≠ 5) (sa : BitVec 6) (e : Bool) (h : BitVec 3) (s : State) :
    bariEffect o sa e h s = (s.onCore fun c => c.prepare o).setObj s.core.who o (bariObject sa e h s.core) := by
  simp only [bariEffect, podRoot_of_scope_ne near, if_true, near, if_false]
  rfl

/-- A core that keeps its task and its objects names the same ones. -/
theorem obj_onCore {s : State} {f : Core → Core} (who : (f s.core).who = s.core.who) (bars : (f s.core).bars = s.core.bars)
    (o : ObjName) : (s.onCore f).obj o = s.obj o := by
  have member := member?_who (s.onCore f)
  unfold State.obj State.objAt
  rw [member, member?_who, Option.map_some, Option.map_some, show (s.onCore f).core.bars = s.core.bars from bars,
    show (s.onCore f).core.who = s.core.who from who]
  rfl

/-- Writing an object changes no more of the core than its objects. -/
theorem setObj_core_bars (s : State) (o : ObjName) (b : Barrier) :
    ∃ bars, (s.setObj s.core.who o b).core = { s.core with bars := bars } := by
  by_cases one : o.scope.toNat = 1
  · rw [setObj_core b one]
    unfold Core.setBar State.onCore
    dsimp only
    split
    · exact ⟨_, rfl⟩
    · exact ⟨s.core.bars, rfl⟩
  · refine ⟨s.core.bars, ?_⟩
    unfold State.setObj
    split
    · exact absurd ‹_› one
    · rfl
    · rfl

/-- What WAIT writes (R203). -/
def waitResult (kd : BitVec 4) (o : ObjName) (sb : BitVec 6) (s : State) : ResVal :=
  let r := tokenPassed (s.obj o).phase ((s.core.rs sb).setWidth 16)
  .k kd (statusMask r.1 r.2) (BitVec.allOnes 256)

theorem who_asid (c : Core) : c.who.asid = c.asid := by
  unfold Core.who Core.asid
  cases c.task <;> rfl

/-- An object that is prepared and written, with what that leaves alone. -/
theorem prepared_bari {s : State} {o : ObjName} {b : Barrier} (index : o.scope.toNat = 1 → o.index.toNat < 8)
    (context : o.scope.toNat ≠ 1 → o.scope.toNat ≠ 2 → (s.context? s.core.asid).isSome) :
    let u := (s.onCore fun c => c.prepare o).setObj s.core.who o b
    u.obj o = b ∧ (∃ bars, u.core = { s.core.prepare o with bars := bars }) ∧ u.mem = s.mem ∧ u.arrivals = s.arrivals := by
  obtain ⟨bars, core⟩ := setObj_core_bars (s.onCore fun c => c.prepare o) o b
  obtain ⟨mem, arrivals⟩ := setObj_mem_arrivals (s.onCore fun c => c.prepare o) s.core.who o b
  refine ⟨?_, ⟨bars, core⟩, mem, arrivals⟩
  have who := (congrArg Core.who core :)
  refine (congrArg (fun w => State.objAt _ w o) who).trans (objAt_setObj (fun one => ⟨index one, rfl⟩) fun one two => ?_)
  rw [who_asid]
  exact context one two

/-- Settles O27: an object that this module holds is written as BARI says, and is found so by its task. -/
theorem barrierInstructionEffects : Obligations.BarrierInstructionEffects := by
  unfold Obligations.BarrierInstructionEffects
  intro s kd o sa e h c p t d amount sent
  refine ⟨?wait, ?arrive, ?arriveHandle, ?bari, ?bariFar, ?bariAtt⟩ <;> intro runs
  case wait =>
    have passed := tokenPassed_eq (p := (s.obj o).phase) (x := c.rs sa) (d := d) rfl
    refine sends_of_effect (w := fun s => waitResult kd o sa s) runs rfl (fun l => ?_) (fun _ => rfl) fun _ => rfl
    rw [waitResult, show (withArrs s l).obj o = s.obj o from
      obj_onCore (f := fun c => { c with arrs := l }) rfl rfl o, show (withArrs s l).core.rs sa = c.rs sa from rfl, passed]
  case arrive => exact arrives_of_effect runs rfl (fun _ => rfl) fun _ => arriveAmount_eq sa c
  case arriveHandle => exact arrives_of_effect runs rfl (fun _ => rfl) fun _ => arriveAmount_eq sa c
  case bari =>
    intro scope
    have near : o.scope ≠ 5 := by rintro five; simp [five] at scope
    have form : o.ok = true := (runs_encoding runs).1
    have run : exec (.bari o sa e h) s = .next _ := issue_runs runs.1 runs.2
    rw [bariEffect_near near] at run
    refine ⟨_, run, ?_⟩
    obtain ⟨object, ⟨bars, core⟩, mem, arrivals⟩ := prepared_bari (o := o) (b := bariObject sa e h s.core)
      (s := s.onCore fun c => c.addArrivals (.bari o sa e h)) (fun one => by simpa [ObjName.ok, one] using form) fun one two => by
        rcases scope with scope | ⟨-, context⟩
        · simp at scope; omega
        · exact context
    let g : Core → Core := fun c => { c with gws := regWrites (.bari o sa e h) ++ c.gws, slot := c.slot + 1 }
    have usable : ∀ q, (Core.usableObj (State.onCore _ g).core q) = ((c.prepare o).usable.contains q) := fun q =>
      congrArg (fun c => Core.usableObj c q) core
    refine ⟨(usable o).trans ?_, (obj_onCore (f := g) rfl rfl o).trans (object.trans ?_), fun q ne => (usable q).trans ?_,
      mem, arrivals, (congrArg Core.s core :), (congrArg Core.inflight core :)⟩
    · exact List.contains_iff_mem.mpr ((mem_prepare c o o).mpr (.inl rfl))
    · have low : bits (c.rs sa) 0 24 = BitVec.ofNat 24 (c.rs sa).toNat := by
        apply BitVec.eq_of_toNat_eq
        simp [bits]
      rw [← low]
      rfl
    · rw [Bool.eq_iff_iff, List.contains_iff_mem, mem_prepare]
      exact (or_iff_right ne).trans List.contains_iff_mem.symm
  case bariFar =>
    intro far
    refine ⟨(c.prepare o).usable, does_of_effect runs rfl fun l => ?_, fun q => mem_prepare c o q⟩
    exact if_neg far
  case bariAtt => exact ⟨(c.prepare o).usable, does_of_effect runs rfl fun _ => rfl, fun q => mem_prepare c o q⟩

end Sys2Proof.BarrierProofs
end

section
/-! PROOFS. Tokens, status, handles, the end of a task and its requests (R205, R206, R211 to R219). -/

namespace Sys2Proof.SyncProofs

open Sys2Proof Sys2Proof.Machine Sys2Proof.Claim Sys2Proof.EncodingProofs Sys2Proof.ScalarControlProofs
open Sys2Proof.CommandProofs Sys2Proof.ReleaseProofs

/-! ### Tokens and words -/

-- Memory is bounded and each thread holds some: what stands before is checked before more is begun.
set_option Elab.async false in
theorem tokReady_eq (t : BitVec 16) : tokReady t = (bits t 14 2 = 0 || bits t 14 2 = 2 : Bool) := by
  have two : ∀ x : BitVec 2, (!(x == 1) && !(x == 3)) = (decide (x = 0) || decide (x = 2)) := by decide
  exact two _

theorem handleWord_eq (x : Word) :
    handleWord x = if x = 0 then 0 else BitVec.ofNat 64 (2 ^ 63 + x.toNat % 2 ^ 56) := by
  unfold handleWord
  split
  · rfl
  · apply BitVec.eq_of_toNat_eq
    have top : (1#1 ++ 0#7 ++ bits x 0 56 : Word) = 128#8 ++ bits x 0 56 := rfl
    have low : (bits x 0 56).toNat = x.toNat % 2 ^ 56 := by simp [bits]
    have lt : x.toNat % 2 ^ 56 < 2 ^ 56 := Nat.mod_lt _ (by decide)
    rw [top, BitVec.toNat_append, low, ← Nat.shiftLeft_add_eq_or_of_lt lt, Nat.shiftLeft_eq]
    simp only [BitVec.toNat_ofNat]
    omega

/-- The fields of PSTATQ's word (R211). -/
theorem phaseStatus_fields (x : Context) :
    let w := phaseStatus (some x)
    BitVec.extractLsb' 0 6 w = x.cur ∧ w.getLsbD 6 = x.tip ∧ BitVec.extractLsb' 7 6 w = x.tgt ∧
      BitVec.extractLsb' 13 3 w = x.eng.code ∧ (BitVec.extractLsb' 16 2 w).toNat = x.pass % 4 ∧
      w.getLsbD 18 = x.flt ∧ BitVec.extractLsb' 19 8 w = x.fcode ∧
      (BitVec.extractLsb' 32 24 w).toNat = x.prem % 2 ^ 24 := by
  refine ⟨?_, ?_, ?_, ?_, ?_, ?_, ?_, ?_⟩
  · change bits (phaseStatus (some x)) 0 6 = _
    simp [phaseStatus, bits_append_of_add_le]
  · change bitOf (phaseStatus (some x)) 6 = _
    simp [phaseStatus, bitOf_append]
  · change bits (phaseStatus (some x)) 7 6 = _
    simp [phaseStatus, bits_append_of_le, bits_append_of_add_le]
  · change bits (phaseStatus (some x)) 13 3 = _
    simp [phaseStatus, bits_append_of_le, bits_append_of_add_le]
  · change (bits (phaseStatus (some x)) 16 2).toNat = _
    simp [phaseStatus, bits_append_of_le, bits_append_of_add_le]
  · change bitOf (phaseStatus (some x)) 18 = _
    simp [phaseStatus, bitOf_append]
  · change bits (phaseStatus (some x)) 19 8 = _
    simp [phaseStatus, bits_append_of_le, bits_append_of_add_le]
  · change (bits (phaseStatus (some x)) 32 24).toNat = _
    simp [phaseStatus, bits_append_of_le, bits_append_of_add_le]

/-! ### Messages of a core -/

theorem launch_withArrs (s : State) (l : List PendArr) (m : Msg) : (withArrs s l).launch m = withArrs (s.launch m) l := by
  have mid : (withArrs s l).freeMid m.src = s.freeMid m.src := rfl
  unfold State.launch
  rw [mid]
  split <;> rfl

/-- The arrivals of a slot are no part of what a message does. -/
theorem sendMsg_withArrs (s : State) (l : List PendArr) (m : Msg) : (withArrs s l).sendMsg m = withArrs (s.sendMsg m) l :=
  launch_withArrs { s with net := _ } l _

theorem sendMsg_core (s : State) (m : Msg) : (s.sendMsg m).core = s.core := by
  obtain ⟨n, f, e⟩ := onNet_sendMsg s m
  rw [e]

theorem completeToken_arrs (c : Core) (i : BitVec 6) (x : BitVec 16) (l : List PendArr) :
    Core.completeToken { c with arrs := l } i x = { c.completeToken i x with arrs := l } := by
  unfold Core.completeToken
  rw [setToken_arrs]
  split <;> rfl

/-- A task's request is in the message that brings it (R219). -/
theorem callMsg_call (r : SvcReq) (h : r.stamp = 0) : (callMsg r).call = r := by
  obtain ⟨core, recVa, gidx, tok, code, arg, asid, stamp⟩ := r
  cases h
  have va : (callMsg ⟨core, recVa, gidx, tok, code, arg, asid, 0⟩).data.take 8 = bytesOfNat 8 recVa.toNat :=
    List.take_left' (length_bytesOfNat ..)
  have word : (callMsg ⟨core, recVa, gidx, tok, code, arg, asid, 0⟩).data.drop 8 = bytesOfNat 8 arg.toNat :=
    List.drop_left' (length_bytesOfNat ..)
  have recVaOf : BitVec.ofNat 56 (natOfBytes (bytesOfNat 8 recVa.toNat)) = recVa := by
    rw [natOfBytes_bytesOfNat, Nat.mod_eq_of_lt (recVa.isLt.trans (by decide))]
    simp
  have argOf : BitVec.ofNat 64 (natOfBytes (bytesOfNat 8 arg.toNat)) = arg := by
    rw [natOfBytes_bytesOfNat, Nat.mod_eq_of_lt (arg.isLt.trans_le (by decide))]
    simp
  rw [Msg.call, va, word, recVaOf, argOf]
  simp [callMsg, Msg.bare']

theorem taskCode_iff (code : BitVec 10) : taskCode code = true ↔ code.toNat ∈ [0x008, 0x00A, 0x00C] := by
  simp [taskCode, ← BitVec.toNat_inj, or_assoc]

/-- Settles O29: each is its effect; the words and the message are concatenations that are read back. -/
theorem tokenStatusAndTaskEffects : Obligations.TokenStatusAndTaskEffects := by
  unfold Obligations.TokenStatusAndTaskEffects
  constructor
  · intro s kd a sd mask scope h c st
    refine ⟨?ttest, ?fence, ?pstatq, ?hset⟩ <;> intro runs
    case ttest =>
      refine sends_of_effect runs rfl (fun l => ?_) (fun _ => rfl) fun _ => rfl
      show ResVal.k kd (statusMask (tokReady (c.token a)) (tokIsFaulted (c.token a))) _ = _
      rw [tokReady_eq]
      rfl
    case fence => exact does_of_effect runs rfl fun _ => rfl
    case pstatq =>
      intro x hx
      refine ⟨phaseStatus (some x), sends_of_effect runs rfl (fun l => ?_) (fun _ => rfl) fun _ => rfl,
        phaseStatus_fields x⟩
      exact congrArg (fun y => ResVal.s sd (phaseStatus y)) hx
    case hset => exact sends_of_effect runs rfl (fun l => congrArg (ResVal.h h) (handleWord_eq _)) (fun _ => rfl) fun _ => rfl
  · intro s f sa tko code c req
    refine ⟨?tend, ?live, ?notify, ?svc, ?msg, ?refused⟩
    case msg =>
      refine ⟨callMsg_call _ rfl, rfl, rfl, rfl, ?_⟩
      simp only [callMsg, Msg.bare', servicePort]
      split <;> decide
    all_goals intro runs
    case tend => exact does_of_effect runs rfl fun _ => rfl
    case live => exact does_of_effect runs rfl fun _ => rfl
    case notify => exact does_of_effect runs rfl fun _ => rfl
    case svc =>
      intro allowed
      have code := (taskCode_iff code).mpr allowed
      refine does_of_effect runs rfl (fun l => ?_) ((congrArg Core.gws (sendMsg_core ..)).trans (Core.setToken_gws ..))
        ((congrArg Core.slot (sendMsg_core ..)).trans (Core.setToken_slot ..))
      rw [svcEffect, if_pos code, ← sendMsg_withArrs]
      simp only [State.onCore, setToken_arrs]
      rfl
    case refused =>
      intro refused
      have code : ¬ taskCode code = true := fun h => refused ((taskCode_iff code).mp h)
      refine does_of_effect runs rfl (fun l => ?_) (Core.completeToken_gws ..) (Core.completeToken_slot ..)
      rw [svcEffect, if_neg code]
      simp only [State.onCore, completeToken_arrs]
      rfl

end Sys2Proof.SyncProofs
end

section
/-! PROOFS. The phase instructions by the state of their transition (R208 to R210, R252). -/

namespace Sys2Proof.PhaseProofs

open Sys2Proof Sys2Proof.Machine Sys2Proof.Claim Sys2Proof.ScalarControlProofs

/-! ### A context that alone has its ASID -/

section Alone

variable {s : State} {a : BitVec 16} {x : Context}

theorem asid_of_context (h : s.context? a = some x) : x.asid = a := by
  have := List.find?_some h
  simpa using this

/-- Changing the contexts of an ASID that one context alone has changes that context. -/
theorem contexts_updContext (alone : ∀ z ∈ s.contexts, z.asid = x.asid → z = x) (f : Context → Context) :
    (s.updContext x.asid f).contexts = s.contexts.map fun z => if z.asid = x.asid then f x else z := by
  refine List.map_congr_left fun z mem => ?_
  split
  · next same => rw [alone z mem same]
  · rfl

theorem contexts_unchanged (alone : ∀ z ∈ s.contexts, z.asid = x.asid → z = x) :
    (s.contexts.map fun z => if z.asid = x.asid then x else z) = s.contexts := by
  refine (List.map_congr_left fun z mem => ?_).trans (List.map_id _)
  split
  · next same => exact (alone z mem same).symm
  · rfl

/-- The module with other contexts for an ASID. -/
theorem updContext_eq (alone : ∀ z ∈ s.contexts, z.asid = x.asid → z = x) (f : Context → Context) :
    s.updContext x.asid f = { s with contexts := s.contexts.map fun z => if z.asid = x.asid then f x else z } := by
  rw [← contexts_updContext alone]
  rfl

end Alone

/-! ### What PADV finds (R209) -/

section Stage

variable {s : State} {tko n : BitVec 6} {x : Context}

/-- The core of a PADV that begins to wait on the transition numbered `k`. -/
def padvWaits (tko n : BitVec 6) (k : Nat) (c : Core) : Core :=
  { c.setToken tko tokBusy with padvWait := some 1, padvFor := k, padvTgt := n, padvEnd := .none }

/-- The first cycle of a wait is never the last one of its limit. -/
theorem padvHold_first (first : s.core.padvWait = none) (k : Nat) :
    padvHold s tko n k = .wait (s.onCore (padvWaits tko n k)) := by
  have early : ¬ (s.core.plim ≠ 0 ∧ 256 * s.core.plim.toNat ≤ 1) := by
    rintro ⟨ne, le⟩
    exact ne (BitVec.eq_of_toNat_eq (by simp; omega))
  simp only [padvHold, first, Option.getD_none, Nat.zero_add, early, if_false, State.onCore, Option.isNone_none, if_true]
  rfl

section First

variable (hx : s.context? s.core.asid = some x) (first : s.core.padvWait = none)
include hx first

/-- CUR is the target already. -/
theorem padvStage_here (cur : x.cur = n) : padvStage tko n s = .done := by
  simp only [padvStage, hx, first, Option.isSome_none, Bool.false_eq_true, if_false, beq_iff_eq, cur, if_true]

/-- No transition toward the target is under way: one starts. -/
theorem padvStage_other (cur : x.cur ≠ n) (other : ¬ (x.tip = true ∧ x.tgt = n)) :
    padvStage tko n s = .wait ((s.updContext x.asid fun _ => (x.abandon).start n).onCore (padvWaits tko n (x.trans + 1))) := by
  have start := padvHold_first (s := s.updContext x.asid fun _ => x.abandon.start n) (tko := tko) (n := n) first
    (x.abandon.start n).trans
  simp only [padvStage, hx, first, Option.isSome_none, Bool.false_eq_true, if_false, beq_iff_eq, cur, Bool.and_eq_true, other,
    start]
  rfl

variable (cur : x.cur ≠ n) (tip : x.tip = true) (tgt : x.tgt = n)
include cur tip tgt

theorem padvStage_cut (complete : x.eng = .complete) (quiet : x.heldBack = []) : padvStage tko n s = .cut := by
  simp only [padvStage, hx, first, Option.isSome_none, Bool.false_eq_true, if_false, beq_iff_eq, cur, Bool.and_eq_true, tip,
    tgt, and_self, if_true, complete, quiet, List.all_nil]

theorem padvStage_faulted (faulted : x.eng = .faulted) :
    padvStage tko n s = .trap ⟨.phaseFault, BitVec.ofNat 64 (n.toNat + 256 * x.fcode.toNat)⟩ := by
  simp only [padvStage, hx, first, Option.isSome_none, Bool.false_eq_true, if_false, beq_iff_eq, cur, Bool.and_eq_true, tip,
    tgt, and_self, if_true, faulted]

/-- The transition toward the target is under way. -/
theorem padvStage_under (on : x.eng ≠ .complete) (going : x.eng ≠ .faulted) :
    padvStage tko n s = .wait (s.onCore (padvWaits tko n x.trans)) := by
  rw [← padvHold_first first]
  cases eng : x.eng
  case complete => exact absurd eng on
  case faulted => exact absurd eng going
  all_goals
    simp only [padvStage, hx, first, Option.isSome_none, Bool.false_eq_true, if_false, beq_iff_eq, cur, Bool.and_eq_true, tip,
      tgt, and_self, if_true, eng]

end First

theorem padvStage_met (hx : s.context? s.core.asid = some x) {w : Nat} (waits : s.core.padvWait = some w)
    (met : s.core.padvEnd = .met) : padvStage tko n s = .done := by
  simp only [padvStage, hx, waits, Option.isSome_some, if_true, met]

theorem padvStage_waitFaulted (hx : s.context? s.core.asid = some x) {w : Nat} (waits : s.core.padvWait = some w)
    {code : BitVec 8} (faulted : s.core.padvEnd = .faulted code) :
    padvStage tko n s = .trap ⟨.phaseFault, BitVec.ofNat 64 (n.toNat + 256 * code.toNat)⟩ := by
  simp only [padvStage, hx, waits, Option.isSome_some, if_true, faulted]

end Stage

section Padv

variable {s u : State} {tko r n : BitVec 6} {rf : Bool} (runs : Runs (.padv tko rf r n) s) (fresh : s.core.phasesMade = 0)
include runs fresh

theorem exec_padv_wait (h : padvStage tko (phaseTarget rf r n s.core) s = .wait u) :
    exec (.padv tko rf r n) s = .next u.hold := by
  show execPadv tko rf r n s = _
  rw [execPadv, fresh, if_neg (Nat.lt_irrefl 0), runs.1]
  simp only [h]

theorem exec_padv_trap {t : TrapCond} (h : padvStage tko (phaseTarget rf r n s.core) s = .trap t) :
    exec (.padv tko rf r n) s = .next (s.takeTrap t s.core.slotPos) := by
  show execPadv tko rf r n s = _
  rw [execPadv, fresh, if_neg (Nat.lt_irrefl 0), runs.1]
  simp only [h]

/-- A PADV that neither waits nor traps issues. -/
theorem exec_padv_issue (h : padvStage tko (phaseTarget rf r n s.core) s = .done ∨
      padvStage tko (phaseTarget rf r n s.core) s = .cut) :
    exec (.padv tko rf r n) s = issue (.padv tko rf r n) (padvEffect tko rf r n) s := by
  show execPadv tko rf r n s = _
  rw [execPadv, fresh, if_neg (Nat.lt_irrefl 0), runs.1]
  rcases h with h | h <;> simp only [h]

end Padv

/-! ### What PADV does (R209) -/

section Effect

variable {s u : State} {tko r n : BitVec 6} {rf : Bool} {x : Context} (hx : s.context? s.core.asid = some x)
include hx

theorem padvEffect_done (h : padvStage tko (phaseTarget rf r n s.core) s = .done) :
    padvEffect tko rf r n s = (s.onCore fun c => { c.completeToken tko (tokDone 0) with padvWait := none }).updContext x.asid
      fun y => if s.core.padvWait.isNone && y.cur = phaseTarget rf r n s.core && y.tip then y.abandon else y := by
  simp only [padvEffect, hx, h]

theorem padvEffect_cut (h : padvStage tko (phaseTarget rf r n s.core) s = .cut) :
    padvEffect tko rf r n s = (s.onCore fun c => { c.setToken tko tokBusy with padvWait := none }).updContext x.asid
      fun y => { y with eng := .cutting, padvs := y.padvs ++ [(s.core.who, tko)] } := by
  have who : Core.who { s.core.setToken tko tokBusy with padvWait := none } = s.core.who := by
    show (match (s.core.setToken tko tokBusy).task with | some t => _ | none => _) = _
    rw [Core.setToken_task]
    rfl
  simp only [padvEffect, hx, h, State.onCore, who]

end Effect

/-- A PADV that issues, with the bookkeeping of its issue. -/
theorem exec_padv_next {s : State} {tko r n : BitVec 6} {rf : Bool} (runs : Runs (.padv tko rf r n) s)
    (fresh : s.core.phasesMade = 0) (h : padvStage tko (phaseTarget rf r n s.core) s = .done ∨
      padvStage tko (phaseTarget rf r n s.core) s = .cut) :
    exec (.padv tko rf r n) s = .next ((padvEffect tko rf r n (withArrs s
      (s.core.addArrivals (.padv tko rf r n)).arrs)).onCore fun c =>
        { c with gws := regWrites (.padv tko rf r n) ++ c.gws, slot := c.slot + 1 }) :=
  (exec_padv_issue runs fresh h).trans (issue_runs runs.1 runs.2)

/-- The tokens of a core after a PADV set its own. -/
def TokenSet (c d : Core) (tko : BitVec 6) (v : BitVec 16) : Prop :=
  (tko ≠ 63 → d.token tko = v) ∧ ∀ j, j ≠ tko → d.token j = c.token j

theorem tokenSet_of_setToken {b c d : Core} {tko : BitVec 6} {v : BitVec 16} (h : d.tokens = (b.setToken tko v).tokens)
    (same : b.tokens = c.tokens := by rfl) : TokenSet c d tko v := by
  have tok : ∀ j, d.token j = (b.setToken tko v).token j := fun j => by simp only [Core.token, h]
  have old : ∀ j, b.token j = c.token j := fun j => by simp only [Core.token, same]
  constructor
  · intro ne
    rw [tok, Core.token_setToken, if_pos ⟨rfl, ne⟩]
  · intro j ne
    rw [tok, Core.token_setToken, if_neg fun h => ne h.1, old]

theorem completeToken_tokens (c : Core) (i : BitVec 6) (v : BitVec 16) :
    (c.completeToken i v).tokens = (c.setToken i v).tokens := by
  unfold Core.completeToken
  dsimp only
  split <;> rfl

/-- What no phase operation changes: memory, the registers, the results in flight. -/
def Unmoved (s u : State) : Prop := u.mem = s.mem ∧ u.core.s = s.core.s ∧ u.core.k = s.core.k ∧ u.core.v = s.core.v ∧
  u.core.acc = s.core.acc ∧ u.core.inflight = s.core.inflight

theorem setToken_regs (c : Core) (i : BitVec 6) (v : BitVec 16) : let d := c.setToken i v
    d.s = c.s ∧ d.k = c.k ∧ d.v = c.v ∧ d.acc = c.acc ∧ d.inflight = c.inflight :=
  ⟨Core.setToken_s .., Core.setToken_k .., Core.setToken_v .., Core.setToken_acc .., Core.setToken_inflight ..⟩

theorem completeToken_regs (c : Core) (i : BitVec 6) (v : BitVec 16) : let d := c.completeToken i v
    d.s = c.s ∧ d.k = c.k ∧ d.v = c.v ∧ d.acc = c.acc ∧ d.inflight = c.inflight :=
  ⟨Core.completeToken_s .., Core.completeToken_k .., Core.completeToken_v .., Core.completeToken_acc ..,
    Core.completeToken_inflight ..⟩

theorem tokDone_zero : tokDone 0 = 0x8000 := by decide

section Cases

variable {s : State} {tko r n : BitVec 6} {rf : Bool} {x : Context} (hx : s.context? s.core.asid = some x)
  (alone : ∀ z ∈ s.contexts, z.asid = x.asid → z = x) (runs : Runs (.padv tko rf r n) s) (fresh : s.core.phasesMade = 0)
include hx alone runs fresh

/-- A PADV that is done. -/
theorem padv_done (here : padvStage tko (phaseTarget rf r n s.core) s = .done)
    (there : ∀ l, padvStage tko (phaseTarget rf r n s.core) (withArrs s l) = .done) :
    ∃ u, exec (.padv tko rf r n) s = .next u ∧ TokenSet s.core u.core tko 0x8000 ∧ Unmoved s u ∧
      (u.contexts = s.contexts.map fun z => if z.asid = x.asid then
        if s.core.padvWait.isNone && x.cur = phaseTarget rf r n s.core && x.tip then x.abandon else x else z) ∧
      u.core.padvWait = none ∧ u.core.slot = s.core.slot + 1 := by
  refine ⟨_, exec_padv_next runs fresh (.inl here), ?_⟩
  generalize (s.core.addArrivals (.padv tko rf r n)).arrs = l
  have contexts := contexts_updContext alone fun y =>
    if s.core.padvWait.isNone && y.cur = phaseTarget rf r n s.core && y.tip then y.abandon else y
  rw [padvEffect_done (s := withArrs s l) hx (there l), ← tokDone_zero, State.updContext, State.onCore, State.onCore]
  have tokens := completeToken_tokens (withArrs s l).core tko (tokDone 0)
  have regs := completeToken_regs (withArrs s l).core tko (tokDone 0)
  have slot := Core.completeToken_slot (withArrs s l).core tko (tokDone 0)
  generalize (withArrs s l).core.completeToken tko (tokDone 0) = d at tokens regs slot ⊢
  exact ⟨tokenSet_of_setToken tokens, ⟨rfl, regs⟩, contexts, rfl, congrArg (· + 1) slot⟩

/-- A PADV that cuts. -/
theorem padv_cut (here : padvStage tko (phaseTarget rf r n s.core) s = .cut)
    (there : ∀ l, padvStage tko (phaseTarget rf r n s.core) (withArrs s l) = .cut) :
    ∃ u, exec (.padv tko rf r n) s = .next u ∧ TokenSet s.core u.core tko 0x4000 ∧ Unmoved s u ∧
      (u.contexts = s.contexts.map fun z => if z.asid = x.asid then
        { x with eng := .cutting, padvs := x.padvs ++ [(s.core.who, tko)] } else z) ∧
      u.core.slot = s.core.slot + 1 := by
  refine ⟨_, exec_padv_next runs fresh (.inr here), ?_⟩
  generalize (s.core.addArrivals (.padv tko rf r n)).arrs = l
  have contexts := contexts_updContext alone fun y => { y with eng := .cutting, padvs := y.padvs ++ [(s.core.who, tko)] }
  rw [padvEffect_cut (s := withArrs s l) hx (there l), State.updContext, State.onCore, State.onCore]
  have regs := setToken_regs (withArrs s l).core tko tokBusy
  have slot := Core.setToken_slot (withArrs s l).core tko tokBusy
  have tokens : TokenSet s.core ((withArrs s l).core.setToken tko tokBusy) tko tokBusy := tokenSet_of_setToken rfl
  generalize (withArrs s l).core.setToken tko tokBusy = d at tokens regs slot ⊢
  exact ⟨tokens, ⟨rfl, regs⟩, contexts, congrArg (· + 1) slot⟩

omit hx alone in
/-- A PADV that begins to wait, on the transition numbered `k` of a context. -/
theorem padv_wait {v : State} {k : Nat} (core : v.core = s.core) (mem : v.mem = s.mem)
    (here : padvStage tko (phaseTarget rf r n s.core) s = .wait (v.onCore (padvWaits tko (phaseTarget rf r n s.core) k))) :
    ∃ u, exec (.padv tko rf r n) s = .next u ∧ TokenSet s.core u.core tko 0x4000 ∧ Unmoved s u ∧
      u.contexts = v.contexts ∧ u.core.padvWait = some 1 ∧ u.core.padvTgt = phaseTarget rf r n s.core ∧
      u.core.padvFor = k ∧ u.core.padvEnd = .none ∧ u.core.slot = s.core.slot := by
  refine ⟨_, exec_padv_wait runs fresh here, ?_⟩
  rw [State.onCore, padvWaits, core, State.hold]
  have regs := setToken_regs s.core tko tokBusy
  have slot := Core.setToken_slot s.core tko tokBusy
  have tokens : TokenSet s.core (s.core.setToken tko tokBusy) tko tokBusy := tokenSet_of_setToken rfl
  generalize s.core.setToken tko tokBusy = d at tokens regs slot ⊢
  exact ⟨tokens, ⟨mem, regs⟩, rfl, rfl, rfl, rfl, rfl, slot⟩

end Cases

/-- Settles O30: each row of the tables is one case of what the operation finds. -/
theorem phaseInstructionEffects : Obligations.PhaseInstructionEffects := by
  unfold Obligations.PhaseInstructionEffects
  intro s kd tko r rf n x c t with' gone begun busy token same hx alone
  have own := asid_of_context hx
  refine ⟨?pnext, ?first, ?waited, ?pcancel, ?made⟩
  case pnext =>
    intro runs
    have effect : ∀ l, pnextEffect kd rf r n (withArrs s l) = ((withArrs s l).updContext x.asid fun _ => (pnextOn x t).1).status
        (.pnext kd rf r n) kd (pnextOn x t).2 false := fun l => by
      simp only [pnextEffect, show (withArrs s l).context? (withArrs s l).core.asid = some x from hx]
      rfl
    have kept : ∀ l, (withArrs s l).updContext x.asid (fun _ => x) = withArrs s l := fun l => by
      rw [updContext_eq (s := withArrs s l) alone]
      exact congrArg (fun z => { withArrs s l with contexts := z }) (contexts_unchanged alone)
    by_cases tip : x.tip = true
    · rw [if_pos tip]
      refine does_of_effect runs rfl fun l => (effect l).trans ?_
      rw [pnextOn, if_pos tip, kept]
      rfl
    by_cases cur : x.cur = t
    · rw [if_neg tip, if_pos cur]
      refine does_of_effect runs rfl fun l => (effect l).trans ?_
      rw [pnextOn, if_neg tip, if_pos cur, kept]
      rfl
    · rw [if_neg tip, if_neg cur]
      refine does_of_effect runs rfl fun l => (effect l).trans ?_
      rw [pnextOn, if_neg tip, if_neg cur]
      rfl
  case first =>
    intro runs fresh first
    refine ⟨fun cur => ?done, fun cur tip tgt complete quiet => ?cut, fun cur other => ?start,
      fun cur tip tgt on going => ?wait, fun cur tip tgt faulted => ?trap⟩
    case done =>
      obtain ⟨u, run, tok, unmoved, contexts, -, slot⟩ := padv_done hx alone runs fresh (padvStage_here hx first cur) fun l =>
        padvStage_here (s := withArrs s l) hx first cur
      refine ⟨u, run, tok, unmoved, contexts.trans ?_, slot⟩
      simp only [show s.core.padvWait = none from first, show x.cur = phaseTarget rf r n s.core from cur]
      cases x.tip <;> rfl
    case cut =>
      exact padv_cut hx alone runs fresh (padvStage_cut hx first cur tip tgt complete quiet) fun l =>
        padvStage_cut (s := withArrs s l) hx first cur tip tgt complete quiet
    case start =>
      obtain ⟨u, run, tok, unmoved, contexts, rest⟩ := padv_wait
        (v := s.updContext x.asid fun _ => x.abandon.start t) runs fresh rfl rfl (padvStage_other hx first cur other)
      exact ⟨u, run, tok, unmoved, contexts.trans (contexts_updContext alone _), rest⟩
    case wait => exact padv_wait (v := s) runs fresh rfl rfl (padvStage_under hx first cur tip tgt on going)
    case trap =>
      exact ⟨_, _, exec_padv_trap runs fresh (padvStage_faulted hx first cur tip tgt faulted), rfl, rfl, rfl, rfl, rfl, rfl⟩
  case waited =>
    intro runs fresh w waits
    constructor
    · intro met
      obtain ⟨u, run, tok, unmoved, contexts, rest⟩ := padv_done hx alone runs fresh (padvStage_met hx waits met) fun l =>
        padvStage_met (s := withArrs s l) hx waits met
      refine ⟨u, run, tok, unmoved, contexts.trans ?_, rest⟩
      rw [show s.core.padvWait = _ from waits]
      exact contexts_unchanged alone
    · intro code faulted
      exact ⟨_, _, exec_padv_trap runs fresh (padvStage_waitFaulted hx waits faulted), rfl, rfl, rfl, rfl, rfl⟩
  case pcancel =>
    intro runs fresh
    have effect : (if x.tip then with' (gone x) else s) = s.updContext x.asid fun y => if y.tip then y.abandon else y := by
      rw [updContext_eq alone]
      cases tip : x.tip with
      | true => rfl
      | false => exact (congrArg (fun l => { s with contexts := l }) (contexts_unchanged alone)).symm
    rw [effect]
    refine does_of_effect runs rfl fun l => (if_neg fun made => absurd fresh made.ne').trans ?_
    rw [own]
    rfl
  case made =>
    rintro i (rfl | rfl) runs made
    · exact does_of_effect runs rfl fun l => if_pos made
    · have run : exec (.padv tko rf r n) s = issue (.padv tko rf r n) phaseIssued s := if_pos made
      exact does_of_effect runs run fun l => rfl

end Sys2Proof.PhaseProofs
end

section
/-! PROOFS. TSPAWN (R214, R313). -/

namespace Sys2Proof.SpawnProofs

open Sys2Proof Sys2Proof.Machine Sys2Proof.Claim Sys2Proof.ScalarControlProofs Sys2Proof.BarrierProofs

/-- A reservation of the focused task that waits for earlier commands is not written yet. -/
theorem flushSpawns_waiting {s : State} {q : Queue} {r : Reserved} (queues : s.sched.queues = [q]) (one : q.reserved = [r])
    (who : r.who = s.core.who) (out : s.core.outstandingBefore r.before = true) : s.flushSpawns = s := by
  have due : s.reservedDue r = false := by
    rw [State.reservedDue, who, member?_who]
    simp [out]
  rw [State.flushSpawns, queues, List.foldl_cons, List.foldl_nil, one]
  simp [due]

/-- The queue after TSPAWN takes its next entry. -/
def spawned (c : Core) (sb : BitVec 6) (q : Queue) : Queue :=
  { q with tail := q.tail + 1, reserved := q.reserved ++ [⟨q.tail, c.who, (c.rs sb).setWidth 56, c.nextId⟩] }

section

variable {s : State} {kd : BitVec 4} {sa sb : BitVec 6} {q : Queue} (one : s.sched.queues = [q])
  (named : q.qid = (s.core.rs sa).setWidth 14)
include one named

theorem queue?_named : s.queue? ((s.core.rs sa).setWidth 14) = some q := by
  simp [State.queue?, one, named]

theorem tspawn_refused (h : q.rsz ≤ (q.tail - q.head).toNat ∨ q.closing = true ∨ q.refuse = true) :
    tspawnEffect kd sa sb s = s.status (.tspawn kd sa sb) kd false true := by
  have refused : (decide (q.rsz ≤ (q.tail - q.head).toNat) || q.closing || q.refuse) = true := by
    simpa [or_assoc] using h
  simp only [tspawnEffect, queue?_named one named, refused, if_true]

theorem tspawn_reserves (room : (q.tail - q.head).toNat < q.rsz) (closing : q.closing = false) (refuse : q.refuse = false)
    (out : s.core.outstandingBefore s.core.nextId = true) (none : q.reserved = []) :
    tspawnEffect kd sa sb s =
      ({ s with sched := { s.sched with queues := [spawned s.core sb q] } } : State).status (.tspawn kd sa sb) kd true false := by
  have open' : (decide (q.rsz ≤ (q.tail - q.head).toNat) || q.closing || q.refuse) = false := by
    rw [closing, refuse, decide_eq_false (Nat.not_le_of_lt room)]
    rfl
  have queues : s.updQueue ((s.core.rs sa).setWidth 14) (spawned s.core sb) =
      { s with sched := { s.sched with queues := [spawned s.core sb q] } } := by
    rw [State.updQueue, one, List.map_cons, List.map_nil, if_pos named]
  simp only [tspawnEffect, queue?_named one named, open', Bool.false_eq_true, if_false]
  show ((s.updQueue _ (spawned s.core sb)).status _ _ _ _).flushSpawns = _
  rw [queues]
  refine flushSpawns_waiting (q := spawned s.core sb q) (r := ⟨q.tail, s.core.who, (s.core.rs sb).setWidth 56, s.core.nextId⟩)
    rfl ?_ rfl out
  rw [spawned, none]
  rfl

end

/-- Settles O31: while earlier commands are outstanding the reservation is not written. -/
theorem tspawnReservesAnEntry : Obligations.TspawnReservesAnEntry := by
  unfold Obligations.TspawnReservesAnEntry
  intro s kd sa sb q c room runs one named
  constructor
  · intro hasRoom closing refuse out none
    have run : exec (.tspawn kd sa sb) s = .next _ := issue_runs runs.1 runs.2
    rw [tspawn_reserves (s := s.onCore fun c => c.addArrivals _) one named hasRoom closing refuse out none] at run
    refine ⟨_, run, ⟨_, List.mem_singleton.mpr rfl, rfl, rfl, rfl, ?_⟩, ⟨_, List.mem_append_right _ (List.mem_singleton.mpr rfl),
      rfl, rfl⟩, rfl, rfl⟩
    rw [spawned, none]
    rfl
  · intro full
    refine does_of_effect runs rfl fun l => (tspawn_refused (s := withArrs s l) one named ?_).trans rfl
    rcases full with full | closed
    · exact .inl (Nat.le_of_not_lt full)
    · exact .inr closed

end Sys2Proof.SpawnProofs
end

section
/-! PROOFS. What a checkpoint commits, and what the stores it releases, the posts and the entries that follow change of
the core (R27, R28, R74, R77, R78). -/

namespace Sys2Proof.CheckpointProofs

open Sys2Proof Sys2Proof.Machine Sys2Proof.Claim Sys2Proof.ReleaseProofs

/-! ### What follows a commit -/

/-- No page of a context has a second frame. -/
def Unmirrored (s : State) : Prop := ∀ x ∈ s.contexts, x.mirrored = []

/-- What the stores that leave the store buffer, and the posts and ring entries that follow, change of the module: of the
core its accumulator, what it still has to release, the arrivals and posts made, and tokens where a second copy fails;
of the scheduler no pool. -/
structure Settles (s t : State) : Prop where
  core : ∃ acc words arrs releasing tok shadowTok e posts, t.core = { s.core with
      acc := acc, poisonedWords := words, arrs := arrs, releasing := releasing, tokens := tok
      shadow := { s.core.shadow with tokens := shadowTok }, padvEnd := e, posts := posts } ∧
    ((∀ p ∈ s.core.arrs, p.held = false) → ∀ p ∈ arrs, p.held = false) ∧
    ((∀ p ∈ s.core.posts, p.committed = true) → ∀ p ∈ posts, p.committed = true)
  pools : t.sched.pools = s.sched.pools
  tokens : Unmirrored s → Unmirrored t ∧ t.core.tokens = s.core.tokens ∧ t.core.shadow.tokens = s.core.shadow.tokens

section Settles

variable {s t u : State}

/-- A change that leaves the core, the pools and the contexts alone. -/
theorem Settles.of_eq (core : t.core = s.core) (pools : t.sched.pools = s.sched.pools) (contexts : t.contexts = s.contexts) :
    Settles s t where
  core := ⟨_, _, _, _, _, _, _, _, core, id, id⟩
  pools := pools
  tokens h := ⟨fun x mem => h x (contexts ▸ mem), by rw [core], by rw [core]⟩

theorem Settles.refl (s : State) : Settles s s := .of_eq rfl rfl rfl

theorem Settles.trans (h : Settles s t) (h' : Settles t u) : Settles s u where
  core := by
    obtain ⟨acc, words, arrs, rel, tok, shadowTok, e, posts, core, held, committed⟩ := h.core
    obtain ⟨acc', words', arrs', rel', tok', shadowTok', e', posts', core', held', committed'⟩ := h'.core
    rw [core] at core' held' committed'
    exact ⟨acc', words', arrs', rel', tok', shadowTok', e', posts', core', fun h => held' (held h),
      fun h => committed' (committed h)⟩
  pools := h'.pools.trans h.pools
  tokens m := by
    obtain ⟨m', tok, shadowTok⟩ := h.tokens m
    obtain ⟨m'', tok', shadowTok'⟩ := h'.tokens m'
    exact ⟨m'', tok'.trans tok, shadowTok'.trans shadowTok⟩

theorem settles_foldl {β : Type} {g : State → β → State} (h : ∀ s b, Settles s (g s b)) (l : List β) (s : State) :
    Settles s (l.foldl g s) := by
  induction l generalizing s with
  | nil => exact .refl s
  | cons b l ih => exact (h s b).trans (ih _)

theorem settles_updQueue (s : State) (q : BitVec 14) (f : Queue → Queue) : Settles s (s.updQueue q f) := .of_eq rfl rfl rfl

/-! #### Stores -/

theorem pools_updMember (s : State) (w : Member) (f : Core → Core) : (s.updMember w f).sched.pools = s.sched.pools := by
  unfold State.updMember
  split
  · unfold State.updCore
    split <;> rfl
  · rfl

theorem pools_foldl {β : Type} {g : State → β → State} (h : ∀ s b, (g s b).sched.pools = s.sched.pools) (l : List β)
    (s : State) : (l.foldl g s).sched.pools = s.sched.pools := by
  induction l generalizing s with
  | nil => rfl
  | cons b l ih => exact (ih _).trans (h s b)

theorem pools_faultTransition (s : State) (a : BitVec 16) (code : BitVec 8) (v : VAddr) :
    (s.faultTransition a code v).sched.pools = s.sched.pools := by
  unfold State.faultTransition
  split
  · rfl
  · split
    · rfl
    · exact pools_foldl (fun s p => pools_updMember ..) _ _

theorem pools_secondCopy (s : State) (a : BitVec 16) (n : Nat) (m : PageMove) (l : List (Nat × Byte)) :
    (s.secondCopy a n m l).sched.pools = s.sched.pools := by
  unfold State.secondCopy State.secondFails
  split
  · split
    · rfl
    · split
      · exact pools_faultTransition ..
      · rfl
  · obtain ⟨n, f, e⟩ := onNet_couchWrite s a _ _ _
    rw [e]
  · rfl

theorem pools_store (s : State) (l : List (Nat × Byte)) : (s.store l).sched.pools = s.sched.pools := by
  refine pools_foldl (fun s x => pools_foldl (fun s m => ?_) _ _) _ _
  unfold State.mirrorOut
  dsimp only
  split
  · rfl
  · exact pools_secondCopy ..

/-- What a write marks of a context is no mirror. -/
theorem mirrored_markDirty {x : Context} (h : x.mirrored = []) (l : List (Nat × Byte)) : (markDirty x l).mirrored = [] := by
  simp only [Context.mirrored, List.append_eq_nil_iff, List.filter_eq_nil_iff] at h ⊢
  refine ⟨fun m mem => ?_, h.2⟩
  obtain ⟨m', mem', rfl⟩ := List.mem_map.mp mem
  dsimp only
  split
  · exact h.1 m' mem'
  · exact h.1 m' mem'

/-- Without mirrors a store writes its cells and marks what is dirty. -/
theorem store_of_unmirrored (h : Unmirrored s) (l : List (Nat × Byte)) :
    s.store l = { s.poke l with contexts := s.contexts.map fun x => markDirty x l } := by
  unfold State.store
  rw [mirrorAll_nil h]
  have none : ∀ (c : List Context) (t : State), (∀ x ∈ c, x.mirrored = []) → c.foldl (fun (t : State) x =>
      x.mirrored.foldl (fun (t : State) m => t.mirrorOut x.asid (x.transOf m) m l) t) t = t := by
    intro c
    induction c with
    | nil => exact fun _ _ => rfl
    | cons x c ih =>
      intro t h
      rw [List.foldl_cons, h x List.mem_cons_self]
      exact ih t fun y mem => h y (List.mem_cons_of_mem _ mem)
  exact none _ _ h

theorem settles_store (s : State) (l : List (Nat × Byte)) : Settles s (s.store l) where
  core := by
    obtain ⟨tok, shadowTok, e, core⟩ := onTokens_store s l
    exact ⟨_, _, _, _, tok, shadowTok, e, _, core, id, id⟩
  pools := pools_store s l
  tokens h := by
    rw [store_of_unmirrored h]
    refine ⟨fun x mem => ?_, rfl, rfl⟩
    obtain ⟨y, hy, rfl⟩ := List.mem_map.mp mem
    exact mirrored_markDirty (h y hy) l

theorem settles_writeOrHold (s : State) (l : List (Nat × Byte)) : Settles s (s.writeOrHold l) := by
  unfold State.writeOrHold
  dsimp only
  split <;> split
  · exact .refl s
  · exact settles_store ..
  · exact .of_eq rfl rfl rfl
  · exact (settles_store s _).trans (.of_eq rfl rfl rfl)

theorem settles_writeVa (s : State) (a : BitVec 16) (v : Nat) (l : List Byte) : Settles s ((s.writeVa a v l).getD s) := by
  unfold State.writeVa
  split
  · exact settles_writeOrHold ..
  · exact .refl s

theorem settles_setField (s : State) (a : BitVec 16) (v n x : Nat) : Settles s (s.setField a v n x) := settles_writeVa ..

/-! #### Releases, posts, ring entries -/

theorem settles_performStore (s : State) (e : StoreEntry) : Settles s (s.performStore e) := by
  refine .trans (t := { s with core := (s.core.setAcc e.elems).retire (.store e.id) }) ?_ (settles_store ..)
  refine ⟨⟨_, _, _, _, _, _, _, _, rfl, fun h p mem => ?_, id⟩, rfl, fun h => ⟨h, rfl, rfl⟩⟩
  obtain ⟨q, hq, rfl⟩ := List.mem_map.mp mem
  have := h q hq
  split <;> exact this

theorem settles_releaseFrom (l : List StoreEntry) (s : State) : Settles s (State.releaseFrom l s) := by
  induction l generalizing s with
  | nil => exact ⟨⟨_, _, _, _, _, _, _, _, rfl, id, id⟩, rfl, fun h => ⟨h, rfl, rfl⟩⟩
  | cons e l ih =>
    rw [State.releaseFrom]
    split
    · exact ⟨⟨_, _, _, _, _, _, _, _, rfl, id, id⟩, rfl, fun h => ⟨h, rfl, rfl⟩⟩
    · exact (settles_performStore s e).trans (ih _)

theorem settles_makeArrivals (s : State) : Settles s s.makeArrivals :=
  ⟨⟨_, _, _, _, _, _, _, _, rfl, fun h p mem => h p (List.mem_of_mem_filter mem), id⟩, rfl, fun h => ⟨h, rfl, rfl⟩⟩

theorem settles_post (s : State) (q : BitVec 14) (value : Word) (recVa : VAddr) : Settles s (s.post q value recVa) := by
  unfold State.post
  split
  · exact .refl s
  · split
    · exact (settles_writeVa ..).trans (settles_updQueue ..)
    · split
      · exact settles_updQueue ..
      · exact (settles_updQueue ..).trans (.of_eq rfl rfl rfl)

/-- The first posts leave the core. -/
theorem settles_dropPosts (s : State) (n : Nat) :
    Settles s { s with core := { s.core with posts := s.core.posts.drop n } } :=
  ⟨⟨_, _, _, _, _, _, _, _, rfl, id, fun h p mem => h p (List.mem_of_mem_drop mem)⟩, rfl, fun h => ⟨h, rfl, rfl⟩⟩

theorem settles_flushPosts (s : State) : Settles s s.flushPosts := by
  unfold State.flushPosts
  dsimp only
  split
  · exact settles_dropPosts ..
  · exact (settles_dropPosts ..).trans (settles_foldl (fun s p => settles_post ..) _ _)

theorem settles_linkAll (l : List PoolEntry) (s : State) : Settles s (s.linkAll l) := by
  induction l generalizing s with
  | nil => exact .refl s
  | cons e l ih =>
    rw [State.linkAll]
    refine .trans ?_ (ih _)
    unfold State.setLink
    split
    · exact .refl s
    · exact settles_setField ..

theorem settles_bindTo (s : State) (q : BitVec 14) (n : Nat) : Settles s (s.bindTo q n) := by
  unfold State.bindTo State.relink
  extract_lets t
  exact .trans (t := { t with sched := { t.sched with nextStamp := t.sched.nextStamp + 1 } }) (.of_eq rfl rfl rfl)
    (settles_linkAll ..)

theorem settles_bindQueue (s : State) (q : BitVec 14) : Settles s (s.bindQueue q) := by
  unfold State.bindQueue
  split
  · exact .refl s
  · split
    · exact .refl s
    · split
      · exact .refl s
      · split
        · exact settles_bindTo ..
        · split
          · exact (settles_updQueue ..).trans (settles_bindTo ..)
          · exact .of_eq rfl rfl rfl

theorem settles_flushSpawns (s : State) : Settles s s.flushSpawns := by
  refine settles_foldl (fun s q => ?_) _ s
  dsimp only
  split
  · exact .refl s
  · exact ((settles_foldl (fun s r => settles_setField ..) _ s).trans (settles_updQueue ..)).trans (settles_bindQueue ..)

/-- A checkpoint, and what follows its commit. -/
theorem settles_checkpoint (s : State) : Settles { s with core := s.core.commit } s.checkpoint :=
  ((settles_releaseFrom ..).trans (settles_makeArrivals _)).trans (settles_flushPosts _)

end Settles

/-! ### The tiles that commands take as they are released (R21) -/

/-- A command takes its tile if it may. -/
def takeTile (c : Core) (q : Cmd) : Core :=
  match q.tile? with
  | some (t, fill) =>
    if q.released && !q.tileTaken && !TileE.busy (c.tile t) && !c.tileReadBit t && !c.tileWriteBit t then
      let c := c.setTile t (if fill then TileE.filling else TileE.draining) q.f.tko
      { c with queue := c.queue.map fun p => if p.id = q.id then { p with tileTaken := true } else p }
    else c
  | none => c

theorem takeTiles_eq (c : Core) : c.takeTiles = c.queue.foldl takeTile c := rfl

/-- What taking tiles never touches. -/
theorem takeTiles_get {α : Type} (get : Core → α) (c : Core)
    (h : ∀ (c : Core) tiles shadow queue, get { c with tiles := tiles, shadow := shadow, queue := queue } = get c := by
      intros; rfl) : get c.takeTiles = get c := by
  have step : ∀ c q, get (takeTile c q) = get c := fun c q => by
    unfold takeTile
    split
    · split
      · exact h c _ _ _
      · rfl
    · rfl
  rw [takeTiles_eq]
  generalize c.queue = l
  induction l generalizing c with
  | nil => rfl
  | cons q l ih => rw [List.foldl_cons, ih, step]

theorem released_takeTiles {c : Core} (h : ∀ q ∈ c.queue, q.released = true) : ∀ q ∈ c.takeTiles.queue, q.released = true := by
  have step : ∀ (c : Core) q, (∀ p ∈ c.queue, p.released = true) → ∀ p ∈ (takeTile c q).queue, p.released = true := by
    intro c q h p mem
    unfold takeTile at mem
    split at mem
    · split at mem
      · obtain ⟨p', mem', rfl⟩ := List.mem_map.mp mem
        rw [Core.setTile_queue] at mem'
        have := h p' mem'
        split <;> exact this
      · exact h p mem
    · exact h p mem
  have all : ∀ (l : List Cmd) (c : Core), (∀ p ∈ c.queue, p.released = true) →
      ∀ p ∈ (l.foldl takeTile c).queue, p.released = true := by
    intro l
    induction l with
    | nil => exact fun _ h => h
    | cons q l ih => exact fun c h => ih _ (step c q h)
  exact all c.queue c h

theorem tile_takeTiles {c : Core} {n : BitVec 7} (h : ∀ q ∈ c.queue, ∀ fill, q.tile? ≠ some (n, fill)) :
    c.takeTiles.tile n = c.tile n := by
  rw [takeTiles_eq]
  generalize c.queue = l at h ⊢
  induction l generalizing c with
  | nil => rfl
  | cons q l ih =>
    rw [List.foldl_cons, ih fun p mem => h p (List.mem_cons_of_mem _ mem)]
    unfold takeTile
    split
    · next t fill takes =>
      split
      · refine (Core.tile_setTile ..).trans (if_neg ?_)
        rintro rfl
        exact h q List.mem_cons_self fill takes
      · rfl
    · rfl

/-! ### The commit (R74) -/

/-- The core as a commit leaves it before its commands take tiles. -/
def released (c : Core) : Core := { c with
  fpc := c.stores.foldl (fun f (e : StoreEntry) => orFpc f e.flags) c.fpc
  releasing := c.releasing ++ c.stores
  stores := []
  frozenSince := false
  narrowSince := false
  queue := c.queue.map fun (q : Cmd) => { q with released := true }
  arrs := c.arrs.map PendArr.release
  posts := c.posts.map fun (p : Post) => { p with committed := true }
  fences := (c.fences.filter fun (f : Fence) => c.outstandingBefore f.after).map fun (f : Fence) =>
    { f with committed := true } }

theorem commit_eq (c : Core) :
    c.commit = { (released c).takeTiles with shadow := (released c).takeTiles.snapshot } := rfl

/-- What a commit leaves of the core, and what the shadow set copies. -/
theorem commit_get {α : Type} (get : Core → α)
    (h : ∀ (c : Core) tiles shadow queue, get { c with tiles := tiles, shadow := shadow, queue := queue } = get c := by
      intros; rfl) (c : Core) : get c.commit = get (released c) := by
  have e := takeTiles_get get (released c) h
  rw [commit_eq, ← e]
  exact h _ (released c).takeTiles.tiles _ (released c).takeTiles.queue

theorem released_fpc (c : Core) : (released c).fpc =
    c.stores.foldl (fun (f : BitVec 13) (e : StoreEntry) => f ||| (e.flags ++ 0#8)) c.fpc := rfl

/-- What a commit leaves, and what follows it does not change. -/
theorem settled_get {α : Type} (get : Core → α) {s t : State} (h : Settles { s with core := s.core.commit } t)
    (tiles : ∀ (c : Core) tiles shadow queue, get { c with tiles := tiles, shadow := shadow, queue := queue } = get c := by
      intros; rfl)
    (rest : ∀ (c : Core) acc words arrs rel tok shadow e posts, get { c with
        acc := acc, poisonedWords := words, arrs := arrs, releasing := rel, tokens := tok, shadow := shadow, padvEnd := e
        posts := posts } = get c := by intros; rfl) :
    get t.core = get (released s.core) := by
  obtain ⟨acc, words, arrs, rel, tok, shadowTok, e, posts, core, -⟩ := h.core
  rw [core, rest]
  exact commit_get get tiles s.core

/-- What the shadow set copies at a commit. -/
theorem settled_copy {α : Type} (get : Shadow → α) (get' : Core → α) {s t : State}
    (h : Settles { s with core := s.core.commit } t) (copies : ∀ c : Core, get c.snapshot = get' c := by intros; rfl)
    (rest : ∀ (h : Shadow) tok, get { h with tokens := tok } = get h := by intros; rfl)
    (tiles : ∀ (c : Core) tiles shadow queue, get' { c with tiles := tiles, shadow := shadow, queue := queue } = get' c := by
      intros; rfl) : get t.core.shadow = get' (released s.core) := by
  obtain ⟨acc, words, arrs, rel, tok, shadowTok, e, posts, core, -⟩ := h.core
  rw [core, ← takeTiles_get get' (released s.core) tiles, ← copies]
  exact rest _ _

/-- A task whose run fits goes on where no other task waits (R321). -/
theorem arbitrate_stays {s : State} {r : Nat} (pool : s.pool (coreDie s.core.id) = [])
    (fits : (s.core.grpc - s.core.grpcStart).toNat + r ≤ s.core.slice ∨ s.core.task = none) : ∃ slice start,
    arbitrate s r = s.onCore fun c => { c with declared := r, sinceYield := 0, slice := slice, grpcStart := start } := by
  have idle : (s.onCore fun c => { c with declared := r, sinceYield := 0 }).dispatchAll 256 (coreDie s.core.id) =
      s.onCore fun c => { c with declared := r, sinceYield := 0 } := by
    rw [State.dispatchAll, if_pos]
    exact List.isEmpty_iff.mpr pool
  unfold arbitrate
  rw [idle]
  dsimp only
  split
  · exact ⟨s.core.slice, s.core.grpcStart, rfl⟩
  · next task =>
    split
    · exact ⟨s.core.slice, s.core.grpcStart, rfl⟩
    · split
      · exact ⟨s.core.slice, s.core.grpcStart, rfl⟩
      · split
        · exact ⟨_, _, rfl⟩
        · have le := fits.resolve_right fun none => by
            have some : s.core.task = some _ := task
            rw [none] at some
            cases some
          exact ⟨s.core.slice, s.core.grpcStart, (if_pos le).trans rfl⟩

/-- Settles O36: what follows the commit changes none of what it has copied. -/
theorem checkpointsAndYieldPointsCommit : Obligations.CheckpointsAndYieldPointsCommit := by
  unfold Obligations.CheckpointsAndYieldPointsCommit
  constructor
  · intro s
    have h : Settles _ s.checkpoint.flushSpawns := (settles_checkpoint s).trans (settles_flushSpawns _)
    refine ⟨s.checkpoint.flushSpawns, rfl, ?_⟩
    generalize s.checkpoint.flushSpawns = t at h
    refine ⟨settled_copy Shadow.s Core.s h, settled_copy Shadow.k Core.k h, settled_copy Shadow.v Core.v h,
      settled_copy Shadow.cb Core.cb h, settled_copy Shadow.shape Core.shape h, ?tokens, settled_get Core.fpc h,
      (settled_copy Shadow.fpc Core.fpc h).trans (settled_get Core.fpc h).symm, settled_get Core.stat h,
      settled_copy Shadow.stat Core.stat h, ?tiles, ?tile, settled_copy Shadow.mdef Core.mdef h,
      settled_copy Shadow.plim Core.plim h, settled_copy Shadow.pc Core.pc h, settled_get Core.s h, settled_get Core.k h,
      settled_get Core.v h, settled_get Core.ckptc h, settled_get Core.stores h, ?queue, ?arrs, ?posts, settled_get Core.own h⟩
    case tokens =>
      intro unmirrored
      obtain ⟨-, tok, shadowTok⟩ := h.tokens unmirrored
      have kept : s.core.commit.tokens = s.core.tokens := commit_get Core.tokens (c := s.core)
      exact ⟨shadowTok.trans kept, tok.trans kept⟩
    all_goals obtain ⟨acc, words, arrs, rel, tok, shadowTok, e, posts, core, held, committed⟩ := h.core
    case tiles =>
      rw [core]
      rfl
    case tile =>
      intro n none
      rw [core]
      refine tile_takeTiles (c := released s.core) fun q mem => ?_
      obtain ⟨p, hp, rfl⟩ := List.mem_map.mp mem
      exact none p hp
    case queue =>
      rw [core]
      refine released_takeTiles (c := released s.core) fun q mem => ?_
      obtain ⟨p, -, rfl⟩ := List.mem_map.mp mem
      rfl
    case arrs =>
      rw [core]
      refine held fun p mem => ?_
      have arrs : s.core.commit.arrs = s.core.arrs.map PendArr.release := commit_get Core.arrs (c := s.core)
      rw [arrs] at mem
      obtain ⟨q, -, rfl⟩ := List.mem_map.mp mem
      rfl
    case posts =>
      rw [core]
      refine committed fun p mem => ?_
      have posts : s.core.commit.posts = s.core.posts.map fun (p : Post) => { p with committed := true } :=
        commit_get Core.posts (c := s.core)
      rw [posts] at mem
      obtain ⟨q, -, rfl⟩ := List.mem_map.mp mem
      rfl
  · intro s r mode occ fits pool
    have h : Settles _ s.checkpoint.flushSpawns := (settles_checkpoint s).trans (settles_flushSpawns _)
    have run : exec .yieldPoint s = .next (arbitrate s.checkpoint.flushSpawns r.toNat) := by
      show execYieldPoint s = _
      rw [execYieldPoint, mode, occ]
      rfl
    refine ⟨_, run, ?_⟩
    generalize s.checkpoint.flushSpawns = t at h
    obtain ⟨slice, start, stays⟩ := arbitrate_stays (s := t) (r := r.toNat)
      (by
        rw [settled_get Core.id h, State.pool, h.pools]
        exact pool)
      (by
        rw [settled_get Core.grpc h, settled_get Core.grpcStart h, settled_get Core.slice h, settled_get Core.task h]
        exact fits)
    rw [stays]
    have fpc := settled_get Core.fpc h
    refine ⟨rfl, rfl, (settled_get Core.mode h :).trans mode, (settled_get Core.stores h :), (settled_copy Shadow.s Core.s h :),
      (settled_get Core.s h :), fpc, (settled_copy Shadow.fpc Core.fpc h :).trans fpc.symm,
      (settled_copy Shadow.stat Core.stat h :), ?_, (settled_get Core.task h :)⟩
    obtain ⟨acc, words, arrs, rel, tok, shadowTok, e, posts, core, held, committed⟩ := h.core
    show t.core.shadow.tiles = t.core.tiles
    rw [core]
    rfl

end Sys2Proof.CheckpointProofs
end

section
/-! PROOFS. What lands at a group's start, and what its end does (R11 to R13, R18, R25, R29, R54, R69). -/

namespace Sys2Proof.LandingProofs

open Sys2Proof Sys2Proof.Machine Sys2Proof.Claim

section Land

/-- What no result that lands writes. -/
theorem landVal_get {α : Type} (get : Core → α) (c : Core) (r : ResVal)
    (h : ∀ (c : Core) s k v cb fpc shape mdef stat plim hs, get { c with
        s := s, k := k, v := v, cb := cb, fpc := fpc, shape := shape, mdef := mdef, stat := stat, plim := plim, handles := hs }
      = get c := by intros; rfl) : get (c.landVal r) = get c := by
  have same : ∀ d : Core, (∃ s k v cb fpc shape mdef stat plim hs, d = { c with
      s := s, k := k, v := v, cb := cb, fpc := fpc, shape := shape, mdef := mdef, stat := stat, plim := plim
      handles := hs }) → get d = get c := by
    rintro d ⟨s, k, v, cb, fpc, shape, mdef, stat, plim, hs, rfl⟩
    exact h ..
  refine same _ ?_
  cases r with
  | none => exact ⟨_, _, _, _, _, _, _, _, _, _, rfl⟩
  | s i x =>
    simp only [Core.landVal, Core.writeS]
    split <;> exact ⟨_, _, _, _, _, _, _, _, _, _, rfl⟩
  | k i x en =>
    simp only [Core.landVal, Core.writeK]
    split <;> exact ⟨_, _, _, _, _, _, _, _, _, _, rfl⟩
  | v i x en => exact ⟨_, _, _, _, _, _, _, _, _, _, rfl⟩
  | cb i x => exact ⟨_, _, _, _, _, _, _, _, _, _, rfl⟩
  | cr i x =>
    simp only [Core.landVal, Core.writeCr]
    split <;> exact ⟨_, _, _, _, _, _, _, _, _, _, rfl⟩
  | h i x => exact ⟨_, _, _, _, _, _, _, _, _, _, rfl⟩

/-- A row of a vector register after the bits `e` of a register are written (R13). -/
theorem vrow_rv_writeV (c : Core) (i j : BitVec 6) (x e : VReg) {r : Nat} (hr : r < 8) :
    vrow ((c.writeV i x e).rv j) r =
      if j = i then (vrow x r &&& vrow e r) ||| (vrow (c.rv j) r &&& ~~~(vrow e r)) else vrow (c.rv j) r := by
  rw [Core.rv_writeV]
  split
  · next same =>
    subst same
    have at' : ∀ y : VReg, vrow y r = y[r] := fun y => by simp [vrow, hr]
    simp only [at', Core.writeV, Core.rv, Vector.getElem_set_self, Vector.getElem_ofFn]
    exact BitVec.or_comm ..
  · rfl

/-- A codebook after a write (R18). -/
theorem rcb_writeCb (c : Core) (i j : BitVec 3) (x : BitVec 256) :
    (c.writeCb i x).rcb j = if j = i then x else c.rcb j := by
  by_cases h : j = i
  · subst h
    simp [Core.writeCb, Core.rcb]
  · have : i.toNat ≠ j.toNat := fun e => h (BitVec.eq_of_toNat_eq e).symm
    simp [Core.writeCb, Core.rcb, h, this]

/-- A handle after a write (R25). -/
theorem handle_writeHandle (c : Core) (i j : BitVec 3) (x : Word) :
    (c.writeHandle i x).handle j = if j = i then x else c.handle j := by
  by_cases h : j = i
  · subst h
    simp [Core.writeHandle, Core.handle]
  · have : i.toNat ≠ j.toNat := fun e => h (BitVec.eq_of_toNat_eq e).symm
    simp [Core.writeHandle, Core.handle, h, this]

/-- The writable control registers after a write (R29). -/
theorem writeCr_regs (c : Core) (i : BitVec 6) (x : Word) : let d := c.writeCr i.toNat x
    d.s = c.s ∧ d.k = c.k ∧ d.v = c.v ∧ d.cb = c.cb ∧ d.handles = c.handles ∧
      d.fpc = (if i = 0 then x.setWidth 13 else c.fpc) ∧ d.shape = (if i = 1 then x.setWidth 10 else c.shape) ∧
      d.mdef = (if i = 2 then x.setWidth 11 else c.mdef) ∧ d.plim = (if i = 8 then x.setWidth 32 else c.plim) ∧
      d.stat = (if i = 4 then x.setWidth 5 else c.stat) := by
  have named : ∀ (k : BitVec 6) (n : Nat), i.toNat = n → k.toNat = n → i = k := fun k n e e' =>
    BitVec.eq_of_toNat_eq (e.trans e'.symm)
  unfold Core.writeCr
  split
  · next e => simp [named 0 _ e rfl]
  · next e => simp [named 1 _ e rfl]
  · next e => simp [named 2 _ e rfl]
  · next e => simp [named 4 _ e rfl]
  · next e => simp [named 8 _ e rfl]
  · next n0 n1 n2 n4 n8 =>
    have other : ∀ (k : BitVec 6), ¬ i.toNat = k.toNat → i ≠ k := fun k ne e => ne (congrArg BitVec.toNat e)
    exact ⟨rfl, rfl, rfl, rfl, rfl, (if_neg (other 0 n0)).symm, (if_neg (other 1 n1)).symm, (if_neg (other 2 n2)).symm,
      (if_neg (other 8 n8)).symm, (if_neg (other 4 n4)).symm⟩

variable {c : Core} {v : ResVal} {n : Nat} {fl : Flags} {st : BitVec 5} {q : Nat}

/-- A lone result with groups to pass counts down. -/
theorem land_later (one : c.inflight = [⟨v, n, fl, st, q⟩]) (h : 1 < n) :
    c.land = { c with inflight := [⟨v, n - 1, fl, st, q⟩] } := by
  simp [Core.land, one, h]

/-- A lone result whose latency has passed lands. -/
theorem land_due (one : c.inflight = [⟨v, n, fl, st, q⟩]) (h : n ≤ 1) :
    c.land = { Core.landVal { c with inflight := [] } v with
      flagsDue := (Core.landVal { c with inflight := [] } v).flagsDue ||| fl
      stat := (Core.landVal { c with inflight := [] } v).stat ||| st } := by
  simp [Core.land, one, h]

/-- A group start outside a loop, on the core. -/
theorem groupStart_core {s : State} (loop : s.core.land.loop = none) : ∃ arrs,
    s.groupStart.core = { s.core.land with arrs := arrs, landed := true } := by
  have idle : s.core.land.loopIndices = s.core.land := by simp only [Core.loopIndices, loop]
  refine ⟨(s.core.land.countArrs.arrs).filter fun p => !p.due, ?_⟩
  unfold State.groupStart State.makeArrivals
  rw [idle]
  rfl

end Land

/-- Settles O37: the one result is the only write of its group start. -/
theorem resultsLandAtGroupStart : Obligations.ResultsLandAtGroupStart := by
  unfold Obligations.ResultsLandAtGroupStart
  constructor
  · intro s v n fl st q c one loop
    have kept : s.core.land.loop = none := by
      rcases Nat.lt_or_ge 1 n with later | due
      · rw [land_later one later]
        exact loop
      · rw [land_due one due]
        exact (landVal_get Core.loop _ v).trans loop
    obtain ⟨arrs, core⟩ := groupStart_core kept
    refine ⟨s.groupStart, rfl, by rw [core], rfl, ?_⟩
    rw [core]
    constructor
    · intro later
      rw [land_later one later]
      exact ⟨rfl, rfl, rfl, rfl, rfl, rfl, ⟨rfl, rfl, rfl, rfl⟩, rfl, rfl⟩
    · intro due
      rw [land_due one due]
      refine ⟨landVal_get Core.inflight _ v, congrArg (· ||| fl) (landVal_get Core.flagsDue _ v), ?_⟩
      cases v with
      | none => exact ⟨rfl, rfl, rfl, rfl, rfl, ⟨rfl, rfl, rfl, rfl⟩, rfl⟩
      | s i x =>
        refine ⟨fun j => Core.rs_writeS .., ?_⟩
        simp only [Core.landVal, Core.writeS]
        split <;> exact ⟨rfl, rfl, rfl, rfl, ⟨rfl, rfl, rfl, rfl⟩, rfl⟩
      | k i x en =>
        refine ⟨fun j => (Core.rk_writeK ..).trans ?_, ?_⟩
        · by_cases written : j = i ∧ i ≠ 0
          · obtain ⟨rfl, -⟩ := written
            exact if_congr Iff.rfl (BitVec.or_comm ..) rfl
          · rw [if_neg written, if_neg written]
            rfl
        · simp only [Core.landVal, Core.writeK]
          split <;> exact ⟨rfl, rfl, rfl, rfl, ⟨rfl, rfl, rfl, rfl⟩, rfl⟩
      | v i x en => exact ⟨fun j r hr => vrow_rv_writeV _ i j x en hr, rfl, rfl, rfl, rfl, ⟨rfl, rfl, rfl, rfl⟩, rfl⟩
      | cb i x => exact ⟨fun j => rcb_writeCb _ i j x, rfl, rfl, rfl, rfl, ⟨rfl, rfl, rfl, rfl⟩, rfl⟩
      | h i x => exact ⟨fun j => handle_writeHandle _ i j x, rfl, rfl, rfl, rfl, ⟨rfl, rfl, rfl, rfl⟩, rfl⟩
      | cr i x =>
        obtain ⟨hs, hk, hv, hcb, hh, hfpc, hshape, hmdef, hplim, hstat⟩ := writeCr_regs { s.core with inflight := [] } i x
        exact ⟨hs, hk, hv, hcb, hh, hfpc, hshape, hmdef, hplim, congrArg (· ||| st) hstat⟩
  · exact fun c => ⟨rfl, rfl, rfl, rfl, rfl⟩

end Sys2Proof.LandingProofs
end

section
/-! PROOFS. What a bundle boundary does to a group that may begin, or that must wait (R8, R66, R76, R209, R210). -/

namespace Sys2Proof.BoundaryProofs

open Sys2Proof Sys2Proof.Machine Sys2Proof.Claim Sys2Proof.PhaseProofs Sys2Proof.MemoryProofs

section Boundary

variable {s : State}

/-- A group without BARI waits for no pod object. -/
theorem podStage_ready {l : List (Nat × Bundle)} (h : ∀ p ∈ l, ∀ o, p.2.decode .sy ≠ .ok (.bariAtt o) ∧
    ∀ sa e h, p.2.decode .sy ≠ .ok (.bari o sa e h)) : podStage s l = .ready := by
  induction l with
  | nil => rfl
  | cons p l ih =>
    obtain ⟨pc, b⟩ := p
    have head := h _ List.mem_cons_self
    have rest := ih fun p mem => h p (List.mem_cons_of_mem _ mem)
    rw [podStage]
    split
    · exact rest
    · next pod =>
      refine absurd ?_ pod
      split
      · next i decoded => exact absurd decoded ((head _).2 _ _ _)
      · next decoded => exact absurd decoded (head _).1
      · rfl

/-- The bundles of a list, each with its place, are those of the list. -/
theorem podStage_ready_of_bundles {l : List Bundle} {k : Nat} (h : ∀ b ∈ l, ∀ o, b.decode .sy ≠ .ok (.bariAtt o) ∧
    ∀ sa e h, b.decode .sy ≠ .ok (.bari o sa e h)) :
    podStage s (l.zipIdx.map fun p => (k + p.2, p.1)) = .ready :=
  podStage_ready fun p mem => by
    obtain ⟨q, place, rfl⟩ := List.mem_map.1 mem
    exact h q.1 (List.fst_mem_of_mem_zipIdx place)

/-- Phase operations are made at a group's start. -/
theorem gpos_of_phases (h : bundleAction s = .phases) : s.core.gpos = 0 := by
  by_contra inside
  rw [bundleAction] at h
  simp only [Nat.pos_of_ne_zero inside, if_true] at h
  split at h
  · cases h
  · split at h <;> cases h

theorem boundary_hold (h : bundleAction s = .hold s.hold) : boundary s = s.hold := by
  simp only [boundary, h]

/-- A boundary where the group begins. -/
theorem boundary_go {irrev : Bool} (h : bundleAction s = .go irrev) (start : s.core.gpos = 0)
    (pods : podStage s ((groupBundles s.core 8 s.core.pc).zipIdx.map fun p => (s.core.pc + p.2, p.1)) = .ready) :
    boundary s = s.onCore fun c => c.begin irrev := by
  simp only [boundary, h, start, if_true, pods]

section Phases

variable (h : bundleAction s = .phases)
  (pods : podStage s ((groupBundles s.core 8 s.core.pc).zipIdx.map fun p => (s.core.pc + p.2, p.1)) = .ready)
include h pods

theorem boundary_phases_hold {t : State} (made : makePhases (pendingPhases s.core (groupBundles s.core 8 s.core.pc)) s =
    .hold t) : boundary s = t := by
  simp only [boundary, h, gpos_of_phases h, if_true, pods, made]

theorem boundary_phases_ready {t : State} (made : makePhases (pendingPhases s.core (groupBundles s.core 8 s.core.pc)) s =
    .ready t) : boundary s = t.onCore fun c => c.begin true := by
  simp only [boundary, h, gpos_of_phases h, if_true, pods, made]

end Phases

/-- The operations a boundary makes are PADV and PCANCEL. -/
theorem isPhase_of_pending {l : List (Nat × Instr)} {b : List Bundle} {pc : Nat} {i : Instr}
    (h : pendingPhases s.core b = (pc, i) :: l) : isPhase i = true := by
  have mem : (pc, i) ∈ pendingPhases s.core b := h ▸ List.mem_cons_self
  exact (List.mem_filter.1 (List.mem_of_mem_drop mem)).2

theorem phase_cases {i : Instr} (phase : isPhase i = true) : (∃ tko rf r n, i = .padv tko rf r n) ∨ i = .pcancel := by
  cases i <;> cases phase
  · exact .inl ⟨_, _, _, _, rfl⟩
  · exact .inr rfl

/-- A phase operation is held while its context is cutting. -/
theorem phaseHeld_of_cutting {i : Instr} (phase : isPhase i = true) (first : s.core.padvWait = none)
    (cutting : s.cutting s.core.asid = true) : phaseHeld i s = true := by
  obtain ⟨tko, rf, r, n, rfl⟩ | rfl := phase_cases phase
  · show (s.core.padvWait.isNone && (_ || s.cutting s.core.asid)) = true
    rw [first, cutting, Bool.or_true]
    rfl
  · exact cutting

theorem makePhases_held {i : Instr} {pc : Nat} {l : List (Nat × Instr)} (held : phaseHeld i s = true) :
    makePhases ((pc, i) :: l) s = .hold s.hold := if_pos held

theorem makePhases_pcancel {pc : Nat} (free : s.cutting s.core.asid = false) :
    makePhases [(pc, .pcancel)] s = .ready ((pcancelEffect s).onCore fun c => { c with phasesMade := c.phasesMade + 1 }) :=
  if_neg (ne_true_of_eq_false free)

/-- PCANCEL ends the transition of a context that alone has its ASID. -/
theorem pcancelEffect_eq {x : Context} (hx : s.context? s.core.asid = some x)
    (alone : ∀ z ∈ s.contexts, z.asid = x.asid → z = x) : pcancelEffect s = { s with
      contexts := if x.tip then s.contexts.map fun z => if z.asid = x.asid then x.abandon else z else s.contexts } := by
  rw [pcancelEffect, ← asid_of_context hx, updContext_eq alone]
  cases x.tip with
  | true => rfl
  | false => exact congrArg (fun l => { s with contexts := l }) (contexts_unchanged alone)

/-- A PADV that its boundary makes, whose table has it cut. -/
theorem makePhases_padv {pc : Nat} {tko r n : BitVec 6} {rf : Bool} (held : phaseHeld (.padv tko rf r n) s = false)
    (whole : outTrap s.core tko = []) (cut : padvStage tko (phaseTarget rf r n s.core) s = .cut) :
    makePhases [(pc, .padv tko rf r n)] s =
      .ready ((padvEffect tko rf r n s).onCore fun c => { c with phasesMade := c.phasesMade + 1 }) := by
  have step : makePhases [(pc, .padv tko rf r n)] s =
      (match (if s.core.padvWait.isNone then outTrap s.core tko else []) with
       | t :: _ => .trap t pc s
       | [] => match padvStage tko (phaseTarget rf r n s.core) s with
         | .wait u => .hold u.hold
         | .trap t => .trap t pc s
         | _ => .ready ((padvEffect tko rf r n s).onCore fun c => { c with phasesMade := c.phasesMade + 1 })) :=
    if_neg (ne_true_of_eq_false held)
  rw [step, whole, ite_self, cut]

/-- The state of a context's cut. -/
theorem cutting_eq {x : Context} (hx : s.context? s.core.asid = some x) :
    s.cutting s.core.asid = (x.eng == .cutting) := by
  rw [State.cutting, hx]
  rfl

/-- A token that is not busy and not faulted: a PADV with it is neither held for it nor trapped. -/
theorem padv_free {x : Context} {tko r n : BitVec 6} {rf : Bool} (hx : s.context? s.core.asid = some x)
    (still : x.eng ≠ .cutting) (idle : (s.core.token tko).toNat / 2 ^ 14 ≠ 1) :
    phaseHeld (.padv tko rf r n) s = false := by
  have notBusy : tokIsBusy (s.core.token tko) = false := by
    rw [tokIsBusy, beq_eq_false_iff_ne]
    intro busy
    have := congrArg BitVec.toNat busy
    simp [bits, Nat.shiftRight_eq_div_pow] at this
    omega
  have notCutting : s.cutting s.core.asid = false := by
    rw [cutting_eq hx, beq_eq_false_iff_ne]
    exact still
  show (s.core.padvWait.isNone && ((tko != 63 && tokIsBusy (s.core.token tko)) || s.cutting s.core.asid)) = false
  rw [notBusy, notCutting, Bool.and_false, Bool.or_false, Bool.and_false]

theorem outTrap_nil {tko : BitVec 6} (whole : (s.core.token tko).toNat / 2 ^ 14 ≠ 3) : outTrap s.core tko = [] := by
  refine if_neg fun faulted => whole ?_
  have := congrArg BitVec.toNat (beq_iff_eq.1 (Bool.and_eq_true_iff.1 faulted).2)
  simp [bits, Nat.shiftRight_eq_div_pow] at this
  omega

/-- What a boundary that makes a PADV's cut leaves. -/
theorem padv_cut_made {x : Context} {tko r n : BitVec 6} {rf : Bool} (hx : s.context? s.core.asid = some x)
    (alone : ∀ z ∈ s.contexts, z.asid = x.asid → z = x) (cut : padvStage tko (phaseTarget rf r n s.core) s = .cut)
    (ne : tko ≠ 63) :
    let u := ((padvEffect tko rf r n s).onCore fun c => { c with phasesMade := c.phasesMade + 1 }).onCore (·.begin true)
    u.core.token tko = 0x4000 ∧ u.mem = s.mem ∧ (u.contexts = s.contexts.map fun z => if z.asid = x.asid then
        { x with eng := .cutting, padvs := x.padvs ++ [(s.core.who, tko)] } else z) ∧
      u.core.phasesMade = s.core.phasesMade + 1 ∧ u.core.passed = true ∧ u.core.grpIrrev = true ∧
      u.core.s = s.core.s := by
  let cs := s.contexts.map fun z => if z.asid = x.asid then
    { x with eng := .cutting, padvs := x.padvs ++ [(s.core.who, tko)] } else z
  obtain ⟨d, effect, told, count, scalars⟩ : ∃ d : Core, padvEffect tko rf r n s = { s with core := d, contexts := cs } ∧
      d.token tko = 0x4000 ∧ d.phasesMade = s.core.phasesMade ∧ d.s = s.core.s := by
    have tokens : TokenSet s.core (s.core.setToken tko tokBusy) tko tokBusy := tokenSet_of_setToken rfl
    refine ⟨{ s.core.setToken tko tokBusy with padvWait := none }, ?_, tokens.1 ne, ?_, (setToken_regs s.core tko tokBusy).1⟩
    · refine (padvEffect_cut hx cut).trans ?_
      have contexts := contexts_updContext alone fun y => { y with eng := .cutting, padvs := y.padvs ++ [(s.core.who, tko)] }
      exact congrArg (fun l => ({ s with core := { s.core.setToken tko tokBusy with padvWait := none }, contexts := l } : State))
        contexts
    · show (s.core.setToken tko tokBusy).phasesMade = _
      unfold Core.setToken
      split <;> rfl
  rw [effect]
  exact ⟨told, rfl, rfl, congrArg (· + 1) count, rfl, rfl, scalars⟩

end Boundary

/-- Settles O38: a group's boundary by the sequencer's decision, and by the one phase operation of the group. -/
theorem groupsBeginOrHold : Obligations.GroupsBeginOrHold := by
  unfold Obligations.GroupsBeginOrHold
  intro s c held noPods pending
  refine ⟨fun h => ?hold, fun irrev h start free => ?go, fun x h free hx alone => ?phases⟩
  case hold => exact congrArg Host.Outcome.next (boundary_hold h)
  case go =>
    refine congrArg Host.Outcome.next ((boundary_go h start (podStage_ready_of_bundles free)).trans ?_)
    rw [State.onCore, Core.begin, if_pos start]
  case phases =>
    have start := gpos_of_phases h
    have pods := podStage_ready_of_bundles (s := s) (k := s.core.pc) free
    refine ⟨fun pc i l one cutting first => ?cutting, fun pc one still => ?pcancel,
      fun pc tko rf r n one first ne idle whole cur tip tgt complete quiet => ?padv⟩
    case cutting =>
      have held := phaseHeld_of_cutting (isPhase_of_pending one) first (by rw [cutting_eq hx, cutting]; rfl)
      exact congrArg Host.Outcome.next (boundary_phases_hold h pods ((congrArg (makePhases · s) one).trans (makePhases_held held)))
    case pcancel =>
      have free : s.cutting s.core.asid = false := by
        rw [cutting_eq hx, beq_eq_false_iff_ne]
        exact still
      refine congrArg Host.Outcome.next ((boundary_phases_ready h pods ((congrArg (makePhases · s) one).trans (makePhases_pcancel free))).trans ?_)
      rw [pcancelEffect_eq hx alone, State.onCore, State.onCore, Core.begin, if_pos start]
      rfl
    case padv =>
      have still : x.eng ≠ .cutting := by rw [complete]; rintro ⟨⟩
      have cut := padvStage_cut (tko := tko) hx first cur tip tgt complete quiet
      have made := makePhases_padv (pc := pc) (padv_free hx still idle) (outTrap_nil whole) cut
      refine ⟨_, congrArg Host.Outcome.next (boundary_phases_ready h pods ((congrArg (makePhases · s) one).trans made)), ?_⟩
      exact padv_cut_made hx alone cut ne

end Sys2Proof.BoundaryProofs
end

section
/-! PROOFS. Scrubs, row activations and dead frames of the stacks (R227, R230 to R232, R236, R359). -/

namespace Sys2Proof.StackProofs

open Sys2Proof Sys2Proof.Machine Sys2Proof.Claim

/-! ### The log (R366, R367) -/

/-- The last record of a module's log is of a kind and an event code. -/
def Logged (t : State) (kind : BitVec 16) (code : BitVec 8) : Prop :=
  ∃ r, t.svc.log.getLast? = some r ∧ r.kind = kind ∧ bits r.detail 56 8 = code

-- Memory is bounded and each thread holds some: what stands before is checked before more is begun.
set_option Elab.async false in
/-- An event that enters the log is its last record. -/
theorem logged_addLog (s : State) (k : Nat) (c : BitVec 8) (d : BitVec 2) (w : BitVec 8) (n : Nat) :
    Logged (s.addLog k c d w n) (BitVec.ofNat 16 k) c := by
  obtain ⟨r, e, -, kind, code, -⟩ := State.addLog_spec s k c d w n
  exact ⟨r, by rw [e]; exact List.getLast?_concat, kind, code⟩

/-- An error of a stack's line is logged with its stack. -/
theorem logMemory_stack {s : State} {a i : Nat} {c e : BitVec 8} (low : a < 0x10000000000) (h : placeOf a = .stack i) :
    s.logMemory a c e = s.addLog 1 c (BitVec.ofNat 2 (i / 2)) (BitVec.ofNat 8 i) (a / 64 * 64) := by
  have notAcc : ¬ (accScrubBase ≤ a ∧ a < codeScrubBase) := by
    rintro ⟨le, -⟩
    exact absurd low (by simp only [accScrubBase] at le; omega)
  rw [State.logMemory, if_neg notAcc, State.logUnit, h]

/-- A stack's line that becomes poisoned. -/
theorem poisonAt_stack {s : State} {a : Nat} (low : a < 0x10000000000) : s.poisonAt a =
    { s with poisoned := a / 64 * 64 :: s.poisoned.filter fun u => u != a / 64 * 64 } := by
  have notAcc : ¬ (accScrubBase ≤ a ∧ a < codeScrubBase) := by
    rintro ⟨le, -⟩
    exact absurd low (by simp only [accScrubBase] at le; omega)
  rw [State.poisonAt, if_neg notAcc, poisonUnit, if_pos low]

/-- A byte of a poisoned line is poisoned. -/
theorem isPoisoned_of_line {s : State} {a : Nat} (low : a < 0x10000000000) (h : a / 64 * 64 ∈ s.poisoned) :
    s.isPoisoned a 1 = true := by
  refine List.any_eq_true.2 ⟨_, h, ?_⟩
  have size : poisonSize (a / 64 * 64) = 64 := if_pos (by omega)
  rw [size, Bool.and_eq_true, decide_eq_true_eq, decide_eq_true_eq]
  omega

/-! ### Row activations (R231) -/

section Rows

variable {r : Row} {w n : Nat} {l : List RowCount}

theorem rowIn_cons_same {again : Bool} : rowIn r w (⟨r, n, again, w⟩ :: l) = ⟨r, n, again, w⟩ := by
  rw [rowIn, List.find?_cons_of_pos (by simp)]
  rfl

/-- A row's count names its row and its window. -/
theorem rowIn_eq (r : Row) (w : Nat) (l : List RowCount) :
    rowIn r w l = ⟨r, (rowIn r w l).count, (rowIn r w l).refreshed, w⟩ := by
  unfold rowIn
  cases found : l.find? fun x => x.row == r && x.window == w with
  | none => rfl
  | some x =>
    obtain ⟨row, window⟩ : x.row = r ∧ x.window = w := by simpa using List.find?_some found
    subst row window
    rfl

/-- One more activation of a row counts, and leaves the row's refresh in the window. -/
theorem rowIn_bumpRow : rowIn r w (bumpRow r w l) = { rowIn r w l with count := (rowIn r w l).count + 1 } := by
  rw [bumpRow, rowIn_eq r w l]
  exact rowIn_cons_same

/-- Counts of other rows stand. -/
theorem mem_bumpRow {x : RowCount} (mem : x ∈ l) (other : x.row ≠ r) : x ∈ bumpRow r w l :=
  List.mem_cons_of_mem _ (List.mem_filter.2 ⟨mem, bne_iff_ne.2 other⟩)

end Rows

/-- Writing a run of bytes changes no other. -/
theorem peek_poke_of_run {s : State} {base n a : Nat} {v : Nat → Byte} (outside : a < base ∨ base + n ≤ a) :
    (s.poke ((List.range n).map fun i => (base + i, v i))).peek a = s.peek a := by
  refine Sparse.get_setAll_of_notMem fun c mem => ?_
  obtain ⟨i, range, rfl⟩ := List.mem_map.1 mem
  have := List.mem_range.1 range
  show base + i ≠ a
  omega

/-- Settles O45: each event by what it finds. -/
theorem stackEvents : Obligations.StackEvents := by
  unfold Obligations.StackEvents
  intro s logged
  have lowSpad : ∀ line : Nat, line < 0x10000000000 → ¬ codeScrubBase ≤ line := fun line low => by
    simp only [codeScrubBase]; omega
  refine ⟨fun hold => ?hold, fun line occ => ?clean, fun line i awake low place => ⟨fun occ => ?corrected, fun occ => ?lost⟩,
    fun stack pc bank row n again occ awake => ?row, fun a low => ?touch, fun f occ => ⟨fun dead fresh => ?dead, fun alive => ?alive⟩⟩
  case hold => exact ⟨congrArg Host.Outcome.next (if_pos hold), congrArg Host.Outcome.next (if_pos hold)⟩
  case clean =>
    show execPatrolScrub s = _
    rw [execPatrolScrub, occ]
    simp only [awake, ite_self]
    rfl
  case corrected =>
    have run : exec .patrolScrub s = .next (s.logMemory line.toNat 0x03 0x07) := by
      show execPatrolScrub s = _
      rw [execPatrolScrub, occ]
      simp only [Machine.awake, awake, lowSpad _ low, if_false]
      rfl
    rw [logMemory_stack low place] at run
    exact ⟨_, run, logged_addLog .., rfl, rfl⟩
  case lost =>
    have run : exec .patrolScrub s = .next ((s.poisonAt line.toNat).logMemory line.toNat 0x04 0x08) := by
      show execPatrolScrub s = _
      rw [execPatrolScrub, occ]
      simp only [Machine.awake, awake, lowSpad _ low, if_false]
      rfl
    rw [logMemory_stack low place, poisonAt_stack low] at run
    exact ⟨_, run, logged_addLog .., rfl, isPoisoned_of_line low List.mem_cons_self⟩
  case row =>
    intro r w count
    have run : exec .refreshManagement s = .next (
        let t : State := { s with activations := ⟨r, 0, true, w⟩ :: s.activations.filter fun x => x.row != r }
        if again then t.addLog 1 0x05 (bits stack 1 2) (stack.setWidth 8) r.firstLine else t) := by
      show execRefreshManagement s = _
      rw [execRefreshManagement, occ]
      simp only [Machine.awake, awake, show (rowIn ⟨stack, pc, bank, row⟩ (Config.refreshWindow stack s.tick)
        s.activations).refreshed = again from congrArg RowCount.refreshed count]
      rw [← occ]
      rfl
    have others : ∀ x ∈ s.activations, x.row ≠ r →
        x ∈ (⟨r, 0, true, w⟩ :: s.activations.filter fun x => x.row != r : List RowCount) :=
      fun x mem other => List.mem_cons_of_mem _ (List.mem_filter.2 ⟨mem, bne_iff_ne.2 other⟩)
    cases again with
    | false => exact ⟨_, run, rfl, rowIn_cons_same, others, fun _ => rfl, nofun⟩
    | true => exact ⟨_, run, rfl, rowIn_cons_same, others, nofun, fun _ => logged_addLog ..⟩
  case touch =>
    intro r w
    have acts : (s.touch a).activations = if Config.opensRow (a / 512) s.tick then bumpRow r w s.activations
        else s.activations := by
      simp only [State.touch, low, decide_true, Bool.true_and]
      rfl
    refine ⟨?_, ?_, ?_, ?_, ?_⟩
    · show (BitVec.ofNat 3 (a / 0x2000000000)).toNat = _
      rw [BitVec.toNat_ofNat]
      omega
    · show (BitVec.ofNat 6 (pseudoChannel a)).toNat = _
      rw [BitVec.toNat_ofNat, Nat.mod_eq_of_lt]
      exact Nat.xor_lt_two_pow (n := 6) (Nat.mod_lt _ (by decide)) (Nat.mod_lt _ (by decide))
    · rw [acts]
      split
      · rw [rowIn_bumpRow]
      · rfl
    · rw [acts]
      split
      · rw [rowIn_bumpRow]
      · rfl
    · intro x mem other
      rw [acts]
      split
      · exact mem_bumpRow mem other
      · exact mem
  case dead =>
    have run : exec .deadFrameRefreshStop s = .next (State.poke { s with
        unrefreshed := f :: s.unrefreshed, free := s.free + 1 } ((List.range 0x10000).map fun i =>
          (f.toNat * 0x10000 + i, (Config.freeValue (0x100000 + i) s.free).setWidth 8))) := by
      show execDeadFrameRefreshStop s = _
      rw [execDeadFrameRefreshStop, occ]
      simp only [dead, fresh, Bool.not_false, Bool.and_self, if_true]
      rfl
    exact ⟨_, run, List.mem_cons_self, fun a outside => peek_poke_of_run (by omega)⟩
  case alive =>
    show execDeadFrameRefreshStop s = _
    rw [execDeadFrameRefreshStop, occ]
    simp only [alive, Bool.false_and, Bool.false_eq_true, if_false]
    rfl

end Sys2Proof.StackProofs
end

section
/-! PROOFS. What a write of a record or a ring changes where no page is mirrored, and the events of a user queue (R313,
R316, R317). -/

namespace Sys2Proof.QueueProofs

open Sys2Proof Sys2Proof.Machine Sys2Proof.Claim Sys2Proof.CheckpointProofs Sys2Proof.StackProofs

/-! ### Writes where no page is mirrored -/

/-- What writes of records and rings change where no page is mirrored: memory, its poison, the bytes that are held, and
which pages of a transition are dirty. -/
structure Wrote (s t : State) : Prop where
  state : ∃ mem poisoned held contexts, t = { s with mem, poisoned, held, contexts }
  unmirrored : Unmirrored t

section Wrote

variable {s t u : State}

theorem Wrote.refl (h : Unmirrored s) : Wrote s s := ⟨⟨_, _, _, _, rfl⟩, h⟩

theorem Wrote.trans (h : Wrote s t) (h' : Wrote t u) : Wrote s u := by
  obtain ⟨_, _, _, _, rfl⟩ := h.state
  obtain ⟨_, _, _, _, rfl⟩ := h'.state
  exact ⟨⟨_, _, _, _, rfl⟩, h'.unmirrored⟩

theorem unmirrored_store (h : Unmirrored s) (l : List (Nat × Byte)) : Unmirrored (s.store l) := by
  rw [store_of_unmirrored h]
  intro x mem
  obtain ⟨y, hy, rfl⟩ := List.mem_map.mp mem
  exact mirrored_markDirty (h y hy) l

theorem wrote_store (h : Unmirrored s) (l : List (Nat × Byte)) : Wrote s (s.store l) :=
  ⟨⟨_, _, _, _, store_of_unmirrored h l⟩, unmirrored_store h l⟩

theorem wrote_writeOrHold (h : Unmirrored s) (l : List (Nat × Byte)) : Wrote s (s.writeOrHold l) := by
  unfold State.writeOrHold
  dsimp only
  have now : ∀ l : List (Nat × Byte), Wrote s (if l.isEmpty then s else s.store l) := fun l => by
    split
    · exact .refl h
    · exact wrote_store h l
  split
  · exact now _
  · have first := now (l.filter fun c => !s.placeHeld (.phys (8 * c.1)))
    exact first.trans ⟨⟨_, _, _, _, rfl⟩, first.unmirrored⟩

theorem wrote_writeVa (h : Unmirrored s) (a : BitVec 16) (v : Nat) (l : List Byte) : Wrote s ((s.writeVa a v l).getD s) := by
  unfold State.writeVa
  split
  · exact wrote_writeOrHold h _
  · exact .refl h

theorem wrote_setField (h : Unmirrored s) (a : BitVec 16) (v n x : Nat) : Wrote s (s.setField a v n x) :=
  wrote_writeVa h ..

theorem wrote_setLink (h : Unmirrored s) (e : PoolEntry) (x : Nat) : Wrote s (s.setLink e x) := by
  unfold State.setLink
  split
  · exact .refl h
  · exact wrote_setField h ..

theorem wrote_linkAll (l : List PoolEntry) {s : State} (h : Unmirrored s) : Wrote s (s.linkAll l) := by
  induction l generalizing s with
  | nil => exact .refl h
  | cons e l ih => exact (wrote_setLink h ..).trans (ih (wrote_setLink h ..).unmirrored)

end Wrote

/-! ### A module with one queue -/

/-! ### Pools and chains of the dies -/

section Pools

variable (s : State) (d j : BitVec 2) (f : List PoolEntry → List PoolEntry)

theorem pool_updPool : (s.updPool d f).pool j = if j = d then f (s.pool d) else s.pool j := by
  simp only [State.pool, State.updPool, Vector.getElem_set, BitVec.toNat_inj, eq_comm (a := d)]

theorem chain_updChain : (s.updChain d f).chain j = if j = d then f (s.chain d) else s.chain j := by
  simp only [State.chain, State.updChain, Vector.getElem_set, BitVec.toNat_inj, eq_comm (a := d)]

theorem chain_updPool : (s.updPool d f).chain j = s.chain j := rfl

theorem pool_updChain : (s.updChain d f).pool j = s.pool j := rfl

end Pools

/-- A die with no chained task has no links to write. -/
theorem relink_nil {s : State} {d : BitVec 2} (chain : s.chain d = []) : s.relink d = s := by
  rw [State.relink, State.overflow, chain]
  rfl

section One

variable {s : State} {q : Queue} (one : s.sched.queues = [q])
include one

theorem queue?_one : s.queue? q.qid = some q := by
  simp [State.queue?, one]

theorem updQueue_one (f : Queue → Queue) : s.updQueue q.qid f = { s with sched := { s.sched with queues := [f q] } } := by
  rw [State.updQueue, one, List.map_cons, if_pos rfl, List.map_nil]

/-- A queue that is bound needs no binding. -/
theorem bindQueue_bound (bound : q.qst = .bound) : s.bindQueue q.qid = s := by
  rw [State.bindQueue, queue?_one one]
  simp only [bound]
  rfl

/-- The queue takes a slot; no task waits for room behind it. -/
theorem bindTo_one {n : Nat} (chain : s.chain q.die = []) : s.bindTo q.qid n = { s with sched := { s.sched with
    queues := [{ q with qst := .bound, slot := BitVec.ofNat 6 n, stamp := s.sched.nextStamp }]
    nextStamp := s.sched.nextStamp + 1 } } := by
  rw [State.bindTo, queue?_one one, updQueue_one one]
  exact relink_nil (s := { s with sched := { s.sched with queues := _, nextStamp := _ } }) chain

end One

/-! ### Consuming an entry (R311, R313, R314) -/

/-- What HQS_CONSUME keeps: the core, and the one queue's name, place in its ring and binding. -/
structure Consumed (s : State) (q : Queue) (t : State) : Prop where
  core : t.core = s.core
  unmirrored : Unmirrored t
  queue : ∃ p, t.sched.queues = [p] ∧ p.qid = q.qid ∧ p.head = q.head ∧ p.tail = q.tail ∧ p.qst = q.qst

section Consumed

variable {s t : State} {q : Queue}

theorem Consumed.wrote {u : State} (h : Consumed s q t) (w : Wrote t u) : Consumed s q u := by
  obtain ⟨_, _, _, _, rfl⟩ := w.state
  exact ⟨h.core, w.unmirrored, h.queue⟩

/-- A change of the scheduler that keeps the queues. -/
theorem Consumed.sched {l : Sched} (h : Consumed s q t) (queues : l.queues = t.sched.queues) :
    Consumed s q { t with sched := l } :=
  ⟨h.core, h.unmirrored, queues ▸ h.queue⟩

theorem Consumed.addLog {k : Nat} {c : BitVec 8} {d : BitVec 2} {w : BitVec 8} {n : Nat} (h : Consumed s q t) :
    Consumed s q (t.addLog k c d w n) := ⟨h.core, h.unmirrored, h.queue⟩

/-- A change of every queue that keeps what HQS_CONSUME keeps. -/
theorem Consumed.mapQueues {f : Queue → Queue} (h : Consumed s q t) (same : ∀ p, (f p).qid = p.qid ∧ (f p).head = p.head ∧
    (f p).tail = p.tail ∧ (f p).qst = p.qst) :
    Consumed s q { t with sched := { t.sched with queues := t.sched.queues.map f } } := by
  obtain ⟨p, queues, qid, head, tail, qst⟩ := h.queue
  obtain ⟨qid', head', tail', qst'⟩ := same p
  refine ⟨h.core, h.unmirrored, f p, ?_, qid'.trans qid, head'.trans head, tail'.trans tail, qst'.trans qst⟩
  show t.sched.queues.map f = _
  rw [queues]
  rfl

theorem Consumed.updQueue {f : Queue → Queue} {n : BitVec 14} (h : Consumed s q t) (same : ∀ p, (f p).qid = p.qid ∧
    (f p).head = p.head ∧ (f p).tail = p.tail ∧ (f p).qst = p.qst) : Consumed s q (t.updQueue n f) :=
  h.mapQueues fun p => by
    split
    · exact same p
    · exact ⟨rfl, rfl, rfl, rfl⟩

theorem Consumed.post {n : BitVec 14} {value : Word} {rec : VAddr} (h : Consumed s q t) : Consumed s q (t.post n value rec) := by
  unfold State.post
  split
  · exact h
  · split
    · exact (h.wrote (wrote_writeVa h.unmirrored ..)).updQueue fun p => ⟨rfl, rfl, rfl, rfl⟩
    · split
      · exact h.updQueue fun p => ⟨rfl, rfl, rfl, rfl⟩
      · exact Consumed.addLog (h.updQueue fun p => ⟨rfl, rfl, rfl, rfl⟩)

theorem Consumed.poolPush {d : BitVec 2} {e : PoolEntry} (h : Consumed s q t) : Consumed s q (t.poolPush d e) := by
  unfold State.poolPush State.tellUncovered
  dsimp only
  refine Consumed.mapQueues ?_ fun p => by split <;> exact ⟨rfl, rfl, rfl, rfl⟩
  split
  · exact h.sched rfl
  · have chained : Consumed s q (t.updChain d fun l => l ++ [e]) := h.sched rfl
    exact chained.wrote (wrote_linkAll _ chained.unmirrored)

theorem Consumed.setField {a : BitVec 16} {v n x : Nat} (h : Consumed s q t) : Consumed s q (t.setField a v n x) :=
  h.wrote (wrote_setField h.unmirrored ..)

/-- The queue stays bound. -/
theorem Consumed.bindQueue (h : Consumed s q t) (bound : q.qst = .bound) : Consumed s q (t.bindQueue q.qid) := by
  obtain ⟨p, queues, qid, -, -, qst⟩ := h.queue
  rw [← qid, bindQueue_bound queues (qst.trans bound)]
  exact h

/-- A task of the bound queue becomes ready. -/
theorem Consumed.readyTask {a : BitVec 16} {rec : VAddr} (h : Consumed s q t) (bound : q.qst = .bound) :
    Consumed s q (t.readyTask a rec q.qid none) := by
  unfold State.readyTask
  split
  · exact h
  · exact (h.setField.setField.setField.bindQueue bound).poolPush

end Consumed

section Consume

variable {s : State} {q : Queue} (one : s.sched.queues = [q]) (unmirrored : Unmirrored s) (bound : q.qst = .bound)
include one unmirrored

/-- The queue with its next entry taken. -/
def taken (q : Queue) : Queue := { q with head := q.head + 1 }

/-- The module with the queue's next entry taken. -/
theorem consumed_taken : Consumed s (taken q) (s.updQueue q.qid taken) := by
  rw [updQueue_one one]
  exact ⟨rfl, unmirrored, taken q, rfl, rfl, rfl, rfl, rfl⟩

/-- The module after what the entry's record says of an error in its bytes. -/
def unreadable (t : State) (asid : BitVec 16) (va : Nat) : State :=
  match t.access asid va false false with
  | .ok (.phys b) => if decide (va % 128 = 0) && decide (va < 2 ^ 56) then t.logPoison (b / 8) 128 else t
  | _ => t

omit one unmirrored in
theorem unreadable_frame (t : State) (asid : BitVec 16) (va : Nat) :
    unreadable t asid va = { t with svc := (unreadable t asid va).svc } := by
  unfold unreadable
  split
  · split
    · exact State.logPoison_frame ..
    · rfl
  · rfl

omit one unmirrored in
theorem Consumed.unreadable {t : State} {a : BitVec 16} {va : Nat} (h : Consumed s q t) :
    Consumed s q (unreadable t a va) := by
  rw [unreadable_frame]
  exact ⟨h.core, h.unmirrored, h.queue⟩

include bound in
/-- What HQS_CONSUME leaves of the queue. -/
theorem consumed_consume : Consumed s (taken q) (consume s q) := by
  have start := consumed_taken one unmirrored
  unfold consume
  extract_lets entry va rec
  split
  · exact Consumed.addLog (Consumed.post start.unreadable)
  · split
    · exact Consumed.post (Consumed.setField (Consumed.setField start))
    · split
      · exact Consumed.readyTask (q := taken q) (Consumed.setField start) bound
      · exact Consumed.sched (Consumed.setField (Consumed.setField start)) rfl

omit one unmirrored in
/-- A post to a ring with room takes its next entry. -/
theorem queues_post {t : State} (one : t.sched.queues = [q]) (unmirrored : Unmirrored t) (none : q.waiting = [])
    (room : q.ringFull = false) (value : Word) (rec : VAddr) :
    (t.post q.qid value rec).sched.queues = [{ q with ctail := q.ctail + 1 }] := by
  have written := wrote_writeVa unmirrored q.asid (q.cring.toNat + 16 * (q.ctail.toNat % q.csz)) (completionBytes q value rec)
  rw [State.post, queue?_one one]
  have free : (q.waiting.isEmpty && !q.ringFull) = true := by rw [none, room]; rfl
  simp only [free, if_true, State.postNow]
  generalize (t.writeVa q.asid (q.cring.toNat + 16 * (q.ctail.toNat % q.csz)) (completionBytes q value rec)).getD t = u
    at written ⊢
  have still : u.sched.queues = [q] := by
    obtain ⟨_, _, _, _, rfl⟩ := written.state
    exact one
  exact congrArg (·.sched.queues) (updQueue_one still _)

/-- An entry whose record cannot be read: its queue's ring takes the answer, and no task is readied. -/
theorem consume_unreadable (lost : s.recordReadable q.asid (s.field q.asid (q.ring.toNat + 8 * (q.head.toNat % q.rsz)) 8) =
    false) : (consume s q).sched.pools = s.sched.pools ∧ (q.waiting = [] → q.ringFull = false →
      (consume s q).sched.queues = [{ taken q with ctail := q.ctail + 1 }]) := by
  let entry := q.ring.toNat + 8 * (q.head.toNat % q.rsz)
  let va := s.field q.asid entry 8
  have e : consume s q = ((unreadable (s.updQueue q.qid taken) q.asid va).post q.qid postUnreadable
      (BitVec.ofNat 56 va)).addLog 7 0x07 q.die 0 entry := if_pos ((Bool.not_eq_true' _).mpr lost)
  have start := consumed_taken one unmirrored
  rw [e]
  constructor
  · refine (settles_post ..).pools.trans ?_
    rw [unreadable_frame]
    rfl
  · intro none room
    refine queues_post (q := taken q) (t := unreadable (s.updQueue q.qid taken) q.asid va) ?_ start.unreadable.unmirrored none
      room _ _
    rw [unreadable_frame, updQueue_one one]

end Consume

/-- Settles O40: each event on the one queue, or the one chained task, that it finds. -/
theorem queueEvents : Obligations.QueueEvents := by
  unfold Obligations.QueueEvents
  intro s q one with'
  have found := queue?_one one
  refine ⟨fun x occ => ⟨fun away => ?away, fun bound going open' => ⟨fun near => ?near, fun far => ?far⟩, fun none => ?chead⟩,
    fun occ => ⟨fun no => ?idle, fun takes unmirrored => ?consume, fun closing idle => ?close, fun not => ?stays⟩,
    fun occ pending alive chain => ?slot, fun d e occ chain takes unmirrored => ?chained⟩
  case away =>
    show execDoorbellTail s = _
    have stays : (q.qst == .closed || q.closing || q.refuse) = true := by
      rcases away with h | h | h <;> simp [h]
    simp only [execDoorbellTail, occ, found, ringTail, stays, if_true]
    rfl
  case near =>
    have run : exec .doorbellTail s = event ((s.updQueue q.qid fun q => { q with tail := x }).bindQueue q.qid) := by
      show execDoorbellTail s = _
      simp only [execDoorbellTail, occ, found, ringTail, bound, going, open', Nat.not_lt.mpr near, decide_false]
      rfl
    rw [run, updQueue_one one]
    exact congrArg event (bindQueue_bound (s := with' { q with tail := x }) (q := { q with tail := x }) rfl bound :)
  case far =>
    let p : Queue := { q with tail := q.head + BitVec.ofNat 32 q.rsz }
    let logged := s.addLog 7 0x03 q.die 0 q.qid.toNat
    let rung : State := { logged with sched := { logged.sched with queues := [p] } }
    have run : exec .doorbellTail s = event ((logged.updQueue q.qid fun q => { q with tail := p.tail }).bindQueue q.qid) := by
      show execDoorbellTail s = _
      simp only [execDoorbellTail, occ, found, ringTail, bound, going, open', far, decide_true, if_true]
      rfl
    rw [updQueue_one (s := logged) one] at run
    obtain ⟨r, last, kind, code⟩ := logged_addLog s 7 0x03 q.die 0 q.qid.toNat
    exact ⟨rung, r, run.trans (congrArg event (bindQueue_bound (s := rung) (q := p) rfl bound :)), rfl, last, kind, code, rfl⟩
  case chead =>
    have run : exec .doorbellChead s = event (s.updQueue q.qid fun q => { q with chead := x }) := by
      show execDoorbellChead s = _
      simp only [execDoorbellChead, occ, found, none]
      rfl
    exact run.trans (congrArg event (updQueue_one one _))
  case idle =>
    show execHqsConsume s = _
    simp only [execHqsConsume, occ, found, no]
    rfl
  case consume =>
    have run : exec .hqsConsume s = .next (consume s q) := by
      show execHqsConsume s = _
      simp only [execHqsConsume, occ, found, takes, if_true]
      rfl
    have bound : q.qst = .bound := by
      simp only [Queue.canConsume, Bool.and_eq_true, beq_iff_eq] at takes
      exact takes.1.1
    have kept := consumed_consume one unmirrored bound
    obtain ⟨p, queues, qid, head, tail, qst⟩ := kept.queue
    refine ⟨_, p, run, queues, qid, head, tail, qst.trans bound, kept.core, fun lost => ?_⟩
    obtain ⟨pools, room⟩ := consume_unreadable one unmirrored lost
    refine ⟨pools, fun none free => ?_⟩
    cases (queues.symm.trans (room none free))
    rfl
  case close =>
    have run : exec .queueCloseComplete s = event (s.updQueue q.qid fun q => { q with qst := .closed }) := by
      show execQueueCloseComplete s = _
      simp only [execQueueCloseComplete, occ, found, closing, idle, Bool.and_self, if_true]
    exact run.trans (congrArg event (updQueue_one one _))
  case stays =>
    have open' : (q.closing && s.queueIdle q) = false := by rcases not with h | h <;> simp [h]
    show execQueueCloseComplete s = _
    simp only [execQueueCloseComplete, occ, found, open']
    rfl
  case slot =>
    have run : exec .slotTakeover s = event (s.bindTo q.qid 0) := by
      have none : s.boundOn q.die = [] := by
        rw [State.boundOn, one]
        simp [pending]
      have first : s.freeSlot q.die = some 0 := by
        rw [State.freeSlot, none]
        rfl
      have waits : s.pendingQueue q.die = some q := by
        rw [State.pendingQueue, one]
        simp [pending, minQueue]
      show execSlotTakeover s = _
      simp only [execSlotTakeover, occ, alive, State.takeSlot, waits, first]
      rfl
    exact run.trans (congrArg event (bindTo_one one chain))
  case chained =>
    have oldest : oldestEntry ((s.chain d).filter (s.poolTakes d)) = some e := by
      rw [chain, List.filter_cons_of_pos takes, List.filter_nil]
      rfl
    have written := wrote_setLink unmirrored e 0
    have run : exec .poolOverflowEntry s = event ((((s.setLink e 0).updChain d fun l => l.erase e).relink d).updPool d
        fun l => l ++ [e]) := by
      show execPoolOverflowEntry s = _
      simp only [execPoolOverflowEntry, occ, enterPool, oldest]
    generalize s.setLink e 0 = u at written run
    have pool : ∀ j, u.pool j = s.pool j := by
      obtain ⟨_, _, _, _, rfl⟩ := written.state
      exact fun _ => rfl
    have chains : ∀ j, u.chain j = s.chain j := by
      obtain ⟨_, _, _, _, rfl⟩ := written.state
      exact fun _ => rfl
    have core : u.core = s.core := by
      obtain ⟨_, _, _, _, rfl⟩ := written.state
      rfl
    have emptied : (u.updChain d fun l => l.erase e).chain d = [] := by
      rw [chain_updChain, if_pos rfl, chains, chain, List.erase_cons_head]
    rw [relink_nil emptied] at run
    refine ⟨_, run, ?_, ?_, fun j other => ⟨?_, ?_⟩, core⟩
    · rw [pool_updPool, if_pos rfl, pool_updChain, pool]
    · exact (chain_updPool ..).trans emptied
    · rw [pool_updPool, if_neg other, pool_updChain, pool]
    · rw [chain_updPool, chain_updChain, if_neg other, chains]

end Sys2Proof.QueueProofs
end

section
/-! PROOFS. Units, replays, retraining and loss of one link (R339, R340). -/

namespace Sys2Proof.LinkProofs

open Sys2Proof Sys2Proof.Machine Sys2Proof.Claim Sys2Proof.StackProofs

/-! ### Links of a module -/

section Links

variable (s : State) (p q : BitVec 4) (f : LinkState → LinkState)

theorem link_updLink : (s.updLink p f).link q = if q = p then f (s.link p) else s.link q := by
  simp only [State.link, State.updLink, Vector.getElem_set, BitVec.toNat_inj, eq_comm (a := p)]

theorem link_updLink_same : (s.updLink p f).link p = f (s.link p) := by rw [link_updLink, if_pos rfl]

end Links

/-- What an event of one link leaves alone: the other links, memory and the core. -/
def Others (s : State) (p : BitVec 4) (t : State) : Prop :=
  (∀ q, q ≠ p → t.link q = s.link q) ∧ t.mem = s.mem ∧ t.core = s.core

theorem others_updLink {s : State} {p : BitVec 4} {f : LinkState → LinkState} : Others s p (s.updLink p f) :=
  ⟨fun q ne => by rw [link_updLink, if_neg ne], rfl, rfl⟩

/-! ### A unit that is accepted -/

/-- What units sent by a link leave of it. -/
structure Sends (l m : LinkState) : Prop where
  expect : m.expect = l.expect
  acked : m.acked = l.acked
  retries : m.retries = l.retries

theorem sends_sendUnit {l m : LinkState} (h : Sends l m) (lt : BitVec 4) (flit : List Byte) : Sends l (m.sendUnit lt flit) :=
  ⟨h.expect, h.acked, h.retries⟩

theorem sends_foldl {l m : LinkState} (h : Sends l m) (flits : List (List Byte)) :
    Sends l (flits.foldl (fun l f => l.sendUnit 1 f) m) := by
  induction flits generalizing m with
  | nil => exact h
  | cons f flits ih => exact ih (sends_sendUnit h 1 f)

theorem sends_covered (l : LinkState) (aseq : BitVec 12) : Sends l (l.covered aseq) := by
  unfold LinkState.covered
  split
  · extract_lets m room
    exact sends_foldl (l := l) (m := { m with waiting := m.waiting.drop room }) ⟨rfl, rfl, rfl⟩ _
  · exact ⟨rfl, rfl, rfl⟩

theorem sends_idle {l m : LinkState} (h : Sends l m) : Sends l m.idle := by
  unfold LinkState.idle
  split
  · exact sends_sendUnit h ..
  · exact h

/-- The link after a unit in order: what it has received, and what it is then to send. -/
def accepted (l : LinkState) (u : LinkUnit) : LinkState :=
  (LinkState.covered { l with expect := l.expect + 1, acked := u.fseq, retries := 0 } u.aseq).idle

theorem sends_accepted (l : LinkState) (u : LinkUnit) :
    Sends { l with expect := l.expect + 1, acked := u.fseq, retries := 0 } (accepted l u) := sends_idle (sends_covered ..)

/-- The idle unit of a link with room in its window. -/
theorem idle_room {l : LinkState} (room : l.window.length < 256) : l.idle = l.sendUnit 0 (List.replicate 64 0) :=
  if_pos room

theorem idle_full {l : LinkState} (full : 256 ≤ l.window.length) : l.idle = l := if_neg (Nat.not_lt.mpr full)

/-- A unit covers others of the window, and nothing waits: one idle unit follows. -/
theorem accepted_covers {l : LinkState} {u : LinkUnit} {i : Nat} (waiting : l.waiting = []) (size : l.window.length ≤ 256)
    (found : l.window.findIdx? (fun w => w.fseq == u.aseq) = some i) : (accepted l u).asked = 0 ∧
      ∃ v, (accepted l u).window = l.window.drop (i + 1) ++ [v] ∧ (v.lt = 0 ∧ v.aseq = u.fseq) ∧
        (accepted l u).out = l.out ++ [v] ∧ (accepted l u).next = l.next + 1 := by
  obtain ⟨lt, -⟩ := List.findIdx?_eq_some_iff_getElem.mp found
  have room : (l.window.drop (i + 1)).length < 256 := by rw [List.length_drop]; omega
  unfold accepted LinkState.covered
  simp only [found, waiting, List.take_nil, List.foldl_nil]
  rw [idle_room room]
  exact ⟨rfl, _, rfl, ⟨rfl, rfl⟩, rfl, rfl⟩

/-- A unit covers more than one of the window, and a flit waits: it goes, and one idle unit follows. -/
theorem accepted_covers_waiting {l : LinkState} {u : LinkUnit} {i : Nat} {f : List Byte} (waiting : l.waiting = [f])
    (size : l.window.length ≤ 256) (pos : 0 < i) (found : l.window.findIdx? (fun w => w.fseq == u.aseq) = some i) :
    ∃ w v, (v.lt = 0 ∧ v.aseq = u.fseq) ∧ (accepted l u).window = l.window.drop (i + 1) ++ [w, v] ∧ w.lt = 1 ∧
      w.flit = f ∧ (accepted l u).waiting = [] ∧ (accepted l u).out = l.out ++ [w, v] ∧
      (accepted l u).next = l.next + 2 := by
  obtain ⟨lt, -⟩ := List.findIdx?_eq_some_iff_getElem.mp found
  have size' : (l.window.drop (i + 1)).length + 2 ≤ 256 := by rw [List.length_drop]; omega
  obtain ⟨k, room⟩ : ∃ k, replayWindow - (l.window.drop (i + 1)).length = k + 1 :=
    ⟨replayWindow - (l.window.drop (i + 1)).length - 1, by unfold replayWindow; omega⟩
  unfold accepted LinkState.covered
  simp only [found, waiting, room, List.take_succ_cons, List.take_nil, List.drop_succ_cons, List.drop_nil, List.foldl_cons,
    List.foldl_nil]
  rw [idle_room]
  · refine ⟨_, _, ⟨rfl, rfl⟩, List.append_assoc .., rfl, rfl, rfl, List.append_assoc .., ?_⟩
    exact BitVec.add_assoc ..
  · show (l.window.drop (i + 1) ++ [_]).length < 256
    rw [List.length_append, List.length_singleton]
    omega

/-- A unit covers none of the window: an idle unit follows where the window has room. -/
theorem accepted_none {l : LinkState} {u : LinkUnit} (none : l.window.findIdx? (fun w => w.fseq == u.aseq) = none) :
    (256 ≤ l.window.length → (accepted l u).window = l.window ∧ (accepted l u).next = l.next) ∧
      (l.window.length < 256 → ∃ v, (accepted l u).window = l.window ++ [v] ∧ (v.lt = 0 ∧ v.aseq = u.fseq) ∧
        (accepted l u).out = l.out ++ [v] ∧ (accepted l u).next = l.next + 1) := by
  unfold accepted LinkState.covered
  simp only [none]
  let m : LinkState := { l with expect := l.expect + 1, acked := u.fseq, retries := 0 }
  refine ⟨fun full => ?_, fun room => ?_⟩
  · rw [idle_full (l := m) full]
    exact ⟨rfl, rfl⟩
  · rw [idle_room (l := m) room]
    exact ⟨_, rfl, ⟨rfl, rfl⟩, rfl, rfl⟩

section Accept

variable {s : State} {p : BitVec 4} {u : LinkUnit}

/-- Taking a flit in changes no link but for what its port has received. -/
theorem acceptFlit_link : (∃ rx, (s.acceptFlit p u).link p = { s.link p with rx := rx }) ∧
    Others s p (s.acceptFlit p u) := by
  have held : ∀ rx, (s.updLink p fun l => { l with rx := rx }).link p = { s.link p with rx := rx } := fun rx =>
    link_updLink_same ..
  have others : ∀ rx, Others s p (s.updLink p fun l => { l with rx := rx }) := fun rx => others_updLink
  unfold State.acceptFlit
  extract_lets rx whole t
  split
  · exact ⟨⟨_, held (if whole then [] else rx)⟩, others (if whole then [] else rx)⟩
  · exact ⟨⟨_, held (if whole then [] else rx)⟩, others (if whole then [] else rx)⟩

/-- The module with the link of a unit in order. -/
def after (s : State) (p : BitVec 4) (u : LinkUnit) : State := s.updLink p fun l => accepted l u

/-- What a unit's kind asks for beside its link: a flit goes in, a replay request and a retraining are for later. -/
theorem takeUnit_eq (up : (s.link p).up = true) (crc : u.crc = unitCrc u) (order : u.fseq = (s.link p).expect) :
    (u.lt = 1 ∧ takeUnit s p u = (after s p u).acceptFlit p u) ∨
      (u.lt = 2 ∧ takeUnit s p u = { after s p u with agenda := .event .replayRequest (.replay p (u.aseq + 1)) :: s.agenda }) ∨
      (u.lt = 3 ∧ takeUnit s p u = { after s p u with agenda := .event .retrain (.port p) :: s.agenda }) ∨
      (u.lt ≠ 2 ∧ u.lt ≠ 3 ∧ takeUnit s p u = after s p u) := by
  have inOrder : ¬ (u.crc ≠ unitCrc u ∨ u.fseq ≠ (s.link p).expect) := by rintro (h | h) <;> contradiction
  unfold takeUnit
  simp only [up, Bool.not_true, Bool.false_eq_true, if_false, inOrder]
  split
  · next lt => exact .inl ⟨BitVec.eq_of_toNat_eq lt, rfl⟩
  · next lt => exact .inr (.inl ⟨BitVec.eq_of_toNat_eq lt, rfl⟩)
  · next lt => exact .inr (.inr (.inl ⟨BitVec.eq_of_toNat_eq lt, rfl⟩))
  · next other two three =>
    exact .inr (.inr (.inr ⟨fun lt => two (congrArg BitVec.toNat lt), fun lt => three (congrArg BitVec.toNat lt), rfl⟩))

/-- A unit in order: its link, what is left alone, and what the unit's kind asks for. -/
theorem takeUnit_accepts (up : (s.link p).up = true) (crc : u.crc = unitCrc u) (order : u.fseq = (s.link p).expect) :
    (∃ rx, (takeUnit s p u).link p = { accepted (s.link p) u with rx := rx }) ∧ Others s p (takeUnit s p u) ∧
      (u.lt = 2 → (takeUnit s p u).agenda = .event .replayRequest (.replay p (u.aseq + 1)) :: s.agenda) ∧
      (u.lt = 3 → (takeUnit s p u).agenda = .event .retrain (.port p) :: s.agenda) := by
  have link : (after s p u).link p = accepted (s.link p) u := link_updLink_same ..
  have others : Others s p (after s p u) := others_updLink
  have known := takeUnit_eq up crc order
  generalize after s p u = t at link others known
  rcases known with ⟨lt, e⟩ | ⟨lt, e⟩ | ⟨lt, e⟩ | ⟨two, three, e⟩ <;> rw [e]
  · obtain ⟨⟨rx, rest⟩, others', mem, core⟩ := acceptFlit_link (s := t) (p := p) (u := u)
    rw [link] at rest
    exact ⟨⟨rx, rest⟩, ⟨fun q ne => (others' q ne).trans (others.1 q ne), mem.trans others.2.1, core.trans others.2.2⟩,
      fun h => absurd (lt.symm.trans h) (by decide), fun h => absurd (lt.symm.trans h) (by decide)⟩
  · exact ⟨⟨_, link⟩, others, fun _ => rfl, fun h => absurd (lt.symm.trans h) (by decide)⟩
  · exact ⟨⟨_, link⟩, others, fun h => absurd (lt.symm.trans h) (by decide), fun _ => rfl⟩
  · exact ⟨⟨_, link⟩, others, fun h => absurd h two, fun h => absurd h three⟩

end Accept

/-! ### Replays and losses -/

section Replay

variable {s : State} {p : BitVec 4}

/-- An event of a link that is logged, and that sets the link aside for a retraining or not. -/
theorem logged_updLink {f : LinkState → LinkState} {code : BitVec 8} {fseq : BitVec 12} {agenda : List Act} :
    let t : State := { (s.updLink p f).logLink p code fseq with agenda := agenda }
    t.link p = f (s.link p) ∧ Logged t 2 code ∧ Others s p t :=
  ⟨link_updLink_same s p f, logged_addLog .., others_updLink (s := s) (p := p) (f := f)⟩

/-- The acts after a count of requests in a row. -/
def retraining (s : State) (p : BitVec 4) (n : Nat) : List Act :=
  if 8 ≤ n then .event .retrain (.port p) :: s.agenda else s.agenda

theorem askReplay_eq : s.askReplay p = { (s.updLink p fun l => { l.control 2 with retries := l.retries + 1 }).logLink p 0x01
    (s.link p).expect with agenda := retraining s p ((s.link p).retries + 1) } := by
  unfold State.askReplay retraining
  extract_lets l t
  split <;> rfl

/-- The count of requests in a row for one unit. -/
def askedNow (l : LinkState) (first : BitVec 12) : Nat := if l.askedFor = first ∧ 0 < l.asked then l.asked + 1 else 1

theorem replayFrom_eq {first : BitVec 12} : replayFrom s p first = { (s.updLink p fun l => { l with
      out := l.out ++ l.window.dropWhile fun u => u.fseq != first
      asked := askedNow (s.link p) first, askedFor := first }).logLink p 0x01 first with
    agenda := retraining s p (askedNow (s.link p) first) } := by
  unfold replayFrom retraining askedNow
  extract_lets l n t
  split <;> rfl

/-- A port whose link is down is on no module's route. -/
theorem not_mem_routePorts (down : (s.link p).up = false) (m : BitVec 12) : p ∉ s.routePorts m := by
  intro mem
  have up : (s.link p).up = true := (List.mem_filter.mp mem).2
  rw [down] at up
  cases up

end Replay

/-- Settles O48: each event by the state of its link. -/
theorem linkEvents : Obligations.LinkEvents := by
  unfold Obligations.LinkEvents
  intro s p l logged others retrains idleAfter
  refine ⟨fun u occ down => ?down, fun u occ up => ⟨fun crc order => ?accept, fun wrong => ?drop⟩,
    fun first occ => ⟨fun up => ?replay, fun down => ?noReplay⟩,
    fun occ => ⟨fun up => ⟨?retrain, ?loss⟩, fun down => ?neither⟩⟩
  case down =>
    show execLinkUnit s = _
    simp only [execLinkUnit, occ, takeUnit, show (s.link p).up = false from down]
    rfl
  case accept =>
    have run : exec .linkUnit s = .next (takeUnit s p u) := by
      show execLinkUnit s = _
      simp only [execLinkUnit, occ]
      rfl
    obtain ⟨⟨rx, link⟩, kept, replay, retrain⟩ := takeUnit_accepts up crc order
    have sends := sends_accepted l u
    refine ⟨_, run, ?_, ?_, ?_, kept, replay, retrain, fun i waiting size found => ?_, fun i f waiting size pos found => ?_,
      fun none => ?_⟩ <;> rw [link]
    · exact sends.expect
    · exact sends.acked
    · exact sends.retries
    · exact accepted_covers waiting size found
    · exact accepted_covers_waiting waiting size pos found
    · exact accepted_none none
  case drop =>
    have run : exec .linkUnit s = .next (s.askReplay p) := by
      show execLinkUnit s = _
      simp only [execLinkUnit, occ, takeUnit, show (s.link p).up = true from up, Bool.not_true, Bool.false_eq_true, if_false]
      exact congrArg event (if_pos wrong)
    obtain ⟨link, entry, kept⟩ := logged_updLink (s := s) (p := p) (f := fun l => { l.control 2 with retries := l.retries + 1 })
      (code := 0x01) (fseq := l.expect) (agenda := retraining s p (l.retries + 1))
    rw [askReplay_eq] at run
    exact ⟨_, run, by rw [link]; rfl, by rw [link]; rfl, by rw [link], by rw [link]; exact ⟨_, rfl, rfl, rfl, rfl⟩, rfl, rfl,
      entry, kept⟩
  case replay =>
    have run : exec .replayRequest s = .next (replayFrom s p first) := by
      show execReplayRequest s = _
      simp only [execReplayRequest, occ, show (s.link p).up = true from up]
      rfl
    obtain ⟨link, entry, kept⟩ := logged_updLink (s := s) (p := p) (f := fun l => { l with
      out := l.out ++ l.window.dropWhile fun u => u.fseq != first, asked := askedNow (s.link p) first, askedFor := first })
      (code := 0x01) (fseq := first) (agenda := retraining s p (askedNow l first))
    rw [replayFrom_eq] at run
    refine ⟨_, run, ?_, ?_, ?_, entry, kept, ?_, ?_⟩ <;> rw [link] <;> rfl
  case noReplay =>
    show execReplayRequest s = _
    simp only [execReplayRequest, occ, show (s.link p).up = false from down]
    rfl
  case retrain =>
    have run : exec .retrain s = .next { (s.updLink p fun l => { l.control 3 with retries := 0, asked := 0 }).logLink p 0x02
        l.expect with agenda := s.agenda } := by
      show execRetrain s = _
      simp only [execRetrain, occ, show (s.link p).up = true from up]
      rfl
    obtain ⟨link, entry, kept⟩ := logged_updLink (s := s) (p := p) (f := fun l => { l.control 3 with retries := 0, asked := 0 })
      (code := 0x02) (fseq := l.expect) (agenda := s.agenda)
    exact ⟨_, run, by rw [link]; exact ⟨_, rfl, rfl, rfl⟩, by rw [link]; rfl, by rw [link], entry, kept⟩
  case loss =>
    let off : LinkState → LinkState := fun l => { l with
      up := false, window := [], waiting := [], rx := [], retries := 0, asked := 0 }
    let lost : State := (s.updLink p off).logLink p 0x03 l.next
    have run : exec .linkDown s = .next { lost with
        svc := { lost.svc with unreachable := (lost.svc.unreachable ++ lost.lostModules).dedup } } := by
      show execLinkDown s = _
      simp only [execLinkDown, occ, show (s.link p).up = true from up]
      rfl
    have link : lost.link p = off l := link_updLink_same s p off
    exact ⟨_, run, congrArg LinkState.up link, congrArg LinkState.window link, logged_addLog ..,
      others_updLink (f := off), fun m => not_mem_routePorts (s := { lost with svc := _ }) (congrArg LinkState.up link) m⟩
  case neither =>
    have off : (s.link p).up = false := down
    constructor
    · show execRetrain s = _
      simp only [execRetrain, occ, off]
      rfl
    · show execLinkDown s = _
      simp only [execLinkDown, occ, off]
      rfl

end Sys2Proof.LinkProofs
end

section
/-! PROOFS. A message that is alone in the network leaves it, and its answer reaches the one command of the module's core
(R175, R294, R296, R303). -/

namespace Sys2Proof.MessageProofs

open Sys2Proof Sys2Proof.Machine Sys2Proof.Claim

/-! ### The last message leaves -/

/-- Only the network differs, and no message is in it. -/
def NetEmptied (s t : State) : Prop := ∃ n : Net, t = { s with net := n } ∧ n.msgs = []

section Emptied

variable {s t u : State}

theorem NetEmptied.trans (h : NetEmptied s t) (h' : NetEmptied t u) : NetEmptied s u := by
  obtain ⟨n, rfl, -⟩ := h
  obtain ⟨n', rfl, msgs⟩ := h'
  exact ⟨n', rfl, msgs⟩

theorem NetEmptied.msgs (h : NetEmptied s t) : t.net.msgs = [] := by
  obtain ⟨n, rfl, msgs⟩ := h
  exact msgs

/-- Without messages a reassembly table has none to complete. -/
theorem emptied_takeFlit (h : s.net.msgs = []) (f : Flit) : NetEmptied s (s.takeFlit f).1 := by
  unfold State.takeFlit
  split
  · next r entered =>
    have msgs : r.1.msgs = [] := by
      unfold Net.enter at entered
      dsimp only at entered
      split at entered
      · cases entered
        split <;> exact h
      · split at entered
        · cases entered
          split <;> exact h
        · cases entered
    have none : State.arrive { s with net := { r.1 with store := s.net.stored f } } f =
        { s with net := { r.1 with store := s.net.stored f } } := by
      simp only [State.arrive, State.msg?, msgs, List.find?_nil]
    dsimp only
    rw [none, ite_self]
    exact ⟨_, rfl, msgs⟩
  · exact ⟨_, rfl, h⟩

theorem emptied_drainStore (n : Nat) (p : Port) {s : State} (h : s.net.msgs = []) : NetEmptied s (State.drainStore n s p) := by
  induction n generalizing s with
  | zero => exact ⟨_, rfl, h⟩
  | succ n ih =>
    rw [State.drainStore]
    split
    · next f _ =>
      have taken := emptied_takeFlit (s := { s with net := { s.net with store := s.net.store.erase f } }) h f
      exact NetEmptied.trans (t := { s with net := { s.net with store := s.net.store.erase f } }) ⟨_, rfl, h⟩
        (taken.trans (ih taken.msgs))
    · exact ⟨_, rfl, h⟩

/-- The one message of the network leaves it. -/
theorem emptied_dropMsg {m : Msg} (one : s.net.msgs = [m]) : NetEmptied s (s.dropMsg m.id) := by
  have found : s.msg? m.id = some m := by simp [State.msg?, one]
  have gone : (s.net.msgs.filter fun x => x.id != m.id) = [] := by simp [one]
  unfold State.dropMsg
  rw [found]
  dsimp only
  rw [gone]
  have still : ∀ n : Net, n.msgs = [] → State.relaunch { s with net := n } m.src = { s with net := n } := fun n none => by
    simp only [State.relaunch, none, List.find?_nil]
  rw [still _ rfl]
  split
  · exact NetEmptied.trans (t := { s with net := _ }) ⟨_, rfl, rfl⟩ (emptied_drainStore _ _ rfl)
  · exact ⟨_, rfl, rfl⟩

end Emptied

/-! ### The one command of the core, with one element -/

/-- The module's core runs one command, of one element, which an access is for. -/
structure Serves (s : State) (m : Msg) (q : Cmd) (p : Piece) : Prop where
  core : m.core = s.core.id
  running : s.core.running = [q]
  cmd : q.id = m.cmd
  pieces : q.pieces = [p]
  idx : p.idx = m.idx

/-- The module with another command in its core's one place. -/
def withCmd (s : State) (q : Cmd) : State := { s with core := { s.core with running := [q] } }

section Serves

variable {s : State} {m : Msg} {q : Cmd} {p : Piece}

theorem findCore_self : s.findCore s.core.id = s.core := if_pos rfl

theorem updCore_self (f : Core → Core) : s.updCore s.core.id f = { s with core := f s.core } := if_pos rfl

theorem cmd?_one (running : s.core.running = [q]) : s.cmd? s.core.id q.id = some q := by
  rw [State.cmd?, findCore_self, running, List.find?_singleton, if_pos (beq_self_eq_true _)]

theorem updCmd_one (running : s.core.running = [q]) (f : Cmd → Cmd) : s.updCmd s.core.id q.id f = withCmd s (f q) := by
  rw [State.updCmd, updCore_self, running, List.map_cons, if_pos rfl, List.map_nil]
  rfl

/-- A command whose one element is done begins nothing. -/
theorem pumpCore_done (running : s.core.running = [q]) (pieces : q.pieces = [p]) (done : p.stage = .done) :
    s.pumpCore s.core.id = s := by
  have still : s.pieceReady s.core.id q p = false := by simp [State.pieceReady, done]
  rw [State.pumpCore, findCore_self, running, List.foldl_cons, List.foldl_nil, State.pump, cmd?_one running]
  dsimp only
  rw [pieces, List.foldl_cons, List.foldl_nil, cmd?_one running]
  dsimp only
  rw [still]
  rfl

/-- The command with its one element failed. -/
def failed (q : Cmd) (p : Piece) (code : BitVec 8) (why : FaultWhy) : Cmd :=
  { q with pieces := [p.atFault q.op], faults := q.faults ++ [(p.idx, code, why)], stopped := true }

theorem failPiece_one (running : s.core.running = [q]) (pieces : q.pieces = [p]) (code : BitVec 8) (why : FaultWhy) :
    s.failPiece s.core.id q.id p.idx code why = withCmd s (failed q p code why) := by
  rw [State.failPiece, updCmd_one running, pieces, List.map_cons, if_pos rfl, List.map_nil]
  rfl

/-- An answer with a code that says the access was not made: the element fails, and the command stops. -/
theorem deliver_fails (h : Serves s m q p) (data : List Byte) {code : BitVec 8} (why : FaultWhy) (zero : code ≠ 0)
    (two : code ≠ 2) (pref : ∀ f, q.op ≠ .pref f) : s.deliver m data code why = withCmd s (failed q p code why) := by
  have fails := failPiece_one h.running h.pieces code why
  have rest : (withCmd s (failed q p code why)).pumpCore s.core.id = withCmd s (failed q p code why) :=
    pumpCore_done (s := withCmd s (failed q p code why)) rfl rfl rfl
  unfold State.deliver
  rw [h.core, ← h.cmd, cmd?_one h.running]
  dsimp only
  rw [h.pieces, ← h.idx, List.find?_singleton, if_pos (beq_self_eq_true _)]
  dsimp only
  split
  · next f op => exact absurd op (pref f)
  · rw [if_neg two, if_pos zero, fails, rest]

end Serves

end Sys2Proof.MessageProofs
end

section
/-! PROOFS. A router's cycle, credits, throttling, late accesses and the messages of a gateway between dies (R291 to R299,
R307). -/

namespace Sys2Proof.NetworkProofs

open Sys2Proof Sys2Proof.Machine Sys2Proof.Claim Sys2Proof.StackProofs Sys2Proof.MessageProofs

/-! ### A lone flit (R297) -/

/-- A fold where one element alone does something. -/
theorem foldl_single {α β : Type} {g : β → α → β} {a : α} {l : List α} (nodup : l.Nodup) (mem : a ∈ l)
    (others : ∀ b ∈ l, b ≠ a → ∀ t, g t b = t) (s : β) : l.foldl g s = g s a := by
  have none : ∀ (l : List α) (s : β), (∀ b ∈ l, ∀ t, g t b = t) → l.foldl g s = s := by
    intro l
    induction l with
    | nil => exact fun _ _ => rfl
    | cons b l ih =>
      intro s h
      rw [List.foldl_cons, h b List.mem_cons_self, ih s fun c mem => h c (List.mem_cons_of_mem _ mem)]
  induction l with
  | nil => cases mem
  | cons b l ih =>
    obtain ⟨fresh, nodup⟩ := List.nodup_cons.mp nodup
    rw [List.foldl_cons]
    by_cases same : b = a
    · subst same
      exact none l _ fun c mem => others c (List.mem_cons_of_mem _ mem) fun e => fresh (e ▸ mem)
    · rw [others b List.mem_cons_self same]
      exact ih nodup ((List.mem_cons.mp mem).resolve_left (Ne.symm same)) fun c mem => others c (List.mem_cons_of_mem _ mem)

/-- Routers are the same when their rows and columns are. -/
theorem router_ext {a b : BitVec 6} (row : rowOf a = rowOf b) (col : colOf a = colOf b) : a = b := by
  simp only [rowOf, colOf] at row col
  exact BitVec.eq_of_toNat_eq (by omega)

/-- A router away from a flit's own has a free mesh port that leads one hop nearer. -/
theorem want_nearer {here dst : BitVec 6} (away : dst ≠ here) (more : List Nat) : ∃ p < 4,
    (wantPorts here dst).find? ((meshPorts here ++ more).contains ·) = some p ∧
      hops (meshNext here p) dst + 1 = hops here dst := by
  have lt := here.isLt
  have lt' := dst.isLt
  have first : ∀ (p : Nat) (l : List Nat), p ∈ meshPorts here →
      (p :: l).find? ((meshPorts here ++ more).contains ·) = some p := fun p l mem =>
    List.find?_cons_of_pos (List.contains_iff_mem.mpr (List.mem_append_left _ mem))
  unfold wantPorts
  by_cases east : colOf here < colOf dst
  · have room : colOf here < 7 := by simp only [colOf] at *; omega
    have next : (meshNext here 1).toNat = here.toNat + 1 := by
      simp only [colOf] at room
      simp only [meshNext, BitVec.toNat_add, BitVec.reduceToNat]
      omega
    refine ⟨1, by decide, ?_, ?_⟩
    · rw [if_pos east]
      exact first 1 _ (by simp [meshPorts, room])
    · simp only [hops, rowOf, colOf, next] at east room ⊢
      omega
  by_cases west : colOf dst < colOf here
  · have room : 0 < colOf here := by omega
    have next : (meshNext here 3).toNat + 1 = here.toNat := by
      simp only [colOf] at room
      simp only [meshNext, BitVec.toNat_sub, BitVec.reduceToNat]
      omega
    refine ⟨3, by decide, ?_, ?_⟩
    · rw [if_neg east, if_pos west]
      exact first 3 _ (by simp [meshPorts, room])
    · simp only [hops, rowOf, colOf] at west room ⊢
      omega
  have same : colOf here = colOf dst := by omega
  by_cases south : rowOf here < rowOf dst
  · have room : rowOf here < 7 := by simp only [rowOf] at *; omega
    have next : (meshNext here 2).toNat = here.toNat + 8 := by
      simp only [rowOf] at room
      simp only [meshNext, BitVec.toNat_add, BitVec.reduceToNat]
      omega
    refine ⟨2, by decide, ?_, ?_⟩
    · rw [if_neg east, if_neg west, if_pos south]
      exact first 2 _ (by simp [meshPorts, room])
    · simp only [hops, rowOf, colOf, next] at south same ⊢
      omega
  by_cases north : rowOf dst < rowOf here
  · have room : 0 < rowOf here := by omega
    have next : (meshNext here 0).toNat + 8 = here.toNat := by
      simp only [rowOf] at room
      simp only [meshNext, BitVec.toNat_sub, BitVec.reduceToNat]
      omega
    refine ⟨0, by decide, ?_, ?_⟩
    · rw [if_neg east, if_neg west, if_neg south, if_pos north]
      exact first 0 _ (by simp [meshPorts, room])
    · simp only [hops, rowOf, colOf] at north same ⊢
      omega
  · exact absurd (router_ext (by omega) (by omega)) away

section Cycle

variable {s : State} {d : BitVec 2}

/-- Without flits at their sources no router injects. -/
theorem injectors_nil (none : ∀ f ∈ s.net.flits, f.inj = false) (r : BitVec 6) : s.injectors d r = [] := by
  have absent : ∀ p : Port, (s.net.flits.find? fun f => f.inj && f.src == p) = .none := fun p =>
    List.find?_eq_none.mpr fun f mem => by simp [none f mem]
  unfold State.injectors
  simp only [absent]
  induction unitPorts d r with
  | nil => rfl
  | cons _ _ ih => exact ih

/-- A router and plane without flits do nothing. -/
theorem routerWork_idle (none : ∀ f ∈ s.net.flits, f.inj = false) {r : BitVec 6}
    (away : ∀ f ∈ s.net.flits, f.src.die = d → f.here ≠ r) (t : State) : s.routerWork t d r = t := by
  have empty : ∀ plane, (s.net.flits.filter fun f => !f.inj && f.src.die == d && f.plane == plane && f.here == r) = [] :=
    fun plane => List.filter_eq_nil_iff.mpr fun f mem => by
      intro here
      simp only [Bool.and_eq_true, beq_iff_eq] at here
      exact away f mem here.1.1.2 here.2
  unfold State.routerWork
  rw [injectors_nil none]
  simp only [empty]
  rfl

/-- The cycle's count goes on (R299). -/
def cycledNet (s : State) (d : BitVec 2) (n : Net) : Net := { n with cycle := n.cycle.set d.toNat (s.dieCycle d + 1) d.isLt }

/-- A cycle that no throttle window ends with. -/
theorem routerCycleOn_eq (occ : s.occ = .die d) (inside : (s.dieCycle d + 1) % 1024 ≠ 0) : routerCycleOn s =
    let t := (List.range 64).foldl (fun (t : State) r => s.routerWork t d (BitVec.ofNat 6 r)) s
    { t with net := cycledNet s d t.net } := by
  rw [routerCycleOn, occ]
  exact if_neg inside

/-- A cycle without flits. -/
theorem routerCycleOn_empty (occ : s.occ = .die d) (inside : (s.dieCycle d + 1) % 1024 ≠ 0) (empty : s.net.flits = []) :
    routerCycleOn s = { s with net := cycledNet s d s.net } := by
  have idle : ∀ r t, s.routerWork t d r = t := fun r t => routerWork_idle (by simp [empty]) (by simp [empty]) t
  have still : ∀ l : List Nat, l.foldl (fun (t : State) r => s.routerWork t d (BitVec.ofNat 6 r)) s = s := by
    intro l
    induction l with
    | nil => rfl
    | cons r l ih => rw [List.foldl_cons, idle, ih]
  rw [routerCycleOn_eq occ inside, still]

/-- A router with one flit that wants another router: it leaves by its port, and nothing is ejected. -/
theorem routePlane_lone {f : Flit} (inj : f.inj = false) (away : f.dst.router ≠ f.here) : ∃ p,
    routePlane d f.here [f] [] = ⟨[{ f with here := meshNext f.here p }], [], 0⟩ ∧
      hops (meshNext f.here p) f.dst.router + 1 = hops f.here f.dst.router := by
  obtain ⟨p, mesh, found, nearer⟩ := want_nearer away (ejectPorts d f.here)
  refine ⟨p, ?_, nearer⟩
  have wants : f.want = wantPorts f.here f.dst.router := if_neg away
  have alone : mergeAll (sortFlits ([f] ++ [])).length (sortFlits ([f] ++ [])) = [f] := rfl
  have transit : routeTransit [f] (meshPorts f.here ++ ejectPorts d f.here) ⟨[], [], 0⟩ =
      (⟨[{ f with here := meshNext f.here p }], [], 0⟩, (meshPorts f.here ++ ejectPorts d f.here).erase p) := by
    rw [routeTransit, wants, found]
    dsimp only
    rw [routeTransit, RouterOut.send, if_neg (Nat.not_le.mpr mesh), List.nil_append, inj]
  unfold routePlane
  simp only [alone]
  simp only [List.filter_cons, inj, List.filter_nil, Bool.not_false, Bool.false_eq_true, if_true, if_false, transit]
  rfl

/-- The router where the one flit stands sends it one hop nearer, and does nothing else to the messages. -/
theorem routerWork_lone {f : Flit} (one : s.net.flits = [f]) (inj : f.inj = false) (die : f.src.die = d)
    (away : f.dst.router ≠ f.here) : ∃ p n, s.routerWork s d f.here = { s with net := n } ∧
      n.flits = [{ f with here := meshNext f.here p }] ∧ n.cycle = s.net.cycle ∧ n.msgs = s.net.msgs ∧
      hops (meshNext f.here p) f.dst.router + 1 = hops f.here f.dst.router := by
  obtain ⟨p, plane, nearer⟩ := routePlane_lone (d := d) inj away
  have none : ∀ g ∈ s.net.flits, g.inj = false := by simp [one, inj]
  have empty : ∀ q : BitVec 2, q ≠ f.plane →
      (s.net.flits.filter fun g => !g.inj && g.src.die == d && g.plane == q && g.here == f.here) = [] := fun q ne => by
    simp [one, Ne.symm ne]
  have here : (s.net.flits.filter fun g => !g.inj && g.src.die == d && g.plane == f.plane && g.here == f.here) = [f] := by
    simp [one, inj, die]
  have replaced : replaceFlits [f] [{ f with here := meshNext f.here p }] [f] = [{ f with here := meshNext f.here p }] := by
    simp [replaceFlits]
  refine ⟨p, ?_⟩
  unfold State.routerWork
  rw [injectors_nil none]
  dsimp only
  rw [foldl_single (a := f.plane) (by decide) (by generalize f.plane = q; revert q; decide)]
  · rw [here]
    simp only [List.filter_nil, List.append_nil, plane, one, replaced, List.isEmpty_cons, Bool.false_and, Bool.false_eq_true,
      if_false, List.foldl_nil]
    exact ⟨_, rfl, rfl, rfl, rfl, nearer⟩
  · intro q _ ne t
    rw [empty q ne]
    rfl

/-- A cycle with one flit that is away from its router. -/
theorem routerCycleOn_lone {f : Flit} (occ : s.occ = .die d) (inside : (s.dieCycle d + 1) % 1024 ≠ 0)
    (one : s.net.flits = [f]) (inj : f.inj = false) (die : f.src.die = d) (away : f.dst.router ≠ f.here) : ∃ p n,
    routerCycleOn s = { s with net := cycledNet s d n } ∧ n.flits = [{ f with here := meshNext f.here p }] ∧
      n.cycle = s.net.cycle ∧ n.msgs = s.net.msgs ∧
      hops (meshNext f.here p) f.dst.router + 1 = hops f.here f.dst.router := by
  obtain ⟨p, n, work, rest⟩ := routerWork_lone one inj die away
  refine ⟨p, n, ?_, rest⟩
  have idle : ∀ r : BitVec 6, r ≠ f.here → ∀ t, s.routerWork t d r = t := fun r ne t =>
    routerWork_idle (by simp [one, inj]) (by simp [one, Ne.symm ne]) t
  have here : (BitVec.ofNat 6 f.here.toNat) = f.here := BitVec.eq_of_toNat_eq (by simp)
  have walk := foldl_single (g := fun (t : State) (r : Nat) => s.routerWork t d (BitVec.ofNat 6 r)) (a := f.here.toNat)
    List.nodup_range (List.mem_range.mpr f.here.isLt) (fun r mem ne t => idle _ (fun e => ne (by
      rw [← e, BitVec.toNat_ofNat, Nat.mod_eq_of_lt (List.mem_range.mp mem)])) t) s
  rw [routerCycleOn_eq occ inside]
  simp only [walk, here, work]

end Cycle

/-! ### Throttling (R299) -/

/-- A die whose routers have a new level each and count anew. -/
def throttled (s : State) (d : BitVec 2) : State :=
  let row := (s.net.routers[d.toNat]'(d.isLt)).map fun (x : RouterState) => ⟨nextLevel x.level x.count, 0⟩
  { s with net := { s.net with routers := s.net.routers.set d.toNat row d.isLt } }

theorem router_throttled (s : State) (d : BitVec 2) (r : BitVec 6) : (throttled s d).router d r =
    ⟨nextLevel (s.router d r).level (s.router d r).count, 0⟩ := by
  simp only [State.router, throttled, Vector.getElem_set_self, Vector.getElem_map]

/-- A level rises to what the count asks for at once, and falls by one. -/
theorem nextLevel_toNat (level : BitVec 3) (n : Nat) : (nextLevel level n).toNat =
    if level.toNat ≤ (if n < 64 then 0 else min 7 (1 + Nat.log2 (n / 64))) then
      (if n < 64 then 0 else min 7 (1 + Nat.log2 (n / 64))) else level.toNat - 1 := by
  have goal : (if n < 64 then 0 else min 7 (1 + Nat.log2 (n / 64))) ≤ 7 := by split <;> omega
  unfold nextLevel
  dsimp only
  generalize (if n < 64 then 0 else min 7 (1 + Nat.log2 (n / 64))) = t at goal ⊢
  split
  · rw [BitVec.toNat_ofNat]
    omega
  · rw [BitVec.toNat_sub]
    simp only [BitVec.reduceToNat]
    omega

/-! ### Gateways between dies (R307) -/

/-- A message that is alone and has no message id takes the first. -/
theorem launch_alone {s : State} {y : Msg} (mid : y.mid = none) (one : s.net.msgs = [y]) : s.launch y =
    let m : Msg := { y with mid := some 0, entries := y.entries.map fun e => e.from' y 0 }
    { s with net := { s.net with msgs := [m], flits := s.net.flits ++ flitsOf m } } := by
  have free : s.freeMid y.src = some 0 := by
    have none : ((s.inFlight y.src).any fun m => m.mid == some (BitVec.ofNat 8 0)) = false := by
      simp [State.inFlight, one, mid]
    rw [State.freeMid, List.range_succ_eq_map, List.map_cons, List.find?_cons_of_pos]
    · rfl
    · rw [none]; rfl
  rw [State.launch, free]
  simp only [State.updMsg, one, List.map_cons, if_true, List.map_nil]

/-! ### Errors in flits (R296) -/

section Errors

variable {s : State} {f : Flit} (one : s.net.flits = [f]) (inj : f.inj = false)
include one inj

/-- The record of an error in a flit. -/
def flitLog (t : State) (f : Flit) (code : BitVec 8) : State :=
  t.addLog 3 code f.src.die (f.here.setWidth 8) (flitDetail f.here f.plane (sourceId f.src).toNat)

theorem flitError_corrected : flitErrorOn s f.mid f.seq .corrected = flitLog s f 1 := by
  simp [flitErrorOn, one, inj, flitLog]

theorem flitError_payload : flitErrorOn s f.mid f.seq .payload =
    flitLog { s with net := { s.net with flits := [{ f with psn := true }] } } f 2 := by
  simp [flitErrorOn, one, inj, flitLog]

/-- A header in error: no message that waits for no command is lost with it. -/
theorem flitError_header (waited : ∀ m ∈ s.net.msgs, m.bare = false) : flitErrorOn s f.mid f.seq .header =
    flitLog { s with net := { s.net with flits := [] } } f 3 := by
  have kept : ∀ (l : List Nat) (t : State), t.net.msgs = s.net.msgs → l.foldl State.loseBare t = t := by
    intro l
    induction l with
    | nil => exact fun _ _ => rfl
    | cons n l ih =>
      intro t msgs
      have still : t.loseBare n = t := by
        unfold State.loseBare
        split
        · next m found =>
          have mem : m ∈ s.net.msgs := msgs ▸ List.mem_of_find?_eq_some found
          rw [waited m mem]
          rfl
        · rfl
      rw [List.foldl_cons, still, ih t msgs]
  simp [flitErrorOn, one, inj, flitLog, kept]

end Errors

/-- An access to this module's memory is late after 64 µs. -/
theorem accessLate_eq {s : State} {m : Msg} (bare : m.bare = false) (near : m.overFabric = false) :
    s.accessLate m = decide (64000 ≤ (s.ptb - m.since).toNat) := by
  rw [State.accessLate, bare, near]
  rfl

/-- Settles O43: each event on what the network holds. -/
theorem networkEvents : Obligations.NetworkEvents := by
  unfold Obligations.NetworkEvents
  intro s d cycled
  refine ⟨fun occ inside => ⟨fun empty => ?empty, fun f one inj die away => ?lone⟩, fun n occ => ?credit, fun occ => ?window,
    fun n m q p occ found core parked running cmd pieces idx bare near one pref => ⟨fun late => ?late, fun early => ?early⟩,
    fun r plane src occ => ?unknown, fun f e one inj waited occ => ?error, fun n m occ id one arrived other => ?ucie⟩
  case empty =>
    have run : exec .routerCycle s = event (routerCycleOn s) := by
      show execRouterCycle s = _
      simp only [execRouterCycle, occ]
    exact run.trans (congrArg event (routerCycleOn_empty occ inside empty))
  case lone =>
    have run : exec .routerCycle s = event (routerCycleOn s) := by
      show execRouterCycle s = _
      simp only [execRouterCycle, occ]
    obtain ⟨p, n, cycle, flits, count, msgs, nearer⟩ := routerCycleOn_lone occ inside one inj die away
    refine ⟨_, _, run.trans (congrArg event cycle), flits, rfl, ?_, msgs, nearer⟩
    show n.cycle.set d.toNat (s.dieCycle d + 1) d.isLt = _
    rw [count]
  case credit =>
    show execCreditReturn s = _
    rw [execCreditReturn, occ]
    rfl
  case window =>
    have run : exec .throttleWindow s = event (throttled s d) := by
      show execThrottleWindow s = _
      simp only [execThrottleWindow, occ]
      rw [← occ]
      rfl
    refine ⟨_, run, fun r => ?_, rfl, rfl⟩
    rw [router_throttled]
    exact ⟨rfl, nextLevel_toNat ..⟩
  case late =>
    have isLate : s.accessLate m = true := (accessLate_eq bare near).trans (decide_eq_true late)
    have id : m.id = n := by simpa using List.find?_some found
    obtain ⟨net, dropped, gone⟩ := emptied_dropMsg one
    have serves : Serves { s with net := net } m q p := ⟨core, running, cmd, pieces, idx⟩
    have run : exec .accessTimeout s = event (((s.dropMsg m.id).deliver m [] 0x07 .response).addLog 3 0x05 (coreDie m.core)
        (bits m.core 0 8) (flitDetail (corePort m.core).router 0 (sourceId (corePort m.core)).toNat)) := by
      show execAccessTimeout s = _
      simp only [execAccessTimeout, occ, found, isLate, if_true, id]
    rw [dropped, deliver_fails serves [] .response (by decide) (by decide) pref] at run
    obtain ⟨x, last, kind, code⟩ := logged_addLog (withCmd { s with net := net } (failed q p 0x07 .response)) 3 0x05
      (coreDie m.core) (bits m.core 0 8) (flitDetail (corePort m.core).router 0 (sourceId (corePort m.core)).toNat)
    exact ⟨_, x, run, gone, rfl, rfl, last, kind, code, rfl⟩
  case early =>
    have isEarly : s.accessLate m = false := (accessLate_eq bare near).trans (decide_eq_false (by omega))
    show execAccessTimeout s = _
    simp only [execAccessTimeout, occ, found, isEarly]
    rfl
  case unknown =>
    have run : exec .flitUnknownOp s = event (s.addLog 3 0x04 d (r.setWidth 8) (flitDetail r plane src.toNat)) := by
      show execFlitUnknownOp s = _
      rw [execFlitUnknownOp, occ]
    obtain ⟨x, last, kind, code⟩ := logged_addLog s 3 0x04 d (r.setWidth 8) (flitDetail r plane src.toNat)
    exact ⟨_, x, run, last, kind, code, rfl, rfl⟩
  case error =>
    have run : exec .routerCycle s = event (flitErrorOn s f.mid f.seq e) := by
      show execRouterCycle s = _
      simp only [execRouterCycle, occ]
    cases e with
    | corrected =>
      rw [flitError_corrected one inj] at run
      obtain ⟨x, last, kind, code⟩ := logged_addLog s 3 1 f.src.die (f.here.setWidth 8)
        (flitDetail f.here f.plane (sourceId f.src).toNat)
      exact ⟨_, x, run, one, last, kind, code, rfl, rfl⟩
    | payload =>
      rw [flitError_payload one inj] at run
      obtain ⟨x, last, kind, code⟩ := logged_addLog { s with net := { s.net with flits := [{ f with psn := true }] } } 3 2
        f.src.die (f.here.setWidth 8) (flitDetail f.here f.plane (sourceId f.src).toNat)
      exact ⟨_, x, run, rfl, last, kind, code, rfl, rfl⟩
    | header =>
      rw [flitError_header one inj waited] at run
      obtain ⟨x, last, kind, code⟩ := logged_addLog { s with net := { s.net with flits := [] } } 3 3
        f.src.die (f.here.setWidth 8) (flitDetail f.here f.plane (sourceId f.src).toNat)
      exact ⟨_, x, run, rfl, last, kind, code, rfl, rfl⟩
  case ucie =>
    subst id
    let peer : Port := ⟨m.final.die, gatewayRouter m.final.die m.dst.die (m.final.router.getLsbD 0), 4⟩
    let y : Msg := { m with src := peer, dst := m.final, mid := none, arrived := false }
    have found : s.msg? m.id = some m := by simp [State.msg?, one]
    have first : (m.atUcie && s.moduleNext m) = true := by simp [Msg.atUcie, arrived, other, State.moduleNext, one]
    have run : exec .ucieMessage s = event (State.launch { s with net := { s.net with
        msgs := (s.net.msgs.filter fun x => x.id != m.id) ++ [y] } } y) := by
      show execUcieMessage s = _
      simp only [execUcieMessage, occ, found, first, if_true]
      rfl
    have alone : (s.net.msgs.filter fun x => x.id != m.id) ++ [y] = [y] := by simp [one]
    rw [alone, launch_alone rfl rfl] at run
    exact ⟨_, _, run, rfl, rfl, rfl, rfl, rfl, rfl, rfl, rfl, rfl⟩

end Sys2Proof.NetworkProofs
end

section
/-! PROOFS. A request is performed at its home and answered, and an answer ends its element (R294, R302, R303, R306). -/

namespace Sys2Proof.HomeProofs

open Sys2Proof Sys2Proof.Machine Sys2Proof.Claim Sys2Proof.MessageProofs Sys2Proof.NetworkProofs
  Sys2Proof.CheckpointProofs Sys2Proof.QueueProofs

/-! ### The one message at its end -/

/-- The one message of the network stands whole at its end, and an event names it. -/
structure AtEnd (s : State) (m : Msg) : Prop where
  occ : s.occ = .num m.id
  one : s.net.msgs = [m]
  arrived : m.arrived = true
  home : m.dst = m.final

section AtEnd

variable {s : State} {m : Msg} (h : AtEnd s m)
include h

-- Memory is bounded and each thread holds some: what stands before is checked before more is begun.
set_option Elab.async false in
theorem AtEnd.found : s.msg? m.id = some m := by simp [State.msg?, h.one]

/-- Nothing came before it, so that it is its turn. -/
theorem AtEnd.received : s.received m.op = some m := by
  have first : s.before m = [] := by simp [State.before, h.one]
  have turn : s.turn m = true := by simp [State.turn, State.bankTaken, State.firstServed, first]
  simp only [State.received, h.occ, h.found, h.arrived, h.home, turn, and_self, if_true]

/-- A message of another kind is not taken. -/
theorem AtEnd.received_eq {op : NetOp} (kind : m.op = op) : s.received op = some m := kind ▸ h.received

end AtEnd

/-- Activations of rows are all that an access adds to what it does. -/
theorem activate_frame (l : List (Nat × Nat)) (s : State) : ∃ a, s.activate l = { s with activations := a } := by
  have touches : ∀ (k : List Nat) (n : Nat) (s : State), ∃ a,
      k.foldl (fun (s : State) i => s.touch (512 * (n + i))) s = { s with activations := a } := by
    intro k n
    induction k with
    | nil => exact fun s => ⟨_, rfl⟩
    | cons i k ih =>
      intro s
      obtain ⟨a, e⟩ := ih (s.touch (512 * (n + i)))
      exact ⟨a, e⟩
  induction l generalizing s with
  | nil => exact ⟨_, rfl⟩
  | cons p l ih =>
    obtain ⟨a, e⟩ := touches (List.range ((p.1 + max 1 p.2 - 1) / 512 - p.1 / 512 + 1)) (p.1 / 512) s
    obtain ⟨a', e'⟩ := ih (s.touchAll p.1 p.2)
    refine ⟨a', e'.trans ?_⟩
    rw [State.touchAll, e]

/-- A home unit takes a message: it serves it, and the rows it asks for are activated. -/
theorem takeMsg_home (s : State) {m : Msg} (plain : m.packet = none) (unit : m.final.isTrepin = false) (t : State) :
    ∃ a, s.takeMsg m t = { t with activations := a } := by
  unfold State.takeMsg
  simp only [plain, unit, Bool.false_eq_true, if_false]
  split
  · exact activate_frame ..
  · exact ⟨_, rfl⟩

/-! ### Answers -/

/-- What a message keeps of itself as it is sent. -/
structure Sent (m y : Msg) : Prop where
  op : y.op = m.op
  core : y.core = m.core
  cmd : y.cmd = m.cmd
  idx : y.idx = m.idx
  loc : y.loc = m.loc
  width : y.width = m.width
  data : y.data = m.data
  sub : y.sub = m.sub
  status : y.status = m.status
  final : y.final = m.final
  packet : y.packet = m.packet

/-- A message is sent into a network without others. -/
theorem sendMsg_alone {t : State} (none : t.net.msgs = []) (m : Msg) : ∃ n y, t.sendMsg m = { t with net := n } ∧
    n.msgs = [y] ∧ Sent m y := by
  unfold State.sendMsg
  extract_lets y
  have only : t.net.msgs ++ [y] = [y] := by rw [none]; rfl
  rw [only, launch_alone rfl rfl]
  exact ⟨_, _, rfl, rfl, rfl, rfl, rfl, rfl, rfl, rfl, rfl, rfl, rfl, rfl, rfl⟩

/-- The network holds one message, the answer to a request with these data and status. -/
def Answers (m : Msg) (n : Net) (op : NetOp) (data : List Byte) (code : BitVec 8) : Prop := ∃ a : Msg,
  n.msgs = [a] ∧ a.op = op ∧ a.data = data ∧ a.status = code ∧ a.core = m.core ∧ a.cmd = m.cmd ∧ a.idx = m.idx ∧
    a.final = corePort m.core

section Answer

variable {t : State} {m : Msg} (one : t.net.msgs = [m]) (waited : m.bare = false) (op : NetOp) (data : List Byte)
  (code : BitVec 8) (why : FaultWhy)
include one waited

theorem reply_answers : ∃ n : Net, t.reply m op data code why = { t with net := n } ∧ Answers m n op data code := by
  obtain ⟨n, dropped, none⟩ := emptied_dropMsg one
  obtain ⟨k, y, sent, msgs, same⟩ := sendMsg_alone (t := { t with net := n }) none (m.answer op data code why)
  rw [State.reply, waited, dropped]
  exact ⟨k, sent, y, msgs, same.op, same.data, same.status, same.core, same.cmd, same.idx, same.final⟩

/-- Nothing was sent with the answer, so that it leaves at once. -/
theorem replyLater_answers (since : Nat) : ∃ n : Net, t.replyLater since m op data code why = { t with net := n } ∧
    Answers m n op data code := by
  obtain ⟨n, dropped, none⟩ := emptied_dropMsg one
  obtain ⟨k, y, sent, msgs, same⟩ := sendMsg_alone (t := { t with net := n }) none (m.answer op data code why)
  rw [State.replyLater, waited, dropped, State.sendLater]
  simp only [none, List.filter_nil, List.map_nil, List.isEmpty_nil]
  exact ⟨k, sent, y, msgs, same.op, same.data, same.status, same.core, same.cmd, same.idx, same.final⟩

end Answer

/-! ### What a home unit does (R183 to R186, R302) -/

/-- What an access at its home changes of the module where no page is mirrored. -/
def Performed (s t : State) : Prop := ∃ mem poisoned contexts svc, t = { s with mem, poisoned, contexts, svc }

section Performed

variable {s t u : State}

theorem Performed.refl (s : State) : Performed s s := ⟨_, _, _, _, rfl⟩

theorem Performed.trans (h : Performed s t) (h' : Performed t u) : Performed s u := by
  obtain ⟨_, _, _, _, rfl⟩ := h
  obtain ⟨_, _, _, _, rfl⟩ := h'
  exact ⟨_, _, _, _, rfl⟩

theorem Performed.net (h : Performed s t) : t.net = s.net := by
  obtain ⟨_, _, _, _, rfl⟩ := h
  rfl

theorem performed_store (unmirrored : Unmirrored s) (l : List (Nat × Byte)) : Performed s (s.store l) :=
  ⟨_, _, _, _, store_of_unmirrored unmirrored l⟩

theorem performed_logPoison (s : State) (a n : Nat) : Performed s (s.logPoison a n) :=
  ⟨_, _, _, _, State.logPoison_frame s a n⟩

theorem homeLog_frame (s : State) (m : Msg) : s.homeLog m = { s with svc := (s.homeLog m).svc } := by
  unfold State.homeLog
  split
  · exact State.logPoison_frame ..
  · rfl

theorem homeLog_mem_eq (s : State) (m : Msg) : (s.homeLog m).mem = s.mem := by rw [homeLog_frame]

theorem performed_homeLog (s : State) (m : Msg) : Performed s (s.homeLog m) := ⟨_, _, _, _, homeLog_frame s m⟩

theorem homeLog_ok {m : Msg} (ok : s.homeCode m = 0) : s.homeLog m = s := if_neg (by rw [ok]; rintro ⟨-, ⟨⟩⟩)

variable (unmirrored : Unmirrored s)
include unmirrored

theorem performed_amoAt (a sub : Nat) (b : Word) : Performed s (s.amoAt a sub b).1 := performed_store unmirrored _

theorem performed_casAt (a w : Nat) (l : List Byte) (c : BitVec 8) : Performed s (s.casAt a w l c).state := by
  unfold State.casAt
  dsimp only
  split
  · split
    · exact .refl s
    · exact performed_store unmirrored _
  · exact .refl s

theorem performed_dcasAt (a b : Nat) (l : List Byte) (c : BitVec 8) : Performed s (s.dcasAt a b l c).state := by
  unfold State.dcasAt
  dsimp only
  split
  · split
    · exact .refl s
    · exact performed_store unmirrored _
  · exact .refl s

theorem performed_enqueue (h t n va : Nat) (o : Nat × Nat) : Performed s (s.enqueue' h t n va o).state := by
  unfold State.enqueue'
  dsimp only
  split <;> exact (performed_store unmirrored _).trans (performed_store (unmirrored_store unmirrored _) _)

theorem performed_enqAt (a : BitVec 16) (k : BitVec 6) (d n : Nat) : Performed s (s.enqAt a k d n).state := by
  unfold State.enqAt
  split
  · split
    · exact .refl s
    · split
      · exact ((performed_logPoison ..).trans (performed_logPoison ..)).trans (performed_logPoison ..)
      · extract_lets tail
        split
        · exact performed_enqueue unmirrored ..
        · split
          · split
            · exact .refl s
            · split
              · exact performed_logPoison ..
              · exact performed_enqueue unmirrored ..
          · exact .refl s
  all_goals exact .refl s

/-- An unmergeable operation, whatever it is. -/
theorem performed_atomicAt (m : Msg) : Performed s (s.atomicAt m).state := by
  unfold State.atomicAt
  dsimp only
  split
  · exact performed_enqAt unmirrored ..
  split
  · exact performed_homeLog ..
  split
  · exact performed_amoAt unmirrored ..
  split
  · exact performed_casAt unmirrored ..
  split
  · exact performed_casAt unmirrored ..
  split
  · exact performed_casAt unmirrored ..
  split
  · split
    · exact performed_logPoison ..
    · exact performed_dcasAt unmirrored ..
  split
  · split
    · split
      · exact .refl s
      · exact performed_logPoison ..
    · exact .refl s
  · exact .refl s

end Performed

/-! ### Runs of bytes -/

/-- What a byte reads as after a run of bytes from an address has been written. -/
theorem peek_store_run {s : State} (wf : s.memWf) (unmirrored : Unmirrored s) (base : Nat) (l : List Byte) (a : Nat) :
    (s.store (cellsFrom base l)).peek a = if base ≤ a then l.getD (a - base) (s.peek a) else s.peek a := by
  rw [State.peek_store wf, mirrorAll_nil unmirrored, lastOf_cellsFrom]
  split
  · rw [List.getD_eq_getElem?_getD]
  · rfl

/-! ### An element that is done -/

section Element

variable {s : State} {m : Msg} {q : Cmd} {p : Piece}

/-- The command with its one element done. -/
def completed (q : Cmd) (p : Piece) : Cmd := { q with pieces := [{ p with stage := .done, out := none }] }

theorem donePiece_one (running : s.core.running = [q]) (pieces : q.pieces = [p]) :
    s.donePiece s.core.id q.id p.idx = withCmd s (completed q p) := by
  rw [State.donePiece, updCmd_one running]
  dsimp only
  rw [pieces, List.map_cons, if_pos (.inl rfl), List.map_nil]
  rfl

/-- An answer without a code: the element takes its data, and the core's commands go on. -/
theorem deliver_takes (h : Serves s m q p) (data : List Byte) (why : FaultWhy) :
    s.deliver m data 0 why = (s.takeData m q p data).pumpCore s.core.id := by
  unfold State.deliver
  rw [h.core, ← h.cmd, cmd?_one h.running]
  dsimp only
  rw [h.pieces, ← h.idx, List.find?_singleton, if_pos (beq_self_eq_true _)]
  dsimp only
  split
  · rw [if_neg (by decide), if_neg (fun ne => ne rfl)]
  · rw [if_neg (by decide), if_neg (fun ne => ne rfl)]

/-- A command whose one element is done begins nothing more. -/
theorem pumpCore_completed : (withCmd s (completed q p)).pumpCore s.core.id = withCmd s (completed q p) :=
  pumpCore_done (s := withCmd s (completed q p)) rfl rfl rfl

/-- So it is once its bytes have been written. -/
theorem pumpCore_stored (unmirrored : Unmirrored s) (l : List (Nat × Byte)) :
    (withCmd (s.store l) (completed q p)).pumpCore s.core.id = withCmd (s.store l) (completed q p) := by
  have id : s.core.id = (s.store l).core.id := by rw [store_of_unmirrored unmirrored]; rfl
  rw [id]
  exact pumpCore_completed (s := s.store l)

/-- A write that is acknowledged ends its element (R294). -/
theorem takeData_writing (h : Serves s m q p) {f : CpF} (copy : q.op = .copy f) (stage : p.stage = .writing) (data : List Byte) :
    s.takeData m q p data = withCmd s (completed q p) := by
  have none : resultOffset q = none := by rw [resultOffset, copy]
  have result : ((resultOffset q).isSome || p.stage == .writing || (amoSub q.op).isSome) = true := by
    rw [none, stage]
    rfl
  have finish : s.finishPiece m.core q p.idx data = withCmd s (completed q p) := by
    rw [State.finishPiece, none, h.core]
    exact donePiece_one h.running h.pieces
  rw [State.takeData, copy]
  exact (if_pos (copy ▸ result)).trans finish

/-- A one-element command's result is written into its words, and the element is done (R174, R294). -/
theorem takeData_result (h : Serves s m q p) (unmirrored : Unmirrored s) {o : Nat} (offset : resultOffset q = some o)
    (chase : ∀ f, q.op ≠ .chase f) (enq : ∀ f, q.op ≠ .enq f) (data : List Byte) : s.takeData m q p data =
      withCmd (s.store (cellsFrom (spadBase s.core.id + o) (resultBytes q data))) (completed q p) := by
  have core := congrArg State.core (store_of_unmirrored unmirrored (cellsFrom (spadBase s.core.id + o) (resultBytes q data)))
  have finish : s.finishPiece m.core q p.idx data =
      withCmd (s.store (cellsFrom (spadBase s.core.id + o) (resultBytes q data))) (completed q p) := by
    rw [State.finishPiece, offset, h.core]
    show (s.store (cellsFrom (spadBase s.core.id + o) (resultBytes q data))).donePiece s.core.id q.id p.idx = _
    generalize s.store (cellsFrom (spadBase s.core.id + o) (resultBytes q data)) = t at core ⊢
    rw [show s.core.id = t.core.id from congrArg Core.id core.symm]
    exact donePiece_one ((congrArg Core.running core).trans h.running) h.pieces
  have noResult : ∀ {i : Instr}, q.op = i → resultOffset { q with op := i } = some o := fun e => by rw [← e, ← offset]
  unfold State.takeData
  split
  · next f op => exact absurd op (chase f)
  · next f op => cases noResult op
  · next f op => exact absurd op (enq f)
  · next f op => cases noResult op
  · next f op => cases noResult op
  · next f op => cases noResult op
  · next f op => cases noResult op
  · next f op => cases noResult op
  · rw [offset]
    exact (if_pos rfl).trans finish

/-- Data of whole bytes that is read for a copy into the core's scratchpad lies there, and the element is done (R294). -/
theorem takeData_reading (h : Serves s m q p) (unmirrored : Unmirrored s) {f : CpF} (copy : q.op = .copy f)
    (stage : p.stage = .reading) (out : p.out = none) {b : Nat} (dst : p.dst = .spad b)
    (same : Nest.fmtCode q.nest false = Nest.fmtCode q.nest true) (whole : nestWidth q.nest true % 8 = 0) (data : List Byte) :
    s.takeData m q p data = withCmd (s.store (cellsFrom (spadBase s.core.id + b / 8)
      (data.take (nestWidth q.nest true / 8)))) (completed q p) := by
  have none : resultOffset q = .none := by rw [resultOffset, copy]
  have other : ((resultOffset q).isSome || p.stage == .writing || (amoSub q.op).isSome) = false := by
    rw [none, stage, copy]
    rfl
  have width : srcWidth q p = nestWidth q.nest true := by
    rw [srcWidth, copy]
    show ((Fmt.ofCode (Nest.fmtCode q.nest false)).map Fmt.width).getD 8 = _
    rw [same]
    rfl
  have bytes : ∀ l, remoteNibble l (srcWidth q p) data = data := fun l => by
    unfold remoteNibble
    split
    · exact if_pos (width ▸ whole)
    · rfl
  have elem : ∀ l, s.elemOut q p l = l := fun l => by
    rw [State.elemOut, copy]
    exact if_pos same
  have dest : dstWidth q p = nestWidth q.nest true := by rw [dstWidth, copy]
  have place : (8 * spadBase s.core.id + b) / 8 = spadBase s.core.id + b / 8 := by omega
  have core := congrArg State.core (store_of_unmirrored unmirrored (cellsFrom (spadBase s.core.id + b / 8)
    (data.take (nestWidth q.nest true / 8))))
  have written : s.haveData m.core q p data = withCmd (s.store (cellsFrom (spadBase s.core.id + b / 8)
      (data.take (nestWidth q.nest true / 8)))) (completed q p) := by
    rw [State.haveData, dest, elem, State.writeElem, dst]
    dsimp only
    rw [State.physCells, if_pos whole, h.core, place]
    generalize s.store (cellsFrom (spadBase s.core.id + b / 8) (data.take (nestWidth q.nest true / 8))) = t at core ⊢
    have mark : q.mark p.idx .done = completed q p := by
      rw [Cmd.mark, h.pieces, List.map_cons, if_pos rfl, List.map_nil, completed, out]
    rw [State.markPiece, show s.core.id = t.core.id from congrArg Core.id core.symm,
      updCmd_one ((congrArg Core.running core).trans h.running), mark]
  rw [State.takeData, copy]
  refine (if_neg (copy ▸ ne_true_of_eq_false other)).trans ?_
  rw [out]
  dsimp only
  rw [bytes]
  exact written

end Element

/-! ### Requests at their home -/

section Requests

variable {s : State} {m : Msg} (whole : m.psn = false)
include whole

theorem requestCode_eq : s.requestCode m = s.homeCode m := if_neg (ne_true_of_eq_false whole)

theorem serveRead_eq {b : Nat} (loc : m.loc = .phys b) : s.serveRead m = (s.homeLog m).reply m .readResp
    (if s.homeCode m = 0 then s.physBytes b m.width else []) (s.homeCode m) m.why' := by
  rw [State.serveRead, requestCode_eq whole, loc]

/-- A write to memory of a stack writes its bytes. -/
theorem serveWrite_eq {b i : Nat} (loc : m.loc = .phys b) (place : placeOf (b / 8) = .stack i)
    (width : m.width = 8 * m.data.length) : s.serveWrite m =
      (s.store (cellsFrom (b / 8) m.data)).replyLater s.net.nextMsg m .writeAck [] 0 m.why' := by
  have code : s.writeCodeAt m = 0 := by
    rw [State.writeCodeAt, whole, loc, Loc.byte, place]
    rfl
  have cells : s.physCells b m.width m.data = cellsFrom (b / 8) m.data := by
    rw [State.physCells, width, if_pos (Nat.mul_mod_right ..), Nat.mul_div_cancel_left _ (by decide), List.take_length]
  have at' : s.writeAt m = (s.store (cellsFrom (b / 8) m.data), 0) := by
    rw [State.writeAt, code, loc]
    exact (if_pos rfl).trans (by rw [cells])
  rw [State.serveWrite, at']

theorem serveAtomic_eq : s.serveAtomic m =
    (s.atomicAt m).state.replyLater s.net.nextMsg m .atResp (s.atomicAt m).data (s.atomicAt m).code :=
  if_neg (ne_true_of_eq_false whole)

/-- A mergeable operation of one source. -/
theorem serveMerge_eq {e : AmoEntry} (one : s.net.msgs = [m]) (entries : m.entries = [e]) (own : e.msg = m.id) :
    let r := if s.homeCode m = 0 then s.amoAt m.loc.byte m.sub e.operand else (s.homeLog m, 0)
    Unmirrored s → s.serveMerge m = r.1.replyLater s.net.nextMsg m .atResp (bytesOfNat (amoWidth m.sub) r.2.toNat)
      (s.homeCode m) m.why' := by
  intro r unmirrored
  have found : ∀ t : State, t.net = s.net → t.msg? e.msg = some m := fun t net => by simp [State.msg?, net, one, own]
  have performed : Performed s r.1 := by
    show Performed s (if _ then _ else _ : State × Word).1
    split
    · exact performed_amoAt unmirrored ..
    · exact performed_homeLog ..
  have code : (s.homeLog m).requestCode { m with asid := (((s.homeLog m).msg? e.msg).map (·.asid)).getD m.asid } = s.homeCode m := by
    rw [found _ (performed_homeLog s m).net]
    refine (requestCode_eq whole).trans ?_
    rw [homeLog_frame]
    rfl
  have entry : (s.homeLog m).mergeEntries m m.entries = (r.1, [(m.id, r.2, s.homeCode m)]) := by
    rw [entries, State.mergeEntries, code, State.mergeEntries, own]
    by_cases ok : s.homeCode m = 0
    · simp only [r, ok, if_true, homeLog_ok ok]
    · simp only [r, ok, if_false]
  rw [State.serveMerge, entry, List.foldl_cons, List.foldl_nil, State.replyEntry, ← own, found _ performed.net]

omit whole in
/-- A decrement that leaves its counter above zero. -/
theorem decrementAt_part {pa k : Nat} (pos : 0 < k) (part : k < s.peekNat pa 4) (va : VAddr) :
    s.decrementAt pa va (BitVec.ofNat 32 k) = s.store (cellsFrom pa (bytesOfNat 4 (s.peekNat pa 4 - k))) := by
  have bound : s.peekNat pa 4 < 2 ^ 32 := by
    have := natOfBytes_lt (s.peekBytes pa 4)
    simpa [State.peekBytes, State.peekNat] using this
  have toNat : (BitVec.ofNat 32 k).toNat = k := by rw [BitVec.toNat_ofNat]; omega
  have ne : BitVec.ofNat 32 k ≠ 0 := fun e => by
    have := congrArg BitVec.toNat e
    rw [toNat] at this
    exact pos.ne' this
  have rest : (BitVec.ofNat 32 (s.peekNat pa 4) - BitVec.ofNat 32 k).toNat = s.peekNat pa 4 - k := by
    rw [BitVec.toNat_sub, toNat, BitVec.toNat_ofNat]
    omega
  unfold State.decrementAt
  dsimp only
  rw [if_neg ne, toNat, rest, if_neg (by omega), if_neg (by omega)]
  rfl

end Requests

/-- A home unit that serves a message and answers it at once: the network holds the answer alone. -/
theorem replied {s : State} {m : Msg} {i : Instr} (plain : m.packet = none) (unit : m.final.isTrepin = false)
    (waited : m.bare = false) {t : State} (one : t.net.msgs = [m]) {op : NetOp} {data : List Byte} {code : BitVec 8}
    {why : FaultWhy} {since : Nat}
    (run : exec i s = event (s.takeMsg m (t.replyLater since m op data code why))) :
    ∃ u, exec i s = .next u ∧ Answers m u.net op data code ∧ u.mem = t.mem := by
  obtain ⟨k, served, answered⟩ := replyLater_answers one waited op data code why since
  obtain ⟨a, done⟩ := takeMsg_home s plain unit (t.replyLater since m op data code why)
  rw [done, served] at run
  exact ⟨_, run, answered, rfl⟩

/-- An answer that is whole at its end reaches its element. -/
theorem takeAnswer_eq {s : State} {m : Msg} (atEnd : AtEnd s m) (whole : m.psn = false) {op : NetOp} (kind : m.op = op) :
    s.takeAnswer op = s.takeMsg m ((s.dropMsg m.id).deliver m m.data m.status m.why) := by
  rw [State.takeAnswer, atEnd.received_eq kind]
  exact congrArg (s.takeMsg m) (if_neg (ne_true_of_eq_false whole))

/-- Settles O44: each kind of message at its end. -/
theorem messagesAreAnswered : Obligations.MessagesAreAnswered := by
  unfold Obligations.MessagesAreAnswered
  intro s n m occ one id arrived home whole unit waited plain unmirrored answers wrote
  subst id
  have atEnd : AtEnd s m := ⟨occ, one, arrived, home⟩
  have msgs : ∀ t, Performed s t → t.net.msgs = [m] := fun t h => by rw [h.net, one]
  refine ⟨fun kind sub b loc => ?read, fun kind wf b i loc place width => ?write, fun kind sub w o src mid entries => ?merge,
    fun kind => ?atomic, fun kind => ⟨fun unknown still => ?noRec, fun r found cell sub sound => ?pstat⟩,
    fun kind => ⟨fun bad => ?counterBad, fun ok wf k amount pos part => ?counter⟩, fun kind => ?control,
    fun e mem kind q p parked core running cmd pieces idx => ?answer⟩
  case read =>
    have run : exec .netReadRequest s = event (s.takeMsg m (s.serveRead m)) := by
      show execNetReadRequest s = _
      rw [execNetReadRequest, atEnd.received_eq kind]
      exact congrArg (fun t => event (s.takeMsg m t)) (if_neg (by rw [sub]; decide))
    obtain ⟨k, served, answered⟩ := reply_answers (msgs _ (performed_homeLog s m)) waited .readResp
      (if s.homeCode m = 0 then s.physBytes b m.width else []) (s.homeCode m) m.why'
    obtain ⟨a, done⟩ := takeMsg_home s plain unit (s.serveRead m)
    rw [done, serveRead_eq whole loc, served, homeLog_frame] at run
    refine ⟨fun ok => ⟨_, run, ?_, rfl⟩, fun bad => ⟨_, run, ?_, rfl⟩⟩
    · rw [if_pos ok, ok] at answered
      exact answered
    · rw [if_neg bad] at answered
      exact answered
  case write =>
    have run : exec .netWrite s = event (s.takeMsg m (s.serveWrite m)) := by
      show execNetWrite s = _
      rw [execNetWrite, atEnd.received_eq kind]
    rw [serveWrite_eq whole loc place width] at run
    obtain ⟨u, run, answered, mem⟩ := replied plain unit waited (msgs _ (performed_store unmirrored _)) run
    refine ⟨u, run, answered, fun a => ?_⟩
    rw [State.peek, mem]
    exact peek_store_run wf unmirrored ..
  case merge =>
    have run : exec .mergeableAtMemoryOperation s = event (s.takeMsg m (s.serveMerge m)) := by
      show execMergeableAtMemoryOperation s = _
      rw [execMergeableAtMemoryOperation, atEnd.received_eq kind]
    rw [serveMerge_eq whole one entries rfl unmirrored] at run
    refine ⟨fun ok => ?_, fun bad => ?_⟩
    · rw [if_pos ok, ok] at run
      exact replied plain unit waited (msgs _ (performed_amoAt unmirrored ..)) run
    · rw [if_neg bad] at run
      obtain ⟨u, run, answered, mem⟩ := replied plain unit waited (msgs _ (performed_homeLog s m)) run
      exact ⟨u, run, answered, mem.trans (homeLog_mem_eq s m)⟩
  case atomic =>
    have run : exec .unmergeableAtMemoryOperation s = event (s.takeMsg m (s.serveAtomic m)) := by
      show execUnmergeableAtMemoryOperation s = _
      rw [execUnmergeableAtMemoryOperation, atEnd.received_eq kind]
    rw [serveAtomic_eq whole] at run
    obtain ⟨u, run, ⟨a, one, op, data, code, core, cmd, idx, -⟩, mem⟩ := replied plain unit waited
      (msgs _ (performed_atomicAt unmirrored m)) run
    exact ⟨u, a, run, mem, by rw [one]; rfl, op, data, code, core, cmd, idx⟩
  case noRec =>
    have run : exec .parameterRequest s = event (s.takeMsg m (s.serveParam m)) := by
      show execParameterRequest s = _
      rw [execParameterRequest, atEnd.received_eq kind]
    have unknownRec : s.paramAt m = .answer s [] 0x06 := by
      rw [State.paramAt, unknown]
      simp only [still, Bool.false_eq_true, if_false]
    rw [State.serveParam, whole, unknownRec] at run
    exact replied plain unit waited one run
  case pstat =>
    have run : exec .parameterRequest s = event (s.takeMsg m (s.serveParam m)) := by
      show execParameterRequest s = _
      rw [execParameterRequest, atEnd.received_eq kind]
    have good : (!r.poisoned && s.isPoisoned m.loc.byte 128) = false := by
      rcases sound with h | h <;> rw [h] <;> simp
    have status : s.paramAt m = .answer s (s.peekBytes m.loc.byte 128) 0 := by
      rw [State.paramAt, found]
      simp only [sub, subPstat, if_true, cell, Bool.false_eq_true, if_false, good]
    rw [State.serveParam, whole, status] at run
    exact replied plain unit waited one run
  case counterBad =>
    have run : exec .counterDecrement s = event (s.takeMsg m (s.serveCounter m)) := by
      show execCounterDecrement s = _
      rw [execCounterDecrement, atEnd.received_eq kind]
    simp only [State.serveCounter, requestCode_eq whole, bad, waited, Bool.false_eq_true, if_false] at run
    obtain ⟨u, run, answered, mem⟩ := replied plain unit waited (msgs _ (performed_homeLog s m)) run
    exact ⟨u, run, answered, mem.trans (homeLog_mem_eq s m)⟩
  case counter =>
    have run : exec .counterDecrement s = event (s.takeMsg m (s.serveCounter m)) := by
      show execCounterDecrement s = _
      rw [execCounterDecrement, atEnd.received_eq kind]
    simp only [State.serveCounter, requestCode_eq whole, ok, if_true, amount, decrementAt_part pos part] at run
    obtain ⟨u, run, answered, mem⟩ := replied plain unit waited (msgs _ (performed_store unmirrored _)) run
    refine ⟨u, run, answered, fun a => ?_⟩
    rw [State.peek, mem]
    exact peek_store_run wf unmirrored ..
  case control =>
    obtain ⟨k, dropped, none⟩ := emptied_dropMsg one
    have run : exec .serviceControl s = event (s.takeMsg m ((s.dropMsg m.id).takeCall m)) := by
      show execServiceControl s = _
      rw [execServiceControl, atEnd.received_eq kind]
    obtain ⟨a, done⟩ := takeMsg_home s plain unit ((s.dropMsg m.id).takeCall m)
    rw [done, dropped, State.takeCall, whole] at run
    cases known : s.context? m.asid with
    | none =>
      have away : State.context? { s with net := k } m.asid = Option.none := known
      simp only [away, Option.isNone_none, Bool.false_eq_true, if_false, if_true] at run
      exact ⟨_, run, none, rfl, rfl, rfl⟩
    | some x =>
      have here : State.context? { s with net := k } m.asid = some x := known
      simp only [here, Option.isNone_some, Bool.false_eq_true, if_false] at run
      exact ⟨_, run, none, rfl, rfl, rfl⟩
  case answer =>
    obtain ⟨k, dropped, none⟩ := emptied_dropMsg one
    have serves : Serves { s with net := k } m q p := ⟨core, running, cmd, pieces, idx⟩
    have run : exec e.2 s = event (s.takeMsg m ((s.dropMsg m.id).deliver m m.data m.status m.why)) := by
      have answer := takeAnswer_eq atEnd whole kind
      simp only [List.mem_cons, List.not_mem_nil, or_false] at mem
      obtain rfl | rfl | rfl | rfl := mem <;> exact congrArg event answer
    obtain ⟨a, done⟩ := takeMsg_home s plain unit ((s.dropMsg m.id).deliver m m.data m.status m.why)
    rw [done, dropped] at run
    refine ⟨fun zero one two pref => ?fails, fun zero stage copy => ?wrote, fun zero wf o offset other => ?result,
      fun zero wf stage out copy b dst same width => ?read⟩
    case fails =>
      rw [deliver_fails serves _ _ zero two pref] at run
      exact ⟨_, run, none, rfl, rfl, rfl⟩
    case wrote =>
      obtain ⟨f, copy⟩ := copy
      rw [zero, deliver_takes serves, takeData_writing serves copy stage, pumpCore_completed] at run
      exact ⟨_, ⟨run, none, rfl⟩, rfl⟩
    case result =>
      let t : State := { s with net := k }
      rw [zero, deliver_takes serves, takeData_result serves unmirrored offset (fun f => (other f).1) (fun f => (other f).2),
        pumpCore_stored (s := t) unmirrored] at run
      have frame := store_of_unmirrored (s := t) unmirrored (cellsFrom (spadBase s.core.id + o) (resultBytes q m.data))
      have bytes := peek_store_run (s := t) wf unmirrored (spadBase s.core.id + o) (resultBytes q m.data)
      exact ⟨_, ⟨run, (congrArg (·.net.msgs) frame).trans none, rfl⟩, bytes⟩
    case read =>
      let t : State := { s with net := k }
      obtain ⟨f, copy⟩ := copy
      rw [zero, deliver_takes serves, takeData_reading serves unmirrored copy stage out dst same width,
        pumpCore_stored (s := t) unmirrored] at run
      have frame := store_of_unmirrored (s := t) unmirrored (cellsFrom (spadBase s.core.id + b / 8)
        (m.data.take (nestWidth q.nest true / 8)))
      have bytes := peek_store_run (s := t) wf unmirrored (spadBase s.core.id + b / 8)
        (m.data.take (nestWidth q.nest true / 8))
      exact ⟨_, ⟨run, (congrArg (·.net.msgs) frame).trans none, rfl⟩, bytes⟩

end Sys2Proof.HomeProofs
end

section
/-! PROOFS. Start, completion, fault and restart of an engine command (R24, R172, R174, R175, R328, R373). -/

namespace Sys2Proof.EngineProofs

open Sys2Proof Sys2Proof.Machine Sys2Proof.Claim Sys2Proof.MessageProofs Sys2Proof.HomeProofs Sys2Proof.CheckpointProofs
  Sys2Proof.QueueProofs Sys2Proof.PhaseProofs Sys2Proof.ScalarControlProofs

/-! ### Translations are cached (R233) -/

/-- Only what translators hold, and the rows that their walks activate, differs. -/
def Walked (s t : State) : Prop := ∃ c a, t = { s with caches := c, activations := a }

section Walked

variable {s t u : State}

theorem Walked.refl (s : State) : Walked s s := ⟨_, _, rfl⟩

theorem Walked.trans (h : Walked s t) (h' : Walked t u) : Walked s u := by
  obtain ⟨_, _, rfl⟩ := h
  obtain ⟨_, _, rfl⟩ := h'
  exact ⟨_, _, rfl⟩

theorem walked_foldl {β : Type} {g : State → β → State} (h : ∀ s b, Walked s (g s b)) (l : List β) (s : State) :
    Walked s (l.foldl g s) := by
  induction l generalizing s with
  | nil => exact .refl s
  | cons b l ih => exact (h s b).trans (ih _)

theorem walked_cachePage (s : State) (v : Translator) (x : Context) (m : Nat) (p : MapPage) : Walked s (s.cachePage v x m p) := by
  unfold State.cachePage
  split
  · exact .refl s
  · have touched : Walked s ((x.walkReads m p.va.toNat).foldl State.touch s) :=
      walked_foldl (fun s a => ⟨s.caches, _, rfl⟩) _ s
    dsimp only
    split
    · exact touched.trans ⟨_, _, rfl⟩
    · exact touched

theorem walked_cachePlaces (s : State) (core : BitVec 10) (q : Cmd) (l : List Loc) : Walked s (s.cachePlaces core q l) := by
  unfold State.cachePlaces
  split
  · exact .refl s
  · exact walked_foldl (fun s p => walked_cachePage ..) _ s

theorem cachePlaces_nil (s : State) (core : BitVec 10) (q : Cmd) : s.cachePlaces core q [] = s := by
  unfold State.cachePlaces
  split
  · rfl
  · simp

end Walked

/-! ### The one element of the one command -/

section Pump

variable {s : State} {q : Cmd} {p : Piece}

theorem pump_nil (running : s.core.running = [q]) (pieces : q.pieces = []) : s.pump s.core.id q.id = s := by
  rw [State.pump, cmd?_one running]
  dsimp only
  rw [pieces]
  rfl

theorem pump_one (running : s.core.running = [q]) (pieces : q.pieces = [p]) :
    s.pump s.core.id q.id = if s.pieceReady s.core.id q p then s.beginPiece s.core.id q p else s := by
  rw [State.pump, cmd?_one running]
  dsimp only
  rw [pieces, List.foldl_cons, List.foldl_nil, cmd?_one running]

/-- A command none of whose elements may begin stays. -/
theorem pump_still (running : s.core.running = [q]) (still : ∀ p ∈ q.pieces, s.pieceReady s.core.id q p = false) :
    s.pump s.core.id q.id = s := by
  rw [State.pump, cmd?_one running]
  dsimp only
  revert still
  generalize q.pieces = l
  induction l with
  | nil => exact fun _ => rfl
  | cons p l ih =>
    intro still
    rw [List.foldl_cons, cmd?_one running]
    dsimp only
    rw [still p List.mem_cons_self]
    exact ih fun p mem => still p (List.mem_cons_of_mem _ mem)

/-- The one element may begin where nothing is in the network and its place is not held. -/
theorem pieceReady_one (pieces : q.pieces = [p]) (stage : p.stage = .waiting) (going : q.stopped = false)
    (quiet : s.net.msgs = []) (free : s.writeHeld s.core.id q p.dst = false) : s.pieceReady s.core.id q p = true := by
  have none : s.inFlight (corePort s.core.id) = [] := by rw [State.inFlight, quiet]; rfl
  simp [State.pieceReady, stage, going, none, free, quiet, State.bankTaken, pieces]

/-- The element of a COPY waits to begin. -/
theorem nestPiece_waiting {c : BitVec 10} {f : CpF} (copy : q.op = .copy f) (mem : p ∈ s.piecesOf c q) :
    p.stage = .waiting ∧ p.out = none := by
  rw [State.piecesOf, copy] at mem
  obtain ⟨n, -, rfl⟩ := List.mem_map.mp mem
  exact ⟨rfl, rfl⟩

/-- The command with its one element at a stage. -/
def staged (q : Cmd) (p : Piece) (st : Stage) : Cmd := { q with pieces := [{ p with stage := st }] }

theorem markPiece_one (running : s.core.running = [q]) (pieces : q.pieces = [p]) (st : Stage) :
    s.markPiece s.core.id q.id p.idx st = withCmd s (staged q p st) := by
  rw [State.markPiece, updCmd_one running, Cmd.mark, pieces, List.map_cons, if_pos rfl, List.map_nil]
  rfl

/-! #### A COPY of whole bytes -/

/-- A COPY whose elements have one format on both sides, of whole bytes. -/
structure Plain (q : Cmd) (f : CpF) : Prop where
  copy : q.op = .copy f
  same : Nest.fmtCode q.nest false = Nest.fmtCode q.nest true
  whole : nestWidth q.nest true % 8 = 0

variable {f : CpF} (plain : Plain q f) (running : s.core.running = [q]) (pieces : q.pieces = [p]) (out : p.out = none)
include plain

omit plain in
theorem Plain.srcWidth (plain : Plain q f) : srcWidth q p = nestWidth q.nest true := by
  rw [Machine.srcWidth, plain.copy]
  show ((Fmt.ofCode (Nest.fmtCode q.nest false)).map Fmt.width).getD 8 = _
  rw [plain.same]
  rfl

include running pieces out

/-- An element from the core's scratchpad to the core's scratchpad is performed (R174). -/
theorem beginPiece_own {i j : Nat} (unmirrored : Unmirrored s) (src : p.src = .spad i) (dst : p.dst = .spad j)
    (sound : s.isPoisoned (spadBase s.core.id + i / 8) (nestWidth q.nest true / 8) = false) :
    s.beginPiece s.core.id q p = withCmd (s.store (cellsFrom (spadBase s.core.id + j / 8)
      (s.peekBytes (spadBase s.core.id + i / 8) (nestWidth q.nest true / 8)))) (staged q p .done) := by
  let w := nestWidth q.nest true
  have bytes : accessBytes w = w / 8 := by
    have := plain.whole
    simp only [accessBytes, w]
    omega
  have place : ∀ k, (8 * spadBase s.core.id + k) / 8 = spadBase s.core.id + k / 8 := fun k => by omega
  have data : s.physBytes (8 * spadBase s.core.id + i) w = s.peekBytes (spadBase s.core.id + i / 8) (w / 8) := by
    rw [State.physBytes, if_pos plain.whole, place]
  have begins : s.beginPiece s.core.id q p = s.haveData s.core.id q p (s.physBytes (8 * spadBase s.core.id + i) w) := by
    rw [State.beginPiece, out]
    dsimp only
    rw [State.beginFresh, plain.copy]
    dsimp only [amoSub]
    rw [src]
    dsimp only
    rw [plain.srcWidth, bytes, sound]
    rfl
  have dest : dstWidth q p = w := by rw [dstWidth, plain.copy]
  have elem : ∀ l, s.elemOut q p l = l := fun l => by
    rw [State.elemOut, plain.copy]
    exact if_pos plain.same
  have all : (s.peekBytes (spadBase s.core.id + i / 8) (w / 8)).take (w / 8) =
      s.peekBytes (spadBase s.core.id + i / 8) (w / 8) := List.take_of_length_le (by simp [State.peekBytes])
  have core := congrArg State.core (store_of_unmirrored unmirrored (cellsFrom (spadBase s.core.id + j / 8)
    (s.peekBytes (spadBase s.core.id + i / 8) (w / 8))))
  rw [begins, data, State.haveData, dest, elem, State.writeElem, dst]
  dsimp only
  rw [State.physCells, if_pos plain.whole, all, place]
  generalize s.store (cellsFrom (spadBase s.core.id + j / 8) (s.peekBytes (spadBase s.core.id + i / 8) (w / 8))) = t
    at core ⊢
  rw [show s.core.id = t.core.id from congrArg Core.id core.symm]
  exact markPiece_one ((congrArg Core.running core).trans running) pieces .done

/-- An element that is read elsewhere is asked for there (R172). -/
theorem beginPiece_read {i : Nat} (src : p.src = .phys i) (quiet : s.net.msgs = []) : ∃ n y,
    s.beginPiece s.core.id q p = withCmd { s with net := n } (staged q p .reading) ∧ n.msgs = [y] ∧
      y.op = .readReq ∧ y.loc = p.src ∧ y.width = 8 * (nestWidth q.nest true / 8) ∧ y.core = s.core.id ∧ y.cmd = q.id ∧
      y.idx = p.idx ∧ y.final = homePort p.src.byte := by
  let m : Msg := { Msg.request .readReq s.core.id q p.idx p.src (nestWidth q.nest true) with final := homePort (i / 8) }
  obtain ⟨n, y, sent, msgs, same⟩ := sendMsg_alone quiet m
  have begins : s.beginPiece s.core.id q p = (s.sendMsg m).markPiece s.core.id q.id p.idx .reading := by
    rw [State.beginPiece, out]
    dsimp only
    rw [State.beginFresh, plain.copy]
    dsimp only [amoSub]
    rw [src]
    dsimp only
    rw [plain.srcWidth, State.sendAccess]
    simp only [m, src]
    rfl
  refine ⟨n, y, ?_, msgs, same.op, same.loc, ?_, same.core, same.cmd, same.idx, ?_⟩
  · rw [begins, sent]
    exact markPiece_one (s := { s with net := n }) running pieces .reading
  · have := plain.whole
    exact same.width.trans (show nestWidth q.nest true = _ by omega)
  · rw [src]
    exact same.final

end Pump

/-! ### Starting (R172, R243, R328) -/

/-- The module whose core has moved its one queued command to an execution slot. -/
def started (s : State) (r : Cmd) : State := { s with core := { s.core with queue := [], running := [r] } }

/-- The command as it starts, under the current map. -/
def underMap (s : State) (q : Cmd) : Cmd := { q with map := ((s.context? q.asid).map (·.cur)).getD 0 }

section Start

variable {s : State} {q : Cmd} (occ : s.occ = .num q.id) (queue : s.core.queue = [q]) (running : s.core.running = [])
include occ queue

theorem startCmd_waits (no : s.canStart s.core q = false) : startCmd s = s := by
  rw [startCmd, occ]
  dsimp only
  rw [queue, List.find?_singleton, if_pos (beq_self_eq_true _)]
  simp only [no, Bool.false_eq_true, if_false]

omit occ in
include running in
/-- The queue's one command moves to an execution slot. -/
theorem moved {t : State} (walked : Walked s t) (r : Cmd) : (t.onCore fun c => { c with
    queue := c.queue.filter fun p => p.id != q.id, running := c.running ++ [r] }) = started t r := by
  obtain ⟨c, a, rfl⟩ := walked
  simp only [State.onCore, started, queue, running, List.nil_append, List.filter_cons, bne_self_eq_false, Bool.false_eq_true,
    if_false, List.filter_nil]

variable (may : s.canStart s.core q = true)
include running may

theorem startCmd_inherits {code : BitVec 8} (fault : s.core.inheritedFault q = some code) : startCmd s =
    let r : Cmd := { underMap s q with faults := [(0, code, .inherited)], stopped := true }
    (started (s.cachePlaces s.core.id r (q.pieces.flatMap fun p => [p.src, p.dst])) r).pump s.core.id q.id := by
  have fault' : s.core.inheritedFault { q with map := ((s.context? q.asid).map (·.cur)).getD 0 } = some code := fault
  rw [startCmd, occ]
  dsimp only
  rw [queue, List.find?_singleton, if_pos (beq_self_eq_true _)]
  dsimp only
  rw [if_pos may, fault']
  exact congrArg (fun t : State => t.pump s.core.id q.id) (moved queue running (walked_cachePlaces ..) _)

theorem startCmd_begins (fault : s.core.inheritedFault q = none) : startCmd s =
    let r : Cmd := { underMap s q with pieces := s.piecesOf s.core.id (underMap s q) }
    (started (s.cachePlaces s.core.id r (r.pieces.flatMap fun p => [p.src, p.dst])) r).pump s.core.id q.id := by
  have fault' : s.core.inheritedFault { q with map := ((s.context? q.asid).map (·.cur)).getD 0 } = none := fault
  rw [startCmd, occ]
  dsimp only
  rw [queue, List.find?_singleton, if_pos (beq_self_eq_true _)]
  dsimp only
  rw [if_pos may, fault']
  exact congrArg (fun t : State => t.pump s.core.id q.id) (moved queue running (walked_cachePlaces ..) _)

end Start

/-- Which writes of a COPY are held: neither the core nor what translators hold says so. -/
theorem writeHeld_started {s t : State} {q r : Cmd} {f g : CpF} (walked : Walked s t) (copy : q.op = .copy f)
    (copy' : r.op = .copy g) (k : Core) (c : BitVec 10) (l : Loc) :
    State.writeHeld { t with core := k } c r l = s.writeHeld c q l := by
  obtain ⟨_, _, rfl⟩ := walked
  simp only [State.writeHeld, State.enqPlaces, Cmd.writesPlace, copy, copy']
  rfl

/-- A run of bytes that is written from another, byte by byte. -/
theorem peekBytes_run (s : State) (from' base n x : Nat) (old : Byte) :
    (if base ≤ x then (s.peekBytes from' n).getD (x - base) old else old) =
      if base ≤ x ∧ x < base + n then s.peek (from' + (x - base)) else old := by
  by_cases le : base ≤ x
  · by_cases lt : x < base + n
    · rw [if_pos le, if_pos ⟨le, lt⟩, List.getD_eq_getElem?_getD, State.peekBytes, List.getElem?_map,
        List.getElem?_range (by omega)]
      rfl
    · rw [if_pos le, if_neg fun h => lt h.2, List.getD_eq_default _ _ (by simp [State.peekBytes]; omega)]
  · rw [if_neg le, if_neg fun h => le h.1]

section One

variable {s : State} {q : Cmd} {p : Piece} {f : CpF}

/-- A COPY of one element starts and begins it. -/
theorem startCmd_one (occ : s.occ = .num q.id) (queue : s.core.queue = [q]) (running : s.core.running = [])
    (may : s.canStart s.core q = true) (fault : s.core.inheritedFault q = none) (copy : q.op = .copy f)
    (pieces : s.piecesOf s.core.id (underMap s q) = [p]) (going : q.stopped = false) (quiet : s.net.msgs = [])
    (free : s.writeHeld s.core.id (underMap s q) p.dst = false) : ∃ t, Walked s t ∧ p.out = none ∧
      startCmd s = (started t { underMap s q with pieces := [p] }).beginPiece s.core.id { underMap s q with pieces := [p] } p := by
  let r : Cmd := { underMap s q with pieces := [p] }
  obtain ⟨stage, out⟩ := nestPiece_waiting (s := s) (c := s.core.id) (q := underMap s q) (p := p) copy
    (pieces ▸ List.mem_singleton_self p)
  have start := startCmd_begins occ queue running may fault
  dsimp only at start
  rw [pieces] at start
  have walked := walked_cachePlaces s s.core.id r ([p].flatMap fun p => [p.src, p.dst])
  change startCmd s = (started (s.cachePlaces s.core.id r ([p].flatMap fun p => [p.src, p.dst])) r).pump s.core.id r.id at start
  generalize s.cachePlaces s.core.id r ([p].flatMap fun p => [p.src, p.dst]) = t at start walked
  refine ⟨t, walked, out, start.trans ?_⟩
  have free' := (writeHeld_started (q := underMap s q) (r := r) walked copy copy (started t r).core s.core.id p.dst).trans free
  obtain ⟨_, _, rfl⟩ := walked
  have ready := pieceReady_one (s := started { s with caches := _, activations := _ } r) (q := r) rfl stage going quiet free'
  exact (pump_one (s := started { s with caches := _, activations := _ } r) (q := r) rfl rfl).trans (if_pos ready)

end One

/-! ### The core as a command leaves (R21, R172) -/

section Leaving

variable (c : Core)

/-- A completion writes the tokens and their shadow. -/
theorem completeToken_frame (i : BitVec 6) (x : BitVec 16) : ∃ sh,
    c.completeToken i x = { c with tokens := (c.setToken i x).tokens, shadow := sh } := by
  unfold Core.completeToken Core.setToken
  split
  · exact ⟨_, rfl⟩
  · exact ⟨_, rfl⟩

theorem leaveTile_frame (q : Cmd) : ∃ l sh, c.leaveTile q = { c with tiles := l, shadow := sh } := by
  unfold Core.leaveTile
  split
  · exact ⟨_, _, rfl⟩
  · exact ⟨_, _, rfl⟩

theorem leaveTile_state {q : Cmd} {tile : BitVec 7} {fill : Bool} (named : q.tile? = some (tile, fill)) :
    TileE.state ((c.leaveTile q).tile tile) = if fill then 2 else 0 := by
  rw [Core.leaveTile, named]
  dsimp only
  rw [Core.tile_setTile, if_pos rfl, state_withState]
  rfl

theorem retireCmd_frame (q : Cmd) : ∃ l sh, c.retireCmd q = { c with
    running := c.running.filter fun p => p.id != q.id
    arrs := c.arrs.filter fun a => a.on != .cmd q.id
    tiles := l
    shadow := sh } := by
  unfold Core.retireCmd
  dsimp only
  split
  · exact ⟨_, _, rfl⟩
  · exact ⟨_, _, rfl⟩

/-- The core whose one running command has become another, its token told. -/
def tells (c : Core) (q : Cmd) (x : BitVec 16) : Core := Core.completeToken { c with running := [q] } q.f.tko x

theorem tells_frame (q : Cmd) (x : BitVec 16) : ∃ l sh, tells c q x = { c with running := [q], tokens := l, shadow := sh } :=
  ⟨_, completeToken_frame { c with running := [q] } q.f.tko x⟩

theorem tells_tokens (q : Cmd) (x : BitVec 16) : TokenSet c (tells c q x) q.f.tko x :=
  tokenSet_of_setToken (b := { c with running := [q] }) (completeToken_tokens ..)

end Leaving

/-- The one running command is exchanged. -/
theorem exchanged {c : Core} {q : Cmd} (running : c.running = [q]) (r : Cmd) :
    (c.running.map fun p : Cmd => if p.id = q.id then r else p) = [r] := by
  rw [running, List.map_cons, if_pos rfl, List.map_nil]

/-- The one running command becomes another, and its token is told. -/
theorem exchange {s : State} {q : Cmd} (running : s.core.running = [q]) (r : Cmd) (x : BitVec 16) : (s.onCore fun c =>
    Core.completeToken { c with running := c.running.map fun p : Cmd => if p.id = q.id then r else p } r.f.tko x) =
      { s with core := tells s.core r x } := by
  rw [State.onCore, exchanged running]
  rfl

section Leaves

variable {s : State} {q : Cmd} (occ : s.occ = .num q.id) (running : s.core.running = [q]) (queue : s.core.queue = [])
  (arrs : s.core.arrs = []) (posts : s.core.posts = []) (queues : s.sched.queues = [])
include occ running

theorem completeCmd_eq (finished : s.finished s.core.id q = true)
    (plain : ∀ f, q.op ≠ .mapq f ∧ q.op ≠ .lxred f ∧ q.op ≠ .xlinv f) : completeCmd s =
      (s.onCore fun c => ((Core.completeToken { c with running := c.running.filter fun p => p.id != q.id } q.f.tko
        (tokDone q.status)).leaveTile q).retire (.cmd q.id)).settle := by
  have effect : s.completionEffect q = s := by
    unfold State.completionEffect
    split
    · exact absurd ‹_› (plain _).1
    · exact absurd ‹_› (plain _).2.2
    · exact absurd ‹_› (plain _).2.1
    · rfl
  rw [completeCmd, occ]
  dsimp only
  rw [running, List.find?_singleton, if_pos (beq_self_eq_true _)]
  dsimp only
  rw [if_pos finished, effect]

include queue arrs posts queues

/-- A command that has made every access leaves, its token done (R172). -/
theorem completeCmd_leaves (finished : s.finished s.core.id q = true)
    (plain : ∀ f, q.op ≠ .mapq f ∧ q.op ≠ .lxred f ∧ q.op ≠ .xlinv f) : ∃ d, completeCmd s = { s with core := d } ∧
      d.running = [] ∧ TokenSet s.core d q.f.tko (tokDone q.status) ∧
      (∀ tile fill, q.tile? = some (tile, fill) → TileE.state (d.tile tile) = if fill then 2 else 0) ∧
      d.s = s.core.s ∧ d.v = s.core.v := by
  let a : Core := { s.core with running := [] }
  let b := a.completeToken q.f.tko (tokDone q.status)
  have gone : (s.core.running.filter fun p => p.id != q.id) = [] := by simp [running]
  obtain ⟨sh, told⟩ := completeToken_frame a q.f.tko (tokDone q.status)
  obtain ⟨l, sh', left⟩ := leaveTile_frame b q
  have retired : (b.leaveTile q).retire (.cmd q.id) = b.leaveTile q := by
    rw [Core.retire, left, show b = _ from told]
    simp [a, arrs]
  have leaves : completeCmd s = State.settle { s with core := b.leaveTile q } := by
    rw [completeCmd_eq occ running finished plain, State.onCore, gone]
    exact congrArg (fun d => State.settle { s with core := d }) retired
  have tokens : (b.leaveTile q).tokens = b.tokens := by rw [left]
  have kept : (b.leaveTile q).queue = [] ∧ (b.leaveTile q).running = [] ∧ (b.leaveTile q).arrs = [] ∧
      (b.leaveTile q).posts = [] ∧ (b.leaveTile q).s = s.core.s ∧ (b.leaveTile q).v = s.core.v := by
    rw [left, show b = _ from told]
    exact ⟨queue, rfl, arrs, posts, rfl, rfl⟩
  obtain ⟨queue', running', arrs', posts', regs, vregs⟩ := kept
  refine ⟨b.leaveTile q, leaves.trans (State.settle_alone (s := { s with core := b.leaveTile q }) queue' running' arrs' posts'
    queues), running', ?_, fun tile fill named => leaveTile_state b named, regs, vregs⟩
  exact tokenSet_of_setToken (b := a) (tokens.trans (completeToken_tokens ..))

end Leaves

/-! ### Faults (R175, R328, R373) -/

/-- The command stopped at its restart point by its first fault. -/
def stoppedBy (q : Cmd) (f : Nat × BitVec 8 × FaultWhy) : Cmd := { q with
  restart := q.firstLeft, faultAt := f.1, status := f.2.1, why := f.2.2, faults := [] }

section Faults

variable {s : State} {q : Cmd} (occ : s.occ = .num q.id) (running : s.core.running = [q])
include occ running

theorem faultCmd_eq {f : Nat × BitVec 8 × FaultWhy} (stopped : q.stopped = true) (landed : q.inFlight = false)
    (first : firstFault q.faults = some f) {t : State} (told : (s.onCore fun c => Core.completeToken { c with
      running := c.running.map fun p : Cmd => if p.id = q.id then stoppedBy q f else p } (stoppedBy q f).f.tko
        (tokFaulted f.2.1)) = t) :
    faultCmd s = if t.faultAnswer t.core.id (stoppedBy q f) f.2.1 = .retire then (t.onCore fun c => c.retireCmd (stoppedBy q f)).settle
      else t := by
  subst told
  have stops : (q.stopped && !q.inFlight) = true := by simp [stopped, landed]
  rw [faultCmd, occ]
  dsimp only
  rw [running, List.find?_singleton, if_pos (beq_self_eq_true _)]
  dsimp only
  rw [if_pos stops, first]
  dsimp only
  split
  · exact (if_pos ‹_›).symm
  · exact (if_neg ‹_›).symm

omit occ running in
/-- What the service always retires: a fault taken over from a token or from a landing (R328). -/
theorem faultAnswer_inherited {c : BitVec 10} {code : BitVec 8} (why : q.why = .inherited ∨ q.why = .landing) :
    s.faultAnswer c q code = .retire := by
  rw [State.faultAnswer]
  exact if_pos (why.imp id .inl)

omit occ running in
theorem faultAnswer_home {c : BitVec 10} (why : q.why = .home) : s.faultAnswer c q 6 = .retire := by
  simp [State.faultAnswer, why]

omit occ running in
/-- An access that its home did not perform is made again (R373). -/
theorem faultAnswer_unperformed {c : BitVec 10} (why : q.why = .unperformed) : s.faultAnswer c q 7 = .restart := by
  simp [State.faultAnswer, why]

theorem faultCmd_effect {f : Nat × BitVec 8 × FaultWhy} (queue : s.core.queue = [])
    (arrs : s.core.arrs = []) (posts : s.core.posts = []) (queues : s.sched.queues = []) (stopped : q.stopped = true)
    (landed : q.inFlight = false) (first : firstFault q.faults = some f) :
    ∃ d, faultCmd s = { s with core := d } ∧ TokenSet s.core d q.f.tko (tokFaulted f.2.1) ∧
      (∀ a, (∀ (t : State) c, t.faultAnswer c (stoppedBy q f) f.2.1 = a) →
        d.running = if a = .retire then [] else [stoppedBy q f]) := by
  let r := stoppedBy q f
  let d := tells s.core r (tokFaulted f.2.1)
  have fault := faultCmd_eq occ running stopped landed first (exchange running r (tokFaulted f.2.1))
  obtain ⟨l, sh, frame⟩ := tells_frame s.core r (tokFaulted f.2.1)
  obtain ⟨tl, sh', retired⟩ := retireCmd_frame d r
  have set : TokenSet s.core d q.f.tko (tokFaulted f.2.1) := tells_tokens ..
  split at fault
  next answer =>
    have kept : (d.retireCmd r).queue = [] ∧ (d.retireCmd r).running = [] ∧ (d.retireCmd r).arrs = [] ∧
        (d.retireCmd r).posts = [] := by
      rw [retired, show d = _ from frame]
      exact ⟨queue, by simp, by simp [arrs], posts⟩
    obtain ⟨queue', running', arrs', posts'⟩ := kept
    have tokens : (d.retireCmd r).tokens = d.tokens := by rw [retired]
    refine ⟨d.retireCmd r, fault.trans (State.settle_alone (s := { s with core := d.retireCmd r }) queue' running' arrs' posts'
      queues), ?_, ?_⟩
    · exact tokenSet_of_setToken (b := { s.core with running := [r] }) (tokens.trans (completeToken_tokens ..))
    · intro a answers
      rw [← answers, if_pos answer]
      exact running'
  next answer =>
    refine ⟨d, fault, set, ?_⟩
    intro a answers
    rw [← answers, if_neg answer, show d = _ from frame]

end Faults

/-! ### Restarts (R328, R373) -/

/-- The command as it is made again. -/
def goesOn (q : Cmd) (l : List Piece) : Cmd := { q with
  pieces := l, stopped := false, status := if q.deadRead then 1 else 0, why := .home }

section Restarts

variable {s : State} {q : Cmd} (occ : s.occ = .num q.id) (running : s.core.running = [q])
include occ running

/-- A restart makes the elements again that are not before the restart point, and the token busy. -/
theorem restartCmd_eq (stopped : q.stopped = true) (faults : q.faults = []) (mode : s.core.mode ≠ .idle)
    (why : q.why = .unperformed) (status : q.status = 7) (bank : s.bankTaken s.core.id s.net.msgs q.startSpans = false) :
    let r := goesOn q ((s.piecesOf s.core.id q).map fun p => if p.idx < q.restart then { p with stage := .done } else p)
    restartCmd s = State.pump { s with core := tells s.core r tokBusy } s.core.id q.id := by
  dsimp only
  rw [← exchange running]
  have again : (q.stopped && q.faults.isEmpty && s.core.mode != .idle &&
      !(s.bankTaken s.core.id s.net.msgs q.startSpans)) = true := by simp [stopped, faults, mode, bank]
  rw [restartCmd, occ]
  dsimp only
  rw [running, List.find?_singleton, if_pos (beq_self_eq_true _)]
  dsimp only
  rw [if_pos again, status, faultAnswer_unperformed why]
  rfl

/-- The state in which a restarted command is topped up. -/
theorem restartCmd_told (stopped : q.stopped = true) (faults : q.faults = []) (mode : s.core.mode ≠ .idle)
    (why : q.why = .unperformed) (status : q.status = 7) (bank : s.bankTaken s.core.id s.net.msgs q.startSpans = false)
    {ps : List Piece} (pieces : ((s.piecesOf s.core.id q).map fun p => if p.idx < q.restart then { p with stage := .done }
      else p) = ps) : ∃ l sh, let d : Core := { s.core with running := [goesOn q ps], tokens := l, shadow := sh }
      restartCmd s = State.pump { s with core := d } s.core.id q.id ∧ TokenSet s.core d q.f.tko tokBusy := by
  have restart := restartCmd_eq occ running stopped faults mode why status bank
  have set := tells_tokens s.core (goesOn q ps) tokBusy
  obtain ⟨l, sh, frame⟩ := tells_frame s.core (goesOn q ps) tokBusy
  dsimp only at restart
  rw [pieces, frame] at restart
  exact ⟨l, sh, restart, frame ▸ set⟩

end Restarts

/-- Settles O39: a command that starts moves to an execution slot under the current map and begins its one element; one
that ends leaves through the core's frame lemmas, its token told; one that restarts is topped up again. -/
theorem engineCommandEvents : Obligations.EngineCommandEvents := by
  unfold Obligations.EngineCommandEvents
  intro s n q c q' alone plainCopy w asked occ id
  subst id
  refine ⟨fun queue no running => ?waits, fun queue running may empty => ⟨fun code fault => ?inherits, fun fault none => ?nothing,
    fun p fault plain pieces going quiet free => ⟨fun i j wf unmirrored src dst sound => ?own, fun i src => ?read⟩⟩,
    fun single finished other => ?completes, fun single stopped landed f first => ?faults,
    fun single stopped faults mode why status bank => ⟨fun full => ?full, fun p i plain made left src quiet free => ?again⟩⟩
  case waits => exact congrArg event (startCmd_waits occ queue no)
  case inherits =>
    let r : Cmd := { q' with faults := [(0, code, .inherited)], stopped := true }
    have still : s.cachePlaces s.core.id r (q.pieces.flatMap fun p => [p.src, p.dst]) = s := by
      rw [empty]
      exact cachePlaces_nil ..
    refine congrArg event ((startCmd_inherits occ queue running may fault).trans ?_)
    exact (congrArg (fun t => (started t r).pump s.core.id q.id) still).trans (pump_nil (s := started s r) (q := r) rfl empty)
  case nothing =>
    have start := startCmd_begins occ queue running may fault
    dsimp only at start
    rw [show s.piecesOf s.core.id (underMap s q) = [] from none, List.flatMap_nil, cachePlaces_nil] at start
    have same : ({ underMap s q with pieces := [] } : Cmd) = q' := by
      show _ = underMap s q
      rw [← empty]
      rfl
    refine congrArg event (start.trans ?_)
    rw [same]
    exact pump_nil (s := started s q') (q := q') rfl empty
  case own =>
    obtain ⟨⟨f, copy⟩, same, whole⟩ := plain
    let r : Cmd := { q' with pieces := [p] }
    obtain ⟨t, walked, out, start⟩ := startCmd_one occ queue running may fault copy pieces going quiet free
    obtain ⟨caches, rows, rfl⟩ := walked
    let t : State := started { s with caches := caches, activations := rows } r
    have begins := beginPiece_own (s := t) (q := r) (f := f) ⟨copy, same, whole⟩ rfl rfl out unmirrored src dst sound
    have frame := store_of_unmirrored (s := t) unmirrored (cellsFrom (spadBase c.id + j / 8)
      (s.peekBytes (spadBase c.id + i / 8) w))
    have bytes := peek_store_run (s := t) wf unmirrored (spadBase c.id + j / 8) (s.peekBytes (spadBase c.id + i / 8) w)
    refine ⟨_, congrArg event (start.trans begins), congrArg (fun u : State => u.core.queue) frame, rfl, fun x => (bytes x).trans ?_⟩
    exact peekBytes_run ..
  case read =>
    obtain ⟨⟨f, copy⟩, same, whole⟩ := plain
    let r : Cmd := { q' with pieces := [p] }
    obtain ⟨t, walked, out, start⟩ := startCmd_one occ queue running may fault copy pieces going quiet free
    obtain ⟨caches, rows, rfl⟩ := walked
    let t : State := started { s with caches := caches, activations := rows } r
    obtain ⟨k, y, begins, msgs, op, loc, width, core, cmd, idx, final⟩ := beginPiece_read (s := t) (q := r) (f := f)
      ⟨copy, same, whole⟩ rfl rfl out src quiet
    exact ⟨_, congrArg event (start.trans begins), rfl, rfl, rfl, y, msgs, op, loc, width, core, cmd, idx, final⟩
  case completes =>
    obtain ⟨queue, running, arrs, posts, queues⟩ := single
    obtain ⟨d, leaves, running', ⟨told, kept⟩, tile, regs, vregs⟩ :=
      completeCmd_leaves occ running queue arrs posts queues finished other
    exact ⟨_, congrArg event leaves, running', told, kept, tile, rfl, regs, vregs⟩
  case faults =>
    obtain ⟨queue, running, arrs, posts, queues⟩ := single
    obtain ⟨d, stops, ⟨told, kept⟩, answered⟩ := faultCmd_effect occ running queue arrs posts queues stopped landed first
    refine ⟨_, congrArg event stops, told, kept, fun why => ?_, fun why code => ?_, fun why code => ?_, rfl⟩
    · refine (answered .retire fun t c => faultAnswer_inherited ?_).trans (if_pos rfl)
      rcases List.mem_cons.mp why with eq | mem
      · exact .inl eq
      · exact .inr (List.mem_singleton.mp mem)
    · refine (answered .retire fun t c => ?_).trans (if_pos rfl)
      rw [code]
      exact faultAnswer_home why
    · refine (answered .restart fun t c => ?_).trans (if_neg (by decide))
      rw [code]
      exact faultAnswer_unperformed why
  case full =>
    obtain ⟨queue, running, arrs, posts, queues⟩ := single
    obtain ⟨l, sh, restart, told, kept⟩ := restartCmd_told occ running stopped faults mode why status bank rfl
    let ps := (s.piecesOf c.id q).map fun p => if p.idx < q.restart then { p with stage := .done } else p
    let t : State := { s with core := { c with running := [goesOn q ps], tokens := l, shadow := sh } }
    have held : ∀ p ∈ ps, t.pieceReady c.id (goesOn q ps) p = false := fun p _ => by
      have : decide ((t.inFlight (corePort c.id)).length < 256) = false := decide_eq_false (Nat.not_lt.mpr full)
      rw [State.pieceReady, this]
      simp
    refine ⟨t, congrArg event (restart.trans (pump_still (s := t) (q := goesOn q ps) rfl held)), told,
      ⟨_, rfl, rfl, rfl, rfl, fun p mem before => ?_⟩, rfl⟩
    obtain ⟨p, -, rfl⟩ := List.mem_map.mp mem
    by_cases done : p.idx < q.restart
    · rw [if_pos done]
    · rw [if_neg done] at before
      exact absurd before done
  case again =>
    obtain ⟨⟨f, copy⟩, same, whole⟩ := plain
    obtain ⟨queue, running, arrs, posts, queues⟩ := single
    have pieces : ((s.piecesOf c.id q).map fun p => if p.idx < q.restart then { p with stage := .done } else p) = [p] := by
      rw [made, List.map_singleton, if_neg (by omega)]
    obtain ⟨l, sh, restart, told, kept⟩ := restartCmd_told occ running stopped faults mode why status bank pieces
    obtain ⟨stage, out⟩ := nestPiece_waiting (s := s) (c := c.id) (q := q) (p := p) copy (made ▸ List.mem_singleton_self p)
    let r := goesOn q [p]
    let t : State := { s with core := { c with running := [r], tokens := l, shadow := sh } }
    have free' := (writeHeld_started (q := q) (r := r) (.refl s) copy copy t.core c.id p.dst).trans free
    have pumped := (pump_one (s := t) (q := r) rfl rfl).trans (if_pos (pieceReady_one (s := t) (q := r) rfl stage rfl quiet free'))
    obtain ⟨k, y, begins, msgs, op, loc, width, core, cmd, idx, final⟩ := beginPiece_read (s := t) (q := r) (f := f)
      ⟨copy, same, whole⟩ rfl rfl out src quiet
    exact ⟨_, congrArg event (restart.trans (pumped.trans begins)), told, queue, rfl, rfl, y, msgs, op, loc, width, core, cmd,
      idx, final⟩

end Sys2Proof.EngineProofs
end

section
/-! PROOFS. The couch engines' events in one context: diff, passes, cut, fault, mirroring (R244 to R252). -/

namespace Sys2Proof.CouchProofs

open Sys2Proof Sys2Proof.Machine Sys2Proof.Claim Sys2Proof.PhaseProofs Sys2Proof.StackProofs Sys2Proof.EngineProofs
  Sys2Proof.BarrierProofs

section One

variable {s : State} {x : Context} (one : s.contexts = [x])
include one

/-! ### The one context -/

-- Memory is bounded and each thread holds some: what stands before is checked before more is begun.
set_option Elab.async false in
theorem context?_one : s.context? x.asid = some x := by
  rw [State.context?, one, List.find?_singleton, if_pos (beq_self_eq_true _)]

theorem updContext_one (f : Context → Context) : s.updContext x.asid f = { s with contexts := [f x] } := by
  rw [State.updContext, one, List.map_singleton, if_pos rfl]

theorem transition_one {st : Couch} (occ : s.occ = .context x.asid) : s.transition st = if x.eng = st then some x else none := by
  rw [State.transition, occ]
  dsimp only
  rw [context?_one one]

theorem transition_none (occ : s.occ = .context x.asid) {st : Couch} (other : x.eng ≠ st) : s.transition st = none :=
  (transition_one one occ).trans (if_neg other)

theorem transition_some (occ : s.occ = .context x.asid) {st : Couch} (eng : x.eng = st) : s.transition st = some x :=
  (transition_one one occ).trans (if_pos eng)

end One

/-- A module none of whose cores runs a command has nothing to top up. -/
theorem pumpAll_idle {s : State} (running : s.core.running = []) (parked : s.parked = []) : s.pumpAll = s := by
  rw [State.pumpAll, parked, List.foldl_cons, List.foldl_nil, State.pumpCore, MessageProofs.findCore_self, running]
  rfl

theorem mapCores_alone {s : State} (parked : s.parked = []) (f : Core → Core) : s.mapCores f = { s with core := f s.core } := by
  rw [State.mapCores, parked, List.map_nil, ← parked]

section Events

variable {s : State} {x : Context} (one : s.contexts = [x])
include one

/-! ### An engine is taken; the diff (R244, R248) -/

theorem takes_engine (occ : s.occ = .context x.asid) (eng : x.eng = .diffing) (waits : x.hasEngine = false) :
    execCouchEngineFree s = event { s with contexts := [{ x with hasEngine := true }] } := by
  have free : (!x.hasEngine && decide ((s.contexts.filter fun y => y.hasEngine && y.home == x.home).length < 4)) = true := by
    rw [one]
    simp [waits]
  rw [execCouchEngineFree, transition_some one occ eng]
  dsimp only
  rw [if_pos free, updContext_one one]

omit one in
theorem walked_readMaps (s : State) (x : Context) : Walked s (s.readMaps x) :=
  walked_foldl (fun s _ => walked_foldl (fun _ _ => walked_cachePage ..) _ s) _ s

theorem diffDone_eq (occ : s.occ = .context x.asid) (eng : x.eng = .diffing) (has : x.hasEngine = true)
    (fresh : s.couchStale x = false) : execDiffDone s = event (diffEnds s x) := by
  have goes : (x.hasEngine && !s.couchStale x) = true := by rw [has, fresh]; rfl
  rw [execDiffDone, transition_some one occ eng]
  exact congrArg event (if_pos goes)

/-- What the diff finds to do. -/
def works (x : Context) : List (DiffPiece × DiffWork) :=
  (diffPieces x.map (x.maps.getD x.tgt.toNat [])).map fun d => (d, d.work)

/-- A diff with nothing to move is complete. -/
theorem diffEnds_nothing (nothing : ∀ p ∈ works x, p.2 = .none) :
    ∃ c a, diffEnds s x = { s with caches := c, activations := a, contexts := [{ x with eng := .complete }] } := by
  have none (w : DiffWork) (ne : w ≠ .none) : (works x).filter (fun p => p.2 == w) = [] := by
    refine List.filter_eq_nil_iff.mpr fun p mem is => ne ?_
    exact (beq_iff_eq.mp is).symm.trans (nothing p mem)
  have noFault : (works x).find? (fun p => p.2 == .fault) = Option.none := by
    refine List.find?_eq_none.mpr fun p mem is => ?_
    rw [nothing p mem] at is
    cases is
  obtain ⟨c, a, walked⟩ := walked_readMaps s x
  refine ⟨c, a, ?_⟩
  unfold works at none noFault
  rw [diffEnds]
  dsimp only
  rw [noFault]
  dsimp only
  rw [none .zero (by decide), none .carry (by decide), walked]
  exact updContext_one (s := { s with caches := c, activations := a }) one _

/-- The transition has faulted; the core may know of it. -/
theorem faultTransition_one (code : BitVec 8) (va : VAddr) (goes : x.eng ≠ .idle ∧ x.eng ≠ .faulted) :
    s.faultTransition x.asid code va =
      let y : Context := { x with
        eng := .faulted, flt := true, fcode := code, fltva := va, hasEngine := false, moves := [], padvs := []
        heldBack := [] }
      (x.padvs.foldl (fun (s : State) p => s.updMember p.1 fun c => c.completeToken p.2 (tokFaulted code))
        (State.mapCores { s with contexts := [y] } fun c => c.faultMet x.asid x.tgt x.trans code)).addLog 5 code x.home 0 va.toNat := by
  rw [State.faultTransition, context?_one one]
  dsimp only
  rw [if_neg (not_or.mpr goes), updContext_one one]

theorem faultTransition_stays (code : BitVec 8) (va : VAddr) (ended : x.eng = .idle ∨ x.eng = .faulted) :
    s.faultTransition x.asid code va = s := by
  rw [State.faultTransition, context?_one one]
  exact if_pos ended

omit one in
theorem contexts_tellAll (l : List (Member × BitVec 6)) (v : BitVec 16) (t : State) :
    (l.foldl (fun (s : State) p => s.updMember p.1 fun c => c.completeToken p.2 v) t).contexts = t.contexts := by
  induction l generalizing t with
  | nil => rfl
  | cons p l ih => exact (ih _).trans (State.updMember_contexts ..)

/-- A diff that would carry a page to nowhere faults with 0x05. -/
theorem diffEnds_faults (eng : x.eng = .diffing) (fault : ∃ p ∈ works x, p.2 = .fault) :
    ∃ y, (diffEnds s x).contexts = [y] ∧ y.eng = .faulted ∧ y.flt = true ∧ y.fcode = 5 ∧ y.cur = x.cur ∧ y.maps = x.maps ∧
      (diffEnds s x).mem = s.mem := by
  obtain ⟨p, found⟩ : ∃ p, (works x).find? (fun p => p.2 == .fault) = some p := by
    refine Option.isSome_iff_exists.mp (List.find?_isSome.mpr ?_)
    obtain ⟨p, mem, is⟩ := fault
    exact ⟨p, mem, beq_iff_eq.mpr is⟩
  obtain ⟨c, a, walked⟩ := walked_readMaps s x
  have ends : diffEnds s x = State.faultTransition { s with caches := c, activations := a } x.asid 0x05 (BitVec.ofNat 56 p.1.va) := by
    unfold works at found
    rw [diffEnds]
    dsimp only
    rw [found, walked]
  have mem := congrArg State.mem ends
  rw [State.faultTransition_mem] at mem
  rw [faultTransition_one (s := { s with caches := c, activations := a }) one _ _ (by rw [eng]; decide)] at ends
  have contexts := (congrArg State.contexts ends).trans
    ((State.addLog_contexts ..).trans (contexts_tellAll ..))
  exact ⟨_, contexts, rfl, rfl, rfl, rfl, rfl, mem⟩

/-! ### Passes (R245, R247) -/

/-- Nothing of a page is dirty and nothing of it left to copy. -/
def Clean (x : Context) : Prop := ∀ p ∈ x.moves, p.todo = [] ∧ p.dirty = []

/-- Where nothing is left to copy, a pass copies nothing. -/
theorem copyTodo_clean (clean : Clean x) (pick : Nat → Bool) : s.copyTodo x.asid pick = s := by
  have work : (x.moves.flatMap fun m => (m.todo.filter pick).map fun b => (m, b)) = [] :=
    List.flatMap_eq_nil_iff.mpr fun m mem => by rw [(clean m mem).1]; rfl
  have same : (x.moves.map fun m : PageMove => { m with todo := m.todo.filter fun b => !(([] : List (PageMove × Nat)).any fun w =>
      w.1.va == m.va && w.2 == b) }) = x.moves :=
    (List.map_congr_left fun m mem => by rw [(clean m mem).1]; show _ = m; rw [List.filter_nil, ← (clean m mem).1]).trans
      (List.map_id _)
  rw [State.copyTodo, context?_one one]
  dsimp only
  rw [work, startNow, updContext_one one, same, List.foldl_nil, ← one]

omit one in
theorem passEnd_clean (clean : Clean x) : x.passEnd = { x with
    eng := .complete, pass := x.pass + 1, prem := 0
    moves := x.moves.map fun (p : PageMove) => { p with mirrored := true } } := by
  have all : (x.moves.map fun m : PageMove => if !m.mirrored && m.dirty.isEmpty then { m with mirrored := true } else m) =
      x.moves.map fun (p : PageMove) => { p with mirrored := true } := by
    refine List.map_congr_left fun m mem => ?_
    obtain ⟨-, dirty⟩ := clean m mem
    cases mirrored : m.mirrored
    · rw [dirty]
      rfl
    · rw [← mirrored]
      exact if_neg (by simp [mirrored])
  have left : ((x.moves.map fun (p : PageMove) => { p with mirrored := true }).filter fun m => !m.mirrored).length = 0 := by
    rw [List.filter_map]
    simp [Function.comp_def]
  rw [Context.passEnd]
  dsimp only
  rw [all, left]
  rfl

theorem pass_ends (occ : s.occ = .context x.asid) (eng : x.eng = .copying) (clean : Clean x)
    (landed : s.couchBusy x.asid = false) : execPassEnd s = event { s with contexts := [x.passEnd] } := by
  have none : x.passLeft = false := by
    simp only [Context.passLeft, List.any_eq_false]
    intro m mem
    rw [(clean m mem).1]
    simp
  have copying := transition_some one occ eng
  have left : ((s.transition .copying).map Context.passLeft).getD true = false := by
    rw [copying]
    exact none
  have ended : State.transition { s with contexts := [x.passEnd] } .copying = Option.none := by
    rw [passEnd_clean clean]
    exact transition_none (s := { s with contexts := [_] }) (x := { x with
      eng := .complete, pass := x.pass + 1, prem := 0
      moves := x.moves.map fun (p : PageMove) => { p with mirrored := true } }) rfl occ (by exact Couch.noConfusion)
  rw [execPassEnd, copying]
  dsimp only
  rw [copyTodo_clean one clean, landed, left, updContext_one one, ended]
  rfl

omit one in
theorem next_clean {m : PageMove} (dirty : m.dirty = []) : m.next = m := by
  unfold PageMove.next
  split
  · rfl
  · rw [dirty, List.append_nil, ← dirty]

theorem final_ends (occ : s.occ = .context x.asid) (eng : x.eng = .finalPass) (clean : Clean x)
    (running : s.core.running = []) (parked : s.parked = []) (quiet : s.net.msgs = []) (arrived : s.fab.arrived = [])
    (recs : s.pan.recs = []) : execFinalPassDone s = event { s with contexts := [{ x with
      eng := .complete, prem := 0, heldBack := []
      moves := x.moves.map fun (p : PageMove) => { p with mirrored := true } }] } := by
  have final := transition_some one occ eng
  have performed : s.heldInFlight = false := by
    rw [State.heldInFlight, parked, quiet, List.any_cons, running]
    rfl
  have same : (x.moves.map PageMove.next) = x.moves :=
    (List.map_congr_left fun m mem => next_clean (clean m mem).2).trans (List.map_id _)
  have unchanged : ({ s with contexts := [{ x with moves := x.moves.map PageMove.next }] } : State) = s := by
    rw [same, ← one]
  have busy : s.couchBusy x.asid = false := by
    rw [State.couchBusy, quiet]
    rfl
  have none : x.finalLeft = false := by
    simp only [Context.finalLeft, List.any_eq_false]
    intro m mem
    rw [(clean m mem).1, (clean m mem).2]
    simp
  have left : ((s.transition .finalPass).map Context.finalLeft).getD true = false := by
    rw [final]
    exact none
  have held : s.heldNow x = [] := by
    rw [State.heldNow, parked, arrived, recs, List.flatMap_cons, running]
    rfl
  rw [execFinalPassDone, final]
  dsimp only
  rw [performed, updContext_one one, unchanged, copyTodo_clean one clean, busy, left, held, updContext_one one]
  exact congrArg event (pumpAll_idle (s := { s with contexts := _ }) running parked)

/-! ### The cut (R234, R249, R252) -/

omit one in
/-- The core after its cut: a PADV that is stalled toward the target has its end. -/
theorem cutMet_frame (c : Core) (a : BitVec 16) (n : BitVec 6) : c.cutMet a n = { c with padvEnd :=
    if c.padvWait.isSome ∧ c.asid = a ∧ c.padvTgt = n ∧ c.padvEnd = .none then .met else c.padvEnd } := by
  have same : (c.padvWait.isSome && c.asid == a && c.padvTgt == n && c.padvEnd == .none) =
      decide (c.padvWait.isSome ∧ c.asid = a ∧ c.padvTgt = n ∧ c.padvEnd = .none) := by
    rw [Bool.eq_iff_iff]
    simp [and_assoc]
  rw [Core.cutMet, same]
  by_cases meets : c.padvWait.isSome ∧ c.asid = a ∧ c.padvTgt = n ∧ c.padvEnd = .none
  · rw [if_pos (decide_eq_true meets), if_pos meets]
  · rw [if_neg (by simpa using meets), if_neg meets]

/-- The module after the cut, but for the PADVs' tokens. -/
def cutTo (s : State) (x : Context) : State :=
  State.invalidate { s with contexts := [x.cut], core := s.core.cutMet x.asid x.tgt } x.asid 0 (2 ^ 56) fun _ => true

theorem cut_eq (occ : s.occ = .context x.asid) (eng : x.eng = .cutting) (parked : s.parked = [])
    (landed : s.couchBusy x.asid = false) : execCutDone s = event (x.padvs.foldl (fun (s : State) p =>
      s.updMember p.1 fun c => c.completeToken p.2 (tokDone 0)) (cutTo s x)) := by
  have cores := mapCores_alone (s := { s with contexts := [x.cut] }) parked fun c => c.cutMet x.asid x.tgt
  rw [execCutDone, transition_some one occ eng]
  dsimp only
  rw [landed, updContext_one one, cores]
  rfl

omit one in
/-- Every page meets the whole of the address space. -/
theorem meets_all (p : MapPage) : stretchesMeet p.va.toNat (MapE.size p.entry) 0 (2 ^ 56) = true := by
  have size : 0 < MapE.size p.entry := by
    unfold MapE.size
    split <;> decide
  have va := p.va.isLt
  simp only [stretchesMeet, Bool.and_eq_true, decide_eq_true_eq]
  omega

omit one in
/-- The cut drops the context's cached translations, and no others. -/
theorem mem_caches_cutTo (c : Cached) : c ∈ (cutTo s x).caches ↔ c ∈ s.caches ∧ c.asid ≠ x.asid := by
  unfold cutTo State.invalidate
  rw [List.mem_filter]
  simp only [meets_all, Bool.and_true, Bool.not_eq_true', beq_eq_false_iff_ne, ne_eq]

/-! ### A transition faults (R250, R252) -/

omit one in
theorem transitionFault_eq {code : BitVec 8} {va : VAddr} (occ : s.occ = .couchFault x.asid code va) :
    execTransitionFault s = event (if 5 ≤ code.toNat ∧ code.toNat ≤ 8 then (s.faultTransition x.asid code va).pumpAll else s) := by
  rw [execTransitionFault, occ]
  simp only [Bool.and_eq_true, decide_eq_true_eq]

omit one in
/-- A PADV that waits for the transition that faults has its end. -/
theorem faultMet_padvEnd {c : Core} {a : BitVec 16} {n : BitVec 6} {k : Nat} {code : BitVec 8} (waits : c.padvWait.isSome)
    (asid : c.asid = a) (tgt : c.padvTgt = n) (for' : c.padvFor = k) (fresh : c.padvEnd = .none) :
    (c.faultMet a n k code).padvEnd = .faulted code := by
  simp [Core.faultMet, waits, asid, tgt, for', fresh]

omit one in
theorem faultMet_running (c : Core) (a : BitVec 16) (n : BitVec 6) (k : Nat) (code : BitVec 8) :
    (c.faultMet a n k code).running = c.running := by
  unfold Core.faultMet
  split <;> rfl

/-! ### Mirroring ends (R246) -/

theorem mirroring_ends {p : PageMove} (occ : s.occ = .page x.asid p.va) (mirrors : x.mirrors = [p])
    (running : s.core.running = []) (parked : s.parked = []) (images : s.sched.images = []) :
    execMirroringEnd s = event { s with
      contexts := [{ x with mirrors := [] }], pan := s.pan.relocate s.modid p.follow } := by
  have done : s.oldCommandsDone x = true := by
    rw [State.oldCommandsDone, parked, images, List.map_nil, List.append_nil, List.all_cons, running]
    rfl
  have gone : x.mirrors.erase p = [] := by rw [mirrors, List.erase_cons_head]
  refine Eq.trans (b := event { s.updContext x.asid fun x => { x with mirrors := x.mirrors.erase p } with
    pan := s.pan.relocate s.modid p.follow }) ?_ (by rw [updContext_one one, gone])
  rw [execMirroringEnd, occ]
  dsimp only
  rw [context?_one one]
  dsimp only
  rw [show x.mirrors.find? (fun m => m.va == p.va) = some p by
    rw [mirrors, List.find?_singleton, if_pos (beq_self_eq_true _)]]
  dsimp only
  rw [done]
  rfl

end Events

/-- Settles O46: one context's transition, event by event; what the fault and the cut tell the core is written once. -/
theorem couchEngineEvents : Obligations.CouchEngineEvents := by
  unfold Obligations.CouchEngineEvents
  intro s x with' work one running parked
  refine ⟨fun occ => ⟨fun eng waits => takes_engine one occ eng waits, fun eng has fresh => ⟨fun nothing => ?nothing,
      fun fault => ?fault⟩, fun eng clean landed => ?pass, fun eng clean quiet arrived recs =>
      final_ends one occ eng clean running parked quiet arrived recs, fun eng landed => ⟨fun none => ?bare, fun k own real => ?told⟩⟩,
    fun code va occ => ⟨fun other => ?other, fun le ge eng none => ?faults, fun ended => ?ended⟩,
    fun p occ mirrors images => ⟨_, mirroring_ends one occ mirrors running parked images, rfl, rfl⟩⟩
  case nothing =>
    obtain ⟨c, a, ends⟩ := diffEnds_nothing one fun p mem => by
      obtain ⟨d, found, rfl⟩ := List.mem_map.mp mem
      exact nothing _ (List.mem_map_of_mem found)
    exact ⟨_, (diffDone_eq one occ eng has fresh).trans (congrArg event ends), rfl, rfl, rfl⟩
  case fault =>
    obtain ⟨d, mem, is⟩ := List.mem_map.mp fault
    obtain ⟨y, faulted⟩ := diffEnds_faults one eng ⟨_, List.mem_map_of_mem mem, is⟩
    exact ⟨_, y, diffDone_eq one occ eng has fresh, faulted⟩
  case pass =>
    rw [← passEnd_clean clean]
    exact pass_ends one occ eng clean landed
  case bare =>
    have cut := cut_eq one occ eng parked landed
    rw [none] at cut
    exact ⟨_, cut, ⟨rfl, rfl, fun c mem => ((mem_caches_cutTo c).mp mem).2, fun c mem ne => (mem_caches_cutTo c).mpr ⟨mem, ne⟩,
      (congrArg Core.padvEnd (cutMet_frame s.core x.asid x.tgt) :)⟩, fun j => (congrArg (fun c : Core => c.token j) (cutMet_frame s.core x.asid x.tgt) :)⟩
  case told =>
    have cut := cut_eq one occ eng parked landed
    have who : s.core.who = (cutTo s x).core.who := (congrArg Core.who (cutMet_frame s.core x.asid x.tgt)).symm
    rw [own, List.foldl_cons, List.foldl_nil, who, updMember_who] at cut
    obtain ⟨sh, frame⟩ := completeToken_frame (cutTo s x).core k (tokDone 0)
    obtain ⟨set, kept⟩ : TokenSet s.core (((cutTo s x).core).completeToken k (tokDone 0)) k (tokDone 0) :=
      tokenSet_of_setToken (b := (cutTo s x).core) (completeToken_tokens ..) (congrArg Core.tokens (cutMet_frame s.core x.asid x.tgt) :)
    exact ⟨_, cut, ⟨rfl, rfl, fun c mem => ((mem_caches_cutTo c).mp mem).2, fun c mem ne => (mem_caches_cutTo c).mpr ⟨mem, ne⟩,
      (congrArg Core.padvEnd frame).trans (congrArg Core.padvEnd (cutMet_frame s.core x.asid x.tgt) :)⟩, (set real).trans tokDone_zero, kept⟩
  case other => exact (transitionFault_eq occ).trans (congrArg event (if_neg (by omega)))
  case faults =>
    have run := (transitionFault_eq occ).trans (congrArg event (if_pos ⟨le, ge⟩))
    have goes : x.eng ≠ .idle ∧ x.eng ≠ .faulted := by
      constructor <;> (rintro eq; rw [eq] at eng; simp at eng)
    have faulted := faultTransition_one one code va goes
    dsimp only at faulted
    rw [none, List.foldl_nil, mapCores_alone (by exact parked)] at faulted
    have still := fun y => pumpAll_idle (s := State.addLog { s with
      contexts := [y], core := s.core.faultMet x.asid x.tgt x.trans code } 5 code x.home 0 va.toNat)
      ((faultMet_running ..).trans running) parked
    rw [faulted, still] at run
    obtain ⟨r, last, kind, detail⟩ := logged_addLog { s with
      contexts := _, core := s.core.faultMet x.asid x.tgt x.trans code } 5 code x.home 0 va.toNat
    refine ⟨_, r, run, ?_, last, kind, detail, rfl, fun waits asid tgt for' fresh => faultMet_padvEnd waits asid tgt for' fresh⟩
    rw [← none]
    rfl
  case ended =>
    refine (transitionFault_eq occ).trans (congrArg event ?_)
    rw [faultTransition_stays one code va (by simpa using ended), pumpAll_idle running parked, ite_self]

end Sys2Proof.CouchProofs
end

section
/-! PROOFS. Norm reports, releases, updates and flips of one parameter record (R263 to R273). -/

namespace Sys2Proof.PanProofs

open Sys2Proof Sys2Proof.Machine Sys2Proof.Claim Sys2Proof.CheckpointProofs Sys2Proof.QueueProofs Sys2Proof.StackProofs

/-! ### Numbers in memory and what a list of cells makes of them -/

section Cells

theorem lastOf_append {α : Type} (l l' : List (Nat × α)) (a : Nat) : lastOf (l ++ l') a = (lastOf l' a).or (lastOf l a) := by
  simp only [lastOf, List.reverse_append, List.find?_append]
  cases l'.reverse.find? fun e => e.1 == a <;> rfl

theorem lastOf_singleton {α : Type} (b : Nat) (x : α) (a : Nat) : lastOf [(b, x)] a = if b = a then some x else none := by
  rw [lastOf_cons, lastOf_nil, Option.none_or]

theorem lastOf_leCells (b n x a : Nat) :
    lastOf (leCells b n x) a = if b ≤ a ∧ a < b + n then some (BitVec.ofNat 8 (x / 256 ^ (a - b))) else none := by
  rw [leCells, lastOf_cellsFrom, getElem?_bytesOfNat]
  by_cases le : b ≤ a
  · rw [if_pos le]
    by_cases lt : a < b + n
    · rw [if_pos (by omega), if_pos ⟨le, lt⟩]
    · rw [if_neg (by omega), if_neg fun h => lt h.2]
  · rw [if_neg le, if_neg fun h => le h.1]

theorem lastOf_zeros (b n a : Nat) :
    lastOf (cellsFrom b (List.replicate n (0 : Byte))) a = if b ≤ a ∧ a < b + n then some 0 else none := by
  rw [lastOf_cellsFrom, List.getElem?_replicate]
  by_cases le : b ≤ a
  · rw [if_pos le]
    by_cases lt : a < b + n
    · rw [if_pos (by omega), if_pos ⟨le, lt⟩]
    · rw [if_neg (by omega), if_neg fun h => lt h.2]
  · rw [if_neg le, if_neg fun h => le h.1]

variable {s t : State}

theorem peekNat_one (a : Nat) : s.peekNat a 1 = (s.peek a).toNat := by
  simp [State.peekNat, State.peekBytes, natOfBytes]

theorem peekNat_congr {a n : Nat} (same : ∀ i < n, t.peek (a + i) = s.peek (a + i)) : t.peekNat a n = s.peekNat a n :=
  congrArg natOfBytes (List.map_congr_left fun i mem => same i (List.mem_range.mp mem))

/-- Bytes that are those of a number. -/
theorem peekNat_of_bytes {a n x : Nat} (bytes : ∀ i < n, t.peek (a + i) = BitVec.ofNat 8 (x / 256 ^ i)) :
    t.peekNat a n = x % 256 ^ n := by
  rw [← natOfBytes_bytesOfNat]
  refine congrArg natOfBytes (List.ext_getElem? fun i => ?_)
  rw [getElem?_bytesOfNat, State.peekBytes, List.getElem?_map]
  by_cases lt : i < n
  · rw [if_pos lt, List.getElem?_range lt]
    exact congrArg some (bytes i lt)
  · rw [if_neg lt, List.getElem?_eq_none (by simpa using lt)]
    rfl

theorem peekNat_lt (a n : Nat) : s.peekNat a n < 256 ^ n := by
  have := natOfBytes_lt (s.peekBytes a n)
  simpa [State.peekBytes, State.peekNat] using this

end Cells

/-- A state in which cells have been written, no page being mirrored. -/
structure Laid (s t : State) (l : List (Nat × Byte)) : Prop where
  peek : ∀ a, t.peek a = (lastOf l a).getD (s.peek a)
  wf : t.memWf
  unmirrored : Unmirrored t
  sound : ∀ a n, s.isPoisoned a n = false → t.isPoisoned a n = false

theorem laid_store {s : State} (wf : s.memWf) (unmirrored : Unmirrored s) (l : List (Nat × Byte)) : Laid s (s.store l) l where
  peek a := by
    rw [ReleaseProofs.peek_store_of_unmirrored wf unmirrored]
    cases lastOf l a <;> rfl
  wf := State.memWf_store wf
  unmirrored := unmirrored_store unmirrored l
  sound a n clean := by
    rw [store_of_unmirrored unmirrored]
    rw [State.isPoisoned, List.any_eq_false] at clean ⊢
    exact fun u mem => clean u (List.mem_of_mem_filter mem)

/-- The pan units do not know what is written. -/
theorem pan_store {s : State} (unmirrored : Unmirrored s) (l : List (Nat × Byte)) : (s.store l).pan = s.pan := by
  rw [store_of_unmirrored unmirrored]
  rfl

/-- What the pan units hold is not memory. -/
theorem laid_pan {s : State} (wf : s.memWf) (unmirrored : Unmirrored s) (p : Pan) : Laid s { s with pan := p } [] :=
  ⟨fun _ => rfl, wf, unmirrored, fun _ _ => id⟩

section Laid

variable {s t u : State} {l l' : List (Nat × Byte)}

theorem Laid.trans (h : Laid s t l) (h' : Laid t u l') : Laid s u (l ++ l') where
  peek a := by
    rw [h'.peek, h.peek, lastOf_append]
    cases lastOf l' a <;> rfl
  wf := h'.wf
  unmirrored := h'.unmirrored
  sound a n clean := h'.sound a n (h.sound a n clean)

/-- A number that no cell touches. -/
theorem Laid.outside (h : Laid s t l) {a n : Nat} (free : ∀ i < n, lastOf l (a + i) = none) : t.peekNat a n = s.peekNat a n :=
  peekNat_congr fun i lt => by rw [h.peek, free i lt]; rfl

/-- A number whose bytes the cells are. -/
theorem Laid.inside (h : Laid s t l) {a n x : Nat} (cells : ∀ i < n, lastOf l (a + i) = some (BitVec.ofNat 8 (x / 256 ^ i))) :
    t.peekNat a n = x % 256 ^ n :=
  peekNat_of_bytes fun i lt => by rw [h.peek, cells i lt]; rfl

theorem Laid.byte (h : Laid s t l) {a : Nat} {x : Byte} (cell : lastOf l a = some x) : t.peek a = x := by
  rw [h.peek, cell]
  rfl

end Laid

/-! ### The one record -/

section One

variable {s : State} {r : RecInfo} (one : s.pan.recs = [r])
include one

theorem recAt_one : s.recAt r.pa = some r := by
  rw [State.recAt, one, List.find?_singleton, if_pos (beq_self_eq_true _)]

theorem recAt_other {a : Nat} (other : a ≠ r.pa) : s.recAt a = none := by
  rw [State.recAt, one, List.find?_singleton, if_neg (by simpa using Ne.symm other)]

theorem updRec_one (f : RecInfo → RecInfo) : s.updRec r.pa f = { s with pan := { s.pan with recs := [f r] } } := by
  rw [State.updRec, one, List.map_singleton, if_pos rfl]

end One

section Flags

variable {s : State} (wf : s.memWf) (unmirrored : Unmirrored s)
include wf unmirrored

/-- A flag of a record's header is set, and nothing else of memory changes. -/
theorem laid_orRecFlag (pa m : Nat) (byte : m < 256) : ∃ x : Byte, Laid s (s.orRecFlag pa m) [(pa + 3, x)] ∧
    x.toNat = (s.peek (pa + 3)).toNat ||| m := by
  refine ⟨_, laid_store wf unmirrored _, ?_⟩
  rw [peekNat_one, BitVec.toNat_ofNat, Nat.mod_eq_of_lt]
  exact Nat.or_lt_two_pow (n := 8) (s.peek (pa + 3)).isLt byte

theorem laid_setStc (pa st : Nat) : ∃ x : Byte, Laid s (s.setStc pa st) [(pa + 1, x)] ∧ (st < 8 → x.toNat % 8 = st) := by
  refine ⟨_, laid_store wf unmirrored _, fun lt => ?_⟩
  rw [BitVec.toNat_ofNat]
  omega

/-- What an error in a record's lines makes of it (R236, R263, R273). -/
theorem poisonRec_breaks {r : RecInfo} (one : s.pan.recs = [r]) (last : s.pan.firing.filter (· != r.pa) = []) :
    (s.poisonRec r).pan.firing = [] ∧ (s.poisonRec r).pan.recs = [{ r with poisoned := true, active := false, wrote := [] }] ∧
      ((s.poisonRec r).peek (r.pa + 3)).toNat = (s.peek (r.pa + 3)).toNat ||| 32 ∧
      (∀ a, a ≠ r.pa + 3 → (s.poisonRec r).peek a = s.peek a) ∧ Logged (s.poisonRec r) 6 1 := by
  obtain ⟨x, laid, flag⟩ := laid_orRecFlag wf unmirrored r.pa 32 (by decide)
  have upd := updRec_one (s := s.orRecFlag r.pa 32) ((congrArg Pan.recs (pan_store unmirrored _)).trans one) fun r =>
    { r with poisoned := true, active := false, wrote := [] }
  have peek : ∀ a, (s.poisonRec r).peek a = (s.orRecFlag r.pa 32).peek a := fun a => by
    rw [State.poisonRec, upd]
    rfl
  refine ⟨?_, ?_, ?_, fun a ne => ?_, logged_addLog ..⟩
  · rw [State.poisonRec, upd]
    show (s.orRecFlag r.pa 32).pan.firing.filter _ = []
    rw [State.orRecFlag, pan_store unmirrored, last]
  · rw [State.poisonRec, upd]
    rfl
  · rw [peek, laid.byte (by rw [lastOf_singleton, if_pos rfl]), flag]
  · rw [peek, laid.peek, lastOf_singleton, if_neg (Ne.symm ne)]
    rfl

end Flags

/-! ### Reports (R265) -/

section Reports

variable {s : State} {r : RecInfo} {x : Report} (one : s.pan.recs = [r]) (occ : s.occ = .num 0)
  (reports : s.pan.reports = [x])
include one occ reports

/-- The module whose one report is being performed. -/
def reported (s : State) : State := { s with pan := { s.pan with reports := [] } }

theorem normReport_performs (cell : x.cell = r.pa) (is : r.cell = true) :
    execNormReport s = event ((reported s).performReport r x) := by
  have found := recAt_one (s := { s with pan := { s.pan with reports := [] } }) one
  have gone : s.pan.reports.eraseIdx 0 = [] := by rw [reports]; rfl
  rw [execNormReport, occ]
  dsimp only
  rw [← occ, show s.pan.reports[0]? = some x by rw [reports]; rfl]
  dsimp only
  rw [gone, cell, found]
  exact congrArg event (if_pos is)

theorem normReport_refused (other : x.cell ≠ r.pa) (own : x.asked = none) :
    execNormReport s = event ((reported s).gateError x.recPa x.recVa) := by
  have lost := recAt_other (s := { s with pan := { s.pan with reports := [] } }) one other
  have gone : s.pan.reports.eraseIdx 0 = [] := by rw [reports]; rfl
  rw [execNormReport, occ]
  dsimp only
  rw [← occ, show s.pan.reports[0]? = some x by rw [reports]; rfl]
  dsimp only
  rw [gone, lost]
  show event ((reported s).answerReport x 6 0) = _
  rw [State.answerReport, own]
  rfl

end Reports

section Performed

variable {s : State} {r : RecInfo} {x : Report} (wf : s.memWf) (unmirrored : Unmirrored s) (one : s.pan.recs = [r])
  (own : x.asked = none) (sound : s.isPoisoned r.pa 64 = false)
  (step : x.step.toNat = s.peekNat (r.pa + 20) 4) (apart : x.recPa + 56 ≤ r.pa ∨ r.pa + 64 ≤ x.recPa)
  (more : s.peekNat (r.pa + 16) 4 + 1 ≠ s.peekNat (r.pa + 12) 4)
include wf unmirrored one own sound step apart more

/-- A report that does not complete its group is added to its cell. -/
theorem performReport_adds : let t := s.performReport r x
    t.pan.reports = s.pan.reports ∧ t.peekNat (r.pa + 16) 4 = (s.peekNat (r.pa + 16) 4 + 1) % 256 ^ 4 ∧
      t.peekNat r.pa 8 = (s.peekNat r.pa 8 + (toFx64 (.fin ((x.sum : ℚ) * pow2 (2 * x.e)) false)
        (s.peek (r.pa + 8)).toInt).1.toNat) % 2 ^ 64 := by
  let ssq := BitVec.ofNat 64 (s.peekNat r.pa 8) + (toFx64 (.fin ((x.sum : ℚ) * pow2 (2 * x.e)) false) (s.peek (r.pa + 8)).toInt).1
  let cnt := s.peekNat (r.pa + 16) 4 + 1
  let u := s.store (leCells (x.recPa + 48) 8 (s.peekNat (r.pa + 32) 8))
  let cells := leCells r.pa 8 ssq.toNat ++ leCells (r.pa + 16) 4 cnt ++
    leCells (r.pa + 32) 8 (chainWord u x.home x.recPa x.recVa)
  have answer : s.answerReport x 0 (s.peekNat (r.pa + 32) 8) = u := by
    rw [State.answerReport, own]
    rfl
  have first := laid_store wf unmirrored (leCells (x.recPa + 48) 8 (s.peekNat (r.pa + 32) 8))
  have second := first.trans (laid_store first.wf first.unmirrored cells)
  have pan : u.pan = s.pan := pan_store unmirrored _
  have pan' : (u.store cells).pan = s.pan := (pan_store first.unmirrored _).trans pan
  have group : u.peekNat (r.pa + 12) 4 = s.peekNat (r.pa + 12) 4 := first.outside fun i lt => by
    rw [lastOf_leCells, if_neg (by omega)]
  have performs : s.performReport r x = (u.store cells).updRec r.pa fun c => { c with chain := (x.home, x.recPa) :: r.chain } := by
    rw [State.performReport]
    dsimp only
    rw [if_neg (by rw [sound]; decide), if_neg (by simpa using step), answer, group, if_neg more]
  have upd := updRec_one (s := u.store cells) ((congrArg Pan.recs pan').trans one) fun c =>
    { c with chain := (x.home, x.recPa) :: r.chain }
  dsimp only
  rw [performs, upd]
  refine ⟨(congrArg Pan.reports pan' :), ?_, ?_⟩
  · refine second.inside fun i lt => ?_
    simp only [cells, lastOf_append, lastOf_leCells]
    rw [if_neg (by omega), if_pos (by omega), Nat.add_sub_cancel_left]
    rfl
  · refine (second.inside (x := ssq.toNat) fun i lt => ?_).trans ?_
    · simp only [cells, lastOf_append, lastOf_leCells]
      rw [if_neg (by omega), if_neg (by omega), if_pos (by omega), Nat.add_sub_cancel_left]
      rfl
    · rw [Nat.mod_eq_of_lt (show ssq.toNat < 256 ^ 8 from ssq.isLt), BitVec.toNat_add, BitVec.toNat_ofNat, Nat.mod_add_mod]

end Performed

/-! ### Releases (R263, R265) -/

section Releases

variable {s : State} {r : RecInfo} {cell : Nat} {m : BitVec 12} {n : Word32} (wf : s.memWf) (unmirrored : Unmirrored s)
  (one : s.pan.recs = [r]) (gated : s.recStc r.pa = 2) (live : r.poisoned = false) (sound : s.isPoisoned r.pa 64 = false)
include wf unmirrored one gated live sound

/-- A gated record takes its release and begins to update. -/
theorem releaseRec_updates : ∃ c, s.releaseRec r.pa n = c ∧ c.memWf ∧ Unmirrored c ∧ c.recStc r.pa = 3 ∧
    c.peekNat (r.pa + 56) 4 = n.toNat ∧ c.pan.firing = s.pan.firing ++ [r.pa] ∧ c.pan.releases = s.pan.releases := by
  let f := clipFactor (r.rule.getD RuleEntry.empty) true n
  let l := leCells (r.pa + 56) 4 n.toNat ++ leCells (r.pa + 60) 4 f.1.toNat
  let p : Pan := { (s.store l).pan with recs := [{ r with norm := n }] }
  let u : State := { s.store l with pan := p }
  have first := laid_store wf unmirrored l
  have second := first.trans (laid_pan first.wf first.unmirrored p)
  obtain ⟨b, laid, state⟩ := laid_setStc second.wf second.unmirrored r.pa 3
  have all := second.trans laid
  have upd := updRec_one (s := s.store l) ((congrArg Pan.recs (pan_store unmirrored _)).trans one) fun r => { r with norm := n }
  have pan : (u.setStc r.pa 3).pan = p := pan_store second.unmirrored _
  have releases : s.releaseRec r.pa n = { u.setStc r.pa 3 with pan := { p with firing := p.firing ++ [r.pa] } } := by
    rw [State.releaseRec, recAt_one one]
    dsimp only
    rw [if_neg (by simp [sound]), if_pos ⟨gated, live⟩, upd, ← pan]
    rfl
  refine ⟨_, releases, all.wf, all.unmirrored, ?_, ?_, ?_, ?_⟩
  · show (u.setStc r.pa 3).peekNat (r.pa + 1) 1 % 8 = 3
    rw [peekNat_one, laid.byte (by rw [lastOf_singleton, if_pos rfl]), state (by decide)]
  · refine (all.inside (x := n.toNat) fun i lt => ?_).trans (Nat.mod_eq_of_lt n.isLt)
    simp only [l, lastOf_append, lastOf_singleton, lastOf_nil, lastOf_leCells]
    rw [if_neg (by omega), if_neg (by omega), if_pos (by omega), Nat.add_sub_cancel_left]
    rfl
  · exact (congrArg (fun q : Pan => q.firing ++ [r.pa]) (pan_store unmirrored l) :)
  · exact (congrArg Pan.releases (pan_store unmirrored l) :)

end Releases

theorem releaseFromCell_eq {s : State} {cell : Nat} {m : BitVec 12} {pa : Nat} {n : Word32} (occ : s.occ = .num 0)
    (releases : s.pan.releases = [(cell, m, pa, n)])
    (last : (State.releaseRec { s with pan := { s.pan with releases := [] } } pa n).pan.releases = []) :
    execReleaseFromCell s =
      event ((State.releaseRec { s with pan := { s.pan with releases := [] } } pa n).store [(cell + 9, 0)]) := by
  have gone : s.pan.releases.eraseIdx 0 = [] := by rw [releases]; rfl
  rw [execReleaseFromCell, occ]
  dsimp only
  rw [← occ, show s.pan.releases[0]? = some (cell, m, pa, n) by rw [releases]; rfl]
  dsimp only
  rw [gone, last]
  rfl

/-! ### Updates (R268, R270, R272) -/

section Updates

variable {s : State} {r : RecInfo} (one : s.pan.recs = [r]) (occ : s.occ = .num r.pa)
include one occ

/-- The module whose record has left the queue of those that fired, its reads being counted. -/
def begun (s : State) (a : List RowCount) : State := { s with pan := { s.pan with firing := [] }, activations := a }

omit one occ in
theorem touched (s : State) (l : List (Nat × Nat)) : ∃ a, l.foldl (fun (s : State) p => s.touchAll p.1 p.2) s =
    { s with activations := a } := by
  have many : ∀ {β : Type} (g : State → β → State) (_ : ∀ s b, ∃ a, g s b = { s with activations := a }) (l : List β) (s : State),
      ∃ a, l.foldl g s = { s with activations := a } := by
    intro β g one l
    induction l with
    | nil => exact fun s => ⟨_, rfl⟩
    | cons b l ih =>
      intro s
      obtain ⟨a, eq⟩ := one s b
      obtain ⟨a', eq'⟩ := ih (g s b)
      exact ⟨a', eq'.trans (by rw [eq])⟩
  exact many _ (fun s p => many _ (fun s i => ⟨_, rfl⟩) _ s) l s

omit one occ in
theorem updateCells_begun (s : State) (r : RecInfo) (a : List RowCount) : (begun s a).updateCells r = s.updateCells r := by
  have peek : ∀ i, (begun s a).peek i = s.peek i := fun _ => rfl
  simp only [State.updateCells, State.recStep, State.recNrm, State.recCsel, State.recE, State.accFx, State.peekNat,
    State.peekBytes, peek]
  rfl

/-- The flags of an update's arithmetic are set in the header (R268). -/
def raised (u : State) (pa : Nat) (f : Flags) : State :=
  let v := if f.getLsbD 0 then u.orRecFlag pa 4 else u
  if f.getLsbD 1 then v.orRecFlag pa 8 else v

omit one occ in
theorem pan_raised {u : State} (unmirrored : Unmirrored u) (pa : Nat) (f : Flags) :
    Unmirrored (raised u pa f) ∧ (raised u pa f).pan = u.pan := by
  have flag : ∀ (u : State) (b : Bool) (m : Nat), Unmirrored u →
      Unmirrored (if b then u.orRecFlag pa m else u) ∧ (if b then u.orRecFlag pa m else u).pan = u.pan := by
    intro u b m h
    cases b
    · exact ⟨h, rfl⟩
    · exact ⟨unmirrored_store h _, pan_store h _⟩
  obtain ⟨first, pan⟩ := flag u (f.getLsbD 0) 4 unmirrored
  obtain ⟨second, pan'⟩ := flag _ (f.getLsbD 1) 8 first
  exact ⟨second, pan'.trans pan⟩

section Starts

variable (firing : s.pan.firing = [r.pa]) (idle : r.active = false) (free : s.panHeld r.pa = false)
include firing idle free

omit occ in
theorem may_update : (s.pan.firing.contains r.pa && s.panFree r.pa) = true := by
  have room : (s.pan.recs.filter fun q => q.active && stackNo q.pa == stackNo r.pa).length < 4 := by
    rw [one]
    simp [idle]
  have first : (s.pan.firing.find? fun q => stackNo q == stackNo r.pa) = some r.pa := by
    rw [firing, List.find?_singleton, if_pos (beq_self_eq_true _)]
  rw [State.panFree, first, free, decide_eq_true room, firing]
  simp

theorem panUpdateStart_eq : ∃ a,
    ((∃ p ∈ s.updateReads r, s.isPoisoned p.1 p.2 = true) → execPanUpdateStart s = event ((begun s a).poisonRec r)) ∧
    ((∀ p ∈ s.updateReads r, s.isPoisoned p.1 p.2 = false) → execPanUpdateStart s =
      event ((raised (begun s a) r.pa (s.updateCells r).2).updRec r.pa fun q => { q with active := true, wrote := (s.updateCells r).1 })) := by
  have gone : s.pan.firing.erase r.pa = [] := by rw [firing, List.erase_cons_head]
  obtain ⟨a, reads⟩ : ∃ a, (s.updateReads r).foldl (fun (s : State) p => s.touchAll p.1 p.2) { s with
      pan := { s.pan with firing := [] } } = begun s a := touched _ _
  refine ⟨a, fun bad => ?_, fun good => ?_⟩
  · have any : ((s.updateReads r).any fun p => s.isPoisoned p.1 p.2) = true := by simpa using bad
    rw [execPanUpdateStart, occ]
    dsimp only
    rw [← occ, recAt_one one]
    dsimp only
    rw [if_pos (may_update one firing idle free), gone, reads]
    exact congrArg event (if_pos any)
  · have any : ((s.updateReads r).any fun p => s.isPoisoned p.1 p.2) = false := by simpa using good
    rw [execPanUpdateStart, occ]
    dsimp only
    rw [← occ, recAt_one one]
    dsimp only
    rw [if_pos (may_update one firing idle free), gone, reads]
    rw [show ((s.updateReads r).any fun p => (begun s a).isPoisoned p.1 p.2) = false from any, updateCells_begun]
    rfl

end Starts

omit one occ in
/-- Neither the record nor a counter that it decrements is held. -/
theorem due {st : Nat} (active : r.active = true) (live : r.poisoned = false) (free : s.placeHeld (.phys (8 * r.pa)) = false)
    (state : s.recStc r.pa = st) (counter : st = 4 → s.recNtf r.pa = 0) : s.panDue r st = true := by
  have held : (st == recPublishing && s.ntfHeld r) = false := by
    by_cases publishing : st = 4
    · have none : s.ntfHeld r = false := by simp [State.ntfHeld, counter publishing]
      rw [none, Bool.and_false]
    · rw [show (st == recPublishing) = false from beq_eq_false_iff_ne.mpr publishing, Bool.false_and]
  rw [State.panDue, active, live, state, free, held, beq_self_eq_true]
  rfl

section Due

variable (active : r.active = true) (live : r.poisoned = false) (free : s.placeHeld (.phys (8 * r.pa)) = false)
include active live free

theorem updateWritesDone_eq (state : s.recStc r.pa = 3) : execUpdateWritesDone s = event (if s.isPoisoned r.pa 64 then s.poisonRec r
    else ((s.store r.wrote).updRec r.pa fun r => { r with wrote := [] }).setStc r.pa 4) := by
  have due := due (st := 3) active live free state fun eq => by cases eq
  rw [execUpdateWritesDone, occ]
  dsimp only
  rw [recAt_one one]
  exact congrArg event (if_pos due)

theorem flip_eq (state : s.recStc r.pa = 4) (counter : s.recNtf r.pa = 0) : execFlip s = event (if s.isPoisoned r.pa 64 then
    s.poisonRec r else s.flipRec r) := by
  have due := due (st := 4) active live free state fun _ => counter
  rw [execFlip, occ]
  dsimp only
  rw [recAt_one one]
  exact congrArg event (if_pos due)

end Due

end Updates

section Flips

variable {s : State} {r : RecInfo} (wf : s.memWf) (unmirrored : Unmirrored s) (one : s.pan.recs = [r])
include wf unmirrored one

/-- The writes of an update have been performed. -/
theorem written_published : let t := ((s.store r.wrote).updRec r.pa fun r => { r with wrote := [] }).setStc r.pa 4
    t.pan.recs = [{ r with wrote := [] }] ∧ t.recStc r.pa = 4 ∧
      ∀ a, a ≠ r.pa + 1 → t.peek a = (lastOf r.wrote a).getD (s.peek a) := by
  let p : Pan := { (s.store r.wrote).pan with recs := [{ r with wrote := [] }] }
  let u : State := { s.store r.wrote with pan := p }
  have first := laid_store wf unmirrored r.wrote
  have second := first.trans (laid_pan first.wf first.unmirrored p)
  obtain ⟨b, laid, state⟩ := laid_setStc second.wf second.unmirrored r.pa 4
  have upd := updRec_one (s := s.store r.wrote) ((congrArg Pan.recs (pan_store unmirrored _)).trans one) fun r =>
    { r with wrote := [] }
  dsimp only
  rw [upd]
  refine ⟨congrArg Pan.recs (pan_store second.unmirrored _), ?_, fun a ne => ?_⟩
  · show (u.setStc r.pa 4).peekNat (r.pa + 1) 1 % 8 = 4
    rw [peekNat_one, laid.byte (by rw [lastOf_singleton, if_pos rfl]), state (by decide)]
  · refine ((second.trans laid).peek a).trans ?_
    rw [lastOf_append, lastOf_append, lastOf_singleton, if_neg (Ne.symm ne), lastOf_nil]
    rfl

/-- What a flip writes into the record (R270). -/
def flipCells (s : State) (pa : Nat) : List (Nat × Byte) :=
  leCells (pa + 20) 4 (s.recVer pa + 1) ++ leCells (pa + 16) 4 (s.recStep pa + 1)
    ++ [(pa + 1, BitVec.ofNat 8 ((1 - s.recCsel pa) * 8 +
      if s.recCnt pa (1 - s.recStep pa % 2) = 0 then recIdle else recCollecting))]
    ++ leCells (pa + 8 + 4 * (s.recStep pa % 2)) 4 0 ++ cellsFrom (pa + accOffset (s.recStep pa % 2)) (List.replicate 2048 0)

/-- The record after its flip. -/
def flipped (r : RecInfo) : RecInfo := { r with active := false, rule := none, norm := 0 }

/-- The module after the flip. -/
def flippedAt (s : State) (r : RecInfo) : State :=
  { s.store (flipCells s r.pa) with pan := { (s.store (flipCells s r.pa)).pan with recs := [flipped r] } }

omit one in
theorem laid_flip : Laid s (flippedAt s r) (flipCells s r.pa) := by
  have laid := laid_store wf unmirrored (flipCells s r.pa)
  have all := laid.trans (laid_pan laid.wf laid.unmirrored { (s.store (flipCells s r.pa)).pan with recs := [flipped r] })
  rw [List.append_nil] at all
  exact all

omit wf unmirrored one in
/-- The parts of a record that a flip writes do not meet. -/
theorem lastOf_flipCells (s : State) (pa a : Nat) : let p := s.recStep pa % 2
    lastOf (flipCells s pa) a =
      if pa + 3200 + 2048 * p ≤ a ∧ a < pa + 3200 + 2048 * p + 2048 then some 0
      else if pa + 8 + 4 * p ≤ a ∧ a < pa + 8 + 4 * p + 4 then some 0
      else if pa + 1 = a then some (BitVec.ofNat 8 ((1 - s.recCsel pa) * 8 +
        if s.recCnt pa (1 - p) = 0 then recIdle else recCollecting))
      else if pa + 16 ≤ a ∧ a < pa + 16 + 4 then some (BitVec.ofNat 8 ((s.recStep pa + 1) / 256 ^ (a - (pa + 16))))
      else if pa + 20 ≤ a ∧ a < pa + 20 + 4 then some (BitVec.ofNat 8 ((s.recVer pa + 1) / 256 ^ (a - (pa + 20))))
      else none := by
  have or_ite : ∀ (c : Prop) [Decidable c] (x : Byte) (o : Option Byte),
      (if c then some x else none).or o = if c then some x else o := fun c _ x o => by split <;> rfl
  simp only [flipCells, lastOf_append, lastOf_zeros, lastOf_leCells, lastOf_singleton, accOffset, or_ite, Nat.zero_div,
    Nat.add_assoc]
  rfl

end Flips

section Fields

variable {s t : State} {pa : Nat} (laid : Laid s t (flipCells s pa))
include laid

/-- Version, step and the step's count after a flip. -/
theorem flip_counters : t.recVer pa = (s.recVer pa + 1) % 2 ^ 32 ∧ t.recStep pa = (s.recStep pa + 1) % 2 ^ 32 ∧
    t.recCnt pa (s.recStep pa % 2) = 0 := by
  have p : s.recStep pa % 2 < 2 := Nat.mod_lt _ (by decide)
  have cells := lastOf_flipCells s pa
  refine ⟨laid.inside fun i lt => ?_, laid.inside fun i lt => ?_, (laid.inside (x := 0) fun i lt => ?_).trans rfl⟩
  · rw [cells, if_neg (by omega), if_neg (by omega), if_neg (by omega), if_neg (by omega), if_pos (by omega),
      Nat.add_sub_cancel_left]
  · rw [cells, if_neg (by omega), if_neg (by omega), if_neg (by omega), if_pos (by omega), Nat.add_sub_cancel_left]
  · rw [cells, if_neg (by omega), if_pos (by omega), Nat.zero_div]
    rfl

/-- The current slot and the state after a flip. -/
theorem flip_state : t.recCsel pa = 1 - s.recCsel pa ∧
    t.recStc pa = if s.recCnt pa (1 - s.recStep pa % 2) = 0 then 0 else 1 := by
  have csel : s.recCsel pa < 2 := Nat.mod_lt _ (by decide)
  have byte := laid.byte ((lastOf_flipCells s pa (pa + 1)).trans (by
    rw [if_neg (by omega), if_neg (by omega), if_pos rfl]))
  rw [State.recCsel, State.recStc, peekNat_one, byte, BitVec.toNat_ofNat]
  by_cases none : s.recCnt pa (1 - s.recStep pa % 2) = 0
  · simp only [none, if_true, recIdle]
    omega
  · simp only [none, if_false, recCollecting]
    omega

/-- The sums of the step's parity after a flip. -/
theorem flip_sums {i : Nat} (lt : i < 256) : t.accFx pa (s.recStep pa % 2) i = 0 := by
  have zero : t.peekNat (pa + accOffset (s.recStep pa % 2) + 8 * i) 8 = 0 := by
    refine (laid.inside (x := 0) fun j small => ?_).trans rfl
    rw [lastOf_flipCells, if_pos (by simp only [accOffset]; omega), Nat.zero_div]
    rfl
  rw [State.accFx, zero]
  rfl

/-- The count of the next step, and how many it takes, as they were. -/
theorem flip_next : t.recCnt pa (1 - s.recStep pa % 2) = s.recCnt pa (1 - s.recStep pa % 2) ∧ t.recExp pa = s.recExp pa := by
  have p : s.recStep pa % 2 < 2 := Nat.mod_lt _ (by decide)
  refine ⟨laid.outside fun i lt => ?_, laid.outside fun i lt => ?_⟩
  · rw [lastOf_flipCells, if_neg (by omega), if_neg (by omega), if_neg (by omega), if_neg (by omega), if_neg (by omega)]
  · rw [lastOf_flipCells, if_neg (by omega), if_neg (by omega), if_neg (by omega), if_neg (by omega), if_neg (by omega)]

end Fields

section Flips

variable {s : State} {r : RecInfo} (wf : s.memWf) (unmirrored : Unmirrored s) (one : s.pan.recs = [r])
  (counter : s.recNtf r.pa = 0) (sound : s.isPoisoned r.pa 64 = false)
  (next : s.recCnt r.pa (1 - s.recStep r.pa % 2) ≠ s.recExp r.pa)
include wf unmirrored one counter sound next

/-- A flip whose next step is not complete fires nothing. -/
theorem flipRec_eq : s.flipRec r = flippedAt s r := by
  have laid := laid_flip (r := r) wf unmirrored
  obtain ⟨-, step, -⟩ := flip_counters laid
  obtain ⟨count, expected⟩ := flip_next laid
  have parity : (flippedAt s r).recStep r.pa % 2 = 1 - s.recStep r.pa % 2 := by
    rw [step]
    omega
  have found : (flippedAt s r).recAt r.pa = some (flipped r) := recAt_one (s := flippedAt s r) (r := flipped r) rfl
  have stays : (flippedAt s r).fireIfDue (flipped r) = flippedAt s r := by
    have sound' : (flippedAt s r).isPoisoned (flipped r).pa 64 = false := laid.sound _ _ sound
    have next' : (flippedAt s r).recCnt (flipped r).pa ((flippedAt s r).recStep (flipped r).pa % 2) ≠
        (flippedAt s r).recExp (flipped r).pa := by
      show (flippedAt s r).recCnt r.pa ((flippedAt s r).recStep r.pa % 2) ≠ (flippedAt s r).recExp r.pa
      rw [parity, count, expected]
      exact next
    rw [State.fireIfDue, if_neg fun h => by rw [sound'] at h; exact Bool.false_ne_true h.2, if_neg fun h => next' h.2.1]
  have upd := updRec_one (s := s.store (flipCells s r.pa)) ((congrArg Pan.recs (pan_store unmirrored _)).trans one) flipped
  have told : (s.store (flipCells s r.pa)).updRec r.pa (fun r => { r with active := false, rule := none, norm := 0 }) =
      flippedAt s r := upd
  unfold flipCells at told
  rw [State.flipRec, counter, told, State.notifyNtf, if_pos rfl, found]
  exact stays

end Flips

/-- Settles O47: every write of a pan unit is a list of cells of which the record's fields are read back. -/
theorem panUnitEvents : Obligations.PanUnitEvents := by
  unfold Obligations.PanUnitEvents
  intro s r wf unmirrored one pa breaks
  have breaking : ∀ {i : Instr} {u : State}, exec i s = event (u.poisonRec r) → u.memWf → Unmirrored u → u.pan.recs = [r] →
      u.pan.firing.filter (· != r.pa) = [] → (∀ a, u.peek a = s.peek a) → breaks i := by
    intro i u run wf unmirrored one last peek
    obtain ⟨firing, recs, flag, others, e, log, kind, code⟩ := poisonRec_breaks wf unmirrored one last
    exact ⟨_, e, run, firing, recs, flag.trans (congrArg (fun b : Byte => b.toNat ||| 32) (peek _)),
      fun a ne => (others a ne).trans (peek a), log, kind, code⟩
  refine ⟨fun x occ reports cell is home own sound step apart low more => ?adds, fun x occ reports other own => ?refused,
    fun cell m n occ releases gated live sound apart => ?release, fun occ firing idle free => ?start,
    fun occ active live free bad firing => ⟨fun state => ?badWrites, fun state counter => ?badFlip⟩,
    fun occ active live free state sound => ?writes, fun occ active live free state counter sound next => ?flip⟩
  case adds =>
    obtain ⟨gone, count, sum⟩ := performReport_adds (s := reported s) wf unmirrored one own sound step apart more
    exact ⟨_, normReport_performs one occ reports cell is, gone, count.trans (Nat.mod_eq_of_lt low), sum⟩
  case refused =>
    obtain ⟨b, laid, flag⟩ := laid_orRecFlag (s := reported s) wf unmirrored x.recPa 16 (by decide)
    refine ⟨_, normReport_refused one occ reports other own,
      (congrArg Pan.reports (pan_store (s := reported s) unmirrored _) :), ?_, fun a ne => ?_⟩
    · exact (congrArg BitVec.toNat (laid.byte (by rw [lastOf_singleton, if_pos rfl]))).trans flag
    · refine (laid.peek a).trans ?_
      rw [lastOf_singleton, if_neg (Ne.symm ne)]
      rfl
  case release =>
    let u : State := { s with pan := { s.pan with releases := [] } }
    obtain ⟨c, releases', wf', unmirrored', state, norm, firing, none⟩ := releaseRec_updates (s := u) (n := n) wf unmirrored one gated
      live sound
    have run := releaseFromCell_eq occ releases ((congrArg (fun t : State => t.pan.releases) releases').trans none)
    rw [show State.releaseRec _ pa n = c from releases'] at run
    have laid := laid_store wf' unmirrored' [(cell + 9, 0)]
    refine ⟨_, run, (congrArg Pan.releases (pan_store unmirrored' _)).trans none, ?_, ?_,
      (congrArg Pan.firing (pan_store unmirrored' _)).trans firing, laid.byte (by rw [lastOf_singleton, if_pos rfl])⟩
    · refine (congrArg (· % 8) (laid.outside fun i lt => ?_)).trans state
      rw [lastOf_singleton, if_neg (by omega)]
    · refine (laid.outside fun i lt => ?_).trans norm
      rw [lastOf_singleton, if_neg (by omega)]
  case start =>
    obtain ⟨a, bad, good⟩ := panUpdateStart_eq one occ firing idle free
    refine ⟨?_, fun poisoned => breaking (bad poisoned) wf unmirrored one rfl fun _ => rfl⟩
    generalize s.updateCells r = w at good ⊢
    obtain ⟨-, pan⟩ := pan_raised (u := begun s a) unmirrored r.pa w.2
    have upd := updRec_one ((congrArg Pan.recs pan).trans one) fun q => { q with active := true, wrote := w.1 }
    exact fun sound => ⟨_, (good sound).trans (congrArg event upd), (congrArg Pan.firing pan :), rfl⟩
  case badWrites =>
    refine breaking ((updateWritesDone_eq one occ active live free state).trans (congrArg event (if_pos bad))) wf unmirrored one ?_
      fun _ => rfl
    rw [firing]
    rfl
  case badFlip =>
    refine breaking ((flip_eq one occ active live free state counter).trans (congrArg event (if_pos bad))) wf unmirrored one ?_
      fun _ => rfl
    rw [firing]
    rfl
  case writes =>
    have run := (updateWritesDone_eq one occ active live free state).trans (congrArg event (if_neg (by rw [sound]; decide)))
    obtain ⟨recs, state', peek⟩ := written_published (r := r) wf unmirrored one
    refine ⟨_, run, recs, state', fun a ne => (peek a ne).trans ?_⟩
    cases lastOf r.wrote a <;> rfl
  case flip =>
    have run := (flip_eq one occ active live free state counter).trans (congrArg event (if_neg (by rw [sound]; decide)))
    rw [flipRec_eq wf unmirrored one counter sound next] at run
    have laid := laid_flip (r := r) wf unmirrored
    obtain ⟨version, step, count⟩ := flip_counters laid
    obtain ⟨slot, state'⟩ := flip_state laid
    exact ⟨_, run, version, step, slot, count, state', fun i lt => flip_sums laid lt, rfl⟩

end Sys2Proof.PanProofs
end

section
/-! PROOFS. Replication, group entries, time limits, retries, key slots and pod time (R346 to R354). -/

namespace Sys2Proof.FabricProofs

open Sys2Proof Sys2Proof.Machine Sys2Proof.Claim Sys2Proof.MessageProofs Sys2Proof.CheckpointProofs Sys2Proof.StackProofs

/-! ### What a packet that leaves does to the messages before it -/

/-- Only the network differs, and of its messages none with an earlier number. -/
def SentBy (n : Nat) (s t : State) : Prop := ∃ net : Net, t = { s with net := net } ∧ n < net.nextMsg ∧
  (net.msgs.find? fun m => m.id == n) = s.net.msgs.find? fun m => m.id == n

section Sent

variable {n : Nat} {s t u : State}

-- Memory is bounded and each thread holds some: what stands before is checked before more is begun.
set_option Elab.async false in
theorem SentBy.refl (old : n < s.net.nextMsg) : SentBy n s s := ⟨_, rfl, old, rfl⟩

theorem SentBy.msg? (h : SentBy n s t) : t.msg? n = s.msg? n := by
  obtain ⟨net, rfl, -, same⟩ := h
  exact same

/-- Another message is not found by the number. -/
theorem find?_others (l : List Msg) {k : Nat} (ne : k ≠ n) (m' : Msg) (id : m'.id = k) :
    ((l.map fun x => if x.id = k then m' else x).find? fun m => m.id == n) = l.find? fun m => m.id == n := by
  induction l with
  | nil => rfl
  | cons x l ih =>
    rw [List.map_cons, List.find?_cons, List.find?_cons, ih]
    by_cases same : x.id = k
    · have other : (m'.id == n) = false := by simpa [id] using ne
      have other' : (x.id == n) = false := by simpa [same] using ne
      rw [if_pos same, other, other']
    · rw [if_neg same]

theorem sentBy_launch (old : n < s.net.nextMsg) {m : Msg} (ne : m.id ≠ n) : SentBy n s (s.launch m) := by
  unfold State.launch
  split
  · exact ⟨_, rfl, old, find?_others _ ne _ rfl⟩
  · exact .refl old

theorem sentBy_sendMsg (old : n < s.net.nextMsg) (m : Msg) : SentBy n s (s.sendMsg m) := by
  unfold State.sendMsg
  dsimp only
  obtain ⟨net, eq, later, same⟩ := sentBy_launch (n := n)
    (s := { s with net := { s.net with msgs := s.net.msgs ++ [{ m with
      id := s.net.nextMsg, dst := legPort m.src m.final, flits := flitCount m.op (64 * m.lines.length), mid := none
      arrived := false, away := false, psn := false, since := if m.op.answers then m.since else s.ptb
      entries := m.entries.map fun e => { e with msg := s.net.nextMsg } }], nextMsg := s.net.nextMsg + 1 } })
    (Nat.lt_succ_of_lt old) (m := { m with
      id := s.net.nextMsg, dst := legPort m.src m.final, flits := flitCount m.op (64 * m.lines.length), mid := none
      arrived := false, away := false, psn := false, since := if m.op.answers then m.since else s.ptb
      entries := m.entries.map fun e => { e with msg := s.net.nextMsg } }) (show s.net.nextMsg ≠ n by omega)
  refine ⟨net, eq, later, same.trans ?_⟩
  have last : (s.net.nextMsg == n) = false := by simpa using show s.net.nextMsg ≠ n by omega
  rw [List.find?_append, List.find?_singleton, last]
  simp

theorem sentBy_sendAs (old : n < s.net.nextMsg) (src : Port) (op : NetOp) (p : Packet) (home : BitVec 12)
    (l : List (Nat × BitVec 64 × List Byte)) : SentBy n s (s.sendAs src op p home l) := by
  unfold State.sendAs
  split
  · unfold State.carry
    split
    · exact sentBy_sendMsg old _
    · exact .refl old
  · exact .refl old

/-- A message under its number, after it has been changed. -/
theorem msg?_updMsg {m : Msg} (found : s.msg? n = some m) (f : Msg → Msg) (keeps : (f m).id = n) :
    (s.updMsg n f).msg? n = some (f m) := by
  simp only [State.msg?, State.updMsg] at found ⊢
  revert found
  generalize s.net.msgs = l
  induction l with
  | nil => exact fun h => by cases h
  | cons x l ih =>
    intro found
    rw [List.find?_cons] at found
    rw [List.map_cons, List.find?_cons]
    by_cases same : x.id = n
    · rw [same, beq_self_eq_true] at found
      cases found
      rw [if_pos same, keeps, beq_self_eq_true]
    · rw [show (x.id == n) = false by simpa using same] at found
      rw [if_neg same, show (x.id == n) = false by simpa using same]
      exact ih found

theorem id_of_msg? {m : Msg} (found : s.msg? n = some m) : m.id = n := by
  have := List.find?_some found
  simpa using this

end Sent

/-! ### Replication (R351) -/

/-- Sending the replicas takes one packet identifier each, and leaves the message and memory. -/
theorem replicas_sent {n : Nat} {β : Type} {g : State → β → State}
    (one : ∀ (t : State) d, n < t.net.nextMsg → SentBy n t.takePid (g t d)) (l : List β) {s : State} (old : n < s.net.nextMsg) :
    (l.foldl g s).msg? n = s.msg? n ∧ (l.foldl g s).fab.nextPid = s.fab.nextPid + BitVec.ofNat 32 l.length ∧
      (l.foldl g s).mem = s.mem := by
  induction l generalizing s with
  | nil => simp
  | cons d l ih =>
    have first := one s d old
    have same := first.msg?
    obtain ⟨net, eq, later, -⟩ := first
    obtain ⟨msg, pid, mem⟩ := ih (s := g s d) (by rw [eq]; exact later)
    rw [List.foldl_cons, msg, pid, mem, same, eq]
    refine ⟨rfl, ?_, rfl⟩
    show s.fab.nextPid + 1 + BitVec.ofNat 32 l.length = s.fab.nextPid + BitVec.ofNat 32 (l.length + 1)
    bv_omega

/-- The write whose replicas leave, as its gateway notes it. -/
def replicated (s : State) (m : Msg) (ds all : List (BitVec 12 × Nat)) : Msg := { m with
  pid := some s.fab.nextPid, replicas := ds.length, away := true, arrived := false, since := s.ptb
  status := if ds.length < all.length then 0x06 else 0 }

theorem unreplicated_msg? {s : State} {n b : Nat} {m : Msg} (h : s.unreplicated n = some (m, b)) : s.msg? n = some m := by
  unfold State.unreplicated at h
  split at h
  · next m' found =>
    split at h
    · split at h
      · cases h
        exact found
      · cases h
    · cases h
  · cases h

section Replication

variable {s : State} {m : Msg} {b : Nat} {q : Cmd} {ds : List (BitVec 12 × Nat)} {c : Core} (old : m.id < s.net.nextMsg)
  (found : s.msg? m.id = some m) (cmd : s.cmd? m.core m.cmd = some q) (group : s.replicas b = some ds) (some' : ds ≠ [])
  (peers : ∀ d ∈ ds, s.isPeer m.asid d.1 = true)
  (free : (ds.any fun d => (s.findCore m.core).fenceUnderWay q d.1 m.cls) = false)
  (counted : (s.findCore m.core).countReplicas m.cls (fabStores m) ds = some c)
include old found cmd group some' peers free counted

theorem replicate_sends : ∃ y, (replicate s m b).msg? m.id = some y ∧ y.replicas = ds.length ∧ y.away = true ∧
    y.pid = some s.fab.nextPid ∧ (replicate s m b).fab.nextPid = s.fab.nextPid + BitVec.ofNat 32 ds.length ∧
    (replicate s m b).mem = s.mem := by
  let u := s.updCore m.core fun _ => c
  let m' := replicated u m ds ds
  let v := u.updMsg m.id fun _ => m'
  have all : (ds.filter fun d => s.isPeer m.asid d.1) = ds := List.filter_eq_self.mpr peers
  have whole : ds.isEmpty = false := by simpa using some'
  have net : u.net = s.net := State.updCore_net ..
  have fab : u.fab = s.fab := State.updCore_fab ..
  have noted : v.msg? m.id = some m' := msg?_updMsg ((show u.msg? m.id = _ by rw [State.msg?, net]; rfl).trans found) _ rfl
  let g : State → BitVec 12 × Nat → State := fun s d =>
    let p := s.fabPacket { m' with loc := .remote d.1 (8 * d.2) } q d.1 (8 * d.2)
    s.takePid.sendAs m.final .write { p.1 with pid := s.fab.nextPid, mc := true } d.1 p.2
  have sends : replicate s m b = ds.foldl g v := by
    unfold replicate
    rw [cmd, group]
    dsimp only
    rw [all, whole, free, counted]
    rfl
  obtain ⟨msg, pid, mem⟩ := replicas_sent (n := m.id) (g := g) (fun t d old => sentBy_sendAs (s := t.takePid) old ..) ds (s := v)
    (by show m.id < u.net.nextMsg; rw [net]; exact old)
  rw [sends]
  refine ⟨m', msg.trans noted, rfl, rfl, congrArg (fun f : Fabric => some f.nextPid) fab, ?_, mem.trans (State.updCore_mem ..)⟩
  exact pid.trans (congrArg (fun f : Fabric => f.nextPid + BitVec.ofNat 32 ds.length) fab)

end Replication

/-! ### Group entries (R351, R352) -/

section Groups

variable {s : State} {g : BitVec 8} {valid : Bool} {ds : List (BitVec 12 × Nat)}

theorem multicastGroupWrite_eq (occ : s.occ = .group g valid ds) : execMulticastGroupWrite s = event (
    if !(s.groupBusy g) then s.writeGroup ⟨g, valid, ds⟩
    else if s.fab.writes.contains ⟨g, valid, ds⟩ then s
    else { s with fab := { s.fab with writes := s.fab.writes ++ [⟨g, valid, ds⟩] } }) := by
  rw [execMulticastGroupWrite, occ]

theorem group?_writeGroup_same (e : McGroup) : (s.writeGroup e).group? e.g =
    some ⟨e.g, e.valid && decide (1 ≤ e.dests.length) && decide (e.dests.length ≤ 64), e.dests⟩ := by
  simp [State.group?, State.writeGroup]

theorem group?_writeGroup_other {e : McGroup} {h : BitVec 8} (ne : h ≠ e.g) : (s.writeGroup e).group? h = s.group? h := by
  simp only [State.group?, State.writeGroup, List.find?_cons]
  rw [show (e.g == h) = false by simpa using Ne.symm ne, List.find?_filter]
  refine congrArg (fun f => s.fab.groups.find? f) (funext fun w => ?_)
  by_cases is : w.g = h
  · simp [is, ne]
  · simp [is]

end Groups

/-! ### Time limits (R350, R354) -/

section Noted

variable {s t u : State}

/-- Only what a context knows of its pages in transition differs. -/
def Dirtied (s t : State) : Prop := ∃ c, t = { s with contexts := c } ∧ Unmirrored t

theorem dirtied_remoteWrote (unmirrored : Unmirrored s) (a : BitVec 16) (l : Loc) (n : Nat) :
    Dirtied s (s.remoteWrote a l n) := by
  unfold State.remoteWrote
  split
  · next x d b found =>
    have none : x.mirrored = [] := unmirrored x (List.mem_of_find?_eq_some found)
    dsimp only
    rw [none]
    refine ⟨_, rfl, fun y mem => ?_⟩
    obtain ⟨z, hz, rfl⟩ := List.mem_map.mp mem
    have before := unmirrored z hz
    split
    · simp only [Context.mirrored, List.append_eq_nil_iff, List.filter_eq_nil_iff] at before ⊢
      refine ⟨fun m mem => ?_, before.2⟩
      obtain ⟨m', mem', rfl⟩ := List.mem_map.mp mem
      have := before.1 m' mem'
      split <;> exact this
    · exact before
  · exact ⟨_, rfl, unmirrored⟩

theorem dirtied_all (unmirrored : Unmirrored s) (a : BitVec 16) (l : List (Loc × Nat)) :
    Dirtied s (l.foldl (fun (t : State) w => t.remoteWrote a w.1 w.2) s) := by
  induction l generalizing s with
  | nil => exact ⟨_, rfl, unmirrored⟩
  | cons w l ih =>
    obtain ⟨c, eq, unmirrored'⟩ := dirtied_remoteWrote unmirrored a w.1 w.2
    obtain ⟨c', eq', unmirrored''⟩ := ih unmirrored'
    rw [List.foldl_cons]
    exact ⟨c', eq'.trans (by rw [eq]), unmirrored''⟩

end Noted

section Timeout

variable {s : State} {m : Msg} {q : Cmd} {p : Piece} (one : s.net.msgs = [m]) (couch : m.couch = false)
  (bare : m.bare = false) (unit : m.unit = false) (pref : ∀ f, q.op ≠ .pref f) (serves : Serves s m q p)
  (unmirrored : Unmirrored s)
include one couch bare unit pref serves unmirrored

/-- An access over the fabric that no answer came for fails its element. -/
theorem finishFabric_late : ∃ n c, s.finishFabric m [] 0x08 .packet =
    withCmd { s with net := n, contexts := c } (failed q p 0x08 .packet) ∧ n.msgs = [] := by
  obtain ⟨n, dropped, none⟩ := emptied_dropMsg one
  obtain ⟨c, wrote, -⟩ := dirtied_all (s := { s with net := n }) unmirrored m.asid (fabWrites m)
  obtain ⟨core, running, cmd, pieces, idx⟩ := serves
  have fails := deliver_fails (s := { s with net := n, contexts := c }) (m := { m with op := m.op.answerOp }) (q := q) (p := p)
    ⟨core, running, cmd, pieces, idx⟩ [] .packet (code := 0x08) (by decide) (by decide) pref
  refine ⟨n, c, ?_, none⟩
  rw [State.finishFabric, couch, dropped, bare, unit]
  simp only [show mayHaveWritten 8 .packet = true from rfl, Bool.false_eq_true, and_false, if_false, if_true]
  rw [wrote]
  exact fails

end Timeout

theorem fabricTimeout_eq {s : State} {m : Msg} (occ : s.occ = .num m.id) (found : s.msg? m.id = some m) (sent : m.pid ≠ none) :
    ∃ f d, execFabricTimeout s = event (if 200000 ≤ (s.ptb - m.since).toNat then
      (State.finishFabric { s with fab := f } m [] 0x08 .packet).logFabric (coreUnit m.core) 0x04 d m.loc.byte else s) := by
  have away : m.pid.isSome = true := Option.isSome_iff_ne_none.mpr sent
  rw [execFabricTimeout, occ]
  dsimp only
  rw [← occ, found]
  dsimp only
  rw [away]
  simp only [Bool.true_and, decide_eq_true_eq]
  exact ⟨_, _, rfl⟩

section Landing

variable {s : State} {q : Cmd} {f : CpF} (occ : s.occ = .num q.id) (queue : s.core.queue = [q]) (op : q.op = .lxred f)
include occ queue op

omit occ queue in
theorem lacksBlock_eq : s.lacksBlock q = (decide (0 < Nest.total q.nest) && (s.landedBlock q).isNone) := by
  rw [State.lacksBlock, Cmd.inOrder, op]
  rfl

omit op in
theorem lxredLandingTimeout_eq : execLxredLandingTimeout s = event (
    if s.lacksBlock q && s.startable s.core q && decide (256 * q.rb.toNat + 1000000 ≤ s.ptb.toNat) then
      { s with core := { s.core with
        queue := []
        running := s.core.running ++ [{ q with
          map := ((s.context? q.asid).map (·.cur)).getD 0, faults := [(0, 0x08, .landing)], stopped := true }] } }
    else s) := by
  have gone : (s.core.queue.filter fun p => p.id != q.id) = [] := by simp [queue]
  have run : execLxredLandingTimeout s = event (landingTimeout s q.id) := by rw [execLxredLandingTimeout, occ]
  refine run.trans (congrArg event ?_)
  rw [landingTimeout, queue, List.find?_singleton, if_pos (beq_self_eq_true _)]
  dsimp only
  rw [State.onCore, gone]

end Landing

/-! ### Retries (R348, R354) -/

section Retries

variable {s : State} {r : Refused} {m : Msg} {q : Cmd} (occ : s.occ = .num 0) (refused : s.fab.refused = [r])
  (old : r.mid < s.net.nextMsg) (found : s.msg? r.mid = some m) (cmd : s.cmd? m.core m.cmd = some q)
include occ refused

theorem retry_eq {landing : Bool} (is : r.landing = landing) : retry s landing s.retryDue =
    if s.retryDue r then State.resend { s with fab := { s.fab with refused := [] } } r else s := by
  have gone : s.fab.refused.eraseIdx 0 = [] := by rw [refused]; rfl
  rw [retry, occ]
  dsimp only
  rw [← occ, show s.fab.refused[0]? = some r by rw [refused]; rfl]
  dsimp only
  rw [gone, is, beq_self_eq_true, Bool.true_and]

include old found cmd

omit occ refused in
/-- A packet that is sent again keeps its identifier and takes the time anew. -/
theorem resend_sends : ∃ net y, s.resend r = { s with net := net } ∧ (s.resend r).msg? r.mid = some y ∧ y.since = s.ptb ∧
    y.pid = m.pid := by
  let v := s.updMsg r.mid fun m => { m with since := s.ptb }
  have noted : v.msg? r.mid = some { m with since := s.ptb } :=
    msg?_updMsg found (fun m => { m with since := s.ptb }) (id_of_msg? found :)
  have sends : ∃ src op p l, s.resend r = v.sendAs src op p r.dmod l := by
    rw [State.resend, found]
    dsimp only
    rw [cmd]
    dsimp only
    rw [show s.updMsg m.id = s.updMsg r.mid by rw [id_of_msg? found]]
    exact ⟨_, _, _, _, rfl⟩
  obtain ⟨src, op, p, l, sends⟩ := sends
  have sent := sentBy_sendAs (s := v) (n := r.mid) old src op p r.dmod l
  have msg := sent.msg?
  obtain ⟨net, eq, -⟩ := sent
  exact ⟨net, _, sends.trans eq, (congrArg (fun t : State => t.msg? r.mid) sends).trans (msg.trans noted), rfl, rfl⟩

end Retries

/-! ### Key slots and pod time (R346, R353) -/

section Keys

variable {s : State} {peer : BitVec 12} {ix : Bool}

/-- The module without an old slot of a peer. -/
def withoutSlot (s : State) (peer : BitVec 12) (ix : Bool) : State :=
  { s with fab := { s.fab with keys := s.fab.keys.filter fun k => !(k.peer == peer && !k.send && k.ix == ix) } }

theorem keySlotRelease_eq (occ : s.occ = .key peer ix) :
    execKeySlotRelease s = event (if s.slotReleasable peer ix then withoutSlot s peer ix else s) := by
  rw [execKeySlotRelease, occ]
  dsimp only
  rw [← occ]
  rfl

theorem keySlot_withoutSlot : (withoutSlot s peer ix).keySlot peer false ix = none := by
  rw [State.keySlot, withoutSlot, List.find?_eq_none]
  intro k mem
  have := (List.mem_filter.mp mem).2
  simp only [Bool.and_eq_true, beq_iff_eq]
  rintro ⟨⟨rfl, send⟩, rfl⟩
  simp [send] at this

theorem keySlot_withoutSlot_other {m : BitVec 12} {send jx : Bool} (other : m ≠ peer ∨ send = true ∨ jx ≠ ix) :
    (withoutSlot s peer ix).keySlot m send jx = s.keySlot m send jx := by
  rw [State.keySlot, withoutSlot, List.find?_filter]
  refine congrArg (fun f => s.fab.keys.find? f) (funext fun k => ?_)
  by_cases is : (k.peer == m && k.send == send && k.ix == jx) = true
  · simp only [Bool.and_eq_true, beq_iff_eq] at is
    obtain ⟨⟨rfl, rfl⟩, rfl⟩ := is
    rcases other with ne | send | ne
    · simp [ne]
    · simp [send]
    · simp [ne]
  · simp [is]

end Keys

theorem podTimeBase_eq {s : State} {ns : BitVec 64} {err : Nat} (occ : s.occ = .podTime ns err) (up : s.svc.holdReset = false) :
    let u : State := { s with ptb := if s.ptb.toNat ≤ ns.toNat then ns else s.ptb }
    execPodTimeBase s = .next (if 16 < err then u.logFabric (0, 0) 0x06 s.modid 0 else u) := by
  rw [execPodTimeBase, occ]
  dsimp only
  rw [awake, up]
  rfl

/-- Settles O50: what leaves does not disturb an earlier message; the limits are those of the equations of the events. -/
theorem fabricEvents : Obligations.FabricEvents := by
  unfold Obligations.FabricEvents
  intro s n
  refine ⟨fun m b q ds c occ old unsent cmd group some' peers free counted => ?replicates,
    fun g valid ds occ => ⟨fun free => ?writes, fun busy => ?waits⟩,
    fun m q p occ one id sent couch bare unit core _ pref _ running cmd pieces idx unmirrored => ⟨fun late => ?late, fun soon => ?soon⟩,
    fun q f occ queue id op => ⟨fun may total none late => ?lands, fun soon => ?early⟩,
    fun r m q occ refused old found cmd => ⟨fun due => ?again, fun due => ?notYet⟩,
    fun peer ix occ => ⟨fun may => ?drops, fun may => ?keeps⟩, fun ns err occ up => ?time⟩
  case replicates =>
    have found := unreplicated_msg? unsent
    have id := id_of_msg? found
    subst id
    obtain ⟨y, noted, sent⟩ := replicate_sends old found cmd group some' peers free counted
    refine ⟨_, y, ?_, noted, sent⟩
    show execMulticastReplication s = event (replicate s m b)
    rw [execMulticastReplication, occ]
    dsimp only
    rw [unsent]
  case writes =>
    refine ⟨_, (multicastGroupWrite_eq occ).trans (congrArg event (if_pos (by rw [free]; rfl))), ?_, fun h ne => ?_, rfl⟩
    · exact group?_writeGroup_same ⟨g, valid, ds⟩
    · exact group?_writeGroup_other (e := ⟨g, valid, ds⟩) ne
  case waits =>
    have run := (multicastGroupWrite_eq occ).trans (congrArg event (if_neg (by rw [busy]; decide)))
    by_cases has : s.fab.writes.contains ⟨g, valid, ds⟩ = true
    · exact ⟨_, run.trans (congrArg event (if_pos has)), by simpa using has, fun h => rfl, rfl⟩
    · exact ⟨_, run.trans (congrArg event (if_neg has)), by simp, fun h => rfl, rfl⟩
  case late =>
    subst id
    have found : s.msg? m.id = some m := by simp [State.msg?, one]
    obtain ⟨f, d, run⟩ := fabricTimeout_eq occ found sent
    obtain ⟨net, c, ends, none⟩ := finishFabric_late (s := { s with fab := f }) one couch bare unit pref
      ⟨core, running, cmd, pieces, idx⟩ unmirrored
    rw [if_pos late, ends] at run
    obtain ⟨r, last, kind, detail⟩ := logged_addLog (withCmd { s with fab := f, net := net, contexts := c }
      (failed q p 0x08 .packet)) 4 0x04 (coreUnit m.core).1 (coreUnit m.core).2 (fabDetail d m.loc.byte)
    exact ⟨_, r, run, none, rfl, last, kind, detail, rfl⟩
  case soon =>
    subst id
    obtain ⟨f, d, run⟩ := fabricTimeout_eq occ (show s.msg? m.id = some m by simp [State.msg?, one]) sent
    exact run.trans (congrArg event (if_neg (by omega)))
  case lands =>
    subst id
    have goes : (s.lacksBlock q && s.startable s.core q && decide (256 * q.rb.toNat + 1000000 ≤ s.ptb.toNat)) = true := by
      rw [lacksBlock_eq op, may, none, decide_eq_true total, decide_eq_true late]
      rfl
    exact (lxredLandingTimeout_eq occ queue).trans (congrArg event (if_pos goes))
  case early =>
    subst id
    refine (lxredLandingTimeout_eq occ queue).trans (congrArg event (if_neg fun goes => ?_))
    rw [lacksBlock_eq op] at goes
    simp only [Bool.and_eq_true, decide_eq_true_eq] at goes
    omega
  case again =>
    obtain ⟨net, y, resent, noted, since, pid⟩ := resend_sends (s := { s with fab := { s.fab with refused := [] } }) old found cmd
    refine ⟨_, y, ?_, (congrArg (fun t : State => t.fab.refused) resent :), noted,
      since, pid, (congrArg State.mem resent :)⟩
    cases landing : r.landing
    · exact congrArg event ((retry_eq occ refused landing).trans (if_pos due))
    · exact congrArg event ((retry_eq occ refused landing).trans (if_pos due))
  case notYet =>
    have stays : (if s.retryDue r then State.resend { s with fab := { s.fab with refused := [] } } r else s) = s :=
      if_neg (by rw [due]; decide)
    cases landing : r.landing
    · exact congrArg event ((retry_eq occ refused landing).trans stays)
    · exact congrArg event ((retry_eq occ refused landing).trans stays)
  case drops =>
    exact ⟨_, (keySlotRelease_eq occ).trans (congrArg event (if_pos may)), keySlot_withoutSlot,
      fun m send jx other => keySlot_withoutSlot_other other, rfl⟩
  case keeps => exact (keySlotRelease_eq occ).trans (congrArg event (if_neg (by rw [may]; decide)))
  case time =>
    have run := podTimeBase_eq occ up
    have later : (if s.ptb.toNat ≤ ns.toNat then ns else s.ptb).toNat = max s.ptb.toNat ns.toNat := by
      split <;> omega
    dsimp only at run
    by_cases far : 16 < err
    · rw [if_pos far] at run
      obtain ⟨r, last, kind, detail⟩ := logged_addLog { s with ptb := if s.ptb.toNat ≤ ns.toNat then ns else s.ptb } 4 0x06
        0 0 (fabDetail s.modid 0)
      exact ⟨_, run, later, rfl, rfl, fun near => absurd far (by omega), fun _ => ⟨r, last, kind, detail⟩⟩
    · rw [if_neg far] at run
      exact ⟨_, run, later, rfl, rfl, fun _ => rfl, fun h => absurd h far⟩

end Sys2Proof.FabricProofs
end

section
/-! PROOFS. A freeze that stops while a mirrored page cannot be copied (R246, R250, R329). -/

namespace Sys2Proof.FreezeProofs

open Sys2Proof Sys2Proof.Machine Sys2Proof.Claim Sys2Proof.CheckpointProofs Sys2Proof.QueueProofs

/-! ### A state that stops for a freeze -/

/-- A page that moves to an address that holds no memory, mirrored already. -/
def nowhere : PageMove := ⟨0, .phys 0, .phys (8 * 0x12A05F2000), 0x10000, [], [], true, false⟩

/-- The member of a task that has been saved; it waits for the cut with token 0. -/
def saved : Member := ⟨0, 64, 0⟩

/-- One context of one page, in physical memory from address 0 on, that is moving. -/
def leaving : Context where
  asid := 0
  nmap := 2
  home := 0
  cur := 0
  eng := .complete
  pass := 0
  trans := 1
  flt := false
  tip := true
  tgt := 1
  fcode := 0
  prem := 0
  fltva := 0
  hasEngine := true
  moves := [nowhere]
  mirrors := []
  padvs := [(saved, 0)]
  heldBack := []
  maps := [[⟨0, 2#2 ++ 0#2 ++ 1#3 ++ 0#1 ++ 1#1 ++ 0#55⟩], []]
  loaded := [[], []]
  tables := []
  pcid := 1
  modLo := 0
  modHi := 1
  ranges := []
  codes := []
  images := []
  objs := []

/-- A queue with two save slots. -/
def twoSlots : Queue where
  qid := 0
  die := 0
  qst := .bound
  qrk := 0
  slot := 0
  asid := 0
  ring := 0
  rsz := 8
  head := 0
  tail := 0
  slice := 1000
  cring := 0
  csz := 8
  ctail := 0
  ygr := 16
  nsave := 2
  save := 0
  dbell := 0
  chead := 0
  nflr := 0
  nfrz := 0
  ndrop := 0
  closing := false
  refuse := false
  stamp := 0
  waiting := []
  reserved := []
  uncovered := false

/-- The saved member's image, in slot 0. -/
def savedImage : SaveImage where
  queue := 0
  slot := 0
  freeze := true
  midg := false
  core := { Core.reset 1 with task := some ⟨0, 64, 0, 1, 0, 0⟩ }
  spad := []
  handover := false
  lost := false
  nddb := false
  cost := 0
  stopped := 0

/-- The task that stops, its record at address 0. -/
def stopping : TaskInfo := ⟨0, 0, 0, 1, 0, 0⟩

/-- Core 0 at a bundle boundary, a freeze of its task being asked for. -/
def freezing : State := { State.reset with
  core := { Core.reset 0 with mode := .running, freeze := some .service, task := some stopping }
  contexts := [leaving]
  sched := { Sched.reset with queues := [twoSlots], images := [savedImage] } }

/-! ### The stop, step by step -/

/-- The module with the second image, its core idle; what an image's writing changes is open. -/
def stopped (mem : Sparse Byte) (poisoned : List Nat) (unrefreshed : List (BitVec 28)) (m : SaveImage) : State := { freezing with
  mem := mem
  poisoned := poisoned
  unrefreshed := unrefreshed
  core := { freezing.core with mode := .idle, freeze := none }
  sched := { freezing.sched with images := [savedImage, m] } }

theorem writeImage_frame (s : State) (base n : Nat) (rec : VAddr) (m : SaveImage) : ∃ mem p u,
    s.writeImage base n rec m = { s with mem := mem, poisoned := p, unrefreshed := u } := by
  have zeros : ∀ (l : List (Nat × Nat)) (s : State), ∃ mem p u,
      l.foldl (fun (s : State) r => s.zeroRange (base + r.1) r.2) s = { s with mem := mem, poisoned := p, unrefreshed := u } := by
    intro l
    induction l with
    | nil => exact fun s => ⟨_, _, _, rfl⟩
    | cons r l ih =>
      intro s
      obtain ⟨mem, p, u, eq⟩ := ih (s.zeroRange (base + r.1) r.2)
      exact ⟨mem, p, u, eq⟩
  obtain ⟨mem, p, u, eq⟩ := zeros (s.slotParts m n rec) s
  exact ⟨_, _, _, by rw [State.writeImage, eq]; rfl⟩

/-- The state word of the record is written into the mirrored page: the transition faults, and the saved member's token
with it. -/
theorem told (mem : Sparse Byte) (p : List Nat) (u : List (BitVec 28)) (m : SaveImage) :
    ((((stopped mem p u m).setTaskState stopping.asid stopping.recVa 5).sched.images).head?.map fun m => m.core.token 0) = some 0xC006 := rfl

theorem unmirrored (mem : Sparse Byte) (p : List Nat) (u : List (BitVec 28)) (m : SaveImage) :
    ((stopped mem p u m).setTaskState stopping.asid stopping.recVa 5).contexts.all (·.mirrored.isEmpty) = true := rfl

/-- The module after its member has stopped, but for the record. -/
def imaged (s : State) (base : Nat) (rec : VAddr) (m : SaveImage) : State :=
  let t := s.writeImage base 0 rec m
  State.onCore { t with sched := { t.sched with images := t.sched.images ++ [m] } } fun c =>
    { c with mode := .idle, freeze := none }

/-- A member whose core holds nothing back stops: its image, then its record. -/
theorem freezeMember_eq {s : State} {q : Queue} {t : TaskInfo} {slot : Nat} (task : s.core.task = some t)
    (free : s.firstSlot q = some slot)
    (quiet : ((s.releaseStores.makeArrivals).pumpCore s.core.id).onCore Core.dropPadv = s) :
    s.freezeMember q s.core.id = ((imaged s (q.slotBase slot) t.recVa (s.frozenImage q slot)).setTaskState t.asid t.recVa
      5).setField t.asid (t.recVa.toNat + 116) 4 slot := by
  have focused : s.focus s.core.id = s := if_pos rfl
  rw [State.freezeMember, focused, task, free]
  dsimp only
  exact congrArg (fun s => ((imaged s (q.slotBase slot) t.recVa (s.frozenImage q slot)).setTaskState t.asid t.recVa 5).setField
    t.asid (t.recVa.toNat + 116) 4 slot) quiet

/-- The first image after the stop. -/
theorem first_image : ((freezeNow freezing).sched.images.head?.map fun m => m.core.token 0) = some 0xC006 := by
  have quiet : ((freezing.releaseStores.makeArrivals).pumpCore freezing.core.id).onCore Core.dropPadv = freezing := rfl
  have stops := freezeMember_eq (s := freezing) (q := twoSlots) (t := stopping) (slot := 1) rfl rfl quiet
  have now : freezeNow freezing = (freezing.freezeMember twoSlots freezing.core.id).focus 0 := rfl
  rw [now, State.focus_sched, stops]
  generalize freezing.frozenImage twoSlots 1 = m
  obtain ⟨mem, p, u, written⟩ := writeImage_frame freezing (twoSlots.slotBase 1) 0 stopping.recVa m
  have held : imaged freezing (twoSlots.slotBase 1) stopping.recVa m = stopped mem p u m := by
    rw [imaged, written]
    rfl
  have still : Unmirrored ((stopped mem p u m).setTaskState stopping.asid stopping.recVa 5) := by
    simpa [Unmirrored] using unmirrored mem p u m
  obtain ⟨_, _, _, _, wrote⟩ := (wrote_setField still stopping.asid (stopping.recVa.toNat + 116) 4 1).state
  rw [held, wrote]
  exact told mem p u m

/-- Refutes O42: writing the state of a frozen record may fault a transition whose page is mirrored to no memory, and the
token of a saved member that waits for the cut faults with it, so that an image that stood is not as it was. -/
theorem not_freezeAndTrapEvents : ¬ Obligations.FreezeAndTrapEvents := by
  unfold Obligations.FreezeAndTrapEvents
  intro h
  obtain ⟨-, -, stop, -⟩ := h freezing stopping rfl rfl
  obtain ⟨-, stops⟩ := stop .service twoSlots 1 rfl rfl rfl rfl
  obtain ⟨u, m, run, -, -, images, -⟩ := stops rfl rfl rfl rfl rfl
  have ends : u = freezeNow freezing := (Host.Outcome.next.inj run).symm
  have first := first_image
  rw [← ends, images] at first
  have same : some (savedImage.core.token 0) = some 0xC006 := first
  exact absurd same (by decide)

end Sys2Proof.FreezeProofs
end

section
/-! PROOFS. How a fresh task starts on a core, and what the end of a task waits for and leaves (R10, R36, R213, R318). -/

namespace Sys2Proof.TaskProofs

open Sys2Proof Sys2Proof.Machine Sys2Proof.Claim Sys2Proof.ReleaseProofs Sys2Proof.CheckpointProofs Sys2Proof.QueueProofs

/-! ### Cores by their number -/

section Core

variable (s : State) (id : BitVec 10) (f : Core → Core)

-- Memory is bounded and each thread holds some: what stands before is checked before more is begun.
set_option Elab.async false in
theorem findCore_id : (s.findCore id).id = id := by
  unfold State.findCore
  split
  · assumption
  · cases found : s.parked.find? fun c => c.id == id with
    | none => rfl
    | some c => exact beq_iff_eq.mp (List.find?_some (p := fun c : Core => c.id == id) found)

theorem findCore_updCore_same (keeps : (f (s.findCore id)).id = id) : (s.updCore id f).findCore id = f (s.findCore id) := by
  unfold State.updCore
  split
  next here =>
    have found : s.findCore id = s.core := if_pos here
    rw [found] at keeps ⊢
    exact if_pos keeps
  next away => rw [State.findCore, if_neg away, List.find?_cons_of_pos (by simpa using keeps), Option.getD_some]

theorem findCore_updCore_ne {j : BitVec 10} (ne : j ≠ id) (keeps : ∀ c, (f c).id = c.id) :
    (s.updCore id f).findCore j = s.findCore j := by
  unfold State.updCore
  split
  next here =>
    have here' : ¬s.core.id = j := fun e => ne (e.symm.trans here)
    rw [State.findCore, State.findCore, if_neg here', if_neg (by rw [keeps]; exact here')]
  next away =>
    have first : (f (s.findCore id)).id ≠ j := by rw [keeps, findCore_id]; exact ne.symm
    have rest : (f (s.findCore id) :: s.parked.filter fun c => c.id != id).find? (fun c => c.id == j) =
        s.parked.find? fun c => c.id == j := by
      rw [List.find?_cons_of_neg (by simpa using first), List.find?_filter]
      congr 1
      funext c
      by_cases h : c.id = j
      · simp [h, ne]
      · simp [h]
    exact if_congr Iff.rfl rfl (congrArg (fun o => o.getD (Core.reset j)) rest)

theorem findCore_mapCores (keeps : ∀ c, (f c).id = c.id) (h : ∀ c, OnTokens c (f c)) :
    OnTokens (s.findCore id) ((s.mapCores f).findCore id) := by
  unfold State.findCore State.mapCores
  by_cases here : s.core.id = id
  · rw [if_pos here, if_pos ((keeps _).trans here)]
    exact h _
  · rw [if_neg here, if_neg (by rw [keeps]; exact here), List.find?_map]
    have same : ((fun c : Core => c.id == id) ∘ f) = fun c => c.id == id := funext fun c => by simp [keeps]
    rw [same]
    cases s.parked.find? fun c => c.id == id with
    | none => exact .refl _
    | some c => exact h c

end Core

/-! ### What the writes of a task's record keep -/

theorem onTokens_id {c d : Core} (h : OnTokens c d) : d.id = c.id := by
  obtain ⟨_, _, _, rfl⟩ := h
  rfl

theorem onTokens_task {c d : Core} (h : OnTokens c d) : d.task = c.task := by
  obtain ⟨_, _, _, rfl⟩ := h
  rfl

/-- What a write of a record keeps, where a second copy may fail a transition: every core but its tokens, the pools, and
whose the saved images are. -/
structure Steady (s t : State) : Prop where
  core : OnTokens s.core t.core
  cores : ∀ id, OnTokens (s.findCore id) (t.findCore id)
  parked : s.parked = [] → t.parked = []
  pools : t.sched.pools = s.sched.pools
  images : t.sched.images.map (·.core.task) = s.sched.images.map (·.core.task)

section Steady

variable {s t u : State}

theorem Steady.of_eq (core : t.core = s.core) (parked : t.parked = s.parked) (sched : t.sched = s.sched) : Steady s t where
  core := core ▸ .refl _
  cores id := by
    unfold State.findCore
    rw [core, parked]
    exact .refl _
  parked h := parked.trans h
  pools := by rw [sched]
  images := by rw [sched]

theorem Steady.refl (s : State) : Steady s s := .of_eq rfl rfl rfl

theorem Steady.trans (h : Steady s t) (h' : Steady t u) : Steady s u where
  core := h.core.trans h'.core
  cores id := (h.cores id).trans (h'.cores id)
  parked p := h'.parked (h.parked p)
  pools := h'.pools.trans h.pools
  images := h'.images.trans h.images

theorem steady_foldl {β : Type} {g : State → β → State} (h : ∀ s b, Steady s (g s b)) (l : List β) (s : State) :
    Steady s (l.foldl g s) := by
  induction l generalizing s with
  | nil => exact .refl s
  | cons b l ih => exact (h s b).trans (ih _)

theorem steady_of_onNet (h : OnNet s t) : Steady s t := by
  obtain ⟨n, f, rfl⟩ := h
  exact .of_eq rfl rfl rfl

section Tokens

variable {f : Core → Core} (h : ∀ c, OnTokens c (f c))
include h

theorem steady_mapCores (s : State) : Steady s (s.mapCores f) where
  core := h _
  cores id := findCore_mapCores s id f (fun c => onTokens_id (h c)) h
  parked p := by rw [State.mapCores, p, List.map_nil]
  pools := rfl
  images := rfl

theorem steady_updMember (s : State) (w : Member) : Steady s (s.updMember w f) where
  core := onTokens_updMember h w
  cores id := by
    unfold State.updMember
    split
    next c _ =>
      by_cases same : id = c.id
      · rw [same, findCore_updCore_same _ _ _ ((onTokens_id (h _)).trans (findCore_id ..))]
        exact h _
      · rw [findCore_updCore_ne _ _ _ same fun c => onTokens_id (h c)]
        exact .refl _
    · exact .refl _
  parked p := by
    unfold State.updMember
    split
    next c found =>
      rw [p, List.find?_singleton] at found
      have here : c = s.core := by
        split at found
        · exact (Option.some.inj found).symm
        · cases found
      rw [here, MessageProofs.updCore_self]
      exact p
    · exact p
  pools := pools_updMember s w f
  images := by
    unfold State.updMember
    split
    · unfold State.updCore
      split <;> rfl
    · rw [List.map_map]
      refine List.map_congr_left fun m _ => ?_
      simp only [Function.comp_apply]
      split
      · exact onTokens_task (h m.core)
      · rfl

end Tokens

theorem steady_faultTransition (s : State) (a : BitVec 16) (code : BitVec 8) (v : VAddr) :
    Steady s (s.faultTransition a code v) := by
  unfold State.faultTransition
  split
  · exact .refl s
  next x _ =>
    split
    · exact .refl s
    · have upd : ∀ f, Steady s (s.updContext a f) := fun f => .of_eq rfl rfl rfl
      extract_lets v w
      have first : Steady s v := upd _
      have second : Steady v w := steady_mapCores (fun c => onTokens_faultMet c a x.tgt x.trans code) v
      have third := fun t => steady_foldl (g := fun (s : State) (p : Member × BitVec 6) =>
        s.updMember p.1 fun c => c.completeToken p.2 (tokFaulted code))
        (fun s p => steady_updMember (fun c => onTokens_completeToken c _ _) s p.1) x.padvs t
      exact (first.trans second).trans ((third w).trans (.of_eq rfl rfl rfl))

theorem steady_secondCopy (s : State) (a : BitVec 16) (n : Nat) (m : PageMove) (l : List (Nat × Byte)) :
    Steady s (s.secondCopy a n m l) := by
  unfold State.secondCopy State.secondFails
  split
  · split
    · exact .of_eq rfl rfl rfl
    · split
      · exact steady_faultTransition ..
      · exact .refl s
  · exact steady_of_onNet (onNet_couchWrite ..)
  · exact .refl s

theorem steady_store (s : State) (l : List (Nat × Byte)) : Steady s (s.store l) := by
  unfold State.store
  extract_lets all t u
  have first : Steady s u := .of_eq rfl rfl rfl
  refine first.trans (steady_foldl (fun s x => steady_foldl (fun s m => ?_) _ _) _ _)
  unfold State.mirrorOut
  dsimp only
  split
  · exact .refl _
  · exact steady_secondCopy ..

theorem steady_writeOrHold (s : State) (l : List (Nat × Byte)) : Steady s (s.writeOrHold l) := by
  unfold State.writeOrHold
  dsimp only
  have now : ∀ l : List (Nat × Byte), Steady s (if l.isEmpty then s else s.store l) := fun l => by
    split
    · exact .refl s
    · exact steady_store s l
  split
  · exact now _
  · exact (now _).trans (.of_eq rfl rfl rfl)

theorem steady_setField (s : State) (a : BitVec 16) (v n x : Nat) : Steady s (s.setField a v n x) := by
  unfold State.setField State.writeVa
  split
  · exact steady_writeOrHold s _
  · exact .refl s

/-- A task without a saved image still has none. -/
theorem Steady.imagesOf (h : Steady s t) {a : BitVec 16} {rec : VAddr} (none : s.imagesOf a rec = []) :
    t.imagesOf a rec = [] := by
  simp only [State.imagesOf, List.filter_eq_nil_iff] at none ⊢
  intro m mem
  have from' : m.core.task ∈ s.sched.images.map (·.core.task) := h.images ▸ List.mem_map_of_mem mem
  obtain ⟨m', mem', eq⟩ := List.mem_map.mp from'
  rw [← eq]
  exact none m' mem'

end Steady

/-! ### The code a started core takes (R225) -/

/-- A core whose store takes its code. -/
def OnCode (c d : Core) : Prop := ∃ code fetch, d = { c with code, fetch }

/-- A core takes its code: the rest of it and the pools stay. -/
structure Loads (id : BitVec 10) (s t : State) : Prop where
  core : OnCode (s.findCore id) (t.findCore id)
  pools : t.sched.pools = s.sched.pools

section Loads

variable {id : BitVec 10} {s t u : State}

theorem Loads.trans (h : Loads id s t) (h' : Loads id t u) : Loads id s u where
  core := by
    obtain ⟨_, _, eq⟩ := h.core
    obtain ⟨code, fetch, eq'⟩ := h'.core
    exact ⟨code, fetch, by rw [eq', eq]⟩
  pools := h'.pools.trans h.pools

theorem Loads.refl (s : State) : Loads id s s := ⟨⟨_, _, rfl⟩, rfl⟩

theorem loads_updCore {f : Core → Core} (h : ∀ c, OnCode c (f c)) : Loads id s (s.updCore id f) where
  core := by
    have keeps : (f (s.findCore id)).id = id := by
      obtain ⟨_, _, eq⟩ := h (s.findCore id)
      rw [eq]
      exact findCore_id s id
    rw [findCore_updCore_same s id f keeps]
    exact h _
  pools := by
    unfold State.updCore
    split <;> rfl

theorem loads_fetchOn (k : Nat) (s : State) : Loads id s (s.fetchOn id k) := by
  induction k generalizing s with
  | zero => exact .refl s
  | succ k ih =>
    unfold State.fetchOn
    extract_lets c
    split
    · exact .refl s
    · extract_lets va n
      split
      · exact loads_updCore fun c => ⟨_, _, rfl⟩
      · split
        · split
          · unfold State.couchRead
            generalize noted : s.noteCouch _ _ _ _ = v
            obtain ⟨_, _, eq⟩ := onNet_sendPacket v (s.couchPort c.asid) .control _ _ []
            rw [eq, ← noted]
            exact ⟨⟨_, _, rfl⟩, rfl⟩
          · exact .trans (loads_updCore fun c => ⟨_, _, rfl⟩) (ih _)
        · exact .trans (loads_updCore fun c => ⟨_, _, rfl⟩) (ih _)

theorem loads_loadStore : Loads id s (s.loadStore id) := by
  unfold State.loadStore
  extract_lets c
  split
  · exact .trans (loads_updCore fun c => ⟨_, _, rfl⟩) (loads_fetchOn ..)
  · exact loads_updCore fun c => ⟨_, _, rfl⟩

end Loads

/-! ### The start of a task (R10, R36, R318) -/

section Fresh

variable (w : State) (c : Core) (e : PoolEntry) (t : TaskInfo) (q : Queue)

theorem freshCore_rs {i : BitVec 6} (other : i ≠ 1) : (w.freshCore c e t q).rs i = 0 := by
  have ne : ¬1 = i.toNat := fun h => other (BitVec.eq_of_toNat_eq h.symm)
  have set : ∀ x : Word, ((Vector.replicate 64 (0 : Word)).set 1 x)[i.toNat]'i.isLt = 0 := fun x => by
    rw [Vector.getElem_set_ne _ _ ne, Vector.getElem_replicate]
  rw [Core.rs]
  split
  · rfl
  · exact set _

theorem freshCore_rk (i : BitVec 4) : (w.freshCore c e t q).rk i = if i = 0 then BitVec.allOnes 256 else 0 := by
  rw [Core.rk]
  split
  · rfl
  next ne =>
    have ne' : ¬0 = i.toNat := fun h => ne (BitVec.eq_of_toNat_eq h.symm)
    have set : ((Vector.replicate 16 (0 : Mask)).set 0 (BitVec.allOnes 256))[i.toNat]'i.isLt = 0 := by
      rw [Vector.getElem_set_ne _ _ ne', Vector.getElem_replicate]
    exact set

theorem freshCore_token (i : BitVec 6) : (w.freshCore c e t q).token i = 0 := by
  have none : ((w.freshCore c e t q).tokens.toList).getD i.toNat 0 = (List.replicate 63 (0 : BitVec 16)).getD i.toNat 0 :=
    congrArg (fun l => List.getD l i.toNat (0 : BitVec 16)) Vector.toList_replicate
  rw [Core.token, none]
  by_cases h : i.toNat < 63
  · exact List.getD_replicate _ h
  · exact List.getD_eq_default _ _ (by rw [List.length_replicate]; omega)

end Fresh

section Start

variable {s : State} {e : PoolEntry} {q : Queue} {id : BitVec 10}

/-- The task a lone member runs. -/
def soleTask (s : State) (e : PoolEntry) : TaskInfo := ⟨e.asid, e.recVa, e.queue, 1, 0, BitVec.ofNat 4 (s.agedRank e)⟩

/-- A fresh start puts the core as the task finds it, but for the code it takes, and leaves the pools. -/
theorem startFresh_core (v : State) (t : TaskInfo) : ∃ (w : State) (d : Core), w.findCore id = v.findCore id ∧
    d = w.freshCore (v.findCore id) e t q ∧ OnCode d ((v.startFresh id e t q).findCore id) ∧
    (v.startFresh id e t q).sched.pools = v.sched.pools := by
  unfold State.startFresh
  extract_lets c w
  have same : w.findCore id = v.findCore id ∧ w.sched.pools = v.sched.pools := by
    unfold w
    split
    · exact ⟨rfl, rfl⟩
    · exact ⟨rfl, rfl⟩
  obtain ⟨core, pools⟩ := same
  have at' := findCore_updCore_same w id (fun c => w.freshCore c e t q) (findCore_id w id)
  have loads := loads_loadStore (id := id) (s := w.updCore id fun c => w.freshCore c e t q)
  refine ⟨w, _, core, rfl, ?_, loads.pools.trans ?_⟩
  · rw [← core, ← at']
    exact loads.core
  · rw [← pools]
    unfold State.updCore
    split <;> rfl

theorem startMembers_alone {v : State} {aged : Nat} (free : v.imagesOf e.asid e.recVa = []) (fresh : e.save = none) :
    v.startMembers e q aged [id] = (v.clearObjs e.asid e.recVa).startFresh id e
      ⟨e.asid, e.recVa, e.queue, 1, 0, BitVec.ofNat 4 aged⟩ q := by
  have none : (v.clearObjs e.asid e.recVa).imageOf e 0 = none := by
    rw [State.imageOf, show (v.clearObjs e.asid e.recVa).imagesOf e.asid e.recVa = [] from free]
    rfl
  unfold State.startMembers
  rw [free, List.find?_nil, fresh]
  dsimp only [Option.isNone_none, List.zipIdx_cons, List.zipIdx_nil, List.foldl_cons, List.foldl_nil, List.length_cons,
    List.length_nil]
  rw [if_pos rfl, State.startMember, none, fresh]
  rfl

variable (free : s.imagesOf e.asid e.recVa = []) (fresh : e.save = none) (queue : s.queue? e.queue = some q)
include free fresh queue

/-- A task that starts on one core leaves its pool; the core is as a fresh task finds it, but for its code. -/
theorem startTask_alone {c : Core} (named : c.id = id) : ∃ (w : State) (d : Core), OnTokens (s.findCore id) (w.findCore id) ∧
    d = w.freshCore (w.findCore id) e (soleTask s e) q ∧ OnCode d ((s.startTask e [c]).findCore id) ∧
    (s.startTask e [c]).pool q.die = (s.pool q.die).erase e := by
  rw [State.startTask, queue, List.map_singleton, named]
  dsimp only
  generalize out : s.updPool q.die (fun l => l.erase e) = u
  have cores : u.findCore id = s.findCore id := by
    rw [← out]
    rfl
  have pool : u.pool q.die = (s.pool q.die).erase e := by rw [← out, pool_updPool, if_pos rfl]
  have free' : u.imagesOf e.asid e.recVa = [] := by
    rw [← out]
    exact free
  have steady : Steady u (u.markRunning e (s.agedRank e)) := (steady_setField ..).trans (steady_setField ..)
  rw [startMembers_alone (steady.imagesOf free') fresh]
  generalize u.markRunning e (s.agedRank e) = v at steady
  obtain ⟨w, d, core, rfl, loads, pools⟩ := startFresh_core (e := e) (q := q) (id := id) (v.clearObjs e.asid e.recVa)
    (soleTask s e)
  refine ⟨w, _, ?_, rfl, core ▸ loads, ?_⟩
  · rw [core, ← cores]
    exact steady.cores id
  · refine Eq.trans ?_ pool
    exact congrArg (fun p : Vector (List PoolEntry) 4 => p[q.die.toNat]) (pools.trans steady.pools)

end Start


/-! ### The end of a task (R16, R213) -/

section Finish

variable {s : State}

theorem landAll_idle {c : Core} (inflight : c.inflight = []) (arrs : c.arrs = []) : c.landAll = c := by
  have none : c.landResults = c := by
    rw [Core.landResults, inflight]
    rfl
  rw [Core.landAll, none, arrs, List.map_nil, ← arrs]

theorem makeArrivals_none (arrs : s.core.arrs = []) : s.makeArrivals = s := by
  have same : ({ s.core with arrs := [] } : Core) = s.core := by rw [← arrs]
  simp only [State.makeArrivals, arrs, List.filter_nil, List.map_nil, List.append_nil, same]

theorem flushPosts_none (posts : s.core.posts = []) : s.flushPosts = s := by
  have same : ({ s.core with posts := [] } : Core) = s.core := by rw [← posts]
  simp only [State.flushPosts, posts, List.takeWhile_nil, List.length_nil, List.drop_nil, List.foldl_nil, same]
  cases s.core.task <;> rfl

theorem flushSpawns_none (queues : s.sched.queues = []) : s.flushSpawns = s := by
  rw [State.flushSpawns, queues, List.foldl_nil]

/-- A core with nothing in flight and nothing to release, and no queue, finds nothing to finish. -/
theorem finishWork_idle (inflight : s.core.inflight = []) (arrs : s.core.arrs = []) (posts : s.core.posts = [])
    (releasing : s.core.releasing = []) (queues : s.sched.queues = []) : s.finishWork = s := by
  have first : s.onCore Core.landAll = s := by rw [State.onCore, landAll_idle inflight arrs]
  have same : ({ s.core with releasing := [] } : Core) = s.core := by rw [← releasing]
  rw [State.finishWork, first, releaseStores_of_empty releasing, State.onCore, same, makeArrivals_none arrs,
    flushPosts_none posts, flushSpawns_none queues]

end Finish


section Successors

variable {s : State} {t : TaskInfo}

theorem onNet_takePid (s : State) : OnNet s s.takePid := ⟨s.net, _, rfl⟩

theorem onNet_sendVia (s : State) (m : Msg) (p : Packet) (home : BitVec 12) (l : List (Nat × BitVec 64 × List Byte)) :
    OnNet s (s.sendVia m p home l) := by
  unfold State.sendVia
  dsimp only
  split
  · exact (onNet_takePid s).trans (onNet_sendMsg ..)
  · exact (onNet_takePid s).trans ⟨_, _, rfl⟩

/-- A decrement that leaves, or is dropped and logged, changes no core and no memory. -/
theorem sendCounter_keeps (s : State) (i : BitVec 10) (w : Member) (va : VAddr) (n : BitVec 32) :
    (s.sendCounter i w va n).core = s.core ∧ (s.sendCounter i w va n).parked = s.parked ∧
      (s.sendCounter i w va n).mem = s.mem := by
  have sent : ∀ {u}, OnNet s u → u.core = s.core ∧ u.parked = s.parked ∧ u.mem = s.mem := fun h => by
    obtain ⟨_, _, rfl⟩ := h
    exact ⟨rfl, rfl, rfl⟩
  unfold State.sendCounter
  dsimp only
  split
  · exact sent (onNet_sendMsg ..)
  · split
    · exact sent (onNet_sendVia ..)
    · exact ⟨rfl, rfl, rfl⟩
  · exact ⟨rfl, rfl, rfl⟩

/-- The decrements of successors' counters leave the core, one after the other. -/
def sendAll (s : State) (l : List VAddr) : State :=
  l.foldl (fun (s : State) va => s.sendCounter s.core.id s.core.who va 1) s

theorem sendAll_keeps (l : List VAddr) (s : State) :
    (sendAll s l).core = s.core ∧ (sendAll s l).parked = s.parked ∧ (sendAll s l).mem = s.mem := by
  induction l generalizing s with
  | nil => exact ⟨rfl, rfl, rfl⟩
  | cons va l ih =>
    obtain ⟨core, parked, mem⟩ := ih (s.sendCounter s.core.id s.core.who va 1)
    obtain ⟨core', parked', mem'⟩ := sendCounter_keeps s s.core.id s.core.who va 1
    exact ⟨core.trans core', parked.trans parked', mem.trans mem'⟩

/-- A message that is sent stands last, and travels under an id or waits for one. -/
theorem sendMsg_last (s : State) (m : Msg) : ∃ y, (s.sendMsg m).net.msgs.getLast? = some y ∧ HomeProofs.Sent m y := by
  unfold State.sendMsg
  extract_lets y
  unfold State.launch
  split
  next i _ =>
    refine ⟨{ y with mid := some i, entries := y.entries.map fun e => e.from' y i }, ?_,
      rfl, rfl, rfl, rfl, rfl, rfl, rfl, rfl, rfl, rfl, rfl⟩
    simp only [State.updMsg, List.map_append, List.map_cons, List.map_nil, List.getLast?_concat, if_true]
  · exact ⟨y, List.getLast?_concat, rfl, rfl, rfl, rfl, rfl, rfl, rfl, rfl, rfl, rfl, rfl⟩



/-- The task of the core alone: no other core runs a member of it. -/
theorem gangCores_alone (parked : s.parked = []) (task : s.core.task = some t) (ending : s.core.mode = .ending) :
    s.gangCores t = [s.core] := by
  rw [State.gangCores, parked]
  exact List.filter_cons_of_pos (by simp [task, ending])

variable (parked : s.parked = []) (task : s.core.task = some t) (ending : s.core.mode = .ending)
include parked task ending

theorem gangReady_alone (gang : t.gang.toNat ≤ 1) :
    s.gangReady t = (endReady s.core && s.arrivalsGone s.core.who) := by
  have one : max 1 t.gang.toNat ≤ 1 := max_le le_rfl gang
  rw [State.gangReady, gangCores_alone parked task ending]
  simp [ending, one]

/-- The successors' decrements leave, and the core notes that they have. -/
theorem sendSuccessors_alone (free : ∀ va ∈ s.successors t.asid t.recVa, s.counterHeld t.asid va = false) :
    s.sendSuccessors t = (sendAll s (s.successors t.asid t.recVa)).onCore fun c => { c with succSent := true } := by
  have none : (s.successors t.asid t.recVa).any (s.counterHeld t.asid) = false := by simpa using free
  obtain ⟨core, parked', _⟩ := sendAll_keeps (s.successors t.asid t.recVa) s
  unfold State.sendSuccessors
  extract_lets l v
  rw [if_neg (by simp [l, none])]
  have sent : v = sendAll s l := rfl
  rw [sent] at *
  rw [gangCores_alone (parked'.trans parked) (core ▸ task) (core ▸ ending), List.foldl_cons, List.foldl_nil,
    MessageProofs.updCore_self]
  rfl

/-- The record is ended, then the core is freed. -/
theorem endTask_alone : s.endTask t = (s.setTaskState t.asid t.recVa 6).onCore Core.free := by
  have steady : Steady s (s.setTaskState t.asid t.recVa 6) := steady_setField ..
  have here : s.core.id = (s.setTaskState t.asid t.recVa 6).core.id := (onTokens_id steady.core).symm
  rw [State.endTask, gangCores_alone parked task ending, List.foldl_cons, List.foldl_nil, here,
    MessageProofs.updCore_self]
  rfl

end Successors


/-! ### The events -/

section Dispatch

variable {s : State} {id : BitVec 10} {e : PoolEntry} {q : Queue}

/-- DISPATCH on a core whose best task prefers it starts the task there. -/
theorem exec_dispatch (occ : s.occ = .core id) (best : s.taskFor (s.findCore id) = some e)
    (cores : s.coresFor (coreDie id) e = [s.findCore id]) :
    exec .dispatch s = .next (s.startTask e [s.findCore id]) := by
  have run : exec .dispatch s = event (dispatchOn s id) := by
    show execDispatch s = _
    unfold execDispatch
    rw [occ]
  have best' : dispatchOn s id = s.startTask e (s.coresFor (coreDie id) e) := by
    unfold dispatchOn
    dsimp only
    rw [best]
  rw [run, best', cores]
  rfl

end Dispatch

section TendComplete

variable {s : State} {t : TaskInfo}
  (ending : s.core.mode = .ending) (task : s.core.task = some t) (gang : t.gang.toNat ≤ 1) (parked : s.parked = [])
  (inflight : s.core.inflight = []) (arrs : s.core.arrs = []) (posts : s.core.posts = [])
  (releasing : s.core.releasing = []) (queues : s.sched.queues = [])
include ending task gang parked inflight arrs posts releasing queues

/-- TEND_COMPLETE on a core with nothing left to land or to release. -/
theorem exec_tendComplete : exec .tendComplete s = .next (
    if !(endReady s.core && s.arrivalsGone s.core.who) then s.hold
    else if !s.core.succSent then s.sendSuccessors t
    else if s.decrementsDone t then s.endTask t
    else s.hold) := by
  have run : exec .tendComplete s = event (tendStep s) := by
    show execTendComplete s = _
    unfold execTendComplete
    rw [ending]
  rw [run, tendStep, finishWork_idle inflight arrs posts releasing queues]
  rw [task]
  dsimp only
  rw [gangReady_alone parked task ending gang]
  rfl

end TendComplete

/-- Settles O41: a fresh task takes the core it prefers, as the rule says it finds it; what the end of a task waits for
holds the core a cycle, its decrements leave once, and the end frees the core. -/
theorem tasksStartAndEnd : Obligations.TasksStartAndEnd := by
  refine ⟨?_, ?_⟩
  · intro s id e q c occ named best cores queue die free fresh
    obtain ⟨w, d, tokens, rfl, ⟨code, fetch, took⟩, pool⟩ := startTask_alone free fresh queue named
    obtain ⟨tok, shadowTok, padv, was⟩ := tokens
    refine ⟨_, _, exec_dispatch occ best cores, took, rfl, rfl, rfl, rfl, rfl, rfl, rfl, rfl, rfl, rfl, ?_, fun i => ?_,
      fun i => ?_, fun i => ?_, fun i => ?_, rfl, rfl, rfl, rfl, rfl, rfl, rfl, ?_, die ▸ pool⟩
    · exact fun i other => freshCore_rs w (w.findCore id) e (soleTask s e) q other
    · exact freshCore_rk w (w.findCore id) e (soleTask s e) q i
    · exact Vector.getElem_replicate ..
    · exact freshCore_token w (w.findCore id) e (soleTask s e) q i
    · exact Vector.getElem_replicate ..
    · exact (congrArg Core.feat was :)
  · intro s t c ending task gang parked inflight arrs posts releasing queues waits
    have run := exec_tendComplete ending task gang parked inflight arrs posts releasing queues
    refine ⟨fun no => ?_, fun ready gone => ⟨fun first held => ?_, fun first free => ?_, fun sent open' => ?_,
      fun sent done => ?_⟩⟩
    · refine run.trans (congrArg _ (if_pos ?_))
      rcases no with no | no
      · rw [no]; rfl
      · rw [no, Bool.and_false]; rfl
    · obtain ⟨va, mem, waiting⟩ := held
      rw [ready, gone, first] at run
      refine run.trans (congrArg _ ?_)
      have any : (s.successors t.asid t.recVa).any (s.counterHeld t.asid) = true := List.any_eq_true.mpr ⟨va, mem, waiting⟩
      show s.sendSuccessors t = _
      unfold State.sendSuccessors
      exact if_pos any
    · rw [ready, gone, first] at run
      obtain ⟨core, _, memory⟩ := sendAll_keeps (s.successors t.asid t.recVa) s
      refine ⟨_, run.trans (congrArg _ (sendSuccessors_alone parked task ending free)), ?_, memory, ?_⟩
      · exact congrArg (fun c : Core => { c with succSent := true }) core
      · intro va b one place
        obtain ⟨y, last, sent⟩ := sendMsg_last s (counterMsg s.core.id (corePort s.core.id) (homePort (b / 8)) (.phys b)
          s.core.who.asid 1 va 0)
        have who : s.core.who.asid = t.asid := by rw [Core.who, task]
        have out : sendAll s (s.successors t.asid t.recVa) = s.sendMsg (counterMsg s.core.id (corePort s.core.id)
            (homePort (b / 8)) (.phys b) s.core.who.asid 1 va 0) := by
          rw [one, sendAll, List.foldl_cons, List.foldl_nil, State.sendCounter, who, place]
        rw [out]
        exact ⟨y, last, sent.op, sent.loc, sent.final, by rw [sent.data]; rfl, sent.core⟩
    · rw [ready, gone, sent, open'] at run
      exact run
    · rw [ready, gone, sent, done] at run
      have steady : OnTokens s.core (s.setTaskState t.asid t.recVa 6).core := (steady_setField ..).core
      refine ⟨_, run.trans (congrArg _ (endTask_alone parked task ending)), rfl, rfl, rfl, rfl, rfl, rfl, fun i => ?_, rfl,
        ?_, ?_, rfl⟩
      · exact Vector.getElem_replicate ..
      · show ((s.setTaskState t.asid t.recVa 6).core.task.map (·.asid)).orElse _ = _
        rw [onTokens_task steady, task]
        rfl
      · obtain ⟨_, _, _, core⟩ := steady
        exact (congrArg Core.s core :)

end Sys2Proof.TaskProofs
end

section
/-! PROOFS. What a request of the service comes to when nothing waits, and the events of the module's life: reset,
firmware, retirement, draining, the life cycle, power and routes (R340, R359, R364, R368, R369, R373). -/

namespace Sys2Proof.LifeProofs

open Sys2Proof Sys2Proof.Machine Sys2Proof.Claim Sys2Proof.StackProofs Sys2Proof.LinkProofs

/-! ### Requests of a host (R360, R361) -/

section Request

variable {s : State} (code : BitVec 16) (f : State → State)

theorem mustWait_never (waits : NothingWaits s) (n : Nat) (asid : Option (BitVec 16)) : s.mustWait n asid = false := by
  obtain ⟨update, requests, inbox, loads⟩ := waits
  unfold State.mustWait
  rw [update, requests, inbox, loads]
  cases asid <;> rfl

/-- A request that nothing makes wait, and that is no message, is the request itself. -/
theorem request_alone (waits : NothingWaits s) (plain : ∀ l, s.occ ≠ .message l) (own : ∀ n, s.occ ≠ .inbox n) :
    s.request code f = s.host code f :=
  State.request_plain s code f plain own (mustWait_never waits ..)

theorem request_up (deployed : s.svc.life = .deployed) (awake : s.svc.holdReset = false) (waits : NothingWaits s)
    (plain : ∀ l, s.occ ≠ .message l) (own : ∀ n, s.occ ≠ .inbox n) : s.request code f = f s :=
  (request_alone code f waits plain own).trans (State.host_up s code f awake deployed)

end Request

/-! ### Reset (R359) -/

/-- A reset starts the first image that verifies, or leaves no link trained. -/
theorem boot_up (s : State) (p : BitVec 4) :
    ((boot s).link p).up = ((imageVerifies s.svc.bytesA || imageVerifies s.svc.bytesB) && bootSteps s.free) := by
  unfold boot
  extract_lets a b ok t
  show (Vector.get (if ok then t.fab else { t.fab with links := Vector.replicate 16 LinkState.down }).links
    ⟨p.toNat, p.isLt⟩).up = ok
  cases ok with
  | true =>
    rw [if_pos rfl]
    exact congrArg LinkState.up (Vector.getElem_replicate ..)
  | false =>
    rw [if_neg Bool.false_ne_true]
    exact congrArg LinkState.up (Vector.getElem_replicate ..)

theorem boot_keys (s : State) : (boot s).fab.keys = [] := by
  unfold boot
  extract_lets a b ok t
  show (if ok then t.fab else { t.fab with links := Vector.replicate 16 LinkState.down }).keys = []
  cases ok <;> rfl

/-! ### Firmware (R368) -/

section Firmware

variable {s : State} {u : Update}

theorem goOnUpdate_waits (update : s.svc.update = some u) (busy : s.inProgress u.stamp = true) : s.goOnUpdate = s := by
  unfold State.goOnUpdate
  rw [update]
  exact if_pos busy

/-- All service cores switch, which the log and the response say. -/
def switchedTo (s : State) (u : Update) : State :=
  let s := { s with svc := { s.svc with activeB := !s.svc.activeB, lastSwitch := some s.ptb, update := none } }
  ((s.addLog 9 0x01 0 0 s.svc.version.toNat).serving u.asker).respond 0x130 stDone []

theorem goOnUpdate_switches (update : s.svc.update = some u) (done : s.inProgress u.stamp = false) :
    s.goOnUpdate = switchedTo s u := by
  unfold State.goOnUpdate
  rw [update]
  exact if_neg (by rw [done]; exact Bool.false_ne_true)

theorem switchedTo_logged : Logged (switchedTo s u) 9 1 := logged_addLog _ 9 0x01 0 0 _

/-- The service after an image has come: it stands in the inactive slot. -/
def newImage (v : Service) (version : BitVec 64) (image : List Byte) : Service :=
  if v.activeB then { v with imageA := version, bytesA := image } else { v with imageB := version, bytesB := image }

/-- The update that a verified image begins. -/
def updating (s : State) (version : BitVec 64) (image : List Byte) : State :=
  { s with svc := { newImage s.svc version image with
      update := some ⟨s.svc.nextStamp, s.svc.asker⟩, nextStamp := s.svc.nextStamp + 1 } }

theorem newImage_cases (v : Service) (version : BitVec 64) (image : List Byte) :
    (v.activeB = true ∧ newImage v version image = { v with imageA := version, bytesA := image }) ∨
      (v.activeB = false ∧ newImage v version image = { v with imageB := version, bytesB := image }) := by
  unfold newImage
  cases v.activeB
  · exact .inr ⟨rfl, rfl⟩
  · exact .inl ⟨rfl, rfl⟩

theorem updateFirmware_verified {version : BitVec 64} {image : List Byte} (verifies : imageVerifies image = true) :
    updateFirmware s version image = (updating s version image).goOnUpdate := by
  unfold updateFirmware updating
  rw [verifies]
  dsimp only
  rcases newImage_cases s.svc version image with ⟨active, new⟩ | ⟨active, new⟩
  · rw [new, active]; rfl
  · rw [new, active]; rfl

/-- What an image that has come leaves of the service, and what the inactive slot holds when it becomes active. -/
theorem updating_svc (s : State) (version : BitVec 64) (image : List Byte) :
    let v := (updating s version image).svc
    v.responses = s.svc.responses ∧ v.activeB = s.svc.activeB ∧
      Service.version { v with activeB := !v.activeB } = version ∧ Service.image { v with activeB := !v.activeB } = image ∧
      (if s.svc.activeB then v.bytesB = s.svc.bytesB else v.bytesA = s.svc.bytesA) ∧ v.version = s.svc.version := by
  intro v
  have eq : v = { newImage s.svc version image with
    update := some ⟨s.svc.nextStamp, s.svc.asker⟩, nextStamp := s.svc.nextStamp + 1 } := rfl
  rcases newImage_cases s.svc version image with ⟨active, new⟩ | ⟨active, new⟩
  · rw [eq, new]
    simp [Service.version, Service.image, active]
  · rw [eq, new]
    simp [Service.version, Service.image, active]

theorem updating_inProgress (version : BitVec 64) (image : List Byte) (n : Nat) :
    (updating s version image).inProgress n = s.inProgress n := by
  unfold updating
  rcases newImage_cases s.svc version image with ⟨-, new⟩ | ⟨-, new⟩ <;> (rw [new]; rfl)

end Firmware


/-! ### Retiring a core (R368, R370) -/

section Idle

variable {s : State} (idle : s.core.mode = .idle) (images : s.sched.images = [])
include idle

theorem askCore_idle : s.askCore s.core.id = s := by
  unfold State.askCore
  rw [MessageProofs.findCore_self]
  dsimp only
  rw [idle]
  cases s.core.task with
  | none => rfl
  | some t => exact if_pos rfl

include images

theorem coreQuiet_idle : s.coreQuiet s.core.id = true := by
  rw [State.coreQuiet, MessageProofs.findCore_self, idle, State.handoverOpen, images]
  rfl

/-- The retirement of a quiet core completes at once. -/
theorem retireUnit_idle (retiring : s.svc.retiring = []) (pipeline : Bool) :
    retireUnit s s.core.id pipeline = State.endRetire (State.tellUncovered { s with svc := { s.svc with
      retiring := [(s.core.id, pipeline, s.svc.asker)], retiredCores := s.svc.retiredCores ++ [s.core.id] } }
        (coreDie s.core.id)) s.core.id pipeline s.svc.asker := by
  have none : (s.svc.retiring.any fun p => p.1 == s.core.id) = false := by rw [retiring]; rfl
  rw [retireUnit, none, if_neg Bool.false_ne_true, State.beginRetire, retiring, List.nil_append]
  dsimp only
  generalize entered : ({ s with svc := { s.svc with
    retiring := [(s.core.id, pipeline, s.svc.asker)], retiredCores := s.svc.retiredCores ++ [s.core.id] } } : State) = u
  have core : s.core = u.core := by rw [← entered]
  have images' : u.sched.images = [] := by rw [← entered]; exact images
  have one : u.svc.retiring = [(s.core.id, pipeline, s.svc.asker)] := by rw [← entered]
  rw [core] at one idle ⊢
  rw [askCore_idle idle]
  generalize told : u.tellUncovered (coreDie u.core.id) = v
  have core' : u.core = v.core := by rw [← told]; rfl
  have images'' : v.sched.images = [] := by rw [← told]; exact images'
  have one' : v.svc.retiring = [(u.core.id, pipeline, s.svc.asker)] := by rw [← told]; exact one
  rw [core'] at one' idle ⊢
  unfold State.goOnRetire
  rw [one', List.find?_cons_of_pos (by simp)]
  exact if_pos (coreQuiet_idle idle images'')

end Idle

/-- A retirement that completes is logged. -/
theorem endRetire_logged (s : State) (id : BitVec 10) (pipeline : Bool) (a : Asker) :
    Logged (s.endRetire id pipeline a) 9 3 := logged_addLog _ 9 0x03 (coreDie id) (bits id 0 8) _

/-- A core whose pipeline is retired leaves the list once, with FEAT.NW set. -/
theorem endRetire_pipeline (s : State) (a : Asker) :
    (s.endRetire s.core.id true a).svc.retiredCores = s.svc.retiredCores.erase s.core.id ∧
      (s.endRetire s.core.id true a).core.feat = s.core.feat ||| 0x100 ∧
      (s.endRetire s.core.id true a).svc.responses = s.svc.responses ++ [⟨0x131, 0, a.tag, a.ctx, []⟩] := by
  unfold State.endRetire
  extract_lets _ u v
  have upd : v = { u with core := { u.core with feat := u.core.feat ||| 0x100 } } := by
    show (if true = true then u.updCore u.core.id _ else u) = _
    rw [if_pos rfl, MessageProofs.updCore_self]
  rw [upd]
  exact ⟨rfl, rfl, rfl⟩

/-- A core with a retired pipeline returns, unless it was retired before. -/
theorem mem_erase_append {α : Type} [BEq α] [LawfulBEq α] (l : List α) (a : α) : a ∈ (l ++ [a]).erase a ↔ a ∈ l := by
  by_cases mem : a ∈ l
  · rw [List.erase_append_left _ mem]
    simp [mem]
  · rw [List.erase_append_right _ mem, List.erase_cons_head]
    simp [mem]

/-! ### Retiring a frame (R368, R370) -/

section Frame

variable {s : State} {f : BitVec 28} (contexts : s.contexts = []) (queues : s.sched.queues = [])
include contexts queues

theorem frameRegion_unused : s.frameRegion f = (f.toNat * 0x10000, 0x10000) := by
  unfold State.frameRegion State.serviceStretches
  rw [contexts, queues]
  rfl

/-- A frame that nothing uses moves without its bytes. -/
theorem moveFrame_unused : ∃ core parked caches pan held, s.moveFrame f = { s with
    core, parked, caches, pan, held, sched := { s.sched with queues := [] }, contexts := []
    svc := { s.svc with spare := s.svc.spare + 1, forward := s.svc.forward ++
      [(f.toNat * 0x10000, 0x10000, (Config.reservedFrame s.svc.spare).toNat * 0x10000)] } } ∧
    (s.core.running = [] → core.running = []) ∧ (s.parked = [] → parked = []) := by
  have region := frameRegion_unused contexts queues (f := f)
  have unused : ((s.contexts.any fun x => x.maps.any fun l => l.any fun p => MapE.pa p.entry == f.toNat * 0x10000)
      || s.serviceStretches.contains (f.toNat * 0x10000, 0x10000)) = false := by
    rw [State.serviceStretches, contexts, queues]
    rfl
  unfold State.moveFrame
  rw [region]
  dsimp only
  rw [unused, if_neg Bool.false_ne_true, contexts, queues]
  refine ⟨_, _, _, _, _, rfl, fun running => ?_, fun parked => ?_⟩
  · rw [Core.moved, running]
    rfl
  · rw [parked]
    rfl

end Frame

theorem forwarded_once {s : State} {base size to' o : Nat} (forward : s.svc.forward = [(base, size, to')]) (lt : o < size) :
    s.forwarded (base + o) = to' + o := by
  rw [State.forwarded, forward, List.foldl_cons, List.foldl_nil, movedAddr]
  dsimp only
  rw [if_pos ⟨by omega, by omega⟩]
  omega


section Frame

variable {s : State} {f : BitVec 28} {i : Nat} {a : Asker} (contexts : s.contexts = []) (queues : s.sched.queues = [])
  (msgs : s.net.msgs = []) (running : s.core.running = []) (parked : s.parked = [])
include contexts queues msgs running parked

/-- A frame to which nothing is on its way moves, is retired and logged, and its retirement is answered. -/
theorem goOnFrame_unused (retiring : s.svc.retiringFrames = [(f, a)]) : ∃ t, s.goOnFrame f = t ∧
    t.svc.responses = s.svc.responses ++ [⟨0x132, 0, a.tag, a.ctx, []⟩] ∧ Logged t 1 6 ∧ f ∈ t.svc.retiredFrames ∧
    t.svc.retiringFrames = [] ∧ t.mem = s.mem ∧ t.svc.forward = s.svc.forward ++
      [(f.toNat * 0x10000, 0x10000, (Config.reservedFrame s.svc.spare).toNat * 0x10000)] := by
  have quiet : ∀ b n, s.regionQuiet b n = true := fun b n => by
    rw [State.regionQuiet, msgs, parked, List.all_cons, running]
    rfl
  have found : s.svc.retiringFrames.find? (fun p => p.1 == f) = some (f, a) := by
    rw [retiring, List.find?_cons_of_pos (by simp)]
  obtain ⟨core, parked', caches, pan, held, moved, running', none⟩ := moveFrame_unused contexts queues (f := f)
  unfold State.goOnFrame
  rw [found]
  dsimp only
  rw [if_pos (quiet _ _), moved]
  dsimp only
  rw [retiring]
  generalize retired : ({ s with
    core, parked := parked', caches, pan, held, sched := { s.sched with queues := [] }, contexts := []
    svc := { s.svc with
      spare := s.svc.spare + 1
      forward := s.svc.forward ++
        [(f.toNat * 0x10000, 0x10000, (Config.reservedFrame s.svc.spare).toNat * 0x10000)]
      retiringFrames := [(f, a)].filter fun p => p.1 != f
      retiredFrames := s.svc.retiredFrames ++ [f] } } : State) = u
  have coreIdle : u.core.running = [] := by rw [← retired]; exact running' running
  have parkedNone : u.parked = [] := by rw [← retired]; exact none parked
  generalize log : u.addLog 1 0x06 (placeUnit (f.toNat * 0x10000)).1 (placeUnit (f.toNat * 0x10000)).2
    (f.toNat * 0x10000) = v
  have pumped : v.pumpAll = v := by
    rw [← log]
    exact CouchProofs.pumpAll_idle coreIdle parkedNone
  have logged : Logged v 1 6 := by rw [← log]; exact logged_addLog ..
  rw [pumped]
  refine ⟨_, rfl, ?_, logged, ?_, ?_, ?_, ?_⟩
  · rw [← log, ← retired]; rfl
  · rw [← log, ← retired]; exact List.mem_append_right _ (List.mem_singleton_self f)
  · rw [← log, ← retired]
    show [(f, a)].filter (fun p => p.1 != f) = []
    simp
  · rw [← log, ← retired]; rfl
  · rw [← log, ← retired]; rfl

/-- A frame of a stack whose retirement is asked for while nothing is on its way to it retires at once. -/
theorem retireFrame_unused (place : placeOf (f.toNat * 0x10000) = .stack i) (retiring : s.svc.retiringFrames = []) :
    ∃ t, retireFrame s f = t ∧
    t.svc.responses = s.svc.responses ++ [⟨0x132, 0, s.svc.asker.tag, s.svc.asker.ctx, []⟩] ∧ Logged t 1 6 ∧
    f ∈ t.svc.retiredFrames ∧ t.svc.retiringFrames = [] ∧ t.mem = s.mem ∧ t.svc.forward = s.svc.forward ++
      [(f.toNat * 0x10000, 0x10000, (Config.reservedFrame s.svc.spare).toNat * 0x10000)] := by
  have none : (s.svc.retiringFrames.any fun p => p.1 == f) = false := by rw [retiring]; rfl
  unfold retireFrame
  rw [place]
  dsimp only
  rw [none, if_neg Bool.false_ne_true, retiring]
  exact goOnFrame_unused (s := { s with svc := { s.svc with retiringFrames := [(f, s.svc.asker)] } }) contexts queues msgs
    running parked rfl

end Frame

/-! ### Draining a die (R361, R368) -/

section Drain

variable {s : State} {die dest : BitVec 2} (idle : s.core.mode = .idle) (parked : s.parked = [])
  (images : s.sched.images = [])
include idle parked images

theorem busyCores_idle : s.busyCores die = [] := by
  rw [State.busyCores, parked, List.filter_cons_of_neg (by rw [coreQuiet_idle idle images]; simp), List.filter_nil]

variable (queues : s.sched.queues = []) (pool : s.pool die = []) (chain : s.chain die = [])
include queues pool chain

omit idle parked images in
/-- A die without queues and tasks has nothing to move. -/
theorem moveQueues_empty : s.moveQueues die dest = (s.updPool die fun _ => []).updChain die fun _ => [] := by
  unfold State.moveQueues
  extract_lets l mine shift _ t u v
  have noTask : l = [] := by rw [show l = s.pool die ++ s.chain die from rfl, pool, chain]; rfl
  have noQueue : mine = [] := by rw [show mine = s.sched.queues.filter _ from rfl, queues]; rfl
  have same : t = s := by
    show ({ s with sched := { s.sched with queues := s.sched.queues.map shift } } : State) = s
    rw [queues, List.map_nil, ← queues]
  rw [noTask, List.foldl_nil]
  show List.foldl _ (List.foldl State.moveSave _ mine) mine = _
  rw [noQueue, List.foldl_nil, List.foldl_nil, same]

/-- A quiet die that is asked to drain is off at once. -/
theorem drainDie_idle (ne : die ≠ dest) (drained : s.svc.drained = []) (draining : s.svc.draining = []) :
    ∃ u : State, drainDie s die dest = ((u.gateDie die).addLog 9 0x04 die 0 die.toNat |>.serving s.svc.asker).respond 0x133 stDone []
      ∧ u.core = s.core ∧ u.svc = { s.svc with drained := [die], draining := [] } := by
  have none : (s.svc.draining.any fun p => p.1 == die) = false := by rw [draining]; rfl
  have off : ¬(die = dest ∨ s.svc.drained.contains dest = true ∨ s.svc.drained.contains die = true) := by
    rw [drained]
    simpa using ne
  unfold drainDie
  rw [none, if_neg Bool.false_ne_true, if_neg off, drained, draining]
  dsimp only
  generalize entered : ({ s with svc := { s.svc with
    drained := [die], draining := [] ++ [(die, dest, s.svc.asker)] } } : State) = u
  have busy : u.busyCores die = [] := by
    rw [← entered]
    exact busyCores_idle idle parked images
  rw [busy, List.foldl_nil]
  have found : u.svc.draining.find? (fun p => p.1 == die) = some (die, dest, s.svc.asker) := by
    rw [← entered]
    exact List.find?_cons_of_pos (by simp)
  unfold State.goOnDrain
  rw [found]
  dsimp only
  rw [busy, List.isEmpty_nil, if_pos rfl]
  have gone : u.svc.draining.filter (fun p => p.1 != die) = [] := by
    rw [← entered]
    exact List.filter_cons_of_neg (by simp)
  rw [gone]
  refine ⟨_, rfl, ?_, ?_⟩
  · rw [moveQueues_empty (s := { u with svc := { u.svc with draining := [] } }) (by rw [← entered]; exact queues)
      (by rw [← entered]; exact pool) (by rw [← entered]; exact chain), ← entered]
    rfl
  · rw [moveQueues_empty (s := { u with svc := { u.svc with draining := [] } }) (by rw [← entered]; exact queues)
      (by rw [← entered]; exact pool) (by rw [← entered]; exact chain), ← entered]
    rfl

end Drain

/-! ### Power and routes (R369, R373) -/

theorem logPower_logged (s : State) (code : BitVec 8) : Logged (s.logPower code) 8 code := logged_addLog _ 8 code 0 0 _

/-- Lost coolant holds a module whose cores are idle in reset. -/
theorem loseCoolant_idle {s : State} (idle : s.core.mode = .idle) (parked : s.parked = []) (images : s.sched.images = [])
    (flows : s.svc.coolantLost = false) : ∃ t, loseCoolant s = t ∧ t.svc.coolantLost = true ∧ t.svc.holdReset = true ∧
      Logged t 8 3 := by
  unfold loseCoolant
  rw [flows]
  dsimp only
  rw [if_neg Bool.false_ne_true]
  generalize lost : State.logPower { s with svc := { s.svc with coolantLost := true } } 0x03 = u
  have idle' : u.core.mode = .idle := by rw [← lost]; exact idle
  have parked' : u.parked = [] := by rw [← lost]; exact parked
  have images' : u.sched.images = [] := by rw [← lost]; exact images
  have coolant : u.svc.coolantLost = true := by rw [← lost]; rfl
  have logged : Logged u 8 3 := by rw [← lost]; exact logPower_logged ..
  have quiet : u.allQuiet = true := by
    rw [State.allQuiet, parked', List.all_cons, coreQuiet_idle idle' images', List.all_nil, Bool.and_self]
  rw [parked', List.foldl_cons, List.foldl_nil, askCore_idle idle', quiet, if_pos rfl]
  exact ⟨_, rfl, coolant, rfl, logged⟩

section Route

variable {s : State} {m : BitVec 12} {p : BitVec 4}

/-- A route whose one port is down comes back. -/
theorem routeAgain_one (routes : s.fab.routes = [(m, [p])]) (down : (s.link p).up = false) : ∃ t, routeAgain s m = t ∧
    t.routePorts m = [p] ∧ m ∉ t.svc.unreachable ∧ t.mem = s.mem := by
  have found : ((s.fab.routes.find? fun r => r.1 == m).map (·.2)).getD [] = [p] := by
    rw [routes, List.find?_cons_of_pos (by simp)]
    rfl
  have down' : (s.fab.links[p.toNat]'(p.isLt)).up = false := down
  have back : s.returning m = [p] := by
    unfold State.returning
    rw [found, List.filter_cons_of_pos (by simp [down']), List.filter_nil]
    dsimp only
    by_cases pick : (Config.freeValue 24 s.free).getLsbD p.toNat = true
    · rw [List.filter_singleton, pick]
      rfl
    · rw [List.filter_singleton, Bool.eq_false_iff.mpr pick]
      rfl
  unfold routeAgain
  rw [back, List.foldl_cons, List.foldl_nil]
  generalize again : State.updLink { s with free := s.free + 1 } p (fun _ => LinkState.reset) = u
  have link : u.link p = LinkState.reset := by rw [← again, link_updLink_same]
  have routes' : u.fab.routes = [(m, [p])] := by rw [← again]; exact routes
  have ports : u.routePorts m = [p] := by
    have up : (u.fab.links[p.toNat]'(p.isLt)).up = true := congrArg LinkState.up link
    rw [State.routePorts, routes', List.find?_cons_of_pos (by simp), Option.map_some, Option.getD_some,
      List.filter_singleton, up]
    rfl
  refine ⟨_, rfl, ports, fun mem => ?_, ?_⟩
  · have none := (List.mem_filter.mp mem).2
    rw [ports] at none
    exact Bool.false_ne_true none
  · rw [← again]
    rfl

end Route


/-! ### The events -/

section Asked

variable {s : State} (deployed : s.svc.life = .deployed) (awake : s.svc.holdReset = false) (waits : NothingWaits s)
include deployed awake waits

theorem exec_updateFirmwareLive {v : BitVec 64} {image : List Byte} (occ : s.occ = .firmware v image) :
    exec .updateFirmwareLive s = .next (updateFirmware s v image) := by
  show execUpdateFirmwareLive s = _
  unfold execUpdateFirmwareLive
  rw [request_up _ _ deployed awake waits (by simp [occ]) (by simp [occ]), occ]
  rfl

theorem exec_retireCoreOrPipeline {die : BitVec 2} {core kind : BitVec 8} (occ : s.occ = .retireUnit die core kind)
    (known : kind = 0 ∨ kind = 1) : exec .retireCoreOrPipeline s = .next (retireUnit s (die ++ core) (kind == 1)) := by
  show execRetireCoreOrPipeline s = _
  unfold execRetireCoreOrPipeline
  rw [request_up _ _ deployed awake waits (by simp [occ]) (by simp [occ]), occ]
  dsimp only
  rw [if_pos known]
  rfl

theorem exec_retireHbmFrame {f : BitVec 28} (occ : s.occ = .frame f) :
    exec .retireHbmFrame s = .next (retireFrame s f) := by
  show execRetireHbmFrame s = _
  unfold execRetireHbmFrame
  rw [request_up _ _ deployed awake waits (by simp [occ]) (by simp [occ]), occ]
  rfl

theorem exec_drainDie {die dest : BitVec 2} (occ : s.occ = .drain die dest) :
    exec .drainDie s = .next (drainDie s die dest) := by
  show execDrainDie s = _
  unfold execDrainDie
  rw [request_up _ _ deployed awake waits (by simp [occ]) (by simp [occ]), occ]
  rfl

theorem exec_restoreDie {die : BitVec 2} (occ : s.occ = .die die) : exec .restoreDie s = .next (restoreDie s die) := by
  show execRestoreDie s = _
  unfold execRestoreDie
  rw [request_up _ _ deployed awake waits (by simp [occ]) (by simp [occ]), occ]
  rfl

omit deployed in
theorem exec_lifeCycleChange {target : BitVec 8} {cred sig : List Byte} (occ : s.occ = .life target cred sig) :
    exec .lifeCycleChange s = .next (lifeChange s target cred sig) := by
  show execLifeCycleChange s = _
  unfold execLifeCycleChange
  rw [request_alone _ _ waits (by simp [occ]) (by simp [occ]), State.host, awake, occ]
  simp only [Bool.false_and, Bool.false_eq_true, if_false, bne_self_eq_false, Bool.and_false]
  rfl

end Asked

/-- An event of a module that is not held in reset is performed. -/
theorem awake_out {s t : State} (out : s.svc.holdReset = false) : Machine.awake s t = .next t := by
  rw [Machine.awake, out]
  rfl

section Life

variable {s : State} {target : BitVec 8} {cred sig : List Byte}

theorem lifeChange_open (contexts : s.contexts ≠ []) : lifeChange s target cred sig = s.respond 0x140 stNotPermitted [] := by
  unfold lifeChange
  exact if_pos (by simpa using contexts)

/-- The module after its life has moved: wiped, with what the new state keeps of its identity. -/
def lifeMovedTo (s : State) (l : Life) (cred : List Byte) : State :=
  State.respond { s.wipe with free := s.free + 1, svc := s.svc.lifeMoved l cred s.free } 0x140 stDone []

/-- What each state keeps of the module's identity. -/
theorem lifeMovedTo_svc (s : State) (l : Life) (cred : List Byte) :
    let v := (lifeMovedTo s l cred).svc
    v.responses = s.svc.responses ++ [⟨0x140, 0, s.svc.asker.tag, s.svc.asker.ctx, []⟩] ∧ v.life = l ∧
      (l = .returned → v.identity = none ∧ v.credential = []) ∧ (l = .deployed → v.credential = cred) ∧
      (l = .provisioned → v.identity = some s.free) := by
  cases l with
  | blank => exact ⟨rfl, rfl, nofun, nofun, nofun⟩
  | provisioned => exact ⟨rfl, rfl, nofun, nofun, fun _ => rfl⟩
  | deployed => exact ⟨rfl, rfl, nofun, fun _ => rfl, nofun⟩
  | returned => exact ⟨rfl, rfl, fun _ => ⟨rfl, rfl⟩, nofun, nofun⟩

variable (contexts : s.contexts = [])
include contexts

theorem lifeChange_moves {l : Life} (next : lifeNext s.svc.life target = some l) : lifeChange s target cred sig =
    if edVerify (s.svc.lifeKey l cred) (shake256 (lifePayload target cred)) sig then lifeMovedTo s l cred
    else s.respond 0x140 stUnverified [] := by
  unfold lifeChange
  rw [contexts, next]
  rfl

theorem lifeChange_stays (next : lifeNext s.svc.life target = none) : lifeChange s target cred sig =
    s.respond 0x140 (if 1 ≤ target.toNat ∧ target.toNat ≤ 3 then stNotPermitted else stMalformed) [] := by
  unfold lifeChange
  rw [contexts, next]
  rfl

end Life

/-- Settles O53: each event is the step its rule names, in a module where nothing waits. -/
theorem lifeEvents : Obligations.LifeEvents := by
  intro s status logged awake up idle switched
  refine ⟨?_, ?_, ?_, ?_, ?_, ?_, ?_, ?_, ?_, ?_, ?_⟩
  · exact ⟨boot s, rfl, rfl, rfl, rfl, boot_keys s, rfl, rfl, rfl, rfl, rfl, rfl, rfl, rfl, rfl, rfl, boot_up s⟩
  · intro v image ⟨deployed, out, waits⟩ occ
    have run := exec_updateFirmwareLive deployed out waits occ
    refine ⟨fun no => run.trans ?_, fun verifies done => ?_, fun verifies busy => ?_⟩
    · rw [updateFirmware, no]
      rfl
    · rw [updateFirmware_verified verifies, goOnUpdate_switches (s := updating s v image) rfl
        ((updating_inProgress v image _).trans done)] at run
      obtain ⟨responses, active, version', image', other, -⟩ := updating_svc s v image
      exact ⟨_, run, rfl, congrArg (· ++ _) responses, ⟨congrArg (! ·) active, rfl, switchedTo_logged⟩, version', image',
        rfl, other⟩
    · rw [updateFirmware_verified verifies, goOnUpdate_waits (s := updating s v image) rfl
        ((updating_inProgress v image _).trans busy)] at run
      obtain ⟨responses, active, -, -, -, version'⟩ := updating_svc s v image
      exact ⟨_, run, responses, active, version', rfl⟩
  · intro u occ update
    have run : exec .updateFirmwareLive s = .next s.goOnUpdate := by
      show execUpdateFirmwareLive s = _
      unfold execUpdateFirmwareLive
      rw [occ]
      rfl
    refine ⟨fun busy => ?_, fun done => ?_⟩
    · rwa [goOnUpdate_waits update busy] at run
    · rw [goOnUpdate_switches update done] at run
      exact ⟨_, run, ⟨rfl, rfl, switchedTo_logged⟩, rfl, rfl⟩
  · intro t0 last
    have run : exec .firmwareRevert s = .next (revertFirmware s) := rfl
    unfold revertFirmware at run
    rw [last] at run
    refine ⟨fun early => ?_, fun late => ?_⟩
    · dsimp only at run
      rw [if_pos early] at run
      exact ⟨_, run, rfl, rfl, logged_addLog _ 9 0x02 0 0 _, rfl⟩
    · dsimp only at run
      rwa [if_neg (not_le.mpr late)] at run
  · intro die core kind ⟨deployed, out, waits⟩ ⟨idle, parked, images⟩ occ here retiring
    have retired := fun known => (exec_retireCoreOrPipeline deployed out waits occ known).trans
      (congrArg Host.Outcome.next (here ▸ retireUnit_idle idle images retiring (kind == 1)))
    refine ⟨fun core => ?_, fun pipe => ?_⟩
    · have done := retired (.inl core)
      rw [core] at done
      refine ⟨_, done, rfl, endRetire_logged .., List.mem_append_right _ (List.mem_singleton_self _), rfl⟩
    · have done := retired (.inr pipe)
      rw [pipe, ← here] at done
      obtain ⟨list, feat, answered⟩ := endRetire_pipeline (State.tellUncovered { s with svc := { s.svc with
        retiring := [(s.core.id, true, s.svc.asker)], retiredCores := s.svc.retiredCores ++ [s.core.id] } }
          (coreDie s.core.id)) s.svc.asker
      refine ⟨_, done, answered, endRetire_logged .., ?_, feat⟩
      rw [← here]
      exact (congrArg (s.core.id ∈ ·) list).to_iff.trans (mem_erase_append s.svc.retiredCores s.core.id)
  · intro f i ⟨deployed, out, waits⟩ occ place retiring contexts queues msgs running queue parked
    obtain ⟨t, eq, answered, logged, retired, done, memory, forward⟩ :=
      retireFrame_unused contexts queues msgs running parked place retiring
    refine ⟨t, (exec_retireHbmFrame deployed out waits occ).trans (congrArg _ eq), answered, logged, retired, done, memory,
      fun first o lt => forwarded_once (by rw [forward, first]; rfl) lt⟩
  · intro die dest ⟨deployed, out, waits⟩ ⟨idle, parked, images⟩ occ ne drained draining queues pool chain
    obtain ⟨u, eq, core, svc⟩ := drainDie_idle idle parked images queues pool chain ne drained draining
    refine ⟨_, (exec_drainDie deployed out waits occ).trans (congrArg _ eq), ?_, logged_addLog _ 9 0x04 die 0 _, ?_, ?_,
      fun here => ?_, fun away => ?_⟩
    · exact congrArg (fun v : Service => v.responses ++ [⟨0x133, 0, s.svc.asker.tag, s.svc.asker.ctx, []⟩]) svc
    · exact congrArg Service.drained svc
    · exact congrArg Service.draining svc
    · have off : coreDie u.core.id = die := by rw [core]; exact here
      have gated : (u.gateDie die).core = { keptCore u.core with nextId := u.core.nextId } := if_pos off
      exact ⟨congrArg Core.acc gated, congrArg Core.task gated, (congrArg Core.feat gated :).trans (congrArg Core.feat core :)⟩
    · have on : ¬coreDie u.core.id = die := by rw [core]; exact away
      exact (if_neg on : (u.gateDie die).core = u.core).trans core
  · intro die ⟨deployed, out, waits⟩ occ draining
    have run := exec_restoreDie deployed out waits occ
    have none : (s.svc.draining.any fun p => p.1 == die) = false := by rw [draining]; rfl
    unfold restoreDie at run
    rw [none] at run
    refine ⟨fun drained => ?_, fun drained => ?_⟩
    · rw [drained] at run
      refine ⟨_, run.trans (congrArg _ (if_pos (by simp))), rfl, logged_addLog _ 9 0x05 die 0 _, ?_⟩
      show [die].filter (fun d => d != die) = []
      simp
    · exact run.trans (congrArg _ (if_neg (by simpa using drained)))
  · intro target cred sig out waits occ
    have run := exec_lifeCycleChange out waits occ
    refine ⟨fun contexts => run.trans (congrArg _ (lifeChange_open contexts)), fun l contexts next => ?_,
      fun contexts next => run.trans (congrArg _ (lifeChange_stays contexts next))⟩
    rw [lifeChange_moves contexts next] at run
    split
    next signed =>
      rw [if_pos signed] at run
      obtain ⟨answered, life, returned, deployed, provisioned⟩ := lifeMovedTo_svc s l cred
      exact ⟨_, run, answered, life, rfl, rfl, returned, deployed, provisioned⟩
    next unsigned => exact run.trans (congrArg _ (if_neg unsigned))
  · intro out
    refine ⟨fun fast => ?_, fun floor => ?_, fun slow => ?_, fun top => ?_, fun ⟨idle, parked, images⟩ flows => ?_,
      fun m p occ routes down => ?_⟩
    · exact ⟨_, (awake_out out).trans (congrArg _ (if_pos fast)), Nat.sub_add_cancel (by omega), logPower_logged ..⟩
    · exact ⟨_, (awake_out out).trans (congrArg _ (if_neg (by omega))), rfl, logPower_logged ..⟩
    · exact ⟨_, (awake_out out).trans (congrArg _ (if_pos slow)), rfl, logPower_logged ..⟩
    · exact (awake_out out).trans (congrArg _ (if_neg (by omega)))
    · obtain ⟨t, eq, lost, held, logged⟩ := loseCoolant_idle idle parked images flows
      exact ⟨t, (awake_out out).trans (congrArg _ eq), lost, held, logged⟩
    · obtain ⟨t, eq, ports, reached, memory⟩ := routeAgain_one routes down
      refine ⟨t, Eq.trans ?_ ((awake_out out).trans (congrArg _ eq)), ports, reached, memory⟩
      show execRouteExistsAgain s = _
      unfold execRouteExistsAgain
      rw [occ]
  · intro held i mem
    have nothing : ∀ t, Machine.awake s t = .next s := fun t => congrArg event (if_pos held)
    fin_cases mem
    · exact nothing _
    · exact nothing _
    · exact nothing _
    · exact nothing _

end Sys2Proof.LifeProofs
end

section
/-! PROOFS. What the service reports: the capability list, attestations and the error log, to hosts and to tasks (R360 to
R366). -/

namespace Sys2Proof.ReportProofs

open Sys2Proof Sys2Proof.Machine Sys2Proof.Claim Sys2Proof.CheckpointProofs Sys2Proof.QueueProofs Sys2Proof.LifeProofs

/-! ### Bytes -/

-- Memory is bounded and each thread holds some: what stands before is checked before more is begun.
set_option Elab.async false in
/-- Bytes are those of the number they give. -/
theorem bytesOfNat_natOfBytes (l : List Byte) : bytesOfNat l.length (natOfBytes l) = l := by
  induction l with
  | nil => rfl
  | cons b l ih =>
    have low : BitVec.ofNat 8 (b.toNat + 256 * natOfBytes l) = b := by
      apply BitVec.eq_of_toNat_eq
      have := b.isLt
      rw [BitVec.toNat_ofNat]
      omega
    have high : (b.toNat + 256 * natOfBytes l) / 256 = natOfBytes l := by
      have := b.isLt
      omega
    rw [List.length_cons, natOfBytes, bytesOfNat, low, high, ih]

/-- A field read as bits and written again is the bytes it was read from. -/
theorem bytesOfNat_argBits {l : List Byte} {o n : Nat} (w : Nat) (width : w = 8 * n) (fits : o + n ≤ l.length) :
    bytesOfNat n (argBits w l o).toNat = (l.drop o).take n := by
  have length : ((l.drop o).take n).length = n := by
    rw [List.length_take, List.length_drop]
    omega
  have lt : natOfBytes ((l.drop o).take n) < 2 ^ w := by
    have := natOfBytes_lt ((l.drop o).take n)
    rw [length] at this
    rwa [width, Nat.pow_mul]
  have back := bytesOfNat_natOfBytes ((l.drop o).take n)
  rw [length] at back
  rw [argBits, argField, BitVec.toNat_ofNat, show w / 8 = n by omega, Nat.mod_eq_of_lt lt, back]

/-! ### Lengths of digests and signatures -/

theorem length_xtsBytes (n x : Nat) : (xtsBytes n x).length = n := by
  rw [xtsBytes, List.length_map, List.length_range]

theorem length_keccakF {a : List (BitVec 64)} (h : a.length = 25) : (keccakF a).length = 25 := by
  have all : ∀ (l a : List (BitVec 64)), a.length = 25 → (l.foldl keccakRound a).length = 25 := fun l => by
    induction l with
    | nil => exact fun a h => h
    | cons rc l ih => exact fun a _ => ih _ (by simp only [keccakRound, List.length_map, List.length_range])
  exact all keccakRc a h

theorem length_keccakAbsorb (n : Nat) (l : List Byte) {a : List (BitVec 64)} (h : a.length = 25) :
    (keccakAbsorb n l a).length = 25 := by
  induction n generalizing l a with
  | zero => exact h
  | succ n ih => exact ih _ (length_keccakF (by rw [List.length_mapIdx, h]))

theorem length_sponge (n : Nat) (le : n ≤ 136) (d : Byte) (l : List Byte) : (sponge n d l).length = n := by
  unfold sponge
  extract_lets z padded a
  have lanes : a.length = 25 := length_keccakAbsorb _ _ (List.length_replicate ..)
  have bytes : ((a.take 17).flatMap fun v => xtsBytes 8 v.toNat).length = 136 := by
    simp [List.length_flatMap, length_xtsBytes, lanes]
  rw [List.length_take, bytes]
  omega

theorem length_shake256 (l : List Byte) : (shake256 l).length = 64 := length_sponge 64 (by omega) _ l

theorem length_edSign (key msg : List Byte) : (edSign key msg).length = 114 := by
  unfold edSign EdPoint.encode
  simp only [List.length_append, length_xtsBytes]

theorem length_sign (v : Service) (digest : List Byte) : (v.sign digest).length = 114 := by
  unfold Service.sign
  split
  · exact length_edSign _ _
  · exact List.length_replicate ..

/-! ### Reports (R365) -/

section Report

variable (s : State) (x : Option Context) {nonce : List Byte} (length : nonce.length = 32)
include length

theorem length_report : (s.report x nonce).length = 240 := by
  unfold State.report
  simp only [List.length_append, length_bytesOfNat, length_shake256, length_sign, length]

/-- A report holds its nonce, and the code of the life-cycle state. -/
theorem report_nonce : ((s.report x nonce).drop 24).take 32 = nonce := by
  unfold State.report
  simp [List.drop_append, List.drop_eq_nil_of_le, length]

omit length in
theorem report_life : ((s.report x nonce).drop 16).take 1 = bytesOfNat 1 s.svc.life.code := by
  unfold State.report
  simp [List.drop_append, List.take_append, length_bytesOfNat]

end Report

/-! ### The error log (R366) -/

section Log

variable (s : State) (first : BitVec 64) (n : Nat)

theorem logFrom_sublist : (s.logFrom first n).Sublist s.svc.log :=
  (List.take_sublist ..).trans List.filter_sublist

theorem mem_logFrom {r : LogRec} (mem : r ∈ s.logFrom first n) : first.toNat ≤ r.seq.toNat := by
  have := (List.mem_filter.mp (List.mem_of_mem_take mem)).2
  simpa using this

/-- A read that is not full has every record from the number on. -/
theorem logFrom_all (short : (s.logFrom first n).length < n) {r : LogRec} (mem : r ∈ s.svc.log)
    (from' : first.toNat ≤ r.seq.toNat) : r ∈ s.logFrom first n := by
  have whole : s.logFrom first n = s.svc.log.filter fun r => decide (first.toNat ≤ r.seq.toNat) := by
    rw [State.logFrom, List.length_take] at short
    exact List.take_of_length_le (by omega)
  rw [whole]
  exact List.mem_filter.mpr ⟨mem, by simpa using from'⟩

/-- A record that a read leaves out comes after a full one. -/
theorem logFrom_oldest (order : LogInOrder s) {r : LogRec} (mem : r ∈ s.svc.log) (from' : first.toNat ≤ r.seq.toNat)
    (out : r ∉ s.logFrom first n) : (s.logFrom first n).length = n ∧ ∀ q ∈ s.logFrom first n, q.seq.toNat < r.seq.toNat := by
  have full : (s.logFrom first n).length = n := by
    by_contra ne
    exact out (logFrom_all s first n (lt_of_le_of_ne (List.length_take_le ..) ne) mem from')
  refine ⟨full, fun q hq => ?_⟩
  have sorted := order.1.sublist (List.filter_sublist (p := fun r => decide (first.toNat ≤ r.seq.toNat)))
  rw [← List.take_append_drop n (s.svc.log.filter _)] at sorted
  have mem' : r ∈ s.svc.log.filter fun r => decide (first.toNat ≤ r.seq.toNat) :=
    List.mem_filter.mpr ⟨mem, by simpa using from'⟩
  rw [← List.take_append_drop n (s.svc.log.filter _)] at mem'
  rcases List.mem_append.mp mem' with early | late
  · exact absurd early out
  · exact (List.pairwise_append.mp sorted).2.2 q hq r late

theorem logRoom_sublist (l : List LogRec) : (logRoom l).Sublist l := by
  unfold logRoom
  split
  · exact List.Sublist.refl _
  · split
    · exact List.eraseIdx_sublist ..
    · exact List.drop_sublist ..

/-- A new record stands last, with the highest number. -/
theorem logInOrder_addLog (order : LogInOrder s) (room : s.svc.nextSeq.toNat + 1 < 2 ^ 64) (kind : Nat) (code : BitVec 8)
    (die : BitVec 2) (place : BitVec 8) (detail : Nat) : LogInOrder (s.addLog kind code die place detail) ∧
      (s.svc.log.length < 2 ^ 20 → ∃ r, (s.addLog kind code die place detail).svc.log = s.svc.log ++ [r] ∧
        r.seq = s.svc.nextSeq) := by
  obtain ⟨sorted, below⟩ := order
  have next : (s.svc.nextSeq + 1).toNat = s.svc.nextSeq.toNat + 1 := by
    rw [BitVec.toNat_add]
    exact Nat.mod_eq_of_lt room
  refine ⟨⟨?_, fun r mem => ?_⟩, fun fits => ⟨_, congrArg (· ++ _) (if_pos fits), rfl⟩⟩
  · refine List.pairwise_append.mpr ⟨sorted.sublist (logRoom_sublist _), List.pairwise_singleton .., fun a ha b hb => ?_⟩
    rw [List.mem_singleton.mp hb]
    exact below a ((logRoom_sublist _).subset ha)
  · show r.seq.toNat < (s.svc.nextSeq + 1).toNat
    rw [next]
    rcases List.mem_append.mp mem with old | new
    · exact Nat.lt_succ_of_lt (below r ((logRoom_sublist _).subset old))
    · rw [List.mem_singleton.mp new]
      exact Nat.lt_succ_self _

end Log

/-! ### Requests of tasks (R219, R362) -/

section Task

variable {s t : State} {r : SvcReq}

/-- A request of the one task ends with its token, of which the rest of the core knows nothing. -/
theorem endRequest_alone (images : t.sched.images = []) (parked : t.parked = []) (runs : r.runsOn t.core = true)
    (requests : t.svc.requests = [r]) (tok : BitVec 16) : ∃ u, t.endRequest 0 r tok = u ∧ u.mem = t.mem ∧ u.held = t.held ∧
      u.svc.requests = [] ∧ u.core = t.core.completeToken r.tok tok := by
  refine ⟨_, rfl, ?_⟩
  unfold State.endRequest State.endCall
  rw [images, parked, requests]
  dsimp only
  rw [List.filter_cons_of_pos runs, List.filter_nil, List.foldl_cons, List.foldl_nil, MessageProofs.updCore_self]
  exact ⟨rfl, rfl, rfl, rfl⟩

/-- A request of a code whose block is served into its memory, with what the service writes for it. -/
def Answered (s : State) (r : SvcReq) (u t : State) (tok : BitVec 16) : Prop :=
  t.mem = u.mem ∧ t.held = u.held ∧ t.svc.requests = [] ∧ PhaseProofs.TokenSet s.core t.core r.tok tok

/-- What a request's own writes leave of the module where no page is mirrored. -/
theorem endRequest_answers (wrote : Wrote s t) (images : s.sched.images = []) (parked : s.parked = [])
    (runs : r.runsOn s.core = true) (requests : s.svc.requests = [r]) (tok : BitVec 16) :
    Answered s r t (t.endRequest 0 r tok) tok := by
  obtain ⟨_, _, _, _, eq⟩ := wrote.state
  have core : t.core = s.core := by rw [eq]
  obtain ⟨u, out, mem, held, none, done⟩ := endRequest_alone (t := t) (r := r) (by rw [eq]; exact images)
    (by rw [eq]; exact parked) (core ▸ runs) (by rw [eq]; exact requests) tok
  rw [out]
  exact ⟨mem, held, none, PhaseProofs.tokenSet_of_setToken
    ((congrArg Core.tokens done).trans (PhaseProofs.completeToken_tokens ..)) (by rw [core])⟩

section Serve

variable (occ : s.occ = .num 0) (requests : s.svc.requests = [r]) (update : s.svc.update = none)
  (inbox : s.svc.inbox = []) (loads : s.svc.loads = []) (code : BitVec 10) (is : r.code = code) (size : Nat)
  (f : State → SvcReq → List Byte → Option State)
include occ requests update inbox loads is

theorem taskRequest_alone : s.taskRequest code = some (0, r) := by
  have free : s.mustWait r.stamp (some r.asid) = false := by
    rw [State.mustWait, update, requests, inbox, loads]
    simp
  unfold State.taskRequest
  rw [occ]
  dsimp only
  rw [requests, List.getElem?_cons_zero]
  dsimp only
  rw [if_pos ⟨is, by rw [free]; rfl⟩]

theorem serveTask_unread (unread : s.readVa r.asid r.arg.toNat size = none) :
    s.serveTask code size f = s.endRequest 0 r (tokFaulted 0x06) := by
  unfold State.serveTask
  rw [taskRequest_alone occ requests update inbox loads code is]
  dsimp only
  rw [unread]

variable {arg : List Byte} (read : s.readVa r.asid r.arg.toNat size = some arg)
include read

theorem serveTask_refuses (refuses : f s r arg = none) : s.serveTask code size f = s.endRequest 0 r (tokFaulted 0x06) := by
  unfold State.serveTask
  rw [taskRequest_alone occ requests update inbox loads code is]
  dsimp only
  rw [read]
  dsimp only
  rw [refuses]

theorem serveTask_serves (serves : f s r arg = some t) : s.serveTask code size f = t.endRequest 0 r (tokDone 0) := by
  unfold State.serveTask
  rw [taskRequest_alone occ requests update inbox loads code is]
  dsimp only
  rw [read]
  dsimp only
  rw [serves]

end Serve

/-- A write that the context's memory takes. -/
theorem wrote_of_writeVa (h : Unmirrored s) {a : BitVec 16} {v : Nat} {l : List Byte} (out : s.writeVa a v l = some t) :
    Wrote s t := by
  have := wrote_writeVa h a v l
  rwa [out, Option.getD_some] at this

end Task

/-! ### Messages of hosts (R360, R363) -/

/-- The bytes of a response from RTAG on are those of the request. -/
theorem message_tag {l : List Byte} (length : l.length = 64) (code st : BitVec 16) (payload : List Byte) :
    ((HostResp.message ⟨code, st, argBits 64 l 8, argBits 32 l 16, payload⟩).drop 8).take 12 = (l.drop 8).take 12 := by
  have tag := bytesOfNat_argBits (l := l) (o := 8) (n := 8) 64 rfl (by omega)
  have ctx := bytesOfNat_argBits (l := l) (o := 16) (n := 4) 32 rfl (by omega)
  have both : (l.drop 8).take 12 = (l.drop 8).take 8 ++ (l.drop 16).take 4 := by
    rw [show 12 = 8 + 4 from rfl, List.take_add, List.drop_drop]
  have twelve : ((l.drop 8).take 8 ++ (l.drop 16).take 4).length = 12 := by simp [length]
  unfold HostResp.message
  simp only [tag, ctx]
  rw [both, ← List.take_left' twelve (l₂ := bytesOfNat 44 0 ++ payload)]
  simp [List.drop_append, List.drop_eq_nil_of_le]

/-! ### The events -/

section Asked

variable {s : State} (deployed : s.svc.life = .deployed) (awake : s.svc.holdReset = false) (waits : NothingWaits s)
include deployed awake waits

theorem exec_attest {o : Option (BitVec 16)} {nonce : List Byte} (occ : s.occ = .attest o nonce) (length : nonce.length = 32)
    (known : ∀ a, o = some a → (s.context? a).isSome) : exec .attestModuleOrContext s =
      .next (Responded s 0x120 0 (s.report (o.bind s.context?) nonce)) := by
  show execAttestModuleOrContext s = _
  unfold execAttestModuleOrContext
  rw [request_up _ _ deployed awake waits (by simp [occ]) (by simp [occ]), occ]
  cases o with
  | none =>
    dsimp only
    rw [if_pos length]
    rfl
  | some a =>
    obtain ⟨x, open'⟩ := Option.isSome_iff_exists.mp (known a rfl)
    dsimp only [Option.bind_some]
    rw [open']
    dsimp only
    rw [if_pos length]
    rfl

theorem exec_readErrorLog {first : BitVec 64} {n : BitVec 32} (occ : s.occ = .logRange first n) :
    exec .readErrorLog s = .next (Responded s 0x121 0 (bytesOfNat 4 (s.logFrom first n.toNat).length ++ bytesOfNat 4 0 ++
      (s.logFrom first n.toNat).flatMap logBytes)) := by
  show execReadErrorLog s = _
  unfold execReadErrorLog
  rw [request_up _ _ deployed awake waits (by simp [occ]) (by simp [occ]), occ]
  rfl

end Asked

/-- A host's message for the capability list is answered, held in reset or not. -/
theorem exec_readCapabilityList {s : State} (waits : NothingWaits s) {l : List Byte} {h : MsgHeader}
    (occ : s.occ = .message l) (header : msgHeader l = some h) (code : h.code = 0x100) (clean : h.clean = true)
    (empty : h.len = 0) (length : l.length = 64) : exec .readCapabilityList s =
      .next (State.respond { s.serving ⟨h.rtag, h.ctx⟩ with occ := .none } 0x100 stDone s.capabilityList) := by
  have asks : (if h.clean && l.length == headerSize + h.len then
      (s.serving ⟨h.rtag, h.ctx⟩).asks 0x100 h.ctx (l.drop headerSize) else none) = some .none := by
    have rest : l.drop headerSize = [] := List.drop_eq_nil_of_le (by rw [length]; exact le_rfl)
    rw [clean, empty, length, rest]
    rfl
  show execReadCapabilityList s = _
  unfold execReadCapabilityList State.request
  rw [occ]
  dsimp only
  rw [header]
  dsimp only
  rw [if_pos code, State.arrives_free _ _ _ (mustWait_never waits ..), State.handle, occ]
  dsimp only
  rw [header]
  dsimp only
  unfold State.host
  simp only [bne_self_eq_false, Bool.and_false, Bool.false_eq_true, if_false, Bool.false_and]
  rw [asks]
  rfl

/-- Settles O51: hosts and tasks get the capability list, a report and the log's records from the service, and the log
is in order. -/
theorem serviceReports : Obligations.ServiceReports := by
  intro s
  refine ⟨?_, ?_, ?_, ?_, ?_⟩
  · intro l h occ header code clean empty length waits
    have fields : h.rtag = argBits 64 l 8 ∧ h.ctx = argBits 32 l 16 := by
      unfold msgHeader at header
      split at header
      · cases header
      · cases header
        exact ⟨rfl, rfl⟩
    refine ⟨_, _, exec_readCapabilityList waits occ header code clean empty length, rfl, rfl, rfl, ?_⟩
    rw [fields.1, fields.2]
    exact message_tag length _ _ _
  · intro deployed awake waits
    refine ⟨fun occ => ?_, fun o nonce occ length known => ?_, fun first n occ => ?_⟩
    · show execReadCapabilityList s = _
      unfold execReadCapabilityList
      rw [request_up _ _ deployed awake waits (by simp [occ]) (by simp [occ])]
      rfl
    · refine ⟨exec_attest deployed awake waits occ length known, length_report s _ length, report_nonce s _ length, ?_⟩
      rw [report_life, deployed]
      rfl
    · exact exec_readErrorLog deployed awake waits occ
  · intro first n
    exact ⟨logFrom_sublist s first n, List.length_take_le .., fun r mem => mem_logFrom s first n mem,
      fun short r mem from' => logFrom_all s first n short mem from', fun order =>
        ⟨order.1.sublist (logFrom_sublist s first n), fun r mem from' out => logFrom_oldest s first n order mem from' out⟩⟩
  · intro kind code die place detail order room
    exact logInOrder_addLog s order room kind code die place detail
  · intro r arg occ requests update inbox loads images parked runs unmirrored served refused
    have serves : ∀ {i : Instr} {t : State}, exec i s = .next (t.endRequest 0 r (tokDone 0)) → Wrote s t → served i t :=
      fun run wrote => by
        obtain ⟨mem, held, none, tok, others⟩ := endRequest_answers wrote images parked runs requests (tokDone 0)
        exact ⟨_, run, mem, held, none, fun ne => (tok ne).trans PhaseProofs.tokDone_zero, others⟩
    have refuses : ∀ {i : Instr}, exec i s = .next (s.endRequest 0 r (tokFaulted 0x06)) → refused i := fun run => by
      obtain ⟨mem, held, none, tok, others⟩ := endRequest_answers (.refl unmirrored) images parked runs requests
        (tokFaulted 0x06)
      exact ⟨_, run, mem, none, fun ne => (tok ne).trans (by decide), others⟩
    refine ⟨fun e mem is unread => ?_, fun is read => ⟨fun plain u v hu hv => ?_, fun no => ?_⟩,
      fun is read x open' => ⟨fun u hu => ?_, fun no => ?_⟩, fun is read => ⟨fun plain u v hu hv => ?_, fun no => ?_⟩⟩
    · simp only [List.mem_cons, List.not_mem_nil, or_false] at mem
      rcases mem with rfl | rfl | rfl
      · exact refuses (congrArg event (serveTask_unread occ requests update inbox loads _ is _ _ unread))
      · exact refuses (congrArg event (serveTask_unread occ requests update inbox loads _ is _ _ unread))
      · exact refuses (congrArg event (serveTask_unread occ requests update inbox loads _ is _ _ unread))
    · have first := wrote_of_writeVa unmirrored hu
      refine serves (congrArg event (serveTask_serves occ requests update inbox loads _ is _ _ read ?_))
        (first.trans (wrote_of_writeVa first.unmirrored hv))
      rw [if_neg (not_not.mpr plain)]
      dsimp only
      rw [hu]
      exact hv
    · refine refuses (congrArg event (serveTask_refuses occ requests update inbox loads _ is _ _ read ?_))
      split
      · rfl
      next plain =>
        dsimp only
        rw [no.resolve_left plain]
        rfl
    · refine serves (congrArg event (serveTask_serves occ requests update inbox loads _ is _ _ read ?_))
        (wrote_of_writeVa unmirrored hu)
      rw [open']
      exact hu
    · refine refuses (congrArg event (serveTask_refuses occ requests update inbox loads _ is _ _ read ?_))
      rw [open']
      exact no
    · have first := wrote_of_writeVa unmirrored hu
      refine serves (congrArg event (serveTask_serves occ requests update inbox loads _ is _ _ read ?_))
        (first.trans (wrote_of_writeVa first.unmirrored hv))
      rw [if_neg (not_not.mpr plain)]
      dsimp only
      rw [hu]
      exact hv
    · refine refuses (congrArg event (serveTask_refuses occ requests update inbox loads _ is _ _ read ?_))
      split
      · rfl
      next plain =>
        dsimp only
        rw [no.resolve_left plain]
        rfl

end Sys2Proof.ReportProofs
end

section
/-! PROOFS. What a host's requests do: contexts, code objects, rule entries, queues, keys and records (R62, R239, R266,
R312, R346, R360 to R362). -/

namespace Sys2Proof.RequestProofs

open Sys2Proof Sys2Proof.Machine Sys2Proof.Claim Sys2Proof.CheckpointProofs Sys2Proof.QueueProofs Sys2Proof.LifeProofs

/-! ### Messages that break a rule (R360) -/

section Message

variable {s : State} (awake : s.svc.holdReset = false) {l : List Byte} {h : MsgHeader} (occ : s.occ = .message l)
  (header : msgHeader l = some h) (code : BitVec 16) (f : State → State)
include awake occ header

/-- A code no host may use is answered STATUS 1. -/
theorem request_unknown (other : h.code ≠ code) (unknown : h.code ∉ hostCodes) :
    s.request code f = (s.serving ⟨h.rtag, h.ctx⟩).respond h.code stMalformed [] := by
  have none : hostCodes.contains h.code = false := by simpa using unknown
  unfold State.request
  rw [occ]
  dsimp only
  rw [header]
  dsimp only
  rw [if_neg other, none, awake]
  rfl

/-- A message whose length disagrees with LEN is answered STATUS 1. -/
theorem request_misfit (deployed : s.svc.life = .deployed) (waits : NothingWaits s) (is : h.code = code)
    (misfit : l.length ≠ 64 + h.len) : s.request code f = (s.serving ⟨h.rtag, h.ctx⟩).respond code stMalformed [] := by
  have no : (h.clean && l.length == headerSize + h.len) = false := by
    rw [Bool.and_eq_false_iff]
    exact .inr (beq_eq_false_iff_ne.mpr misfit)
  unfold State.request
  rw [occ]
  dsimp only
  rw [header]
  dsimp only
  rw [if_pos is, State.arrives_free _ _ _ (mustWait_never waits ..), State.handle, occ]
  dsimp only
  rw [header]
  dsimp only
  rw [State.host_up (s.serving ⟨h.rtag, h.ctx⟩) code _ awake deployed, no]
  rfl

end Message

/-- A response that waits for no write of the couch engine goes out at once. -/
theorem respondAfter_now {s : State} (asid : BitVec 16) {since : Nat} (code status : BitVec 16)
    (old : ∀ m ∈ s.net.msgs, m.id < since) : s.respondAfter asid since code status = s.respond code status [] := by
  have none : (s.net.msgs.filter fun m => m.couch && m.idx == couchImage && decide (since ≤ m.id)) = [] := by
    rw [List.filter_eq_nil_iff]
    intro m mem
    have := old m mem
    simp
    omega
  unfold State.respondAfter
  rw [none]
  rfl

/-! ### The tables of contexts (R239) -/

theorem freePlaces_aligned (used : List (Nat × Nat)) (stack : Nat) (f k n : Nat) :
    ∀ a ∈ freePlaces used stack f k n, a % 0x20000 = 0 := by
  induction f generalizing k n with
  | zero => exact nofun
  | succ f ih =>
    cases n with
    | zero => exact nofun
    | succ n =>
      intro a mem
      unfold freePlaces at mem
      dsimp only at mem
      split at mem
      · exact ih _ _ a mem
      · rcases List.mem_cons.mp mem with rfl | mem
        · simp only [tableRoom]
          omega
        · exact ih _ _ a mem

theorem place_aligned (x : Context) (used : List (Nat × Nat)) : ∀ b ∈ (x.place used).tables, b.base % 0x20000 = 0 := by
  intro b mem
  obtain ⟨p, from', rfl⟩ := List.mem_map.mp mem
  exact freePlaces_aligned _ _ _ _ _ p.2 (List.of_mem_zip (a := p.1) (b := p.2) from').2

/-- A context whose tables are placed after others: what has been placed, and the stretches in use. -/
def placeNext (a : List Context × List (Nat × Nat)) (x : Context) : List Context × List (Nat × Nat) :=
  (a.1 ++ [x.place a.2], a.2 ++ (x.place a.2).tablePlaces)

/-- A context without its tables. -/
def bare (x : Context) : Context := { x with tables := [] }

theorem bare_placeAll (l : List Context) (a : List Context × List (Nat × Nat)) :
    (l.foldl placeNext a).1.map bare = a.1.map bare ++ l.map bare := by
  induction l generalizing a with
  | nil => exact (List.append_nil _).symm
  | cons x l ih =>
    rw [List.foldl_cons, ih]
    simp [placeNext, bare, Context.place]

/-- Every context's tables are placed anew, those of the last among them; nothing else of a context changes. -/
theorem placeTables_last (bad : List (Nat × Nat)) (l : List Context) (x : Context) : ∃ ys used,
    placeTables bad (l ++ [x]) = ys ++ [x.place used] ∧ ys.map bare = l.map bare := by
  refine ⟨(l.foldl placeNext ([], bad ++ (l ++ [x]).flatMap Context.frames)).1,
    (l.foldl placeNext ([], bad ++ (l ++ [x]).flatMap Context.frames)).2, ?_, bare_placeAll l _⟩
  show (List.foldl placeNext _ (l ++ [x])).1 = _
  rw [List.foldl_append]
  rfl

/-! ### Key slots (R346) -/

section Keys

variable (s : State) (k : KeySlot) (m : BitVec 12) (send ix : Bool)

theorem keySlot_loadSlot : (s.loadSlot k).keySlot m send ix =
    if m = k.peer ∧ send = k.send ∧ ix = k.ix then some k else s.keySlot m send ix := by
  unfold State.keySlot State.loadSlot
  dsimp only
  by_cases same : m = k.peer ∧ send = k.send ∧ ix = k.ix
  · obtain ⟨rfl, rfl, rfl⟩ := same
    rw [if_pos ⟨rfl, rfl, rfl⟩, List.find?_cons_of_pos (by simp)]
  · have ne : ¬(k.peer == m && k.send == send && k.ix == ix) = true := fun h => by
      simp only [Bool.and_eq_true, beq_iff_eq] at h
      obtain ⟨⟨peer, dir⟩, slot⟩ := h
      exact same ⟨peer.symm, dir.symm, slot.symm⟩
    rw [if_neg same]
    refine (List.find?_cons_of_neg (p := fun q : KeySlot => q.peer == m && q.send == send && q.ix == ix) ne).trans ?_
    rw [List.find?_filter]
    congr 1
    funext q
    by_cases here : (q.peer == m && q.send == send && q.ix == ix) = true
    · have other : (q.peer == k.peer && q.send == k.send && q.ix == k.ix) = false := by
        simp only [Bool.and_eq_true, beq_iff_eq] at here
        obtain ⟨⟨rfl, rfl⟩, rfl⟩ := here
        simpa [and_assoc] using same
      rw [here, other]
      rfl
    · rw [Bool.not_eq_true] at here
      simp [here]

theorem keySlot_updPeer (f : Peer → Peer) (j : BitVec 12) : (s.updPeer j f).keySlot m send ix = s.keySlot m send ix := rfl

/-- The first keys of a peer stand in slot 0 of either direction; no other peer's slot changes. -/
theorem firstKeys_slots : ((s.firstKeys m).keySlot m true false).isSome ∧ ((s.firstKeys m).keySlot m false false).isSome ∧
    (s.firstKeys m).sendIx m = false ∧ ∀ j send ix, j ≠ m → (s.firstKeys m).keySlot j send ix = s.keySlot j send ix := by
  have slots : ∀ j send ix, (s.firstKeys m).keySlot j send ix =
      ((s.loadSlot (s.agreedSlot m true false 0)).loadSlot (s.agreedSlot m false false 0)).keySlot j send ix :=
    fun _ _ _ => rfl
  refine ⟨?_, ?_, ?_, fun j send ix ne => ?_⟩
  · rw [slots, keySlot_loadSlot, keySlot_loadSlot]
    simp [State.agreedSlot]
  · rw [slots, keySlot_loadSlot]
    simp [State.agreedSlot]
  · unfold State.sendIx State.firstKeys
    dsimp only
    rw [List.find?_cons_of_pos (by simp)]
    rfl
  · rw [slots, keySlot_loadSlot, keySlot_loadSlot, if_neg (fun h => ne h.1), if_neg (fun h => ne h.1)]

end Keys

/-! ### Opening a context (R239, R242, R362) -/

section Open

variable {s : State} {r : OpenContextReq}

theorem peerSet_own {n : BitVec 12} : peerSet n.toNat n.toNat = [n] := by
  have one : (List.range 4096).filter (fun m => decide (n.toNat ≤ m) && decide (m ≤ n.toNat)) = [n.toNat] := by
    have same : (fun m => decide (n.toNat ≤ m) && decide (m ≤ n.toNat)) = fun m => m == n.toNat := by
      funext m
      rw [Bool.eq_iff_iff]
      simp
      omega
    rw [same, List.filter_beq, List.count_range, if_pos n.isLt]
    rfl
  rw [peerSet, one, List.map_singleton, BitVec.ofNat_toNat, BitVec.setWidth_eq]

theorem loadImages_none (images : r.images = []) : s.loadImages r = s := by
  have none : requestCells r = [] := by rw [requestCells, images]; rfl
  rw [State.loadImages, none]
  rfl

/-- The keys of the module's own loopback, which an open loads when it is the first to name the module. -/
theorem loadPeer_own : s.loadPeer s.modid = if (s.peer? s.modid).isSome then s else s.firstKeys s.modid := by
  unfold State.loadPeer
  rw [if_pos rfl]

/-- What the own module of a new context adds: keys of its loopback, where there are none. -/
structure OwnPeer (s t : State) : Prop where
  contexts : t.contexts = s.contexts
  mem : t.mem = s.mem
  net : t.net = s.net
  svc : t.svc = s.svc
  keys : s.peer? s.modid = none →
    (t.keySlot s.modid true false).isSome ∧ (t.keySlot s.modid false false).isSome

theorem ownPeer_loadPeer (s : State) : OwnPeer s (s.loadPeer s.modid) := by
  rw [loadPeer_own]
  split
  next known => exact ⟨rfl, rfl, rfl, rfl, fun none => by rw [none] at known; cases known⟩
  · obtain ⟨send, recv, _⟩ := firstKeys_slots s s.modid
    exact ⟨rfl, rfl, rfl, rfl, fun _ => ⟨send, recv⟩⟩

theorem openNow_refused (bad : s.openOk r = false) : openNow s r = s.respond 0x110 stMalformed [] := by
  rw [openNow, bad]
  rfl

theorem openNow_unbound (ok : s.openOk r = true) (unbound : Config.bindSucceeds s.free = false) :
    openNow s r = State.respond { s with free := s.free + 1 } 0x110 stExhausted [] := by
  rw [openNow, ok]
  dsimp only
  rw [unbound]
  rfl

/-- The module with a new context, its tables placed. -/
def entered (s : State) (r : OpenContextReq) : State :=
  { s with
    free := s.free + 1
    contexts := placeTables (s.svc.retiredFrames.map fun f => (f.toNat * 0x10000, 0x10000)) (s.contexts ++ [openedContext r]) }

/-- A context of this module alone, without images, opens at once. -/
theorem openNow_opens (ok : s.openOk r = true) (bound : Config.bindSucceeds s.free = true)
    (lo : r.firstModule.toNat = s.modid.toNat) (hi : r.lastModule.toNat = s.modid.toNat) (images : r.images = [])
    (old : ∀ m ∈ s.net.msgs, m.id < s.net.nextMsg) : openNow s r =
      (((entered s r).loadPeer s.modid).naming (handleOf r.asid)).respond 0x110 stDone [] := by
  obtain ⟨contexts, mem, net, svc, _⟩ := ownPeer_loadPeer (entered s r)
  have peers : (peerSet r.firstModule.toNat r.lastModule.toNat).foldl State.loadPeer (entered s r) =
      (entered s r).loadPeer s.modid := by
    rw [lo, hi, peerSet_own, List.foldl_cons, List.foldl_nil]
  have opened : openNow s r = (((peerSet r.firstModule.toNat r.lastModule.toNat).foldl State.loadPeer
      (entered s r)).loadImages r |>.naming (handleOf r.asid)).respondAfter r.asid
        ((peerSet r.firstModule.toNat r.lastModule.toNat).foldl State.loadPeer (entered s r)).net.nextMsg 0x110 stDone := by
    unfold openNow entered
    simp only [ok, bound, Bool.not_true, Bool.false_eq_true, if_false]
  rw [opened, peers, loadImages_none images]
  have net' : ((entered s r).loadPeer s.modid).net = s.net := net
  refine respondAfter_now _ _ _ fun m mem => ?_
  rw [net']
  exact old m (net' ▸ mem)

end Open

/-! ### Closing a context (R316, R361) -/

section Close

variable {s t : State}

/-- Writes of records where no page is mirrored, which open and close no context. -/
def Retires (s t : State) : Prop := Wrote s t ∧ t.contexts.map (·.asid) = s.contexts.map (·.asid)

theorem Retires.trans {u : State} (h : Retires s t) (h' : Retires t u) : Retires s u :=
  ⟨h.1.trans h'.1, h'.2.trans h.2⟩

theorem retires_store (h : Unmirrored s) (l : List (Nat × Byte)) : Retires s (s.store l) := by
  refine ⟨wrote_store h l, ?_⟩
  rw [store_of_unmirrored h]
  exact List.map_map.trans (List.map_congr_left fun x _ => rfl)

theorem retires_setField (h : Unmirrored s) (a : BitVec 16) (v n x : Nat) : Retires s (s.setField a v n x) := by
  refine ⟨wrote_setField h a v n x, ?_⟩
  unfold State.setField State.writeVa
  split
  · unfold State.writeOrHold
    dsimp only
    have now : ∀ l : List (Nat × Byte), (if l.isEmpty then s else s.store l).contexts.map (·.asid) =
        s.contexts.map (·.asid) := fun l => by
      split
      · rfl
      · exact (retires_store h l).2
    split
    · exact now _
    · exact now _
  · rfl

theorem retires_retireQueued (h : Unmirrored s) (a : BitVec 16) (rec : VAddr) : Retires s (s.retireQueued a rec) := by
  have first : Retires s (s.setTaskState a rec 7) := retires_setField h ..
  exact first.trans (retires_setField first.1.unmirrored ..)

theorem retires_foldl {β : Type} (rec : β → VAddr) (a : BitVec 16) (l : List β) (h : Unmirrored s) :
    Retires s (l.foldl (fun (s : State) b => s.retireQueued a (rec b)) s) := by
  induction l generalizing s with
  | nil => exact ⟨.refl h, rfl⟩
  | cons b l ih =>
    have first := retires_retireQueued h a (rec b)
    exact first.trans (ih first.1.unmirrored)

/-- A context's tasks and queues are gone, and its transition is abandoned: what a close does before it looks whether a
task still runs. -/
def dismissed (s : State) (x : Context) : State :=
  let s := if x.tip then s.updContext x.asid Context.abandon else s
  ((s.dropTasks x.asid).closeQueues x.asid).pumpAll

/-- What a dismissal leaves of the module. -/
structure Dismissed (s : State) (a : BitVec 16) (t : State) : Prop where
  core : t.core = s.core
  parked : t.parked = s.parked
  svc : t.svc = s.svc
  asids : t.contexts.map (·.asid) = s.contexts.map (·.asid)
  images : t.sched.images = s.sched.images.filter fun m => m.handover || m.core.asid != a

/-- An abandoned transition mirrors no page. -/
theorem abandoned_spec (unmirrored : Unmirrored s) (x : Context) (u : State)
    (out : u = if x.tip then s.updContext x.asid Context.abandon else s) : Unmirrored u ∧
      ∃ contexts, u = { s with contexts } ∧ contexts.map (·.asid) = s.contexts.map (·.asid) := by
  rw [out]
  split
  · refine ⟨fun y mem => ?_, _, rfl, ?_⟩
    · obtain ⟨z, mem', rfl⟩ := List.mem_map.mp mem
      split
      · have := unmirrored z mem'
        simp only [Context.mirrored, List.append_eq_nil_iff] at this ⊢
        exact ⟨rfl, this.2⟩
      · exact unmirrored z mem'
    · refine List.map_map.trans (List.map_congr_left fun y _ => ?_)
      simp only [Function.comp_apply]
      split <;> rfl
  · exact ⟨unmirrored, s.contexts, rfl, rfl⟩

/-- The scheduler without the tasks of a context. -/
def without (c : Sched) (a : BitVec 16) : Sched :=
  { c with
    pools := c.pools.map fun l => l.filter fun e => e.asid != a
    chains := c.chains.map fun l => l.filter fun e => e.asid != a
    waiting := c.waiting.filter fun w => w.1 != a
    images := c.images.filter fun m => m.handover || m.core.asid != a }

/-- The dropped tasks leave their records failed, and the scheduler. -/
theorem dropTasks_spec (unmirrored : Unmirrored s) (a : BitVec 16) : ∃ w, Retires s w ∧
    s.dropTasks a = { w with sched := without w.sched a } := by
  have first := retires_foldl PoolEntry.recVa a ((s.sched.pools.toList ++ s.sched.chains.toList).flatMap fun l =>
    l.filter fun e => e.asid == a) unmirrored
  exact ⟨_, first.trans (retires_foldl (fun p => p.2.1) a (s.sched.waiting.filter fun w => w.1 == a)
    first.1.unmirrored), by simp only [State.dropTasks, without]⟩

theorem dismissed_spec (unmirrored : Unmirrored s) (running : s.core.running = []) (parked : s.parked = [])
    (x : Context) : Dismissed s x.asid (dismissed s x) := by
  unfold dismissed
  extract_lets u
  obtain ⟨unmirrored', contexts, eq, asids⟩ := abandoned_spec unmirrored x u rfl
  obtain ⟨w, ⟨wrote, asids'⟩, eq'⟩ := dropTasks_spec unmirrored' x.asid
  obtain ⟨mem, poisoned, held, contexts', eq''⟩ := wrote.state
  have out : (u.dropTasks x.asid).closeQueues x.asid = State.closeQueues { s with
      mem, poisoned, held, contexts := contexts', sched := without s.sched x.asid } x.asid := by
    rw [eq', eq'', eq]
  have named : contexts'.map (·.asid) = s.contexts.map (·.asid) := by
    rw [eq''] at asids'
    rw [eq] at asids'
    exact asids'.trans asids
  rw [out]
  have idle : (State.closeQueues { s with
      mem, poisoned, held, contexts := contexts', sched := without s.sched x.asid } x.asid).pumpAll =
        State.closeQueues { s with
          mem, poisoned, held, contexts := contexts', sched := without s.sched x.asid } x.asid :=
    CouchProofs.pumpAll_idle running parked
  rw [idle]
  exact ⟨rfl, rfl, rfl, named, rfl⟩

section

variable {x : Context} (unmirrored : Unmirrored s) (running : s.core.running = []) (parked : s.parked = [])
include unmirrored running parked

theorem contextRuns_dismissed : (dismissed s x).contextRuns x.asid = s.contextRuns x.asid := by
  obtain ⟨core, parked', -, -, -⟩ := dismissed_spec unmirrored running parked x
  rw [State.contextRuns, core, parked']
  rfl

/-- A context of which nothing runs is forgotten. -/
theorem closeNow_done (free : s.contextRuns x.asid = false) (images : ∀ m ∈ s.sched.images, m.core.asid ≠ x.asid) :
    closeNow s x = ((dismissed s x).forget x).respond 0x111 stDone [] := by
  have spec := dismissed_spec unmirrored running parked x
  have none : ((dismissed s x).sched.images.any fun m => m.core.asid == x.asid) = false := by
    rw [spec.images, List.any_eq_false]
    intro m mem
    simpa using images m (List.mem_of_mem_filter mem)
  have idle := contextRuns_dismissed unmirrored running parked (x := x)
  rw [free] at idle
  show (if (dismissed s x).contextRuns x.asid || (dismissed s x).sched.images.any (fun m => m.core.asid == x.asid) then
    _ else _) = _
  rw [idle, none]
  rfl

/-- A context of which a task runs stays open. -/
theorem closeNow_busy (runs : s.contextRuns x.asid = true) :
    closeNow s x = (dismissed s x).respond 0x111 stBusy [] := by
  have busy := contextRuns_dismissed unmirrored running parked (x := x)
  rw [runs] at busy
  show (if (dismissed s x).contextRuns x.asid || (dismissed s x).sched.images.any (fun m => m.core.asid == x.asid) then
    _ else _) = _
  rw [busy]
  rfl

end

/-- An address space is open that a context has. -/
theorem context?_isSome (s : State) (a : BitVec 16) : (s.context? a).isSome = decide (a ∈ s.contexts.map (·.asid)) := by
  apply Bool.eq_iff_iff.mpr
  simp [State.context?]

end Close

/-! ### Code objects (R62) -/

section Code

variable {s : State} {r : LoadCodeReq}

theorem loadCode_malformed (bad : objectOk r.object = false) : loadCode s r = s.respond 0x112 stMalformed [] := by
  rw [loadCode, bad]
  exact if_pos (by simp)

variable {x : Context} (aligned : r.va.toNat % 64 = 0) (low : r.va.toNat < 2 ^ 56) (known : s.context? r.asid = some x)
  (ok : objectOk r.object = true)
include aligned low known ok

theorem wellFormed_code : ((s.context? r.asid).isNone || r.va.toNat % 64 != 0 || decide (2 ^ 56 ≤ r.va.toNat) ||
    !(objectOk r.object)) = false := by
  rw [known, aligned, ok, decide_eq_false (not_le.mpr low)]
  rfl

theorem loadCode_unverified (wrong : (shake256 (r.object.drop 64)).take 32 ≠ (r.object.drop 24).take 32) :
    loadCode s r = s.respond 0x112 stUnverified [] := by
  rw [loadCode, wellFormed_code aligned low known ok, if_neg Bool.false_ne_true, if_pos wrong]

variable (right : (shake256 (r.object.drop 64)).take 32 = (r.object.drop 24).take 32) {cells : List (Loc × Byte)}
  (placed : s.serviceCells r.asid r.va.toNat r.object = some cells)
include right placed

theorem loadCode_outside (outside : s.outsidePeers r.asid cells = true) :
    loadCode s r = s.respond 0x112 stNotPermitted [] := by
  rw [loadCode, wellFormed_code aligned low known ok, if_neg Bool.false_ne_true, if_neg (not_not.mpr right), placed]
  exact if_pos outside

theorem loadCode_placed (inside : s.outsidePeers r.asid cells = false) : loadCode s r =
    ((s.place r.asid cells).updContext r.asid fun x => { x with
      codes := ⟨r.va.setWidth 56, r.object⟩ :: x.codes.filter fun c => c.va != r.va.setWidth 56 }).respondAfter r.asid
        s.net.nextMsg 0x112 stDone := by
  rw [loadCode, wellFormed_code aligned low known ok, if_neg Bool.false_ne_true, if_neg (not_not.mpr right), placed]
  exact if_neg (by rw [inside]; exact Bool.false_ne_true)

end Code

/-- Bytes of a place that nothing holds, of a module without mirrored pages, are written at once. -/
theorem writeOrHold_unheld {s : State} (unmirrored : Unmirrored s) (unheld : ∀ l, s.placeHeld l = false)
    (l : List (Nat × Byte)) : ∃ poisoned contexts, s.writeOrHold l = { s with
      mem := Sparse.setAll 0 s.mem l, poisoned, contexts } ∧ (contexts = s.contexts ∨ contexts = s.contexts.map (markDirty · l)) := by
  have all : l.filter (fun c => !(s.placeHeld (.phys (8 * c.1)))) = l := by simp [unheld]
  have none : l.filter (fun c => s.placeHeld (.phys (8 * c.1))) = [] := by simp [unheld]
  unfold State.writeOrHold
  dsimp only
  rw [all, none, List.isEmpty_nil, if_pos rfl]
  split
  next empty =>
    rw [List.isEmpty_iff.mp empty]
    exact ⟨_, _, rfl, .inl rfl⟩
  · rw [store_of_unmirrored unmirrored]
    exact ⟨_, _, rfl, .inr rfl⟩

/-- Bytes that all stand on this module are written here alone. -/
theorem place_here {s : State} (asid : BitVec 16) {cells : List (Loc × Byte)} (here : ∀ c ∈ cells, ∃ b, c.1 = .phys b) :
    s.place asid cells = s.writeOrHold (localCells cells) ∧ s.outsidePeers asid cells = false := by
  constructor
  · unfold State.place
    extract_lets mods
    have none : mods = [] := by
      refine congrArg List.dedup (List.filterMap_eq_nil_iff.mpr fun c mem => ?_)
      obtain ⟨b, place⟩ := here c mem
      rw [place]
    rw [none]
    rfl
  · refine List.any_eq_false.mpr fun c mem => ?_
    obtain ⟨b, place⟩ := here c mem
    rw [place]
    exact Bool.false_ne_true

/-! ### The events -/

section Asked

variable {s : State} (deployed : s.svc.life = .deployed) (awake : s.svc.holdReset = false) (waits : NothingWaits s)
include deployed awake waits

theorem exec_openContext {r : OpenContextReq} (occ : s.occ = .openReq r) : exec .openContext s = .next (openNow s r) := by
  show execOpenContext s = _
  unfold execOpenContext
  rw [request_up _ _ deployed awake waits (by simp [occ]) (by simp [occ]), occ]
  rfl

theorem exec_closeContext {asid : BitVec 16} (occ : s.occ = .context asid) : exec .closeContext s =
    .next (((s.context? asid).map (closeNow s)).getD (s.respond 0x111 stMalformed [])) := by
  show execCloseContext s = _
  unfold execCloseContext
  rw [request_up _ _ deployed awake waits (by simp [occ]) (by simp [occ]), occ]
  dsimp only
  cases s.context? asid <;> rfl

theorem exec_loadCodeObject {r : LoadCodeReq} (occ : s.occ = .codeReq r) :
    exec .loadCodeObject s = .next (loadCode s r) := by
  show execLoadCodeObject s = _
  unfold execLoadCodeObject
  rw [request_up _ _ deployed awake waits (by simp [occ]) (by simp [occ]), occ]
  rfl

theorem exec_loadRuleTableEntries {l : List (BitVec 6 × RuleEntry)} (occ : s.occ = .rules l) :
    exec .loadRuleTableEntries s = .next (loadRules s l) := by
  show execLoadRuleTableEntries s = _
  unfold execLoadRuleTableEntries
  rw [request_up _ _ deployed awake waits (by simp [occ]) (by simp [occ]), occ]
  rfl

theorem exec_createAndMapQueue {r : CreateQueueReq} (occ : s.occ = .queueReq r) :
    exec .createAndMapQueue s = .next (createQueue s r) := by
  show execCreateAndMapQueue s = _
  unfold execCreateAndMapQueue
  rw [request_up _ _ deployed awake waits (by simp [occ]) (by simp [occ]), occ]
  rfl

theorem exec_keyExchange {rotate : Bool} {l : List (BitVec 12)} (occ : s.occ = .keyReq rotate l) :
    exec .keyExchange s = .next (exchangeKeys s rotate l) := by
  show execKeyExchange s = _
  unfold execKeyExchange
  rw [occ]
  dsimp only
  rw [request_up _ _ deployed awake waits (by simp [occ]) (by simp [occ]), occ]
  rfl

theorem exec_loadParameterRecords {asid : BitVec 16} {l : List LoadRecordReq} (occ : s.occ = .records asid l) :
    exec .loadParameterRecords s = .next (loadRecords s asid l) := by
  show execLoadParameterRecords s = _
  unfold execLoadParameterRecords
  rw [request_up _ _ deployed awake waits (by simp [occ]) (by simp [occ]), occ]
  rfl

end Asked

theorem exec_keyExchange_peer {s : State} {m : BitVec 12} (occ : s.occ = .peer m) :
    exec .keyExchange s = .next (s.rotateOn m) := by
  show execKeyExchange s = _
  unfold execKeyExchange
  rw [occ]
  rfl

/-! ### Rules, queues, keys, records -/

section Rules

variable {s : State} {i : BitVec 6} {e : RuleEntry}

theorem loadRules_bad (bad : ruleOk e = false) : loadRules s [(i, e)] = s.respond 0x113 stMalformed [] := by
  rw [loadRules, List.all_cons, bad]
  rfl

theorem loadRules_one (ok : ruleOk e = true) (recs : s.pan.recs = []) : loadRules s [(i, e)] =
    State.respond { s with pan := { s.pan with rules := s.pan.rules.set i.toNat e i.isLt } } 0x113 stDone [] := by
  rw [loadRules, List.all_cons, ok, List.all_nil]
  dsimp only
  rw [recs]
  rfl

end Rules

section Queues

variable {s : State} {r : CreateQueueReq}

theorem createQueue_bad (bad : queueReqOk r = false) : createQueue s r = s.respond 0x114 stMalformed [] := by
  rw [createQueue, bad]
  exact if_pos (by simp)

/-- The module with a new queue. -/
def withQueue (s : State) (r : CreateQueueReq) (qid : BitVec 14) (die : BitVec 2) : State :=
  { s with
    free := s.free + 1
    svc := { s.svc with spare := s.svc.spare + 2 }
    sched := { s.sched with queues := s.sched.queues ++ [newQueue r qid die
      ((Config.reservedFrame s.svc.spare).toNat * 0x10000) ((Config.reservedFrame (s.svc.spare + 1)).toNat * 0x10000)] } }

theorem createQueue_made {qid : BitVec 14} {die : BitVec 2} (known : (s.context? r.asid).isSome) (ok : queueReqOk r = true)
    (number : s.freeQid = some qid) (place : s.queueDie r.die = some die) : createQueue s r =
      (withQueue s r qid die).respond 0x114 stDone (bytesOfNat 2 qid.toNat ++ bytesOfNat 1 die.toNat ++ bytesOfNat 5 0 ++
        bytesOfNat 8 ((Config.reservedFrame (s.svc.spare + 1)).toNat * 0x10000)) := by
  have fine : ((s.context? r.asid).isNone || !(queueReqOk r)) = false := by
    obtain ⟨x, open'⟩ := Option.isSome_iff_exists.mp known
    rw [ok, open']
    rfl
  unfold createQueue
  rw [fine, number, place]
  rfl

end Queues

section Records

variable {s : State} {asid : BitVec 16} {e : LoadRecordReq}

theorem loadRecords_bad (bad : s.recordOk asid [e] e = false) : loadRecords s asid [e] = s.respond 0x117 stMalformed [] := by
  rw [loadRecords, List.all_cons, bad]
  exact if_pos (by simp)

/-- The cell a request loads, known to the pan units. -/
def withCell (s : State) (asid : BitVec 16) (e : LoadRecordReq) (pa : Nat) : State :=
  { s with pan := { s.pan with
      recs := ⟨pa, asid, e.va, true, none, 0, false, false, [], []⟩ :: s.pan.recs.filter fun q => q.pa != pa
      firing := s.pan.firing.filter fun q => q != pa } }

theorem recAt_withCell (s : State) (asid : BitVec 16) (e : LoadRecordReq) (pa : Nat) :
    (withCell s asid e pa).recAt pa = some ⟨pa, asid, e.va, true, none, 0, false, false, [], []⟩ :=
  List.find?_cons_of_pos (p := fun r : RecInfo => r.pa == pa) (beq_self_eq_true pa)

theorem loadRecords_cell {pa : Nat} (known : (s.context? asid).isSome) (ok : s.recordOk asid [e] e = true)
    (cell : e.kind = 1) (place : s.recordPlace asid e.va.toNat 64 64 = some pa) : loadRecords s asid [e] =
      (withCell (s.writeOrHold (cellCells pa e)) asid e pa).respond 0x117 stDone [] := by
  have fine : ((s.context? asid).isNone || !([e].all (s.recordOk asid [e]))) = false := by
    obtain ⟨x, open'⟩ := Option.isSome_iff_exists.mp known
    rw [List.all_cons, ok, open']
    rfl
  have loaded : s.loadRecord asid e = withCell (s.writeOrHold (cellCells pa e)) asid e pa := by
    unfold State.loadRecord
    rw [cell]
    simp only [beq_self_eq_true, if_true]
    rw [place]
    rfl
  unfold loadRecords
  rw [fine, if_neg Bool.false_ne_true, List.foldl_cons, List.foldl_nil, loaded]

end Records

section Keys

variable {s : State} {p : Peer} (one : s.fab.peers = [p])
include one

theorem peer?_one : s.peer? p.id = some p := by
  rw [State.peer?, one, List.find?_cons_of_pos (by simp)]

theorem updPeer_one (f : Peer → Peer) : s.updPeer p.id f = { s with fab := { s.fab with peers := [f p] } } := by
  rw [State.updPeer, one, List.map_singleton, if_pos rfl]

theorem peers_updPeer (f : Peer → Peer) : (s.updPeer p.id f).fab.peers = [f p] := by
  rw [updPeer_one one]

theorem sendIx_updPeer {f : Peer → Peer} (keeps : (f p).id = p.id) : (s.updPeer p.id f).sendIx p.id = (f p).sendIx := by
  rw [State.sendIx, peers_updPeer one, List.find?_cons_of_pos (by simp [keeps])]
  rfl

theorem sendIx_one : s.sendIx p.id = p.sendIx := by
  rw [State.sendIx, one, List.find?_cons_of_pos (by simp)]
  rfl

theorem rotateKeys_one : s.rotateKeys p.id = (s.loadSlot (s.agreedSlot p.id false (!p.recvIx) (p.rotations + 1))).updPeer p.id
    fun p => { p with recvIx := !p.recvIx, seen := [], lastOld := s.ptb, rotating := 1 } := by
  rw [State.rotateKeys, peer?_one one]

theorem rotateOn_first (first : p.rotating = 1) : s.rotateOn p.id =
    (s.loadSlot (s.agreedSlot p.id true (!p.sendIx) (p.rotations + 1))).updPeer p.id fun p => { p with rotating := 2 } := by
  rw [State.rotateOn, peer?_one one]
  dsimp only
  rw [first]
  rfl

/-- The last step of the one rotation answers the request. -/
theorem rotateOn_last (second : p.rotating = 2) : s.rotateOn p.id = ((s.updPeer p.id fun p => { p with
    sendIx := !p.sendIx, rotations := p.rotations + 1, rotating := 0 }).serving s.svc.rotation).respond 0x115 stDone [] := by
  have done : ((s.updPeer p.id fun p => { p with
      sendIx := !p.sendIx, rotations := p.rotations + 1, rotating := 0 }).fab.peers.any fun p => p.rotating != 0) = false := by
    rw [updPeer_one one]
    rfl
  rw [State.rotateOn, peer?_one one]
  dsimp only
  rw [second]
  exact if_neg (by rw [done]; exact Bool.false_ne_true)

/-- A rotation begins where none is under way and no old slot is held. -/
theorem exchangeKeys_rotates (rest : p.rotating = 0) (free : s.keySlot p.id false (!p.recvIx) = none) :
    exchangeKeys s true [p.id] = State.rotateKeys { s with svc := { s.svc with rotation := s.svc.asker } } p.id := by
  have known : ([p.id].any fun m => (s.peer? m).isNone) = false := by
    rw [List.any_cons, peer?_one one]
    rfl
  have held : s.slotHeld p.id = false := by
    rw [State.slotHeld, peer?_one one]
    exact congrArg Option.isSome free
  have idle : ((s.fab.peers.any fun p => p.rotating != 0) || [p.id].any s.slotHeld) = false := by
    rw [one, List.any_cons, List.any_cons, held, rest]
    rfl
  unfold exchangeKeys
  rw [known, idle]
  rfl

end Keys

/-- Settles O52: each request that nothing makes wait is answered, with what it asks for done. -/
theorem serviceRequests : Obligations.ServiceRequests := by
  intro s deployed awake waits old status bad unmirrored unheld
  have answered : ∀ (v : Service) {code st : BitVec 16} (ctx : BitVec 32), v.responses = s.svc.responses →
      v.asker.tag = s.svc.asker.tag → ∃ a : HostResp, v.responses ++ [⟨code, st, v.asker.tag, ctx, []⟩] =
        s.svc.responses ++ [a] ∧ a.code = code ∧ a.status = st ∧ a.rtag = s.svc.asker.tag := fun v _ _ ctx list tag => by
    rw [list, tag]
    exact ⟨_, rfl, rfl, rfl, rfl⟩
  refine ⟨?_, ?_, ?_, ?_, ?_, ?_, ?_, ?_, ?_⟩
  · intro l h occ header
    refine ⟨fun unknown => ⟨_, congrArg event (request_unknown awake occ header 0x110 _ (fun e => unknown (by rw [e]; decide))
      unknown), rfl, rfl, rfl⟩, fun is misfit => ⟨_, congrArg event (request_misfit awake occ header 0x111 _ deployed waits is
        misfit), rfl, rfl, rfl⟩⟩
  · intro r occ
    have run := exec_openContext deployed awake waits occ
    refine ⟨fun ok lo hi images => ?_, fun no => run.trans (congrArg _ (openNow_refused no))⟩
    cases bound : Config.bindSucceeds s.free with
    | false =>
      refine ⟨_, run.trans (congrArg _ (openNow_unbound ok bound)), rfl, ?_⟩
      rw [if_neg Bool.false_ne_true]
      exact ⟨⟨_, rfl, rfl, rfl, rfl⟩, rfl⟩
    | true =>
      have out := run.trans (congrArg _ (openNow_opens ok bound lo hi images old))
      have peer : OwnPeer (entered s r) ((entered s r).loadPeer s.modid) := ownPeer_loadPeer (entered s r)
      generalize (entered s r).loadPeer s.modid = u at out peer
      obtain ⟨contexts, mem, net, svc, keys⟩ := peer
      obtain ⟨ys, used, placed, others⟩ := placeTables_last
        (s.svc.retiredFrames.map fun f => (f.toNat * 0x10000, 0x10000)) s.contexts (openedContext r)
      refine ⟨_, out, mem, ?_⟩
      rw [if_pos rfl]
      exact ⟨answered (u.naming (handleOf r.asid)).svc _ (congrArg Service.responses svc :)
        (congrArg (fun v : Service => v.asker.tag) svc :), ⟨ys, _, contexts.trans placed, others, rfl, rfl, rfl, rfl, rfl, rfl, rfl,
        place_aligned _ used⟩, keys⟩
  · intro asid x occ unmirrored running queue parked
    have run := exec_closeContext deployed awake waits occ
    refine ⟨fun known free images => ?_, fun known runs => ?_, fun none => ?_⟩
    · rw [known] at run
      have own := PhaseProofs.asid_of_context known
      subst own
      have out := run.trans (congrArg _ (closeNow_done unmirrored running parked free images))
      obtain ⟨-, -, svc, -, -⟩ := dismissed_spec unmirrored running parked x
      generalize dismissed s x = u at out svc
      refine ⟨_, out, answered (u.forget x).svc _ (congrArg Service.responses svc :)
        (congrArg (fun v : Service => v.asker.tag) svc :), ?_, ?_, ?_, ?_⟩
      · exact List.find?_eq_none.mpr fun y mem => by simpa using (List.mem_filter.mp mem).2
      · exact fun q mem => by simpa using (List.mem_filter.mp mem).2
      · exact fun q mem => by simpa using (List.mem_filter.mp mem).2
      · exact fun q mem => by simpa using (List.mem_filter.mp mem).2
    · rw [known] at run
      have own := PhaseProofs.asid_of_context known
      subst own
      have out := run.trans (congrArg _ (closeNow_busy unmirrored running parked runs))
      obtain ⟨-, -, svc, asids, -⟩ := dismissed_spec unmirrored running parked x
      generalize dismissed s x = u at out svc asids
      have still := context?_isSome u x.asid
      rw [asids, ← context?_isSome, known] at still
      exact ⟨_, out, answered u.svc _ (congrArg Service.responses svc :) (congrArg (fun v : Service => v.asker.tag) svc :), still⟩
    · rw [none] at run
      exact run
  · intro r x cells occ aligned low known
    have run := exec_loadCodeObject deployed awake waits occ
    refine ⟨fun ok wrong => run.trans (congrArg _ (loadCode_unverified aligned low known ok wrong)), fun ok right placed =>
      ⟨fun outside => run.trans (congrArg _ (loadCode_outside aligned low known ok right placed outside)),
        fun unmirrored unheld here => ?_⟩, fun no => run.trans (congrArg _ (loadCode_malformed no))⟩
    obtain ⟨put, inside⟩ := place_here (s := s) r.asid here
    obtain ⟨poisoned, contexts, written, marked⟩ := writeOrHold_unheld unmirrored unheld (localCells cells)
    obtain ⟨y, known', maps, cur⟩ : ∃ y, State.context? { s with contexts } r.asid = some y ∧ y.maps = x.maps ∧
        y.cur = x.cur := by
      rcases marked with rfl | rfl
      · exact ⟨x, known, rfl, rfl⟩
      · refine ⟨markDirty x (localCells cells), ?_, rfl, rfl⟩
        rw [State.context?, List.find?_map]
        exact congrArg (Option.map _) known
    have out := loadCode_placed aligned low known ok right placed inside
    rw [put, written] at out
    exact ⟨_, _, run.trans (congrArg _ (out.trans (respondAfter_now r.asid 0x112 stDone old))), ⟨_, rfl, rfl, rfl, rfl⟩, rfl,
      BarrierProofs.context?_updContext (s := { s with contexts }) known' (fun _ => rfl), List.mem_cons_self, maps, cur⟩
  · intro i e occ
    have run := exec_loadRuleTableEntries deployed awake waits occ
    refine ⟨fun ok recs => ⟨_, run.trans (congrArg _ (loadRules_one ok recs)), ⟨_, rfl, rfl, rfl, rfl⟩, rfl, fun j => ?_⟩,
      fun no => run.trans (congrArg _ (loadRules_bad no))⟩
    show (s.pan.rules.set i.toNat e i.isLt)[j.toNat] = _
    rw [Vector.getElem_set]
    simp only [BitVec.toNat_inj, eq_comm]
  · intro r qid die occ
    have run := exec_createAndMapQueue deployed awake waits occ
    refine ⟨fun known ok number place => ?_, fun no => run.trans (congrArg _ (createQueue_bad no))⟩
    exact ⟨_, _, run.trans (congrArg _ (createQueue_made known ok number place)), ⟨_, rfl, rfl, rfl, rfl⟩, rfl, rfl, rfl, rfl, rfl,
      rfl, rfl, rfl, rfl, rfl, rfl⟩
  · intro m occ
    obtain ⟨send, recv, index, others⟩ := firstKeys_slots s m
    exact ⟨_, exec_keyExchange deployed awake waits occ, ⟨_, rfl, rfl, rfl, rfl⟩, send, recv, index, fun j send ix ne =>
      others j send ix ne, rfl⟩
  · intro p one
    refine ⟨fun occ rest free => ?_, fun occ first => ?_, fun occ second => ?_⟩
    · have run := (exec_keyExchange deployed awake waits occ).trans (congrArg _ (exchangeKeys_rotates one rest free))
      rw [rotateKeys_one (s := { s with svc := { s.svc with rotation := s.svc.asker } }) one] at run
      refine ⟨_, run, rfl, sendIx_updPeer (s := State.loadSlot { s with svc := { s.svc with rotation := s.svc.asker } } _)
        one rfl, ?_, ?_⟩
      · rw [keySlot_updPeer, keySlot_loadSlot, if_pos ⟨rfl, rfl, rfl⟩]
        rfl
      · rw [keySlot_updPeer, keySlot_loadSlot, if_neg fun h => by simp [State.agreedSlot] at h]
        rfl
    · have run := (exec_keyExchange_peer occ).trans (congrArg _ (rotateOn_first one first))
      refine ⟨_, run, rfl, ?_, sendIx_updPeer (s := s.loadSlot _) one rfl⟩
      rw [keySlot_updPeer, keySlot_loadSlot, if_pos ⟨rfl, rfl, rfl⟩]
      rfl
    · have run := (exec_keyExchange_peer occ).trans (congrArg _ (rotateOn_last one second))
      refine ⟨_, run, ?_, rfl, rfl⟩
      exact sendIx_updPeer one rfl
  · intro asid e pa occ
    have run := exec_loadParameterRecords deployed awake waits occ
    refine ⟨fun known ok cell unmirrored unheld place => ?_, fun no => run.trans (congrArg _ (loadRecords_bad no))⟩
    obtain ⟨poisoned, contexts, written, -⟩ := writeOrHold_unheld unmirrored unheld (cellCells pa e)
    have out := run.trans (congrArg _ (loadRecords_cell known ok cell place))
    have svc : (s.writeOrHold (cellCells pa e)).svc = s.svc := by rw [written]
    have mem : (s.writeOrHold (cellCells pa e)).mem = Sparse.setAll 0 s.mem (cellCells pa e) := by rw [written]
    generalize s.writeOrHold (cellCells pa e) = u at out svc mem
    exact ⟨_, _, out, answered (withCell u asid e pa).svc _ (congrArg Service.responses svc :)
      (congrArg (fun v : Service => v.asker.tag) svc :), recAt_withCell u asid e pa, rfl, rfl, rfl, mem⟩

end Sys2Proof.RequestProofs
end

section
/-! PROOFS. Rounding (R47 to R50): the integer an exact value rounds to, and the code a value of a format has. -/

namespace Sys2Proof.RoundingProofs

open Sys2Proof Sys2Proof.Machine Sys2Proof.Claim

/-! ### Powers of two -/

-- Memory is bounded and each thread holds some: what stands before is checked before more is begun.
set_option Elab.async false in
theorem pow2_eq_zpow (e : Int) : pow2 e = (2 : ℚ) ^ e := by
  unfold pow2
  split
  case isTrue nonneg =>
    obtain ⟨n, rfl⟩ := Int.eq_ofNat_of_zero_le nonneg
    simp
  case isFalse neg =>
    obtain ⟨n, hn⟩ := Int.eq_ofNat_of_zero_le (show 0 ≤ -e by omega)
    obtain rfl : e = -(n : Int) := by omega
    simp

theorem pow2_pos (e : Int) : 0 < pow2 e := by
  rw [pow2_eq_zpow]
  positivity

theorem pow2_add (d e : Int) : pow2 (d + e) = pow2 d * pow2 e := by
  simp only [pow2_eq_zpow]
  exact zpow_add₀ two_ne_zero ..

theorem pow2_natCast (n : Nat) : pow2 n = 2 ^ n := by simp [pow2]

theorem pow2_le {d e : Int} (h : d ≤ e) : pow2 d ≤ pow2 e := by
  simp only [pow2_eq_zpow]
  exact zpow_le_zpow_right₀ one_le_two h

/-- The exponent of a positive value: the greatest power of two that it reaches. -/
theorem log2Floor_spec {q : ℚ} (h : 0 < q) : pow2 (log2Floor q) ≤ q ∧ q < pow2 (log2Floor q + 1) := by
  have num : 0 < q.num := Rat.num_pos.mpr h
  set a := Nat.log2 q.num.natAbs with ha
  set b := Nat.log2 q.den with hb
  have num_bounds : 2 ^ a ≤ q.num.natAbs ∧ q.num.natAbs < 2 ^ (a + 1) :=
    ⟨Nat.log2_self_le (by omega), Nat.lt_log2_self⟩
  have den_bounds : 2 ^ b ≤ q.den ∧ q.den < 2 ^ (b + 1) := ⟨Nat.log2_self_le q.den_nz, Nat.lt_log2_self⟩
  have value : q * q.den = (q.num.natAbs : ℚ) := by
    rw [Rat.mul_den_eq_num, ← Int.cast_natCast, Int.natCast_natAbs, abs_of_pos num]
  have den : (0 : ℚ) < q.den := by exact_mod_cast q.den_pos
  have low : pow2 (a - b - 1) ≤ q := by
    have : pow2 (a - b - 1) * pow2 (b + 1) ≤ q * q.den := by
      rw [← pow2_add, show (a : Int) - b - 1 + (b + 1) = a by ring, pow2_natCast, value]
      exact_mod_cast num_bounds.1
    have den_le : (q.den : ℚ) ≤ pow2 (b + 1) := by
      rw [show ((b : Int) + 1) = ((b + 1 : Nat) : Int) by push_cast; rfl, pow2_natCast]
      exact_mod_cast den_bounds.2.le
    exact le_of_mul_le_mul_right (this.trans (mul_le_mul_of_nonneg_left den_le h.le)) (pow2_pos _)
  have high : q < pow2 (a - b + 1) := by
    have : q * q.den < pow2 (a - b + 1) * pow2 b := by
      rw [← pow2_add, show (a : Int) - b + 1 + b = ((a + 1 : Nat) : Int) by push_cast; ring, pow2_natCast, value]
      exact_mod_cast num_bounds.2
    have den_le : pow2 b ≤ (q.den : ℚ) := by
      rw [pow2_natCast]
      exact_mod_cast den_bounds.1
    exact lt_of_mul_lt_mul_right ((mul_le_mul_of_nonneg_left den_le h.le).trans_lt this) (pow2_pos _).le
  unfold log2Floor
  dsimp only
  split
  case isTrue below => exact ⟨low, by rw [Int.sub_add_cancel]; exact below⟩
  case isFalse above => exact ⟨not_lt.mp above, high⟩

/-! ### Rounding to an integer (R47) -/

/-- The whole part of a value that is not negative, and what is left of it. -/
theorem whole_part {q : ℚ} (h : 0 ≤ q) : q = (q.num.natAbs / q.den : Nat) + ((q.num.natAbs % q.den : Nat) : ℚ) / q.den := by
  have den : (q.den : ℚ) ≠ 0 := by exact_mod_cast q.den_nz
  have value : q * q.den = (q.num.natAbs : ℚ) := by
    rw [Rat.mul_den_eq_num, ← Int.cast_natCast, Int.natCast_natAbs, abs_of_nonneg (Rat.num_nonneg.mpr h)]
  have whole : ((q.den * (q.num.natAbs / q.den) + q.num.natAbs % q.den : Nat) : ℚ) = q.num.natAbs :=
    congrArg _ (Nat.div_add_mod ..)
  push_cast at whole
  field_simp
  linarith

/-- How far a value stands above its whole part. -/
def restOf (q : ℚ) : ℚ := ((q.num.natAbs % q.den : Nat) : ℚ) / q.den

theorem restOf_bounds (q : ℚ) : 0 ≤ restOf q ∧ restOf q < 1 := by
  have den : (0 : ℚ) < q.den := by exact_mod_cast q.den_pos
  have less : ((q.num.natAbs % q.den : Nat) : ℚ) < q.den := by exact_mod_cast Nat.mod_lt _ q.den_pos
  exact ⟨by unfold restOf; positivity, (div_lt_one den).mpr less⟩

theorem restOf_eq_zero {q : ℚ} : restOf q = 0 ↔ q.num.natAbs % q.den = 0 := by
  have den : (q.den : ℚ) ≠ 0 := by exact_mod_cast q.den_nz
  rw [restOf, div_eq_zero_iff, or_iff_left den, Nat.cast_eq_zero]

theorem restOf_lt_half {q : ℚ} : restOf q < 1 / 2 ↔ 2 * (q.num.natAbs % q.den) < q.den := by
  have den : (0 : ℚ) < q.den := by exact_mod_cast q.den_pos
  rw [restOf, div_lt_iff₀ den, ← @Nat.cast_lt ℚ]
  push_cast
  constructor <;> intro h <;> linarith

theorem half_lt_restOf {q : ℚ} : 1 / 2 < restOf q ↔ q.den < 2 * (q.num.natAbs % q.den) := by
  have den : (0 : ℚ) < q.den := by exact_mod_cast q.den_pos
  rw [restOf, lt_div_iff₀ den, ← @Nat.cast_lt ℚ]
  push_cast
  constructor <;> intro h <;> linarith

/-- A value is rounded to its whole part, or to the next integer when it is not an integer itself. -/
theorem roundNat_cases (m : RMode) (neg : Bool) (q : ℚ) : roundNat m neg q = q.num.natAbs / q.den ∨
    roundNat m neg q = q.num.natAbs / q.den + 1 ∧ restOf q ≠ 0 := by
  have parity : q.num.natAbs / q.den % 2 = 0 ∨ q.num.natAbs / q.den % 2 = 1 := Nat.mod_two_eq_zero_or_one _
  rw [ne_eq, restOf_eq_zero]
  unfold roundNat
  dsimp only
  generalize q.num.natAbs / q.den = whole at *
  split
  case isTrue => exact .inl rfl
  case isFalse rest =>
    simp only [rest, not_false_eq_true, and_true]
    cases m
    case rtz => exact .inl rfl
    all_goals dsimp only; split_ifs <;> omega

theorem roundNat_le (m : RMode) (neg : Bool) {q : ℚ} {k : Nat} (h : 0 ≤ q) (le : q ≤ k) : roundNat m neg q ≤ k := by
  have parts : q = (q.num.natAbs / q.den : Nat) + restOf q := whole_part h
  have rest := (restOf_bounds q).1
  rcases roundNat_cases m neg q with down | ⟨up, frac⟩
  · rw [down]
    have : ((q.num.natAbs / q.den : Nat) : ℚ) ≤ k := by linarith
    exact_mod_cast this
  · rw [up]
    have : ((q.num.natAbs / q.den : Nat) : ℚ) < k := by linarith [lt_of_le_of_ne rest (Ne.symm frac)]
    exact_mod_cast this

theorem le_roundNat (m : RMode) (neg : Bool) {q : ℚ} {k : Nat} (h : 0 ≤ q) (le : (k : ℚ) ≤ q) :
    k ≤ roundNat m neg q := by
  have parts : q = (q.num.natAbs / q.den : Nat) + restOf q := whole_part h
  have rest := (restOf_bounds q).2
  have below : (k : ℚ) < ((q.num.natAbs / q.den + 1 : Nat) : ℚ) := by push_cast; linarith
  have : k < q.num.natAbs / q.den + 1 := by exact_mod_cast below
  rcases roundNat_cases m neg q with down | ⟨up, -⟩ <;> omega

/-- The sign a magnitude was taken from, put back. -/
def withSign (neg : Bool) (n : Nat) : Int := if neg then -n else n

theorem cast_withSign (neg : Bool) (n : Nat) : ((withSign neg n : Int) : ℚ) = if neg then -(n : ℚ) else n := by
  cases neg <;> simp [withSign]

theorem abs_cast_withSign (neg : Bool) (n : Nat) : |((withSign neg n : Int) : ℚ)| = n := by
  cases neg <;> simp [withSign]

theorem withSign_even (neg : Bool) {n : Nat} (h : n % 2 = 0) : withSign neg n % 2 = 0 := by
  cases neg <;> simp only [withSign, Bool.false_eq_true, if_true, if_false] <;> omega

theorem abs_sub_withSign (neg : Bool) (q : ℚ) (n : Nat) :
    |(if neg then -q else q) - (withSign neg n : Int)| = |q - n| := by
  rw [cast_withSign]
  cases neg
  · rfl
  · rw [if_pos rfl, if_pos rfl, ← abs_neg, neg_sub_neg, neg_sub, ]

theorem rounds_withSign (m : RMode) (neg : Bool) {q : ℚ} (h : 0 ≤ q) :
    Rounds m (if neg then -q else q) (withSign neg (roundNat m neg q)) := by
  have parts : q = (q.num.natAbs / q.den : Nat) + restOf q := whole_part h
  obtain ⟨rest, rest'⟩ := restOf_bounds q
  unfold roundNat
  dsimp only
  simp only [← restOf_eq_zero, ← restOf_lt_half, ← half_lt_restOf]
  generalize q.num.natAbs / q.den = whole at *
  generalize restOf q = t at *
  subst parts
  have dist := abs_sub_withSign neg (whole + t)
  have parity : whole % 2 = 0 ∨ whole % 2 = 1 := Nat.mod_two_eq_zero_or_one _
  by_cases exact' : t = 0
  · rw [if_pos exact', exact', add_zero]
    cases m <;> cases neg <;> simp [Rounds, withSign]
  · rw [if_neg exact']
    have pos : 0 < t := lt_of_le_of_ne rest (Ne.symm exact')
    have down : |(whole : ℚ) + t - whole| = t := by rw [add_sub_cancel_left, abs_of_pos pos]
    have up : |(whole : ℚ) + t - (whole + 1 : Nat)| = 1 - t := by
      push_cast
      rw [add_sub_add_left_eq_sub, abs_sub_comm, abs_of_pos (sub_pos.mpr rest')]
    have size : |if neg then -((whole : ℚ) + t) else whole + t| = whole + t := by
      cases neg <;> simp only [Bool.false_eq_true, if_true, if_false, abs_neg, abs_of_nonneg h]
    cases m
    case rne =>
      dsimp only
      unfold Rounds
      dsimp only
      rw [dist]
      rcases lt_trichotomy t (1 / 2) with less | rfl | more
      · rw [if_pos less, down]
        exact ⟨less.le, fun tie => absurd tie less.ne⟩
      · rw [if_neg (lt_irrefl _), if_neg (lt_irrefl _)]
        refine ⟨?_, fun _ => withSign_even neg (by omega)⟩
        rcases parity with even | odd
        · rw [even, add_zero, down]
        · rw [odd, up]
          norm_num
      · rw [if_neg more.not_gt, if_pos more, up]
        exact ⟨by linarith, fun tie => by linarith⟩
    case rna =>
      dsimp only
      unfold Rounds
      dsimp only
      rw [dist]
      rcases lt_or_ge t (1 / 2) with less | more
      · rw [if_pos less, down]
        exact ⟨less.le, fun tie => absurd tie less.ne⟩
      · rw [if_neg more.not_gt, up]
        refine ⟨by linarith, fun _ => ?_⟩
        rw [abs_cast_withSign, size]
        push_cast
        linarith
    case rtz =>
      refine ⟨?_, by rw [dist, down]; exact rest'⟩
      rw [abs_cast_withSign, size]
      linarith
    case rdn =>
      unfold Rounds
      dsimp only
      rw [cast_withSign]
      cases neg
      · exact ⟨by simp [rest], by simpa using rest'⟩
      · simp only [if_true]
        push_cast
        constructor <;> linarith
    case rup =>
      unfold Rounds
      dsimp only
      rw [cast_withSign]
      cases neg
      · simp only [Bool.false_eq_true, if_false]
        push_cast
        constructor <;> linarith
      · simp only [if_true]
        constructor <;> linarith

theorem roundInt_eq (m : RMode) (q : ℚ) :
    roundInt m q = withSign (decide (q < 0)) (roundNat m (decide (q < 0)) |q|) := by
  unfold roundInt
  by_cases neg : q < 0
  · rw [if_pos neg, decide_eq_true neg, abs_of_neg neg]
    rfl
  · rw [if_neg neg, decide_eq_false neg, abs_of_nonneg (not_lt.mp neg)]
    rfl

theorem signed_abs (q : ℚ) : (if decide (q < 0) = true then -|q| else |q|) = q := by
  by_cases neg : q < 0
  · rw [if_pos (decide_eq_true neg), abs_of_neg neg, neg_neg]
  · rw [if_neg (by simpa using neg), abs_of_nonneg (not_lt.mp neg)]

theorem rounds_roundInt (m : RMode) (q : ℚ) : Rounds m q (roundInt m q) := by
  have := rounds_withSign m (decide (q < 0)) (abs_nonneg q)
  rwa [signed_abs, ← roundInt_eq] at this

/-! ### Codes of a format (R39, R40) -/

/-- The value of a code without its sign. -/
def magValue (t : Fmt) (mag : Nat) : ℚ :=
  if mag / 2 ^ t.mbits = 0 then (mag % 2 ^ t.mbits : Nat) * pow2 (1 - t.bias - t.mbits)
  else (2 ^ t.mbits + mag % 2 ^ t.mbits : Nat) * pow2 ((mag / 2 ^ t.mbits : Nat) - t.bias - t.mbits)

theorem decodeFp_signed {t : Fmt} (fp : t.isFp = true) (neg : Bool) {mag : Nat} (le : mag ≤ t.maxCode) :
    decodeFp t (signed t neg mag) = .fin (if neg then -magValue t mag else magValue t mag) neg := by
  have small : t.maxCode < 2 ^ (t.width - 1) ∧ 2 ^ (t.width - 1) + 2 ^ (t.width - 1) = 2 ^ t.width ∧
      2 ^ t.width ≤ 2 ^ 64 := by
    cases t <;> simp_all [Fmt.isFp] <;> decide
  obtain ⟨fits, double, word⟩ := small
  have fits' : mag < 2 ^ (t.width - 1) := le.trans_lt fits
  have code : (signed t neg mag).toNat % 2 ^ t.width = if neg then mag + 2 ^ (t.width - 1) else mag := by
    have less : (if neg then mag + 2 ^ (t.width - 1) else mag) < 2 ^ t.width := by split <;> omega
    rw [signed, BitVec.toNat_ofNat, Nat.mod_eq_of_lt (less.trans_le word), Nat.mod_eq_of_lt less]
  have sign : decide (2 ^ (t.width - 1) ≤ (signed t neg mag).toNat % 2 ^ t.width) = neg := by
    rw [code]
    cases neg <;> simp
    omega
  have magnitude : (signed t neg mag).toNat % 2 ^ t.width % 2 ^ (t.width - 1) = mag := by
    rw [code]
    cases neg
    · exact Nat.mod_eq_of_lt fits'
    · rw [if_pos rfl, Nat.add_mod_right, Nat.mod_eq_of_lt (by omega)]
  unfold decodeFp
  dsimp only
  rw [sign, magnitude]
  have top : t = .e4m3 ∧ mag ≠ 0x7F ∨ t ≠ .e4m3 ∧ mag / 2 ^ t.mbits ≠ 2 ^ t.ebits - 1 := by
    cases t <;> simp_all [Fmt.isFp, Fmt.maxCode, Fmt.mbits, Fmt.ebits] <;> omega
  unfold magValue
  rcases top with ⟨e4m3, number⟩ | ⟨other, finite⟩
  · rw [if_pos e4m3, if_neg number]
    split <;> rfl
  · rw [if_neg other, if_neg finite]
    split <;> rfl

/-- The magnitude code of `m` steps of the exponent `k`: the step from one exponent to the next is a carry. -/
theorem magValue_eq (t : Fmt) {k m : Nat} (exp : 1 ≤ k) (norm : k = 1 ∨ 2 ^ t.mbits ≤ m) (le : m ≤ 2 ^ (t.mbits + 1)) :
    magValue t (if m < 2 ^ t.mbits then m else (k - 1) * 2 ^ t.mbits + m) = m * pow2 (k - t.bias - t.mbits) := by
  have pos : 0 < 2 ^ t.mbits := by positivity
  rw [pow_succ] at le
  obtain ⟨k, rfl⟩ := Nat.exists_eq_add_of_le' exp
  rw [Nat.add_sub_cancel]
  unfold magValue
  split
  case isTrue sub =>
    obtain rfl : k = 0 := by omega
    rw [if_pos (Nat.div_eq_of_lt sub), Nat.mod_eq_of_lt sub]
    simp
  case isFalse normal =>
    obtain ⟨d, rfl⟩ := Nat.exists_eq_add_of_le (not_lt.mp normal)
    have split' : k * 2 ^ t.mbits + (2 ^ t.mbits + d) = d + 2 ^ t.mbits * (k + 1) := by ring
    rw [split', Nat.add_mul_mod_self_left, Nat.add_mul_div_left _ _ pos]
    rcases Nat.lt_or_ge d (2 ^ t.mbits) with less | carry
    · rw [Nat.div_eq_of_lt less, Nat.mod_eq_of_lt less, zero_add, if_neg (by omega)]
    · obtain rfl : d = 2 ^ t.mbits := by omega
      rw [Nat.div_self pos, Nat.mod_self, add_zero, if_neg (by omega),
        show ((1 + (k + 1) : Nat) : Int) - t.bias - t.mbits = 1 + ((k + 1 : Nat) - t.bias - t.mbits) by push_cast; ring,
        pow2_add]
      push_cast
      rw [show pow2 1 = 2 by rfl]
      ring

/-- A value no greater than the format's greatest has a magnitude code no greater than its greatest. -/
theorem mag_le_maxCode {t : Fmt} (fp : t.isFp = true) {k m : Nat} (exp : 1 ≤ k) (norm : k = 1 ∨ 2 ^ t.mbits ≤ m)
    (le : m ≤ 2 ^ (t.mbits + 1)) (value : (m : ℚ) * pow2 (k - t.bias - t.mbits) ≤ maxFinite t) :
    (if m < 2 ^ t.mbits then m else (k - 1) * 2 ^ t.mbits + m) ≤ t.maxCode := by
  have pos : 0 < 2 ^ t.mbits := by positivity
  have some : 1 ≤ t.maxCode / 2 ^ t.mbits := by
    cases t <;> simp_all [Fmt.isFp, Fmt.maxCode, Fmt.mbits]
  have parts : 2 ^ t.mbits * (t.maxCode / 2 ^ t.mbits) + t.maxCode % 2 ^ t.mbits = t.maxCode := Nat.div_add_mod ..
  have low : t.maxCode % 2 ^ t.mbits < 2 ^ t.mbits := Nat.mod_lt _ pos
  rw [pow_succ] at le
  unfold maxFinite at value
  dsimp only at value
  obtain ⟨k, rfl⟩ := Nat.exists_eq_add_of_le' exp
  rw [Nat.add_sub_cancel]
  generalize t.maxCode / 2 ^ t.mbits = top at *
  generalize t.maxCode % 2 ^ t.mbits = rest at *
  have grid : 2 ^ t.mbits ≤ 2 ^ t.mbits * top := Nat.le_mul_of_pos_right _ some
  split
  case isTrue sub => omega
  case isFalse normal =>
    rcases Nat.lt_trichotomy (k + 1) top with below | rfl | above
    · have : (k + 2) * 2 ^ t.mbits ≤ top * 2 ^ t.mbits := Nat.mul_le_mul_right _ below
      nlinarith
    · have : m ≤ 2 ^ t.mbits + rest := by
        have := le_of_mul_le_mul_right value (pow2_pos _)
        exact_mod_cast this
      rw [← parts, Nat.mul_succ, Nat.mul_comm k]
      omega
    · refine absurd value (not_le.mpr ?_)
      have step : 2 * pow2 ((top : Int) - t.bias - t.mbits) ≤ pow2 ((k + 1 : Nat) - t.bias - t.mbits) := by
        rw [show (2 : ℚ) = pow2 1 by rfl, ← pow2_add]
        exact pow2_le (by omega)
      have less : ((2 ^ t.mbits + rest : Nat) : ℚ) < 2 * m := by
        have : 2 ^ t.mbits + rest < 2 * m := by omega
        exact_mod_cast this
      calc ((2 ^ t.mbits + rest : Nat) : ℚ) * pow2 (top - t.bias - t.mbits)
          < 2 * m * pow2 (top - t.bias - t.mbits) := by gcongr; exact pow2_pos _
        _ = m * (2 * pow2 (top - t.bias - t.mbits)) := by ring
        _ ≤ m * pow2 ((k + 1 : Nat) - t.bias - t.mbits) := by gcongr

/-- A magnitude no greater than the format's greatest does not exceed it when it is rounded at its own exponent. -/
theorem rounded_le_maxFinite {t : Fmt} (m : RMode) (neg : Bool) {a : ℚ} (pos : 0 < a) (le : a ≤ maxFinite t) :
    (roundNat m neg (a / pow2 (log2Floor a - t.mbits)) : ℚ) * pow2 (log2Floor a - t.mbits) ≤ maxFinite t := by
  set e := log2Floor a - t.mbits with he
  unfold maxFinite at le ⊢
  dsimp only at le ⊢
  have low : t.maxCode % 2 ^ t.mbits < 2 ^ t.mbits := Nat.mod_lt _ (by positivity)
  generalize ((t.maxCode / 2 ^ t.mbits : Nat) : Int) - t.bias - t.mbits = top at *
  generalize t.maxCode % 2 ^ t.mbits = rest at *
  have exponent : e ≤ top := by
    by_contra above
    have : pow2 (top + 1 + t.mbits) ≤ a := (pow2_le (by omega)).trans (log2Floor_spec pos).1
    rw [pow2_add, pow2_add, pow2_natCast, show pow2 1 = 2 by rfl] at this
    have less : ((2 ^ t.mbits + rest : Nat) : ℚ) < 2 * 2 ^ t.mbits := by
      have : 2 ^ t.mbits + rest < 2 * 2 ^ t.mbits := by omega
      exact_mod_cast this
    nlinarith [pow2_pos top]
  obtain ⟨d, hd⟩ := Int.eq_ofNat_of_zero_le (show 0 ≤ top - e by omega)
  have power : pow2 top = (2 ^ d : Nat) * pow2 e := by
    rw [show top = d + e by omega, pow2_add, pow2_natCast]
    push_cast
    rfl
  have bound : roundNat m neg (a / pow2 e) ≤ (2 ^ t.mbits + rest) * 2 ^ d := by
    refine roundNat_le m neg (div_nonneg pos.le (pow2_pos e).le) ((div_le_iff₀ (pow2_pos e)).mpr ?_)
    rw [power, ← mul_assoc, ← Nat.cast_mul] at le
    exact le
  rw [power, ← mul_assoc, ← Nat.cast_mul]
  exact mul_le_mul_of_nonneg_right (by exact_mod_cast bound) (pow2_pos e).le

/-- Which exponent a magnitude is rounded at: its own, or the lowest of the format. -/
def roundExp (t : Fmt) (a : ℚ) : Int := if log2Floor a < 1 - t.bias then 1 - t.bias else log2Floor a

theorem minNormal_le_maxFinite {t : Fmt} (fp : t.isFp = true) : pow2 (1 - t.bias) ≤ maxFinite t := by
  have some : 1 ≤ t.maxCode / 2 ^ t.mbits := by
    cases t <;> simp_all [Fmt.isFp, Fmt.maxCode, Fmt.mbits]
  unfold maxFinite
  dsimp only
  calc pow2 (1 - t.bias) = 2 ^ t.mbits * pow2 (1 - t.bias - t.mbits) := by
        rw [← pow2_natCast, ← pow2_add]
        congr 1
        ring
    _ ≤ ((2 ^ t.mbits + t.maxCode % 2 ^ t.mbits : Nat) : ℚ) *
        pow2 ((t.maxCode / 2 ^ t.mbits : Nat) - t.bias - t.mbits) := by
      refine mul_le_mul ?_ (pow2_le (by omega)) (pow2_pos _).le (by positivity)
      push_cast
      exact le_add_of_nonneg_right (by positivity)

/-- The integer that a magnitude is rounded to, of the last place of its exponent. -/
def roundSteps (env : FpEnv) (t : Fmt) (neg : Bool) (a : ℚ) : Nat :=
  roundNat env.mode neg (a / pow2 (roundExp t a - t.mbits))

theorem roundSteps_spec {t : Fmt} (fp : t.isFp = true) (env : FpEnv) (neg : Bool) {a : ℚ} (pos : 0 < a)
    (le : a ≤ maxFinite t) : 1 - t.bias ≤ roundExp t a ∧ roundSteps env t neg a ≤ 2 ^ (t.mbits + 1) ∧
      (roundExp t a = 1 - t.bias ∨ 2 ^ t.mbits ≤ roundSteps env t neg a) ∧
      (roundSteps env t neg a : ℚ) * pow2 (roundExp t a - t.mbits) ≤ maxFinite t := by
  obtain ⟨low, high⟩ := log2Floor_spec pos
  have scaled : ∀ {x y : Int} {n : Nat}, x = n + y → a ≤ pow2 x → a / pow2 y ≤ (2 ^ n : Nat) := by
    intro x y n eq le
    rw [div_le_iff₀ (pow2_pos y)]
    push_cast
    rwa [← pow2_natCast, ← pow2_add, ← eq]
  have nonneg : ∀ y, 0 ≤ a / pow2 y := fun y => div_nonneg pos.le (pow2_pos y).le
  unfold roundSteps roundExp
  split
  case isTrue small =>
    have steps : roundNat env.mode neg (a / pow2 (1 - t.bias - t.mbits)) ≤ 2 ^ t.mbits :=
      roundNat_le _ _ (nonneg _) (scaled (by ring) (high.le.trans (pow2_le small)))
    refine ⟨le_rfl, steps.trans (Nat.pow_le_pow_right two_pos (Nat.le_succ _)), .inl rfl, ?_⟩
    refine le_trans ?_ (minNormal_le_maxFinite fp)
    rw [show (1 : Int) - t.bias = t.mbits + (1 - t.bias - t.mbits) by ring, pow2_add, pow2_natCast,
      add_sub_cancel_left]
    exact mul_le_mul_of_nonneg_right (by exact_mod_cast steps) (pow2_pos _).le
  case isFalse normal =>
    refine ⟨not_lt.mp normal, roundNat_le _ _ (nonneg _) (scaled (by push_cast; ring) high.le), .inr ?_,
      rounded_le_maxFinite _ _ pos le⟩
    refine le_roundNat _ _ (nonneg _) ((le_div_iff₀ (pow2_pos _)).mpr ?_)
    push_cast
    rw [← pow2_natCast, ← pow2_add, add_sub_cancel]
    exact low

theorem flags_bits (inexact tiny : Bool) :
    let fl := (if inexact then Flags.nx else 0) ||| if tiny then Flags.unf else 0
    fl.getLsbD 3 = inexact ∧ fl.getLsbD 0 = false ∧ fl.getLsbD 1 = false := by
  cases inexact <;> cases tiny <;> decide

/-- What a finite value that does not overflow is rounded to. -/
theorem roundFp_fin {t : Fmt} (fp : t.isFp = true) {env : FpEnv} (fzo : env.fzo = false) {q : ℚ} (neg : Bool)
    (nonzero : q ≠ 0) (le : |q| ≤ maxFinite t) :
    let value : ℚ := roundSteps env t neg |q| * pow2 (roundExp t |q| - t.mbits)
    let r := roundFp env t (.fin q neg)
    decodeFp t r.1 = .fin (if neg then -value else value) neg ∧
      r.2.getLsbD 3 = decide (value ≠ |q|) ∧ r.2.getLsbD 0 = false ∧ r.2.getLsbD 1 = false := by
  obtain ⟨exp, steps, norm, bound⟩ := roundSteps_spec fp env neg (abs_pos.mpr nonzero) le
  have finite := not_lt.mpr (rounded_le_maxFinite env.mode neg (abs_pos.mpr nonzero) le)
  intro value r
  have rounded : r = roundFp env t (.fin q neg) := rfl
  unfold roundFp at rounded
  dsimp only at rounded
  rw [if_neg nonzero, if_neg finite, fzo, Bool.false_and, Bool.false_and, Bool.false_and, if_neg Bool.false_ne_true,
    ← roundExp, ← roundSteps] at rounded
  rw [rounded]
  refine ⟨?_, flags_bits ..⟩
  simp only [value]
  generalize roundSteps env t neg |q| = m at *
  generalize roundExp t |q| = e at *
  obtain ⟨k, hk⟩ := Int.eq_ofNat_of_zero_le (show 0 ≤ e + t.bias by omega)
  obtain rfl : e = k - t.bias := by omega
  rw [show (((k : Int) - t.bias + t.bias).toNat) = k by omega]
  have one : 1 ≤ k := by omega
  have norm' : k = 1 ∨ 2 ^ t.mbits ≤ m := norm.imp_left (by omega)
  rw [decodeFp_signed fp neg (mag_le_maxCode fp one norm' steps bound), magValue_eq t one norm' steps]

/-- A finite value that does not overflow is rounded to an integer of the last place of its own exponent (R47). -/
theorem roundFp_rounds {t : Fmt} (fp : t.isFp = true) {env : FpEnv} (fzo : env.fzo = false) {q : ℚ}
    (nonzero : q ≠ 0) (le : |q| ≤ maxFinite t) :
    let neg := decide (q < 0)
    let r := roundFp env t (.fin q neg)
    let lowest : Int := 1 - (t.bias : Int) - (t.mbits : Int)
    ∃ n e : Int, lowest ≤ e ∧ |n| ≤ 2 ^ (t.mbits + 1) ∧ (e = lowest ∨ 2 ^ t.mbits ≤ |n|) ∧
      Rounds env.mode (q / pow2 e) n ∧ decodeFp t r.1 = .fin (n * pow2 e) neg ∧
      r.2.getLsbD 3 = decide ((n : ℚ) * pow2 e ≠ q) ∧ r.2.getLsbD 0 = false ∧ r.2.getLsbD 1 = false := by
  intro neg r lowest
  obtain ⟨code, inexact, invalid, over'⟩ := roundFp_fin fp fzo neg nonzero le
  obtain ⟨exp, steps, norm, -⟩ := roundSteps_spec fp env neg (abs_pos.mpr nonzero) le
  have size : |withSign neg (roundSteps env t neg |q|)| = (roundSteps env t neg |q| : Nat) := by
    cases neg <;> simp [withSign]
  have value : (withSign neg (roundSteps env t neg |q|) : ℚ) * pow2 (roundExp t |q| - t.mbits) =
      if neg then -(roundSteps env t neg |q| * pow2 (roundExp t |q| - t.mbits))
        else roundSteps env t neg |q| * pow2 (roundExp t |q| - t.mbits) := by
    rw [cast_withSign]
    split
    · exact neg_mul ..
    · rfl
  refine ⟨withSign neg (roundSteps env t neg |q|), roundExp t |q| - t.mbits, by omega, ?_, ?_, ?_, ?_, ?_, invalid, over'⟩
  · rw [size]
    exact_mod_cast steps
  · rw [size]
    exact norm.imp (by omega) fun le => by exact_mod_cast le
  · have rounds := rounds_withSign env.mode neg (div_nonneg (abs_nonneg q) (pow2_pos (roundExp t |q| - t.mbits)).le)
    rwa [← neg_div, ← apply_ite (· / pow2 (roundExp t |q| - t.mbits)), signed_abs] at rounds
  · rw [value]
    exact code
  · rw [inexact, value, decide_eq_decide, not_iff_not]
    by_cases below : q < 0
    · rw [abs_of_neg below, if_pos (decide_eq_true below), neg_eq_iff_eq_neg]
    · rw [abs_of_nonneg (not_lt.mp below), if_neg (by simpa [neg] using below)]

end Sys2Proof.RoundingProofs

/-! The floating-point operations of the vector slots (R128, R129). -/

namespace Sys2Proof.VectorProofs

open Sys2Proof Sys2Proof.Machine Sys2Proof.Claim Sys2Proof.ScalarControlProofs

/-! ### Minimum and maximum (R129) -/

section MinMax

variable (t : Fmt) (hi : Bool) (a b : Code)

theorem snan_iff (x : XR) : x = .nan true ↔ isSnan x = true := by
  cases x <;> simp [isSnan]

theorem fpMinMax_flags : (fpMinMax t hi a b).2 =
    if isSnan (decodeFp t a) || isSnan (decodeFp t b) then Flags.nv else 0 := by
  have signals : (fpMinMax t hi a b).2 =
      (if isSnan (decodeFp t a) then Flags.nv else 0) ||| if isSnan (decodeFp t b) then Flags.nv else 0 := by
    simp only [← snan_iff]
    unfold fpMinMax
    dsimp only
    split <;> rfl
  rw [signals]
  cases isSnan (decodeFp t a) <;> cases isSnan (decodeFp t b) <;> rfl

theorem fpMinMax_nans (x : isNan (decodeFp t a) = true) (y : isNan (decodeFp t b) = true) :
    (fpMinMax t hi a b).1 = BitVec.ofNat 64 t.nanCode := by
  unfold fpMinMax
  dsimp only
  revert x y
  cases decodeFp t a <;> cases decodeFp t b <;> simp [isNan]

theorem fpMinMax_left (x : isNan (decodeFp t a) = true) (y : isNan (decodeFp t b) = false) :
    (fpMinMax t hi a b).1 = b := by
  unfold fpMinMax
  dsimp only
  revert x y
  cases decodeFp t a <;> cases decodeFp t b <;> simp [isNan]

theorem fpMinMax_right (x : isNan (decodeFp t a) = false) (y : isNan (decodeFp t b) = true) :
    (fpMinMax t hi a b).1 = a := by
  unfold fpMinMax
  dsimp only
  revert x y
  cases decodeFp t a <;> cases decodeFp t b <;> simp [isNan]

theorem fpMinMax_numbers (x : isNan (decodeFp t a) = false) (y : isNan (decodeFp t b) = false) :
    (fpMinMax t hi a b).1 = if fpLess (decodeFp t b) (decodeFp t a) != hi then b else a := by
  unfold fpMinMax
  dsimp only
  revert x y
  cases decodeFp t a <;> cases decodeFp t b <;> simp [isNan]

end MinMax

/-- Whether a fused form negates its product. -/
theorem fused (f : VecF) (p : XR) : (if (f.fn == 1) = true then p.neg else p) = if f.fn = 1 then p.neg else p := by
  simp only [beq_iff_eq]

/-- Settles O8: each element is the exact result rounded once, and rounding takes the nearest step of the last place. -/
theorem vectorFloatResults : Obligations.VectorFloatResults := by
  unfold Obligations.VectorFloatResults
  refine ⟨?elements, ?minmax, fun env t q fp fzo nonzero le => RoundingProofs.roundFp_rounds fp fzo nonzero le⟩
  case elements =>
    intro f s env t x w rnd plus neg
    refine ⟨?vadd, ?vsub, ?vmul, ?vfma, ?vfms, ?vmin, ?vmax, ?vabs, ?vneg⟩ <;> intro runs
    case vadd => exact vec2_of_effect (op := fpAdd f) runs rfl fun _ _ _ => rfl
    case vsub => exact vec2_of_effect (op := fpSub f) runs rfl fun _ _ _ => rfl
    case vmul => exact vec2_of_effect (op := fpMul f) runs rfl fun _ _ _ => rfl
    case vfma => exact vec3_of_effect runs rfl fun l a b d => congrArg rnd (congrArg (plus · (x d)) (fused f _))
    case vfms => exact vec3_of_effect runs rfl fun l a b d => congrArg rnd (congrArg (plus · (x d).neg) (fused f _))
    case vmin => exact vec2_of_effect (op := fun _ => fpMinMax t false) runs rfl fun _ _ _ => rfl
    case vmax => exact vec2_of_effect (op := fun _ => fpMinMax t true) runs rfl fun _ _ _ => rfl
    case vabs => exact vec1_of_effect (op := fun c a => (clearSign c.grid.w a, 0)) runs rfl fun _ _ => rfl
    case vneg => exact vec1_of_effect (op := fun c a => (flipSign c.grid.w a, 0)) runs rfl fun _ _ => rfl
  case minmax =>
    intro t hi a b x y r low high
    have less : isNan x = false → isNan y = false → fpLess y x = false → r.1 = low := fun nx ny lt => by
      rw [show r.1 = _ from fpMinMax_numbers t hi a b nx ny, lt]
      cases hi <;> rfl
    have more : isNan x = false → isNan y = false → fpLess y x = true → r.1 = high := fun nx ny lt => by
      rw [show r.1 = _ from fpMinMax_numbers t hi a b nx ny, lt]
      cases hi <;> rfl
    refine ⟨fpMinMax_nans t hi a b, fpMinMax_left t hi a b, fpMinMax_right t hi a b, fpMinMax_flags t hi a b, ?finite,
      ?left, ?right⟩
    case finite =>
      intro p n q m hx hy
      have nx : isNan x = false := congrArg isNan hx
      have ny : isNan y = false := congrArg isNan hy
      have lt : fpLess y x = (decide (q < p) || (decide (q = p) && m && !n)) := congrArg₂ fpLess hy hx
      refine ⟨fun h => less nx ny ?_, fun h => more nx ny ?_, fun h hn hm => less nx ny ?_, fun h hn hm => more nx ny ?_⟩
      · rw [lt, decide_eq_false h.not_gt, decide_eq_false h.ne']
        rfl
      · rw [lt, decide_eq_true h]
        rfl
      · rw [lt, h, decide_eq_false (lt_irrefl q), hn, hm]
        simp
      · rw [lt, h, hn, hm]
        simp
    case left =>
      intro ny
      refine ⟨fun hx => less (congrArg isNan hx) ny ?_, fun hx other => more (congrArg isNan hx) ny ?_⟩ <;> rw [hx]
      · cases y <;> simp [fpLess]
      · revert ny other
        cases y <;> simp [fpLess, isNan]
    case right =>
      intro nx
      refine ⟨fun hy other => more nx (congrArg isNan hy) ?_, fun hy => less nx (congrArg isNan hy) ?_⟩ <;> rw [hy]
      · revert nx other
        cases x <;> simp [fpLess, isNan]
      · cases x <;> simp [fpLess]

end Sys2Proof.VectorProofs
end

section
/-! PROOFS. The functions of one element (R130): where they are exact, and what stands for a root. -/

namespace Sys2Proof.FunctionProofs

open Sys2Proof Sys2Proof.Machine Sys2Proof.Claim Sys2Proof.ScalarControlProofs Sys2Proof.VectorProofs
open Sys2Proof.RoundingProofs

/-! ### The reciprocal root -/

theorem num_mul_den {q : ℚ} (pos : 0 < q) :
    q * (q.den : ℚ) ^ 2 = ((q.num.natAbs * q.den : Nat) : ℚ) := by
  have value : q * q.den = (q.num.natAbs : ℚ) := by
    rw [Rat.mul_den_eq_num, ← Int.cast_natCast, Int.natCast_natAbs, abs_of_pos (Rat.num_pos.mpr pos)]
  push_cast
  rw [sq, ← mul_assoc, value]

/-- What stands for √q lies on the side of every multiple of 2^-200 on which √q lies: on a grid that holds these, it is
√q itself or between two neighbours of it. -/
theorem sqrtProxy_spec {q : ℚ} (pos : 0 < q) (k : Nat) :
    let b : ℚ := k * pow2 (-200)
    0 < sqrtProxy q ∧ (b < sqrtProxy q ↔ b * b < q) ∧ (b = sqrtProxy q ↔ b * b = q) := by
  intro b
  set n := q.num.natAbs * q.den * 4 ^ 256 with hn
  set g : ℚ := q.den * 2 ^ 256 with hg
  have den : (0 : ℚ) < q.den := by exact_mod_cast q.den_pos
  have grid : 0 < g := by positivity
  have square : q * g ^ 2 = n := by
    rw [hg, hn, mul_pow, ← mul_assoc, num_mul_den pos]
    push_cast
    norm_num
  have n_pos : 0 < n := by
    have : (0 : ℚ) < n := square ▸ (by positivity)
    exact_mod_cast this
  -- b is the point j of the grid
  set j := k * q.den * 2 ^ 56 with hj
  have place : b * g = j := by
    rw [hj, hg]
    push_cast
    rw [show b = k * pow2 (-200) from rfl, show (2 : ℚ) ^ 256 = pow2 200 * 2 ^ 56 by
      rw [show (200 : Int) = (200 : Nat) from rfl, pow2_natCast, ← pow_add]]
    have : pow2 (-200) * pow2 200 = 1 := (pow2_add ..).symm
    linear_combination (k * q.den * 2 ^ 56 : ℚ) * this
  have side : b * b < q ↔ j * j < n := by
    rw [← mul_lt_mul_iff_left₀ (pow_pos grid 2), square, show b * b * g ^ 2 = (b * g) * (b * g) by ring, place]
    exact_mod_cast Iff.rfl
  have hit : b * b = q ↔ j * j = n := by
    rw [← mul_left_inj' (pow_pos grid 2).ne', square, show b * b * g ^ 2 = (b * g) * (b * g) by ring, place]
    exact_mod_cast Iff.rfl
  rw [side, hit]
  have proxy : sqrtProxy q = if n.sqrt * n.sqrt = n then (n.sqrt : ℚ) / g else ((2 * n.sqrt + 1 : Nat) : ℚ) / (2 * g) := by
    have scale : ((q.den * 2 ^ 256 : Nat) : ℚ) = g := by simp only [hg, Nat.cast_mul, Nat.cast_pow, Nat.cast_ofNat]
    have twice : ((2 * q.den * 2 ^ 256 : Nat) : ℚ) = 2 * g := by
      simp only [hg, Nat.cast_mul, Nat.cast_pow, Nat.cast_ofNat, mul_assoc]
    unfold sqrtProxy
    dsimp only
    rw [scale, twice]
  rw [proxy]
  split
  case isTrue root =>
    have root_pos : 0 < n.sqrt := Nat.sqrt_pos.mpr n_pos
    refine ⟨by positivity, ?_, ?_⟩
    · rw [lt_div_iff₀ grid, place, Nat.cast_lt, ← Nat.mul_self_lt_mul_self_iff, root]
    · rw [eq_div_iff grid.ne', place, Nat.cast_inj, ← Nat.mul_self_inj, root]
  case isFalse between =>
    have not_square : j * j ≠ n := fun eq => between (by rw [← eq, Nat.sqrt_eq])
    refine ⟨by positivity, ?_, ?_⟩
    · rw [lt_div_iff₀ (by positivity), show b * (2 * g) = ((2 * j : Nat) : ℚ) by push_cast; rw [← place]; ring,
        Nat.cast_lt, ← not_square.le_iff_lt, ← Nat.le_sqrt]
      omega
    · rw [eq_div_iff (by positivity), show b * (2 * g) = ((2 * j : Nat) : ℚ) by push_cast; rw [← place]; ring,
        Nat.cast_inj]
      exact ⟨fun eq => by omega, fun eq => absurd eq not_square⟩

/-! ### Exact arguments -/

/-- A power of two is the one its exponent names. -/
theorem log2Floor_pow2 (n : Int) : log2Floor (pow2 n) = n := by
  obtain ⟨low, high⟩ := log2Floor_spec (pow2_pos n)
  generalize log2Floor (pow2 n) = e at *
  simp only [pow2_eq_zpow] at low high
  have low' := (zpow_le_zpow_iff_right₀ (one_lt_two (α := ℚ))).mp low
  have high' := (zpow_lt_zpow_iff_right₀ (one_lt_two (α := ℚ))).mp high
  omega

theorem isInt_iff (q : ℚ) : q.den = 1 ↔ ∃ n : Int, q = n :=
  by
  refine ⟨fun h => ⟨q.num, ((Rat.den_eq_one_iff q).mp h).symm⟩, ?_⟩
  rintro ⟨n, rfl⟩
  rfl

/-- Of a number of quarters of a turn, the part in the last turn. -/
theorem turns_quarters {q : ℚ} {n : Int} (h : 4 * q = n) : turns q = (n % 4 : Int) / 4 := by
  have parts : (n : ℚ) = 4 * (n / 4 : Int) + (n % 4 : Int) := by exact_mod_cast (Int.mul_ediv_add_emod n 4).symm
  have low : (0 : ℚ) ≤ (n % 4 : Int) := by exact_mod_cast Int.emod_nonneg n four_ne_zero
  have high : ((n % 4 : Int) : ℚ) < 4 := by exact_mod_cast Int.emod_lt_of_pos n four_pos
  have floor : q.num / (q.den : Int) = n / 4 := by
    rw [← Rat.floor_def', Int.floor_eq_iff]
    constructor <;> linarith
  rw [turns, floor]
  linarith

theorem quarters_eq {q : ℚ} {n : Int} (h : 4 * q = n) {k : Int} : turns q = k / 4 ↔ n % 4 = k := by
  rw [turns_quarters h, div_left_inj' (by norm_num)]
  exact_mod_cast Iff.rfl

/-! ### The rows of the tables -/

section Rows

variable (env : FpEnv) (t : Fmt) (a : Code)

theorem transc_exp2 (q : ℚ) (neg : Bool) : transc env t .exp2 (.fin q neg) a =
    if q.den = 1 ∧ |q| ≤ 1000 then roundFp env t (XR.ofRat (pow2 q.num) false)
    else if |q| < 1000 then roundEnclosed env t .exp2 q a
    else roundFp env t (XR.ofRat (pow2 (if 0 < q then 1000 else -1000)) false) := by
  unfold transc
  dsimp only
  by_cases exact' : q.den = 1 ∧ |q| ≤ 1000
  · rw [if_pos exact', if_pos exact']
  rw [if_neg exact', if_neg exact']
  by_cases above : 1000 ≤ q
  · rw [if_pos above, if_neg (not_lt.mpr (above.trans (le_abs_self q))), if_pos (by linarith)]
  rw [if_neg above]
  by_cases below : q ≤ -1000
  · rw [if_pos below, if_neg (not_lt.mpr ((le_neg_of_le_neg below).trans (neg_le_abs q))), if_neg (by linarith)]
  · rw [if_neg below, if_pos (abs_lt.mpr ⟨not_le.mp below, not_le.mp above⟩)]

theorem transc_tanh (q : ℚ) (neg : Bool) : transc env t .tanh (.fin q neg) a =
    if q = 0 then roundFp env t (.fin 0 neg)
    else if |q| < 100 then roundEnclosed env t .tanh q a
    else roundFp env t (XR.ofRat (if 0 < q then 1 - pow2 (-150) else pow2 (-150) - 1) false) := by
  unfold transc
  dsimp only
  by_cases zero : q = 0
  · rw [if_pos zero, if_pos zero]
  rw [if_neg zero, if_neg zero]
  by_cases far : 100 ≤ |q|
  · rw [if_pos far, if_neg far.not_gt]
    rcases lt_or_gt_of_ne zero with below | above
    · rw [if_pos below, if_neg below.not_gt]
    · rw [if_neg above.not_gt, if_pos above]
  · rw [if_neg far, if_pos (not_le.mp far)]

theorem transc_log2 {q : ℚ} (neg : Bool) (pos : 0 < q) :
    (∀ n : Int, q = pow2 n → transc env t .log2 (.fin q neg) a = roundFp env t (XR.ofRat n false)) ∧
    ((∀ n : Int, q ≠ pow2 n) → transc env t .log2 (.fin q neg) a = roundEnclosed env t .log2 q a) := by
  unfold transc
  dsimp only
  rw [if_neg pos.ne', if_neg pos.not_gt]
  refine ⟨fun n eq => ?_, fun other => if_neg (other _)⟩
  rw [eq, log2Floor_pow2, if_pos rfl]

theorem transc_sin {q : ℚ} (neg : Bool) (nonzero : q ≠ 0) :
    (∀ n : Int, 4 * q = n → transc env t .sin (.fin q neg) a =
      roundFp env t (XR.ofRat (if n % 4 = 1 then 1 else if n % 4 = 3 then -1 else 0) false)) ∧
    ((∀ n : Int, 4 * q ≠ n) → transc env t .sin (.fin q neg) a = roundEnclosed env t .sin q a) := by
  unfold transc
  dsimp only
  rw [if_neg nonzero]
  refine ⟨fun n eq => ?_, fun other => if_neg fun int => ?_⟩
  · have one := quarters_eq eq (k := 1)
    have three := quarters_eq eq (k := 3)
    push_cast at one three
    simp only [if_pos ((isInt_iff _).mpr ⟨n, eq⟩), one, three]
  · obtain ⟨n, eq⟩ := (isInt_iff _).mp int
    exact other n eq

theorem transc_cos (q : ℚ) (neg : Bool) :
    (∀ n : Int, 4 * q = n → transc env t .cos (.fin q neg) a =
      roundFp env t (XR.ofRat (if n % 4 = 0 then 1 else if n % 4 = 2 then -1 else 0) false)) ∧
    ((∀ n : Int, 4 * q ≠ n) → transc env t .cos (.fin q neg) a = roundEnclosed env t .cos q a) := by
  unfold transc
  dsimp only
  refine ⟨fun n eq => ?_, fun other => if_neg fun int => ?_⟩
  · have zero := quarters_eq eq (k := 0)
    have two := quarters_eq eq (k := 2)
    push_cast at zero two
    rw [zero_div] at zero
    rw [show (2 : ℚ) / 4 = 1 / 2 by norm_num] at two
    simp only [if_pos ((isInt_iff _).mpr ⟨n, eq⟩), zero, two]
  · obtain ⟨n, eq⟩ := (isInt_iff _).mp int
    exact other n eq

end Rows

/-- The result of a function is its value at the operand, element by element. -/
theorem function_of_effect {i : Instr} {f : VecF} {s : State} {g : FpEnv → Fmt → XR → Code → Code × Flags}
    (runs : Runs i s) (he : exec i s = issue i (vec1 i f fun c a => g (vEnv f c) (vTy f) (vOp f c a) a) s)
    (lat : latency i = 8) : ∃ op : Code → Code × Flags, Vec1 i f s 8 op ∧
      ∀ a, op a = g (vEnv f s.core) (vTy f) (decodeOperand (vEnv f s.core) (vTy f) a) a := by
  refine ⟨fun a => g (vEnv f s.core) (vTy f) (vOp f s.core a) a, ?_, fun _ => rfl⟩
  rw [← lat]
  exact vec1_of_effect (op := fun c a => g (vEnv f c) (vTy f) (vOp f c a) a) runs he fun _ _ => rfl

/-- Settles O9: each row of the tables is a case of the operand. -/
theorem vectorFunctionResults : Obligations.VectorFunctionResults := by
  unfold Obligations.VectorFunctionResults
  intro f s env t rnd num invalid byZero row
  refine ⟨?vrcp, ?vrsq, ?vexp2, ?vlog2, ?vtanh, ?vsin, ?vcos⟩ <;> intro runs
  case vrcp =>
    obtain ⟨op, vec, value⟩ := function_of_effect (g := fun env t x _ => recip env t x) runs rfl rfl
    refine ⟨op, vec, fun a => ?_⟩
    rw [value]
    cases decodeOperand env t a <;> rfl
  case vrsq =>
    obtain ⟨op, vec, value⟩ := function_of_effect (g := fun env t x _ => recipSqrt env t x) runs rfl rfl
    refine ⟨op, vec, fun a => ?_⟩
    rw [value]
    cases decodeOperand env t a
    case nan nv => rfl
    case inf neg => cases neg <;> rfl
    case fin q neg =>
      dsimp only
      split
      case isTrue zero => exact if_pos zero
      case isFalse nonzero =>
        split
        case isTrue below => exact (if_neg nonzero).trans (if_pos below)
        case isFalse above =>
          have pos : 0 < 1 / q := one_div_pos.mpr (lt_of_le_of_ne (not_lt.mp above) (Ne.symm nonzero))
          exact ⟨sqrtProxy (1 / q), (sqrtProxy_spec pos 0).1, (if_neg nonzero).trans (if_neg above),
            fun k => (sqrtProxy_spec pos k).2⟩
  case vexp2 =>
    obtain ⟨op, vec, value⟩ := function_of_effect (g := fun env t => transc env t .exp2) runs rfl rfl
    refine ⟨op, vec, fun a => ?_⟩
    rw [value]
    cases decodeOperand env t a
    case nan nv => rfl
    case inf neg => cases neg <;> rfl
    case fin q neg =>
      rw [transc_exp2]
      dsimp only
      split_ifs <;> rfl
  case vlog2 =>
    obtain ⟨op, vec, value⟩ := function_of_effect (g := fun env t => transc env t .log2) runs rfl rfl
    refine ⟨op, vec, fun a => ?_⟩
    rw [value]
    cases decodeOperand env t a
    case nan nv => rfl
    case inf neg => cases neg <;> rfl
    case fin q neg =>
      dsimp only
      split
      case isTrue zero => exact if_pos zero
      case isFalse nonzero =>
        split
        case isTrue below => exact (if_neg nonzero).trans (if_pos below)
        case isFalse above => exact transc_log2 env t a neg (lt_of_le_of_ne (not_lt.mp above) (Ne.symm nonzero))
  case vtanh =>
    obtain ⟨op, vec, value⟩ := function_of_effect (g := fun env t => transc env t .tanh) runs rfl rfl
    refine ⟨op, vec, fun a => ?_⟩
    rw [value]
    cases decodeOperand env t a
    case nan nv => rfl
    case inf neg => cases neg <;> rfl
    case fin q neg =>
      rw [transc_tanh]
      dsimp only
      split_ifs <;> rfl
  case vsin =>
    obtain ⟨op, vec, value⟩ := function_of_effect (g := fun env t => transc env t .sin) runs rfl rfl
    refine ⟨op, vec, fun a => ?_⟩
    rw [value]
    cases decodeOperand env t a
    case nan nv => rfl
    case inf neg => rfl
    case fin q neg =>
      dsimp only
      split
      case isTrue zero => exact if_pos zero
      case isFalse nonzero => exact transc_sin env t a neg nonzero
  case vcos =>
    obtain ⟨op, vec, value⟩ := function_of_effect (g := fun env t => transc env t .cos) runs rfl rfl
    refine ⟨op, vec, fun a => ?_⟩
    rw [value]
    cases decodeOperand env t a
    case nan nv => rfl
    case inf neg => rfl
    case fin q neg => exact transc_cos env t a q neg

end Sys2Proof.FunctionProofs
end

section
/-! PROOFS. Conversions (R51, R52, R135 to R137): rounding into an integer format, and the entry of a codebook. -/

namespace Sys2Proof.ConversionProofs

open Sys2Proof Sys2Proof.Machine Sys2Proof.Claim Sys2Proof.ScalarControlProofs Sys2Proof.VectorProofs
open Sys2Proof.RoundingProofs

/-! ### Into an integer format (R51) -/

section Integers

variable {env : FpEnv} {dst : Fmt} (int : dst.isInt = true)
include int

-- Memory is bounded and each thread holds some: what stands before is checked before more is begun.
set_option Elab.async false in
theorem convertExact_int (x : XR) : convertExact env dst x = toIntFmt env.mode dst.width x := by
  have notFp : dst.isFp = false := by cases dst <;> simp_all [Fmt.isInt, Fmt.isFp]
  rw [convertExact, notFp, if_neg Bool.false_ne_true]

end Integers

/-! ### Choosing an entry (R52) -/

/-- A scan that keeps the best so far ends with the one that beats all before it and is not beaten after it. -/
theorem foldl_range_best {β : Type} {step : β → Nat → β} {init best : β} {n i : Nat} (Worse : β → Prop) (hi : i < n)
    (start : Worse init) (before : ∀ b, ∀ j < i, Worse b → Worse (step b j)) (found : ∀ b, Worse b → step b i = best)
    (after : ∀ j < n, i < j → step best j = best) : (List.range n).foldl step init = best := by
  have worse : ∀ k ≤ i, Worse ((List.range k).foldl step init) := by
    intro k
    induction k with
    | zero => exact fun _ => start
    | succ k ih =>
      intro le
      rw [List.range_succ, List.foldl_append]
      exact before _ k (by omega) (ih (by omega))
  induction n with
  | zero => omega
  | succ n ih =>
    rw [List.range_succ, List.foldl_append]
    rcases Nat.lt_or_ge i n with less | ge
    · rw [ih less fun j hj => after j (by omega)]
      exact after n (by omega) less
    · obtain rfl : i = n := by omega
      exact found _ (worse i le_rfl)

/-- A scan that no entry changes ends where it began. -/
theorem foldl_range_id {β : Type} {step : β → Nat → β} {init : β} {n : Nat} (same : ∀ j < n, step init j = init) :
    (List.range n).foldl step init = init := by
  induction n with
  | zero => rfl
  | succ n ih =>
    rw [List.range_succ, List.foldl_append, ih fun j hj => same j (by omega)]
    exact same n (by omega)

section Codebook

variable {cb : BitVec 256}

theorem c4Nearest_best {q p : ℚ} {m : Bool} {i : Nat} (hi : i < 16) (entry : decodeFp .bf16 (cbEntry cb i) = .fin p m)
    (best : ∀ j < 16, ∀ v k, decodeFp .bf16 (cbEntry cb j) = .fin v k → |p - q| ≤ |v - q| ∧ (j < i → |p - q| < |v - q|)) :
    c4Nearest cb q = (i, some |p - q|) := by
  refine foldl_range_best (fun b => ∀ d, b.2 = some d → |p - q| < d) hi (fun d => nofun) ?before ?found ?after
  case before =>
    intro b j less worse d
    have near := best j (by omega)
    cases h : decodeFp .bf16 (cbEntry cb j)
    case fin v k =>
      have nearer := (near v k h).2 less
      dsimp only
      cases hb : b.2
      case none =>
        rintro ⟨⟩
        exact nearer
      case some d' =>
        dsimp only
        split
        · rintro ⟨⟩
          exact nearer
        · exact worse d
    case nan => exact worse d
    case inf => exact worse d
  case found =>
    intro b worse
    rw [entry]
    dsimp only
    cases hb : b.2
    case none => rfl
    case some d => exact if_pos (worse d hb)
  case after =>
    intro j less later
    dsimp only
    cases h : decodeFp .bf16 (cbEntry cb j)
    case fin v k => exact if_neg (not_lt.mpr (best j less v k h).1)
    case nan => rfl
    case inf => rfl

theorem c4Nearest_none {q : ℚ} (infinite : ∀ j < 16, ∀ v k, decodeFp .bf16 (cbEntry cb j) ≠ .fin v k) :
    c4Nearest cb q = (0, none) := by
  refine foldl_range_id fun j hj => ?_
  dsimp only
  cases h : decodeFp .bf16 (cbEntry cb j)
  case fin v k => exact absurd h (infinite j hj v k)
  case nan => rfl
  case inf => rfl

/-- Where an entry stands in the order of the entries: below, between or above the numbers. -/
def entryKey : XR → Option (Int × ℚ)
  | .nan _ => none
  | .inf n => some (if n then -1 else 1, 0)
  | .fin q _ => some (0, q)

/-- Whether one place of that order is before another. -/
def keyLt (a b : Int × ℚ) : Bool := decide (a.1 < b.1) || (decide (a.1 = b.1) && decide (a.2 < b.2))

/-- Whether one place is to be preferred to another. -/
def keyBeats (least : Bool) (a b : Int × ℚ) : Bool := if least then keyLt a b else keyLt b a

/-- What one entry does to the best so far. -/
def extremeStep (cb : BitVec 256) (least : Bool) (b : Option (Nat × (Int × ℚ))) (i : Nat) : Option (Nat × (Int × ℚ)) :=
  match entryKey (decodeFp .bf16 (cbEntry cb i)), b with
  | none, b => b
  | some k, none => some (i, k)
  | some k, some (j, k0) => if keyBeats least k k0 then some (i, k) else some (j, k0)

theorem c4Extreme_eq (least : Bool) :
    c4Extreme cb least = ((List.range 16).foldl (extremeStep cb least) none).map (·.1) := by
  unfold c4Extreme
  dsimp only
  congr 2
  funext b i
  unfold extremeStep
  cases decodeFp .bf16 (cbEntry cb i) <;> cases b <;> rfl

theorem extremeStep_nan {least : Bool} {b : Option (Nat × (Int × ℚ))} {i : Nat}
    (nan : entryKey (decodeFp .bf16 (cbEntry cb i)) = none) : extremeStep cb least b i = b := by
  unfold extremeStep
  rw [nan]

theorem extremeStep_first {least : Bool} {i : Nat} {key : Int × ℚ}
    (entry : entryKey (decodeFp .bf16 (cbEntry cb i)) = some key) :
    extremeStep cb least none i = some (i, key) := by
  unfold extremeStep
  rw [entry]

theorem extremeStep_some {least : Bool} {i j : Nat} {key k0 : Int × ℚ}
    (entry : entryKey (decodeFp .bf16 (cbEntry cb i)) = some key) :
    extremeStep cb least (some (j, k0)) i = if keyBeats least key k0 then some (i, key) else some (j, k0) := by
  unfold extremeStep
  rw [entry]

theorem c4Extreme_best {least : Bool} {i : Nat} (hi : i < 16) {key : Int × ℚ}
    (entry : entryKey (decodeFp .bf16 (cbEntry cb i)) = some key)
    (best : ∀ j < 16, ∀ k, entryKey (decodeFp .bf16 (cbEntry cb j)) = some k →
      keyBeats least k key = false ∧ (j < i → keyBeats least key k = true)) : c4Extreme cb least = some i := by
  rw [c4Extreme_eq]
  refine congrArg (Option.map Prod.fst) (foldl_range_best (best := some (i, key))
    (fun b => ∀ j k, b = some (j, k) → keyBeats least key k = true) hi (by simp) ?before ?found ?after)
  case before =>
    intro b j less worse
    cases h : entryKey (decodeFp .bf16 (cbEntry cb j))
    case none =>
      rw [extremeStep_nan h]
      exact worse
    case some k =>
      have later := (best j (by omega) k h).2 less
      rcases b with - | ⟨j0, k0⟩
      · rw [extremeStep_first h]
        rintro _ _ ⟨⟩
        exact later
      · rw [extremeStep_some h]
        split
        · rintro _ _ ⟨⟩
          exact later
        · exact worse
  case found =>
    rintro (- | ⟨j0, k0⟩) worse
    · exact extremeStep_first entry
    · rw [extremeStep_some entry, if_pos (worse _ _ rfl)]
  case after =>
    intro j less later
    cases h : entryKey (decodeFp .bf16 (cbEntry cb j))
    case none => exact extremeStep_nan h
    case some k => rw [extremeStep_some h, if_neg (by simp [(best j less k h).1])]

theorem c4Extreme_none {least : Bool} (nan : ∀ j < 16, isNan (decodeFp .bf16 (cbEntry cb j)) = true) :
    c4Extreme cb least = none := by
  rw [c4Extreme_eq]
  refine congrArg (Option.map Prod.fst) (foldl_range_id fun j hj => extremeStep_nan ?_)
  have := nan j hj
  revert this
  cases decodeFp .bf16 (cbEntry cb j) <;> simp [isNan, entryKey]

/-- The first entry that is not a NaN. -/
theorem find_number {i : Nat} (hi : i < 16) (number : isNan (decodeFp .bf16 (cbEntry cb i)) = false)
    (first : ∀ j < i, isNan (decodeFp .bf16 (cbEntry cb j)) = true) :
    (List.range 16).find? (fun j => !isNan (decodeFp .bf16 (cbEntry cb j))) = some i := by
  rw [List.find?_range_eq_some]
  simp [number, hi]
  exact first

theorem find_none (nan : ∀ j < 16, isNan (decodeFp .bf16 (cbEntry cb j)) = true) :
    (List.range 16).find? (fun j => !isNan (decodeFp .bf16 (cbEntry cb j))) = none := by
  rw [List.find?_eq_none]
  intro j hj
  rw [nan j (List.mem_range.mp hj)]
  exact Bool.false_ne_true

theorem quantC4_near {q : ℚ} {neg : Bool} {i : Nat} {d : ℚ} (near : c4Nearest cb q = (i, some d)) :
    quantC4 cb (.fin q neg) = (BitVec.ofNat 64 i, if d = 0 then 0 else Flags.nx) := by
  unfold quantC4
  dsimp only
  rw [near]

theorem quantC4_far {q : ℚ} {neg : Bool} {i : Nat} (far : c4Nearest cb q = (i, none)) :
    quantC4 cb (.fin q neg) = ((List.range 16).find? (fun j => !isNan (decodeFp .bf16 (cbEntry cb j)))).elim
      (0, Flags.nv) (fun i => (BitVec.ofNat 64 i, Flags.nx)) := by
  have number : (fun j => !isNan (decodeFp .bf16 (cbEntry cb j))) = fun i =>
      match decodeFp .bf16 (cbEntry cb i) with
      | .nan _ => false
      | _ => true := by
    funext j
    cases decodeFp .bf16 (cbEntry cb j) <;> rfl
  unfold quantC4
  dsimp only
  rw [far]
  dsimp only
  split <;> rename_i found <;>
    rw [(congrArg (fun g => List.find? g (List.range 16)) number).trans found] <;> rfl

theorem quantC4_inf {neg : Bool} {i : Nat} (extreme : c4Extreme cb neg = some i) : quantC4 cb (.inf neg) =
    (BitVec.ofNat 64 i, if decodeFp .bf16 (cbEntry cb i) = .inf neg then 0 else Flags.nx) := by
  unfold quantC4
  dsimp only
  rw [extreme]

theorem quantC4_nans (nan : ∀ j < 16, isNan (decodeFp .bf16 (cbEntry cb j)) = true) (y : XR) :
    quantC4 cb y = (0, Flags.nv) := by
  cases y
  case nan => rfl
  case inf neg =>
    unfold quantC4
    dsimp only
    rw [c4Extreme_none nan]
  case fin q neg =>
    have infinite : ∀ j < 16, ∀ v k, decodeFp .bf16 (cbEntry cb j) ≠ .fin v k := by
      intro j hj v k h
      exact absurd (nan j hj) (by simp [h, isNan])
    rw [quantC4_far (c4Nearest_none infinite), find_none nan]
    rfl

/-- The extreme entry is the lowest that is the infinity itself. -/
theorem c4Extreme_inf {neg : Bool} {i : Nat} (hi : i < 16) (entry : decodeFp .bf16 (cbEntry cb i) = .inf neg)
    (first : ∀ j < i, decodeFp .bf16 (cbEntry cb j) ≠ .inf neg) : c4Extreme cb neg = some i := by
  refine c4Extreme_best hi (key := (if neg then -1 else 1, 0)) (by rw [entry]; rfl) fun j hj k hk => ?_
  have differs := first j
  generalize decodeFp .bf16 (cbEntry cb j) = x at hk differs
  cases x
  case nan => cases hk
  case inf n =>
    cases hk
    cases neg <;> cases n <;> simp_all [keyBeats, keyLt]
  case fin v n =>
    cases hk
    cases neg <;> simp [keyBeats, keyLt]

theorem c4Extreme_fin {neg : Bool} {i : Nat} (hi : i < 16) {p : ℚ} {m : Bool}
    (entry : decodeFp .bf16 (cbEntry cb i) = .fin p m) (other : ∀ j < 16, decodeFp .bf16 (cbEntry cb j) ≠ .inf neg)
    (best : ∀ j < 16, ∀ v k, decodeFp .bf16 (cbEntry cb j) = .fin v k →
      (if neg then p ≤ v else v ≤ p) ∧ (j < i → v ≠ p)) : c4Extreme cb neg = some i := by
  refine c4Extreme_best hi (key := (0, p)) (by rw [entry]; rfl) fun j hj k hk => ?_
  have no := other j hj
  have near := best j hj
  generalize decodeFp .bf16 (cbEntry cb j) = x at hk no near
  cases x
  case nan => cases hk
  case inf n =>
    cases hk
    cases neg <;> cases n <;> simp_all [keyBeats, keyLt]
  case fin v n =>
    cases hk
    obtain ⟨le, ne⟩ := near v n rfl
    cases neg <;> simp only [Bool.false_eq_true, if_true, if_false] at le <;>
      simp only [keyBeats, keyLt, Bool.false_eq_true, if_true, if_false, lt_irrefl, decide_false, decide_true,
        Bool.true_and, Bool.false_or, decide_eq_false_iff_not, not_lt, decide_eq_true_eq]
    · exact ⟨le, fun less => lt_of_le_of_ne le (ne less)⟩
    · exact ⟨le, fun less => lt_of_le_of_ne le (ne less).symm⟩

end Codebook

/-- Settles O14: a conversion rounds once, saturates into an integer format, and finds the entry of a codebook. -/
theorem vectorConversionResults : Obligations.VectorConversionResults := by
  unfold Obligations.VectorConversionResults
  refine ⟨?elements, ?integers, ?codebook⟩
  case elements =>
    intro f s c env dst src x k cb
    refine ⟨?vcvt, ?vqnt, ?vdq, ?vcbld⟩ <;> intro runs
    case vcvt => exact vecSends_of_effect runs rfl (fun _ => rfl) fun _ _ _ => rfl
    case vqnt => exact vecSends_of_effect runs rfl (fun _ => rfl) fun _ _ _ => rfl
    case vdq => exact vecSends_of_effect runs rfl (fun _ => rfl) fun _ _ _ => rfl
    case vcbld => exact does_of_effect runs rfl fun _ => rfl
  case integers =>
    intro env dst src c int w lo hi code
    have low : intLo dst.width = lo := by simp [intLo, lo, w]
    have high : intHi dst.width = hi := by simp [intHi, hi, w]
    have order : lo ≤ hi := by
      have : (0 : Int) < 2 ^ (w - 1) := by positivity
      omega
    refine ⟨fun source => ?_, fun x => ?_⟩
    · unfold convert
      rw [source, int, Bool.and_self, if_pos rfl, low, high, saturate_eq order]
    · rw [convertExact_int int]
      cases x
      case nan => rfl
      case inf neg =>
        dsimp only [toIntFmt]
        rw [low, high]
      case fin q neg =>
        refine ⟨roundInt env.mode q, rounds_roundInt .., ?_⟩
        dsimp only [toIntFmt]
        rw [low, high, saturate]
        generalize roundInt env.mode q = n
        by_cases below : n < lo
        · simp only [if_pos below, if_pos below.ne', ne_eq, code]
        by_cases above : hi < n
        · simp only [if_neg below, if_pos above, if_pos above.ne, ne_eq, code]
        · simp only [if_neg below, if_neg above, ne_eq, not_true_eq_false, if_false, code]
  case codebook =>
    intro cb y entry chosen flag
    refine ⟨?nan, ?nearest, ?far, ?infinity, ?extreme⟩
    case nan =>
      rintro (nan | nans)
      · cases y
        case nan => rfl
        all_goals cases nan
      · exact quantC4_nans nans y
    case nearest =>
      rintro q n rfl i hi p m found best
      have answer := quantC4_near (neg := n) (c4Nearest_best hi found best)
      simp only [chosen, flag, answer, abs_eq_zero, sub_eq_zero, true_and]
    case far =>
      rintro q n rfl infinite i hi number first
      have answer := quantC4_far (q := q) (neg := n) (c4Nearest_none infinite)
      rw [find_number hi number first] at answer
      exact ⟨congrArg Prod.fst answer, congrArg Prod.snd answer⟩
    case infinity =>
      rintro neg rfl i hi found first
      have answer := quantC4_inf (c4Extreme_inf hi found first)
      rw [if_pos found] at answer
      exact ⟨congrArg Prod.fst answer, congrArg Prod.snd answer⟩
    case extreme =>
      rintro neg rfl other i hi p m found best
      have answer := quantC4_inf (c4Extreme_fin hi found other best)
      rw [if_neg (other i hi)] at answer
      exact ⟨congrArg Prod.fst answer, congrArg Prod.snd answer⟩

end Sys2Proof.ConversionProofs
end

section
/-! PROOFS. Reductions by the fixed tree, scaling, counts, clamping and accumulator blocks (R56, R138, R140, R142). -/

namespace Sys2Proof.ReductionProofs

open Sys2Proof Sys2Proof.Machine Sys2Proof.Claim Sys2Proof.ScalarControlProofs Sys2Proof.VectorProofs
open Sys2Proof.RoundingProofs

/-! ### The fixed pairwise tree (R56) -/

section Tree

variable (op : Code → Code → Code × Flags)

theorem length_treeLevel (l : List Code) : (treeLevel op l).1.length = (l.length + 1) / 2 := by
  induction l using treeLevel.induct op with
  | case1 a b r ih =>
    rw [treeLevel]
    simp only [List.length_cons, ih]
    omega
  | case2 l short =>
    rcases l with - | ⟨a, - | ⟨b, r⟩⟩
    · simp [treeLevel]
    · simp [treeLevel]
    · exact absurd rfl (short a b r)

theorem getD_treeLevel_pair (l : List Code) {i : Nat} (h : 2 * i + 1 < l.length) :
    (treeLevel op l).1.getD i 0 = (op (l.getD (2 * i) 0) (l.getD (2 * i + 1) 0)).1 := by
  induction l using treeLevel.induct op generalizing i with
  | case1 a b r ih =>
    rw [treeLevel]
    rcases i with - | i
    · rfl
    · exact ih (by simp only [List.length_cons] at h; omega)
  | case2 l short =>
    rcases l with - | ⟨a, - | ⟨b, r⟩⟩
    · simp at h
    · simp at h
    · exact absurd rfl (short a b r)

theorem getD_treeLevel_last (l : List Code) {i : Nat} (h : 2 * i + 1 = l.length) :
    (treeLevel op l).1.getD i 0 = l.getD (2 * i) 0 := by
  induction l using treeLevel.induct op generalizing i with
  | case1 a b r ih =>
    rw [treeLevel]
    simp only [List.length_cons] at h
    rcases i with - | i
    · omega
    · exact ih (by omega)
  | case2 l short =>
    rcases l with - | ⟨a, - | ⟨b, r⟩⟩
    · simp at h
    · obtain rfl : i = 0 := by simpa using h
      simp [treeLevel]
    · exact absurd rfl (short a b r)

/-- A flag of a level is one of a pair's combinations. -/
theorem flag_treeLevel (l : List Code) (bit : Nat) : (treeLevel op l).2.getLsbD bit = true ↔
    ∃ i, 2 * i + 1 < l.length ∧ (op (l.getD (2 * i) 0) (l.getD (2 * i + 1) 0)).2.getLsbD bit = true := by
  induction l using treeLevel.induct op with
  | case1 a b r ih =>
    rw [treeLevel]
    simp only [BitVec.getLsbD_or, Bool.or_eq_true, ih]
    constructor
    · rintro (first | ⟨i, less, flag⟩)
      · exact ⟨0, by simp, first⟩
      · exact ⟨i + 1, by simp only [List.length_cons]; omega, flag⟩
    · rintro ⟨- | i, less, flag⟩
      · exact .inl flag
      · exact .inr ⟨i, by simp only [List.length_cons] at less; omega, flag⟩
  | case2 l short =>
    rcases l with - | ⟨a, - | ⟨b, r⟩⟩
    · simp [treeLevel]
    · simp [treeLevel]
    · exact absurd rfl (short a b r)

/-- The list after some levels. -/
def levels (l : List Code) (k : Nat) : List Code := (fun l => (treeLevel op l).1)^[k] l

theorem levels_succ (l : List Code) (k : Nat) : levels op l (k + 1) = (treeLevel op (levels op l k)).1 :=
  Function.iterate_succ_apply' ..

theorem treeReduce_fst (n : Nat) (l : List Code) : (treeReduce op n l).1 = (levels op l n).head? := by
  induction n generalizing l with
  | zero => rfl
  | succ n ih => exact ih _

theorem flag_treeReduce (n : Nat) (l : List Code) (bit : Nat) : (treeReduce op n l).2.getLsbD bit = true ↔
    ∃ k < n, (treeLevel op (levels op l k)).2.getLsbD bit = true := by
  induction n generalizing l with
  | zero => simp [treeReduce]
  | succ n ih =>
    rw [treeReduce]
    simp only [BitVec.getLsbD_or, Bool.or_eq_true, ih]
    constructor
    · rintro (first | ⟨k, less, flag⟩)
      · exact ⟨0, n.succ_pos, first⟩
      · exact ⟨k + 1, by omega, flag⟩
    · rintro ⟨- | k, less, flag⟩
      · exact .inl flag
      · exact .inr ⟨k, by omega, flag⟩

/-- The reduction of a list is that of the tree. -/
theorem reduces_treeReduce (empty : Code) (l : List Code) :
    Reduces op empty l ((treeReduce op 5 l).1.getD empty, (treeReduce op 5 l).2) := by
  refine ⟨levels op l, rfl, fun k => ?_, ?_, fun bit _ => ?_⟩
  · rw [levels_succ]
    exact ⟨length_treeLevel .., fun i => ⟨getD_treeLevel_pair op _, getD_treeLevel_last op _⟩⟩
  · rw [treeReduce_fst, List.head?_eq_getElem?, List.getD_eq_getElem?_getD]
  · simp only [flag_treeReduce, flag_treeLevel]

end Tree

/-- The combination of a reduction and the value of an empty one, by the type and the function. -/
theorem redList_reduces {f : VecF} {c : Core} {op : Code → Code → Code × Flags} {empty : Code}
    (same : redOp f c = (op, empty)) (places : List (Nat × Nat)) : Reduces op empty
      ((places.filter fun p => (c.rk f.gm).getLsbD (p.1 * 32 + p.2)).map fun p => velem (c.rv f.va) c.grid.w p.1 p.2)
      (redList f c places) := by
  unfold redList
  rw [same]
  exact reduces_treeReduce ..

theorem intMinMax_high (w : Nat) (u : Bool) (a b : Code) :
    intMinMax w u true a b = if intSide w u b < intSide w u a then a else b := by
  by_cases lt : intSide w u b < intSide w u a <;> simp [intMinMax, lt]

theorem intMinMax_low (w : Nat) (u : Bool) (a b : Code) :
    intMinMax w u false a b = if intSide w u b < intSide w u a then b else a := by
  by_cases lt : intSide w u b < intSide w u a <;> simp [intMinMax, lt]

/-- A list beside its image. -/
theorem map_zip_map {α β γ : Type} (g : α → β) (h : α × β → γ) (l : List α) :
    (l.zip (l.map g)).map h = l.map fun x => h (x, g x) := by
  induction l with
  | nil => rfl
  | cons x l ih => simp [ih]

/-- Settles O15: the tree combines the guarded elements in index order; blocks are read at issue and withheld. -/
theorem vectorReduceScaleAndBlockEffects : Obligations.VectorReduceScaleAndBlockEffects := by
  unfold Obligations.VectorReduceScaleAndBlockEffects
  refine ⟨?elements, ?blocks⟩
  case elements =>
    intro f s g env t x rnd int op empty red inputs side upper lower scaled km ones
    have combination : redOp f s.core = (op, empty) := by
      unfold redOp
      refine Prod.ext (funext₂ fun a b => ?_) ?_
      · by_cases i32 : t = .i32
        · simp only [op, if_pos i32, show vTy f = .i32 from i32, if_true]
          generalize f.fn.toNat = function
          rcases function with _ | _ | function
          · rfl
          · exact congrArg (·, (0 : Flags)) (intMinMax_high ..)
          · exact congrArg (·, (0 : Flags)) (intMinMax_low ..)
        · simp only [op, if_neg i32, show ¬ vTy f = .i32 from i32, if_false]
          generalize f.fn.toNat = function
          rcases function with _ | _ | function <;> rfl
      · by_cases i32 : t = .i32
        · simp only [empty, if_pos i32, show vTy f = .i32 from i32, if_true]
          generalize f.fn.toNat = function
          rcases function with _ | _ | function <;> rfl
        · simp only [empty, if_neg i32, show ¬ vTy f = .i32 from i32, if_false]
          generalize f.fn.toNat = function
          rcases function with _ | _ | function <;> rfl
    have limit : ∀ a n, scaleElem f s.core a n = scaled a n := by
      intro a n
      unfold scaleElem
      rw [saturate_eq (by norm_num), min_comm]
      rfl
    have reads : ∀ a, intSide s.core.grid.w (f.fn == 1) a = side a := by
      intro a
      simp only [intSide, side, beq_iff_eq]
      rfl
    refine ⟨?vredr, ?vredc, ?immediate, ?register, ?vrnd, ?vpopk, ?vclamp⟩ <;> intro runs
    case vredr =>
      exact ⟨_, fun r _ => redList_reduces combination _, does_of_effect runs rfl fun _ => rfl⟩
    case vredc =>
      exact ⟨_, fun c _ => redList_reduces combination _, does_of_effect runs rfl fun _ => rfl⟩
    case immediate =>
      intro zero
      have he : exec (.vscale f) s = issue (.vscale f) (vec1 (.vscale f) f fun c a => scaleElem f c a f.imm.toInt) s :=
        congrArg (issue (.vscale f) · s) (funext fun _ => if_pos zero)
      exact vec1_of_effect (op := fun c a => scaleElem f c a f.imm.toInt) runs he fun _ a => limit a _
    case register =>
      intro nonzero
      have he : exec (.vscale f) s =
          issue (.vscale f) (vec2 (.vscale f) f fun c a b => scaleElem f c a (intOf c.grid.w b)) s :=
        congrArg (issue (.vscale f) · s) (funext fun _ => if_neg nonzero)
      exact vec2_of_effect (op := fun c a b => scaleElem f c a (intOf c.grid.w b)) runs he fun _ a b => limit a _
    case vrnd =>
      refine ⟨rndElem f s.core, vec1_of_effect (op := rndElem f) runs rfl fun _ _ => rfl, fun a => ?_⟩
      unfold rndElem
      rw [show vOp f s.core a = x a from rfl]
      cases x a
      case nan => rfl
      case inf => rfl
      case fin q neg => exact ⟨_, rounds_roundInt .., rfl⟩
    case vpopk => exact vecSends_of_effect (w := fun u => u.core.grid.w) runs rfl (fun _ => rfl) fun _ _ _ => rfl
    case vclamp =>
      refine vec3_of_effect (op := clampElem f) runs rfl fun _ a b d => ?_
      show clampElem f s.core a b d = _
      unfold clampElem
      simp only [intMinMax_high, intMinMax_low, reads]
      rfl
  case blocks =>
    intro f s c k own acc cells puts on sums
    refine ⟨?vamrd, ?vamwr, ?vamadd⟩ <;> intro runs
    case vamrd => exact does_of_effect runs rfl fun _ => rfl
    case vamwr => exact does_of_effect runs rfl fun _ => rfl
    case vamadd =>
      have elems : ((on.zip sums).map fun p => (blockKey f p.1.1 p.1.2, p.2.1.setWidth 32)) =
          (on.map fun p => (blockKey f p.1 p.2, fpAdd f c (acc p.1 p.2) (velem (c.rv f.va) 32 p.1 p.2))).map
            fun x => (x.1, x.2.1.setWidth 32) := by
        simp only [sums, map_zip_map, List.map_map]
        rfl
      have flags : sums.foldl (fun a x => a ||| x.2) 0 =
          (on.map fun p => (blockKey f p.1 p.2, fpAdd f c (acc p.1 p.2) (velem (c.rv f.va) 32 p.1 p.2))).foldl
            (fun a x => a ||| x.2.2) (0 : Flags) := by
        simp only [sums, List.foldl_map]
      rw [elems, flags]
      exact does_of_effect runs rfl fun _ => rfl

end Sys2Proof.ReductionProofs
end

section
/-! PROOFS. What a packet's answer is, and what a gateway does with a packet that has come in (R294, R307, R343 to R346,
R349). -/

namespace Sys2Proof.PacketProofs

open Sys2Proof Sys2Proof.Machine Sys2Proof.Claim Sys2Proof.ReleaseProofs Sys2Proof.StackProofs

/-! ### Sending a message changes the network alone -/

/-- Two states that differ in the network alone. -/
def SentBy (s t : State) : Prop := ∃ n, t = { s with net := n }

section SentBy

variable {s t u : State}

-- Memory is bounded and each thread holds some: what stands before is checked before more is begun.
set_option Elab.async false in
theorem SentBy.refl (s : State) : SentBy s s := ⟨s.net, rfl⟩

theorem SentBy.trans (h : SentBy s t) (h' : SentBy t u) : SentBy s u := by
  obtain ⟨n, rfl⟩ := h
  obtain ⟨n', rfl⟩ := h'
  exact ⟨n', rfl⟩

theorem sentBy_launch (s : State) (m : Msg) : SentBy s (s.launch m) := by
  unfold State.launch
  split
  · exact ⟨_, rfl⟩
  · exact .refl s

theorem sentBy_sendMsg (s : State) (m : Msg) : SentBy s (s.sendMsg m) := .trans ⟨_, rfl⟩ (sentBy_launch ..)

theorem sentBy_sendAs (s : State) (src : Port) (op : NetOp) (p : Packet) (home : BitVec 12)
    (l : List (Nat × BitVec 64 × List Byte)) : SentBy s (s.sendAs src op p home l) := by
  unfold State.sendAs State.carry
  split
  · split
    · exact sentBy_sendMsg ..
    · exact .refl s
  · exact .refl s

/-- A message that is sent stands last in the network, as it was given. -/
theorem sendMsg_stands (s : State) (m : Msg) : ∃ y, (s.sendMsg m).net.msgs.getLast? = some y ∧ y.op = m.op ∧
    y.packet = m.packet ∧ y.src = m.src ∧ y.final = m.final := by
  unfold State.sendMsg
  extract_lets y
  unfold State.launch
  split
  next i _ =>
    refine ⟨{ y with mid := some i, entries := y.entries.map fun e => e.from' y i }, ?_, rfl, rfl, rfl, rfl⟩
    simp only [State.updMsg, List.map_append, List.map_cons, List.map_nil, List.getLast?_concat, if_true]
  · exact ⟨y, List.getLast?_concat, rfl, rfl, rfl, rfl⟩

end SentBy

/-- A message is on its way by the ports of its source and its end, and beside the network nothing has changed. -/
theorem sendMsg_sent {s t : State} (onNet : OnNet s t) (m : Msg) : (t.sendMsg m).mem = s.mem ∧
    (t.sendMsg m).core = s.core ∧ ∃ y, (t.sendMsg m).net.msgs.getLast? = some y ∧ y.op = m.op ∧ y.packet = m.packet ∧
      y.src = m.src ∧ y.final = m.final := by
  obtain ⟨_, _, rfl⟩ := onNet
  refine ⟨?_, ?_, sendMsg_stands ..⟩ <;> rw [(sentBy_sendMsg _ m).choose_spec]

theorem toHome_sent {s t : State} (onNet : OnNet s t) (i : BitVec 4) (x : Context) (p : Packet) :
    (t.toHome i x p).mem = s.mem ∧ (t.toHome i x p).core = s.core ∧ ∃ y, (t.toHome i x p).net.msgs.getLast? = some y ∧
      y.op = homeOp p ∧ y.packet = some p ∧ y.src = trepinPort i ∧ y.final = homePort (s.forwarded p.addr.toNat) := by
  obtain ⟨_, _, rfl⟩ := onNet
  exact sendMsg_sent (t := { s with net := _, fab := _ }) ⟨_, _, rfl⟩ _

theorem sentBy_toHome (s : State) (i : BitVec 4) (x : Context) (p : Packet) : SentBy s (s.toHome i x p) :=
  sentBy_sendMsg ..

theorem toAsker_sent {s t : State} (onNet : OnNet s t) (i : BitVec 4) (m : Msg) (p : Packet) :
    (t.toAsker i m p).mem = s.mem ∧ (t.toAsker i m p).core = s.core ∧ ∃ y, (t.toAsker i m p).net.msgs.getLast? = some y ∧
      y.op = m.op.answerOp ∧ y.packet = some p ∧ y.src = trepinPort i ∧ y.final = s.askerPort m := by
  obtain ⟨_, _, rfl⟩ := onNet
  exact sendMsg_sent (t := { s with net := _, fab := _ }) ⟨_, _, rfl⟩ _

/-! ### Answers (R342, R343) -/

/-- Two modules with the same number, keys, peers and routes: a packet leaves both or neither. -/
structure SameFabric (s t : State) : Prop where
  modid : t.modid = s.modid
  keys : t.fab.keys = s.fab.keys
  peers : t.fab.peers = s.fab.peers
  routes : t.fab.routes = s.fab.routes
  links : t.fab.links = s.fab.links

theorem SameFabric.refl (s : State) : SameFabric s s := ⟨rfl, rfl, rfl, rfl, rfl⟩

/-- A packet that answers another, whatever its lines are. -/
structure Replies (p : Packet) (type : BitVec 8) (aux : BitVec 32) (q : Packet) : Prop where
  type : q.type = type
  aux : q.aux = aux
  pid : q.pid = p.pid
  dmod : q.dmod = p.smod
  addr : q.addr = p.addr

theorem replies_answerTo (p : Packet) (type : BitVec 8) (aux : BitVec 32) (opnd : Word) :
    Replies p type aux (answerTo p type aux opnd) := ⟨rfl, rfl, rfl, rfl, rfl⟩

section Answers

variable {s t : State} {p q : Packet} {type : BitVec 8} {aux : BitVec 32}

/-- With a key for the module and a port that reaches it, a message carries the sealed answer. -/
theorem carrier_of_reaches (same : SameFabric s t) (replies : Replies p type aux q) (home : BitVec 12)
    (lines : List (Nat × BitVec 64 × List Byte)) (src : Port) (op : NetOp)
    (key : (s.keySlot p.smod true (s.sendIx p.smod)).isSome = true) (port : p.smod = s.modid ∨ s.routePorts p.smod ≠ []) :
    ∃ a m, t.sealed q home lines = some a ∧ Replies p type aux a ∧ t.carrier src op a = some m ∧ m.packet = some a := by
  have keys : t.keySlot = s.keySlot := by
    funext m b i
    rw [State.keySlot, same.keys, State.keySlot]
  have index : t.sendIx = s.sendIx := by
    funext m
    rw [State.sendIx, same.peers, State.sendIx]
  have routes : t.routePorts = s.routePorts := by
    funext m
    simp only [State.routePorts, same.routes, same.links]
  obtain ⟨k, found⟩ := Option.isSome_iff_exists.mp key
  have sealed : ∃ a, t.sealed q home lines = some a ∧ Replies p type aux a := by
    have slot : t.keySlot q.dmod true (t.sendIx q.dmod) = some k := by rw [replies.dmod, keys, index, found]
    exact ⟨_, congrArg (Option.map _) slot, replies.type, replies.aux, replies.pid, replies.dmod, replies.addr⟩
  obtain ⟨a, sealed, is⟩ := sealed
  have leaves : ∃ i, t.portOf src.die a = some i := by
    rw [State.portOf, is.dmod, same.modid, routes]
    dsimp only
    split
    · exact ⟨_, rfl⟩
    next other =>
      have some : s.routePorts p.smod ≠ [] := port.resolve_left other
      exact ⟨_, List.getElem?_eq_getElem (Nat.mod_lt _ (List.length_pos_iff.mpr some))⟩
  obtain ⟨i, leaves⟩ := leaves
  exact ⟨a, _, sealed, is, by rw [State.carrier, leaves]; rfl, rfl⟩

theorem answers_sendAs (same : SameFabric s t) (replies : Replies p type aux q) (home : BitVec 12)
    (lines : List (Nat × BitVec 64 × List Byte)) (src : Port) (op : NetOp) :
    AnswersPacket s (t.sendAs src op q home lines) p type aux := by
  intro key port
  obtain ⟨a, m, sealed, is, carried, packet⟩ := carrier_of_reaches same replies home lines src op key port
  obtain ⟨y, last, -, packet', -, -⟩ := sendMsg_stands t m
  refine ⟨y, a, ?_, packet'.trans packet, is.type, is.aux, is.pid, is.dmod, is.addr⟩
  have sent : t.sendAs src op q home lines = t.sendMsg m := by
    unfold State.sendAs State.carry
    rw [sealed]
    dsimp only
    rw [carried]
  rw [sent]
  exact last

theorem answers_answerFrom (same : SameFabric s t) (src : Port) (p : Packet) (type : BitVec 8) (aux : BitVec 32)
    (opnd : Word) (data : List Byte) : AnswersPacket s (t.answerFrom src p type aux opnd data) p type aux :=
  answers_sendAs same (replies_answerTo p type aux opnd) t.modid (linesOf p.addr.toNat data) src (answerOp type)

theorem sentBy_answerFrom (t : State) (src : Port) (p : Packet) (type : BitVec 8) (aux : BitVec 32) (opnd : Word)
    (data : List Byte) : SentBy t (t.answerFrom src p type aux opnd data) := sentBy_sendAs ..

/-- Nothing was sent since, so that an answer leaves at once. -/
theorem answers_answerLater (same : SameFabric s t) (quiet : t.net.msgs = []) (replies : Replies p type aux q)
    (since : Nat) (lines : List (Nat × BitVec 64 × List Byte)) :
    AnswersPacket s (t.answerLater since p q lines) p type aux := by
  intro key port
  obtain ⟨a, m, sealed, is, carried, packet⟩ := carrier_of_reaches same replies t.modid lines
    (homePort (t.forwarded p.addr.toNat)) (answerOp q.type) key port
  obtain ⟨y, last, -, packet', -, -⟩ := sendMsg_stands t m
  refine ⟨y, a, ?_, packet'.trans packet, is.type, is.aux, is.pid, is.dmod, is.addr⟩
  rw [State.answerLater, sealed, Option.bind_some, carried]
  dsimp only
  rw [State.sendLater, quiet]
  exact last

theorem sentBy_answerLater (quiet : t.net.msgs = []) (since : Nat) (lines : List (Nat × BitVec 64 × List Byte)) :
    SentBy t (t.answerLater since p q lines) := by
  unfold State.answerLater
  split
  · rw [State.sendLater, quiet]
    exact sentBy_sendMsg ..
  · exact .refl t

end Answers

/-! ### A packet at its gateway (R343 to R346, R349) -/

section Gateway

variable {s : State} {p : Packet} (occ : s.occ = .packet p) (waits : s.packetWaits p = false)
include occ waits

/-- The event of a packet's type takes the packet. -/
theorem exec_takes {i : Instr} {type : BitVec 8} {f : State → Packet → State}
    (he : exec i s = event (match s.packetOf? [type] with
      | some p => f s p
      | none => s)) (is : p.type = type) : exec i s = .next (f s p) := by
  have found : s.packetOf? [type] = some p := by
    rw [State.packetOf?, occ]
    simp [waits, is]
  rw [he, found]
  rfl

omit occ waits in
/-- A packet of reserved form leaves the list of those that wait, and is logged. -/
theorem gate_reserved (reserved : packetForm p = false) :
    s.gate p = .drop ((s.takeOut p).logFabric (portUnit (s.portFor p)) 0x02 p.smod p.addr.toNat) := by
  unfold State.gate
  dsimp only
  rw [reserved]
  rfl

omit occ waits in
/-- A packet that is admitted has left that list. -/
theorem gate_admits {t : State} {x : Context} {k : KeySlot} (admitted : s.gate p = .admits t x k) : t = s.takeOut p := by
  unfold State.gate at admitted
  dsimp only at admitted
  split at admitted
  · cases admitted
  · split at admitted
    · cases admitted
    · split at admitted
      · split at admitted
        · split at admitted
          · cases admitted
            rfl
          · cases admitted
        · cases admitted
      · cases admitted

omit occ waits in
theorem bareRefusal_form (reserved : packetForm p = false) : bareRefusal p = false := by
  rw [bareRefusal, reserved]
  rfl

omit occ waits in
theorem takeAnswerPacket_reserved (reserved : packetForm p = false) :
    takeAnswerPacket s p = (s.takeOut p).logFabric (portUnit (s.portFor p)) 0x02 p.smod p.addr.toNat := by
  unfold takeAnswerPacket
  dsimp only
  rw [bareRefusal_form reserved, gate_reserved reserved]
  rfl

omit occ waits in
theorem takeRequest_reserved (reserved : packetForm p = false) :
    takeRequest s p = (s.takeOut p).logFabric (portUnit (s.portFor p)) 0x02 p.smod p.addr.toNat := by
  unfold takeRequest
  rw [gate_reserved reserved]

/-- Each event drops a packet of reserved form. -/
theorem exec_reserved (reserved : packetForm p = false) {e : Instr × BitVec 8}
    (mem : e ∈ [(Instr.trepinWrite, (1 : BitVec 8)), (.trepinReadRequest, 2), (.trepinReadResponse, 3),
      (.trepinWriteAck, 4), (.trepinAtMemoryOperation, 5), (.trepinAtMemoryResponse, 6), (.fencePacket, 7),
      (.fenceResponse, 8), (.trepinCounterDecrement, 9), (.podBarrierArrival, 10), (.trepinParameter, 11),
      (.scheduledBlock, 12), (.trepinPacketDiscard, p.type)]) (type : e.2 = p.type) :
    exec e.1 s = .next ((s.takeOut p).logFabric (portUnit (s.portFor p)) 0x02 p.smod p.addr.toNat) := by
  have request := takeRequest_reserved (s := s) reserved
  have answer := takeAnswerPacket_reserved (s := s) reserved
  have gate := gate_reserved (s := s) reserved
  simp only [List.mem_cons, List.not_mem_nil, or_false] at mem
  obtain rfl | rfl | rfl | rfl | rfl | rfl | rfl | rfl | rfl | rfl | rfl | rfl | rfl := mem
  case inr.inr.inr.inr.inr.inr.inr.inr.inr.inr.inr.inr =>
    show execTrepinPacketDiscard s = _
    rw [execTrepinPacketDiscard, occ]
    dsimp only
    rw [gate]
    rfl
  all_goals refine (exec_takes occ waits rfl type.symm).trans (congrArg Host.Outcome.next ?_)
  case inr.inr.inr.inr.inr.inr.inl =>
    unfold takeFence
    rw [gate]
  case inr.inr.inr.inr.inr.inr.inr.inr.inr.inl =>
    unfold takeBarrier
    rw [gate]
  case inr.inr.inr.inr.inr.inr.inr.inr.inr.inr.inl =>
    unfold takeParameter
    split
    · exact answer
    · exact request
  all_goals assumption

/-- A request that is admitted travels to its home unit as it came. -/
theorem exec_request {t : State} {x : Context} {k : KeySlot} (admitted : s.gate p = .admits t x k)
    {e : Instr × BitVec 8 × NetOp}
    (mem : e ∈ [(Instr.trepinWrite, (1 : BitVec 8), NetOp.write), (.trepinReadRequest, 2, .readReq),
      (.trepinAtMemoryOperation, 5, .atomic), (.trepinCounterDecrement, 9, .counter), (.trepinParameter, 11, .paramReq),
      (.scheduledBlock, 12, .write)]) (type : p.type = e.2.1) (asks : p.type = 11 → p.aux.toNat % 256 ≠ auxParamResponse) :
    exec e.1 s = .next (t.toHome (s.portFor p) x p) ∧ homeOp p = e.2.2 := by
  have request : takeRequest s p = t.toHome (s.portFor p) x p := by
    unfold takeRequest
    rw [admitted]
  have kind : homeOp p = homeOp { p with type := e.2.1 } := by rw [homeOp, type]; rfl
  rw [kind, ← request]
  simp only [List.mem_cons, List.not_mem_nil, or_false] at mem
  obtain rfl | rfl | rfl | rfl | rfl | rfl := mem <;> refine ⟨?_, rfl⟩
  case inr.inr.inr.inr.inl =>
    refine (exec_takes occ waits (f := takeParameter) rfl type).trans (congrArg Host.Outcome.next ?_)
    exact if_neg (asks type)
  all_goals exact exec_takes occ waits (f := takeRequest) rfl type

/-- An answer that is admitted travels to its requester as it came. -/
theorem exec_answer {t : State} {x : Context} {k : KeySlot} (admitted : s.gate p = .admits t x k) {m : Msg}
    (answered : t.answered p = some m) (sealed : bareRefusal p = false) {e : Instr × BitVec 8}
    (mem : e ∈ [(Instr.trepinReadResponse, (3 : BitVec 8)), (.trepinWriteAck, 4), (.trepinAtMemoryResponse, 6),
      (.fenceResponse, 8), (.trepinParameter, 11)]) (type : p.type = e.2)
    (answers : p.type = 11 → p.aux.toNat % 256 = auxParamResponse) :
    exec e.1 s = .next (t.toAsker (s.portFor p) m p) := by
  have answer : takeAnswerPacket s p = t.toAsker (s.portFor p) m p := by
    unfold takeAnswerPacket
    dsimp only
    rw [sealed, if_neg Bool.false_ne_true, admitted]
    dsimp only
    rw [answered]
  rw [← answer]
  simp only [List.mem_cons, List.not_mem_nil, or_false] at mem
  obtain rfl | rfl | rfl | rfl | rfl := mem
  case inr.inr.inr.inr =>
    refine (exec_takes occ waits (f := takeParameter) rfl type).trans (congrArg Host.Outcome.next ?_)
    exact if_pos (answers type)
  all_goals exact exec_takes occ waits (f := takeAnswerPacket) rfl type

/-- A fence whose comparison is made: the counts it names are reset. -/
def fenceReset (s : State) (p : Packet) : State :=
  { s with fab := { s.fab with recv := s.fab.recv.filter fun e =>
      !(e.smod == p.smod && e.pcid == p.pcid && e.fcid == p.fcid &&
        (bits p.opnd 32 16 : BitVec 16).getLsbD e.cls.toNat) } }

omit occ waits in
theorem mem_fenceReset (e : RecvCount) : e ∈ (fenceReset s p).fab.recv ↔ e ∈ s.fab.recv ∧
    ¬ (e.smod = p.smod ∧ e.pcid = p.pcid ∧ e.fcid = p.fcid ∧
      (bits p.opnd 32 16 : BitVec 16).getLsbD e.cls.toNat = true) := by
  simp only [fenceReset, List.mem_filter, Bool.not_eq_true', ← Bool.not_eq_true, Bool.and_eq_true, beq_iff_eq,
    and_assoc]

/-- The address of a fence's counter against the range table. -/
def fenceCode (x : Context) (p : Packet) : BitVec 8 := x.rangeCode ((List.range 4).map (p.addr.toNat + ·)) true

section Fence

variable {t : State} {x : Context} {k : KeySlot} (admitted : s.gate p = .admits t x k) (type : p.type = 7)
include admitted type

theorem fence_same (same : t.fenceRecv p (bits p.opnd 32 16) = p.aux) : exec .fencePacket s = .next
    (if fenceCode x p ≠ 0 then
      (fenceReset t p).answerFrom (trepinPort (s.portFor p)) p 0x08 ((fenceCode x p).setWidth 32) 0 []
    else (fenceReset t p).toHome (s.portFor p) x p) := by
  refine (exec_takes occ waits (f := takeFence) rfl type).trans (congrArg Host.Outcome.next ?_)
  unfold takeFence
  rw [admitted]
  dsimp only
  rw [beq_iff_eq.mpr same]
  rfl

theorem fence_differs (other : t.fenceRecv p (bits p.opnd 32 16) ≠ p.aux) : exec .fencePacket s = .next
    (((fenceReset t p).logFabric (portUnit (s.portFor p)) 0x03 p.smod p.addr.toNat).answerFrom
      (trepinPort (s.portFor p)) p 0x08 (if fenceCode x p = 0 then 3 else (fenceCode x p).setWidth 32) 0 []) := by
  refine (exec_takes occ waits (f := takeFence) rfl type).trans (congrArg Host.Outcome.next ?_)
  unfold takeFence
  rw [admitted]
  dsimp only
  rw [beq_eq_false_iff_ne.mpr other]
  by_cases ok : fenceCode x p = 0
  · exact (if_neg (not_not.mpr ok)).trans (by rw [if_pos ok]; rfl)
  · exact (if_pos ok).trans (by rw [if_neg ok]; rfl)

end Fence

end Gateway

end Sys2Proof.PacketProofs
end

section
/-! PROOFS. What a home unit does with a packet: writes, reads, at-memory operations and decrements (R343 to R348). -/

namespace Sys2Proof.PacketProofs

open Sys2Proof Sys2Proof.Machine Sys2Proof.Claim Sys2Proof.ReleaseProofs Sys2Proof.HomeProofs
  Sys2Proof.CheckpointProofs Sys2Proof.MessageProofs Sys2Proof.QueueProofs

/-! ### Changes off the fabric -/

/-- What memory, tasks and the service do where no page is mirrored: the network and the fabric are as before, and
still no page is mirrored. -/
structure OffNet (s t : State) : Prop where
  net : t.net = s.net
  fab : t.fab = s.fab
  modid : t.modid = s.modid
  unmirrored : Unmirrored t

section OffNet

variable {s t u : State}

theorem OffNet.refl (h : Unmirrored s) : OffNet s s := ⟨rfl, rfl, rfl, h⟩

theorem OffNet.trans (h : OffNet s t) (h' : OffNet t u) : OffNet s u :=
  ⟨h'.net.trans h.net, h'.fab.trans h.fab, h'.modid.trans h.modid, h'.unmirrored⟩

theorem OffNet.sameFabric (h : OffNet s t) : SameFabric s t :=
  ⟨h.modid, congrArg _ h.fab, congrArg _ h.fab, congrArg _ h.fab, congrArg _ h.fab⟩

theorem OffNet.wrote (h : OffNet s t) (w : Wrote t u) : OffNet s u := by
  have unmirrored := w.unmirrored
  obtain ⟨_, _, _, _, rfl⟩ := w.state
  exact ⟨h.net, h.fab, h.modid, unmirrored⟩

/-- A change of the tasks or the service. -/
theorem OffNet.step (h : OffNet s t) (net : u.net = t.net) (fab : u.fab = t.fab) (modid : u.modid = t.modid)
    (contexts : u.contexts = t.contexts) : OffNet s u :=
  ⟨net.trans h.net, fab.trans h.fab, modid.trans h.modid, fun x mem => h.unmirrored x (contexts ▸ mem)⟩

theorem OffNet.relink (h : OffNet s t) (die : BitVec 2) : OffNet s (t.relink die) :=
  h.wrote (wrote_linkAll _ h.unmirrored)

theorem OffNet.bindTo (h : OffNet s t) (q : BitVec 14) (slot : Nat) : OffNet s (t.bindTo q slot) := by
  unfold State.bindTo
  refine OffNet.relink ?_ _
  exact h.step rfl rfl rfl rfl

theorem OffNet.bindQueue (h : OffNet s t) (q : BitVec 14) : OffNet s (t.bindQueue q) := by
  unfold State.bindQueue
  split
  · exact h
  · split
    · exact h
    · split
      · exact h
      · split
        · exact h.bindTo ..
        · split
          · refine OffNet.bindTo ?_ ..
            exact h.step rfl rfl rfl rfl
          · exact h.step rfl rfl rfl rfl

theorem OffNet.poolPush (h : OffNet s t) (die : BitVec 2) (e : PoolEntry) : OffNet s (t.poolPush die e) := by
  unfold State.poolPush State.tellUncovered
  refine OffNet.step (t := ite ..) ?_ rfl rfl rfl rfl
  split
  · exact h.step rfl rfl rfl rfl
  · refine OffNet.relink ?_ die
    exact h.step rfl rfl rfl rfl

theorem OffNet.setField (h : OffNet s t) (a : BitVec 16) (v n x : Nat) : OffNet s (t.setField a v n x) :=
  h.wrote (wrote_setField h.unmirrored ..)

theorem OffNet.store (h : OffNet s t) (l : List (Nat × Byte)) : OffNet s (t.store l) :=
  h.wrote (wrote_store h.unmirrored l)

theorem OffNet.readyTask (h : OffNet s t) (a : BitVec 16) (rec : VAddr) (q : BitVec 14) (save : Option Nat) :
    OffNet s (t.readyTask a rec q save) := by
  unfold State.readyTask
  split
  · exact h
  · extract_lets u v rank w
    have started : OffNet s u := by
      show OffNet s (ite ..)
      split
      · exact h.setField ..
      · exact h
    have readied : OffNet s v := started.setField ..
    have ranked : OffNet s w := readied.setField ..
    exact (ranked.bindQueue q).poolPush ..

/-- A decrement does not touch the network. -/
theorem OffNet.decrementAt (h : OffNet s t) (pa : Nat) (va : VAddr) (n : BitVec 32) :
    OffNet s (t.decrementAt pa va n) := by
  unfold State.decrementAt
  extract_lets cnt flag u
  have counted : OffNet s u := h.store _
  have flagged : ∀ m, OffNet s (flag u m) := fun m => counted.store _
  split
  · exact h
  · split
    · exact (flagged 4).step rfl rfl rfl rfl
    · split
      · split
        · exact flagged 2
        · split
          · refine OffNet.readyTask ?_ ..
            exact counted.step rfl rfl rfl rfl
          · exact counted
        · exact counted
      · exact counted

theorem OffNet.performed (h : OffNet s t) (p : Performed t u) (unmirrored : Unmirrored u) : OffNet s u := by
  obtain ⟨_, _, _, _, rfl⟩ := p
  exact ⟨h.net, h.fab, h.modid, unmirrored⟩

end OffNet

/-! ### What a home unit logs -/

/-- Two states that differ in the service alone. -/
def Noted (s t : State) : Prop := ∃ c, t = { s with svc := c }

section Noted

variable {s t u : State}

theorem Noted.refl (s : State) : Noted s s := ⟨_, rfl⟩

theorem Noted.trans (h : Noted s t) (h' : Noted t u) : Noted s u := by
  obtain ⟨_, rfl⟩ := h
  obtain ⟨_, rfl⟩ := h'
  exact ⟨_, rfl⟩

theorem Noted.sameFabric (h : Noted s t) : SameFabric s t := by
  obtain ⟨_, rfl⟩ := h
  exact ⟨rfl, rfl, rfl, rfl, rfl⟩

theorem Noted.performed (h : Noted s t) : Performed s t := by
  obtain ⟨_, rfl⟩ := h
  exact ⟨_, _, _, _, rfl⟩

theorem noted_foldl {β : Type} {g : State → β → State} (h : ∀ s b, Noted s (g s b)) (l : List β) (s : State) :
    Noted s (l.foldl g s) := by
  induction l generalizing s with
  | nil => exact .refl s
  | cons b l ih => exact (h s b).trans (ih _)

theorem noted_admitLog (s : State) (x : Context) (a n : Nat) (write : Bool) : Noted s (s.admitLog x a n write) := by
  unfold State.admitLog
  split
  · exact noted_foldl (fun s (r : Nat × Nat) => ⟨_, State.logPoison_frame s r.1 r.2⟩) _ s
  · exact .refl s

theorem noted_logTag (s : State) (p : Packet) : Noted s (s.logTag p) := ⟨_, rfl⟩

/-- A home unit's refusal or answer, after what it logged. -/
theorem answerPacket_noted (h : Noted s t) (p : Packet) (type : BitVec 8) (aux : BitVec 32) (opnd : Word)
    (data : List Byte) : ∃ n c, t.answerPacket p type aux opnd data = { s with net := n, svc := c } ∧
      AnswersPacket s (t.answerPacket p type aux opnd data) p type aux := by
  obtain ⟨n, sent⟩ := sentBy_answerFrom t (homePort (t.forwarded p.addr.toNat)) p type aux opnd data
  refine ⟨n, t.svc, ?_, answers_answerFrom h.sameFabric (homePort (t.forwarded p.addr.toNat)) p type aux opnd data⟩
  obtain ⟨_, rfl⟩ := h
  exact sent

end Noted

/-! ### An at-memory operation (R185, R343) -/

section Atomic

variable {s : State} (unmirrored : Unmirrored s)
include unmirrored

theorem performed_fabEnq (x : Context) (a : Nat) (l : List Byte) : Performed s (s.fabEnq x a l).state := by
  unfold State.fabEnq
  dsimp only
  generalize ([a, a + 8, _] ++ _ : List Nat) = places
  split
  · exact (noted_foldl (fun s b => noted_admitLog s x b 8 true) places s).performed
  · split
    · exact .refl s
    · split
      · exact .refl s
      · exact performed_enqueue unmirrored ..

theorem performed_fabAtomic (x : Context) (k : KeySlot) (p : Packet) : Performed s (s.fabAtomic x k p).state := by
  unfold State.fabAtomic
  extract_lets a h sub blk w read own wcode b second
  split
  · exact .refl s
  split
  · exact .refl s
  split
  · exact performed_fabEnq unmirrored ..
  split
  · exact (noted_admitLog ..).performed
  split
  · exact performed_amoAt unmirrored ..
  split
  · split
    · exact (noted_admitLog ..).performed
    · exact performed_dcasAt unmirrored ..
  split
  · exact .refl s
  · exact performed_casAt unmirrored ..

end Atomic

/-! ### The packet that the one message brings to its home unit -/

section AtHome

variable {s : State} {m : Msg} {p : Packet} (packet : m.packet = some p)
include packet

/-- The unit opens the packet, and the rows it asks for are activated. -/
theorem takeMsg_packet (unit : m.final.isTrepin = false) (home : State) :
    ∃ a, s.takeMsg m home = { s.packetEnd m p with activations := a } := by
  unfold State.takeMsg
  rw [packet]
  dsimp only
  rw [unit, if_neg Bool.false_ne_true]
  split
  · exact activate_frame ..
  · exact ⟨_, rfl⟩

theorem takeMsg_asks (unit : m.final.isTrepin = false) (asks : m.op.asks = true) (home : State) :
    s.takeMsg m home = (s.packetEnd m p).activate (s.places m) := by
  unfold State.takeMsg
  rw [packet]
  dsimp only
  rw [unit, if_neg Bool.false_ne_true, if_pos asks]

variable {x : Context} {k : KeySlot} (known : s.context? m.asid = some x) (key : s.recvKey p = some k)
  (whole : m.psn = false)
include known key whole

omit packet in
theorem atHome_eq (f : State → Packet → Context → KeySlot → State) : s.atHome m p f = f s p x k := by
  have same : { p with psn := p.psn || m.psn } = p := by rw [whole, Bool.or_false]
  unfold State.atHome
  dsimp only
  rw [same, known, key]

omit packet in
/-- A packet of a type that one of the home unit's operations serves. -/
theorem packetEnd_eq {f : State → Packet → Context → KeySlot → State}
    (serves : s.packetEnd m p = s.atHome m p fun t p x k => f (t.dropMsg m.id) p x k) :
    s.packetEnd m p = f (s.dropMsg m.id) p x k := serves.trans (atHome_eq known key whole _)

/-- The event of such a packet. -/
theorem exec_home {f : State → Packet → Context → KeySlot → State} {i : Instr} {h : State}
    (unit : m.final.isTrepin = false)
    (serves : s.packetEnd m p = s.atHome m p fun t p x k => f (t.dropMsg m.id) p x k)
    (run : exec i s = event (s.takeMsg m h)) :
    ∃ a, exec i s = .next { f (s.dropMsg m.id) p x k with activations := a } := by
  obtain ⟨a, took⟩ := takeMsg_packet packet unit h
  rw [packetEnd_eq known key whole serves] at took
  exact ⟨a, run.trans (congrArg event took)⟩

omit known key whole packet in
theorem codeAux_sound (sound : p.psn = false) (code : BitVec 8) : codeAux p code = code.setWidth 32 := by
  rw [codeAux, sound]
  exact BitVec.or_zero

end AtHome

/-! ### Writes (R343, R345, R354) -/

section Write

variable {t : State} {x : Context} {k : KeySlot} {p : Packet} (sched : Bool) (sound : p.psn = false)

/-- A write that is refused changes no byte and is answered with its code. -/
theorem homeWrite_code (sound : p.psn = false) (bad : t.writeCode x k p ≠ 0) : ∃ n c, homeWrite sched t p x k = { t with net := n, svc := c } ∧
    AnswersPacket t (homeWrite sched t p x k) p 0x04 ((t.writeCode x k p).setWidth 32) := by
  have run : homeWrite sched t p x k = (if t.writeCode x k p = 0x08 then t.logTag p else t).answerPacket p 0x04
      ((t.writeCode x k p).setWidth 32) 0 [] := by
    rw [← codeAux_sound sound]
    exact if_pos bad
  have noted : Noted t (if t.writeCode x k p = 0x08 then t.logTag p else t) := by
    split
    · exact noted_logTag ..
    · exact .refl t
  rw [run]
  exact answerPacket_noted noted ..

variable (ok : t.writeCode x k p = 0)
include ok

theorem homeWrite_countFull (full : t.countFull p = true) : homeWrite sched t p x k = t.answerPacket p 0x04 auxCountFull 0 [] :=
  (if_neg (not_not.mpr ok)).trans (if_pos full)

theorem homeWrite_landingFull (room : t.countFull p = false) (full : t.landingFull p = true) :
    homeWrite true t p x k = t.answerPacket p 0x04 auxLandingFull 0 [] := by
  refine (if_neg (not_not.mpr ok)).trans ((if_neg (ne_true_of_eq_false room)).trans (if_pos ?_))
  rw [full]
  rfl

/-- The bytes of a write, by their address at this module. -/
def writtenCells (t : State) (k : KeySlot) (p : Packet) : List (Nat × Byte) :=
  (plainCells k p t.modid).map fun c => (t.forwarded c.1, c.2)

/-- A write that its checks allow. -/
def written (sched : Bool) (t : State) (p : Packet) (k : KeySlot) : State :=
  let u := t.store (writtenCells t k p)
  (if sched then u.land p (writtenCells t k p) else u).countRecv p p.lines.length

theorem homeWrite_done (room : t.countFull p = false) (lands : sched = true → t.landingFull p = false) :
    homeWrite sched t p x k = (written sched t p k).answerLater t.net.nextMsg p (answerTo p 0x04 0 0) [] := by
  refine (if_neg (not_not.mpr ok)).trans ((if_neg (ne_true_of_eq_false room)).trans (if_neg ?_))
  cases sched
  · exact Bool.false_ne_true
  · rw [lands rfl]
    exact Bool.false_ne_true

omit ok in
/-- A scheduled block has its entry in the landing table. -/
theorem land_entry (t : State) (p : Packet) (l : List (Nat × Byte)) :
    ∃ e ∈ (t.land p l).fab.landing, e.smod = p.smod ∧ e.slot = p.slot := by
  have entry : ∃ e ∈ (if t.fab.landing.any fun e => e.smod == p.smod && e.slot == p.slot then t.fab.landing
      else t.fab.landing ++ [⟨p.smod, p.slot, 0, p.aux.toNat, []⟩] : List Landing), e.smod = p.smod ∧ e.slot = p.slot := by
    split
    next some => simpa using some
    next => exact ⟨_, List.mem_append_right _ List.mem_cons_self, rfl, rfl⟩
  obtain ⟨e, mem, smod, slot⟩ := entry
  refine ⟨_, List.mem_map_of_mem mem, ?_⟩
  rw [if_pos ⟨smod, slot⟩]
  exact ⟨smod, slot⟩

omit ok in
theorem written_mem (unmirrored : Unmirrored t) : (written sched t p k).mem = Sparse.setAll 0 t.mem (writtenCells t k p) := by
  have stored := congrArg State.mem (store_of_unmirrored unmirrored (writtenCells t k p))
  unfold written
  cases sched <;> exact stored

omit ok in
theorem written_net (unmirrored : Unmirrored t) : (written sched t p k).net = t.net ∧ SameFabric t (written sched t p k) := by
  have stored := (OffNet.refl unmirrored).store (writtenCells t k p)
  have same := stored.sameFabric
  unfold written
  cases sched <;> exact ⟨stored.net, same.modid, same.keys, same.peers, same.routes, same.links⟩

end Write

/-! ### Reads, at-memory operations and decrements (R343) -/

section Access

variable {t : State} {x : Context} {k : KeySlot} {p : Packet}

section Sound

variable (sound : p.psn = false)
include sound

theorem homeRead_done (ok : t.admitCode x p.addr.toNat (min 2048 p.aux.toNat) false true = 0) : homeRead t p x k =
    t.answerPacket p 0x03 0 0 ((t.forwardRuns p.addr.toNat (min 2048 p.aux.toNat)).flatMap fun r => t.peekBytes r.1 r.2) := by
  unfold homeRead
  dsimp only
  rw [sound, if_neg Bool.false_ne_true, if_neg (not_not.mpr ok)]

/-- A read that is refused is answered with its code. -/
theorem homeRead_code (bad : t.admitCode x p.addr.toNat (min 2048 p.aux.toNat) false true ≠ 0) :
    ∃ n c, homeRead t p x k = { t with net := n, svc := c } ∧ AnswersPacket t (homeRead t p x k) p 0x03
      ((t.admitCode x p.addr.toNat (min 2048 p.aux.toNat) false true).setWidth 32) := by
  have run : homeRead t p x k = (t.admitLog x p.addr.toNat (min 2048 p.aux.toNat) false).sendAs
      (homePort (t.forwarded p.addr.toNat)) .readResp { answerTo p 0x03
        ((t.admitCode x p.addr.toNat (min 2048 p.aux.toNat) false true).setWidth 32) 0 with
        psn := t.admitCode x p.addr.toNat (min 2048 p.aux.toNat) false true == 0x07 } t.modid [] := by
    unfold homeRead
    dsimp only
    rw [sound, if_neg Bool.false_ne_true, if_pos bad, codeAux_sound sound, if_neg Bool.false_ne_true]
  have noted := noted_admitLog t x p.addr.toNat (min 2048 p.aux.toNat) false
  have replies : Replies p 0x03 ((t.admitCode x p.addr.toNat (min 2048 p.aux.toNat) false true).setWidth 32)
      { answerTo p 0x03 ((t.admitCode x p.addr.toNat (min 2048 p.aux.toNat) false true).setWidth 32) 0 with
        psn := t.admitCode x p.addr.toNat (min 2048 p.aux.toNat) false true == 0x07 } := ⟨rfl, rfl, rfl, rfl, rfl⟩
  generalize { answerTo p 0x03 ((t.admitCode x p.addr.toNat (min 2048 p.aux.toNat) false true).setWidth 32) 0 with
    psn := t.admitCode x p.addr.toNat (min 2048 p.aux.toNat) false true == 0x07 } = q at *
  generalize t.admitLog x p.addr.toNat (min 2048 p.aux.toNat) false = v at *
  obtain ⟨n, sent⟩ := sentBy_sendAs v (homePort (t.forwarded p.addr.toNat)) .readResp q t.modid []
  rw [run]
  refine ⟨n, v.svc, ?_, answers_sendAs noted.sameFabric replies t.modid [] (homePort (t.forwarded p.addr.toNat)) .readResp⟩
  obtain ⟨_, rfl⟩ := noted
  exact sent

/-- A decrement that is refused is answered with its code. -/
theorem homeCounter_code (type : BitVec 8) (bad : t.admitCode x p.addr.toNat 4 true true ≠ 0) :
    ∃ n c, homeCounter type t p x k = { t with net := n, svc := c } ∧
      AnswersPacket t (homeCounter type t p x k) p type ((t.admitCode x p.addr.toNat 4 true true).setWidth 32) := by
  have run : homeCounter type t p x k = (t.admitLog x p.addr.toNat 4 true).answerPacket p type
      ((t.admitCode x p.addr.toNat 4 true true).setWidth 32) 0 [] := by
    unfold homeCounter
    dsimp only
    rw [sound, if_neg Bool.false_ne_true, if_pos bad, codeAux_sound sound, if_neg Bool.false_ne_true]
  rw [run]
  exact answerPacket_noted (noted_admitLog ..) ..

theorem homeCounter_done (type : BitVec 8) (ok : t.admitCode x p.addr.toNat 4 true true = 0) :
    homeCounter type t p x k = (t.decrementAt (t.forwarded p.addr.toNat) (p.addr.setWidth 56)
      (p.opnd.setWidth 32)).answerLater t.net.nextMsg p (answerTo p type 0 0) [] := by
  unfold homeCounter
  dsimp only
  rw [sound, if_neg Bool.false_ne_true, if_neg (not_not.mpr ok)]

end Sound

/-- An at-memory operation that has been performed: it is counted when it succeeds, or a bad tag is logged. -/
def countedAtomic (t : State) (x : Context) (k : KeySlot) (p : Packet) : State :=
  let r := t.fabAtomic x k p
  let u := if r.code = 0x08 then r.state.logTag p else r.state
  if r.code = 0 then u.countRecv p 1 else u

theorem homeAtomic_done (room : t.countFull p = false) : homeAtomic t p x k =
    (countedAtomic t x k p).answerLater t.net.nextMsg p (answerTo p 0x06 (codeAux p (t.fabAtomic x k p).code) 0)
      [(p.addr.toNat / 64, BitVec.allOnes 64, padTo 64 ((t.fabAtomic x k p).data.take 64))] :=
  if_neg (ne_true_of_eq_false room)

theorem countedAtomic_spec (unmirrored : Unmirrored t) : (countedAtomic t x k p).mem = (t.fabAtomic x k p).state.mem ∧
    (countedAtomic t x k p).net = t.net ∧ SameFabric t (countedAtomic t x k p) := by
  have performed := performed_fabAtomic unmirrored x k p
  unfold countedAtomic
  dsimp only
  generalize t.fabAtomic x k p = r at *
  obtain ⟨mem, poisoned, contexts, svc, state⟩ := performed
  rw [state]
  split <;> split <;> exact ⟨rfl, rfl, rfl, rfl, rfl, rfl, rfl⟩

/-- An answer that leaves at once, whatever stands between the packet and it. -/
theorem answerLater_done {v : State} {q : Packet} {type : BitVec 8} {aux : BitVec 32} (same : SameFabric t v)
    (quiet : v.net.msgs = []) (replies : Replies p type aux q) (since : Nat)
    (lines : List (Nat × BitVec 64 × List Byte)) : ∃ n, v.answerLater since p q lines = { v with net := n } ∧
      AnswersPacket t (v.answerLater since p q lines) p type aux := by
  obtain ⟨n, sent⟩ := sentBy_answerLater (p := p) (q := q) quiet since lines
  exact ⟨n, sent, answers_answerLater same quiet replies since lines⟩

end Access

end Sys2Proof.PacketProofs
end

section
/-! PROOFS. An answer of another module at the unit that asked, and a packet at the gateway it leaves by (R294, R341,
R344, R348). -/

namespace Sys2Proof.PacketProofs

open Sys2Proof Sys2Proof.Machine Sys2Proof.Claim Sys2Proof.HomeProofs Sys2Proof.MessageProofs
  Sys2Proof.CheckpointProofs Sys2Proof.FabricProofs

/-! ### The answer and the access it is for -/

section Asker

variable {s : State} {a m : Msg} {p : Packet} (two : s.net.msgs = [a, m]) (apart : a.id ≠ m.id)
include two apart

-- Memory is bounded and each thread holds some: what stands before is checked before more is begun.
set_option Elab.async false in
theorem msg?_second : s.msg? m.id = some m := by simp [State.msg?, two, apart]

/-- An answer that is whole at its end has its turn: the access it is for is under way and waits there for nothing. -/
theorem received_second (occ : s.occ = .num m.id) (arrived : m.arrived = true) (home : m.dst = m.final)
    (away : a.arrived = false) {op : NetOp} (kind : m.op = op) (answers : op.answers = true) :
    s.received op = some m := by
  have first : s.before m = [a] := by simp [State.before, two, apart]
  have waits : a.waitsAt (corePort m.final.core) = false := by simp [Msg.waitsAt, away]
  have turn : s.turn m = true := by
    rw [State.turn, kind, answers, if_pos rfl, State.bankTaken, first]
    simp [waits]
  simp only [State.received, occ, msg?_second two apart, kind, arrived, home, turn, and_self, if_true]

/-- The event of an answer that the unit opens as a reply. -/
theorem exec_reply (occ : s.occ = .num m.id) (arrived : m.arrived = true) (home : m.dst = m.final)
    (away : a.arrived = false) (packet : m.packet = some p) (unit : m.final.isTrepin = false) {op : NetOp}
    (kind : m.op = op) (answers : op.answers = true) (opens : s.packetEnd m p = s.takeReply m p) {i : Instr}
    (run : exec i s = event (s.takeAnswer op)) :
    ∃ c, exec i s = .next { s.takeReply m p with activations := c } := by
  rw [State.takeAnswer, received_second two apart occ arrived home away kind answers] at run
  obtain ⟨c, took⟩ := takeMsg_packet packet unit (if m.psn then (s.dropMsg m.id).deliver m [] 0x07 .response
    else (s.dropMsg m.id).deliver m m.data m.status m.why)
  rw [opens] at took
  exact ⟨c, run.trans (congrArg event took)⟩

variable (answered : s.answered p = some a)
include answered

omit two apart in
theorem away_of_answered : a.away = true := by
  have found := List.find?_some answered
  simp only [Bool.and_eq_true] at found
  exact found.1

/-- The answer leaves the network, and the access stays. -/
theorem dropMsg_answer (arrived : m.arrived = true) : ∃ n, s.dropMsg m.id = { s with net := n } ∧ n.msgs = [a] := by
  have away := away_of_answered answered
  have rest : (s.net.msgs.filter fun x => x.id != m.id) = [a] := by simp [two, apart]
  have still : ∀ n : Net, n.msgs = [a] → State.relaunch { s with net := n } m.src = { s with net := n } := fun n one => by
    simp [State.relaunch, one, Msg.travels, away]
  unfold State.dropMsg
  rw [msg?_second two apart]
  dsimp only
  rw [rest, still _ rfl, Msg.travels, arrived]
  exact ⟨_, rfl, rfl⟩

omit two apart in
/-- The answer finds the access it is for. -/
theorem answered_alone {n : Net} (one : n.msgs = [a]) : State.answered { s with net := n } p = some a := by
  have found := List.find?_some answered
  show n.msgs.find? _ = some a
  rw [one]
  exact List.find?_cons_of_pos found

end Asker

/-! ### How an access ends (R343, R348) -/

section Ends

variable {s : State} {a : Msg} {q : Cmd} {e : Piece} (one : s.net.msgs = [a]) (couch : a.couch = false)
  (bare : a.bare = false) (unit : a.unit = false) (unmirrored : Unmirrored s)
include one couch bare unit unmirrored

/-- The access leaves the network, and its answer reaches its element. -/
theorem finishFabric_delivers (data : List Byte) (code : BitVec 8) (why : FaultWhy) (link : Word) : ∃ n c,
    s.finishFabric a data code why link = State.deliver { s with net := n, contexts := c }
      { a with op := a.op.answerOp } data code why ∧ n.msgs = [] ∧ Unmirrored { s with net := n, contexts := c } := by
  obtain ⟨n, dropped, none⟩ := emptied_dropMsg one
  have dirtied : Dirtied { s with net := n } (if mayHaveWritten code why then
      (fabWrites a).foldl (fun (t : State) w => t.remoteWrote a.asid w.1 w.2) { s with net := n } else { s with net := n }) := by
    split
    · exact dirtied_all (s := { s with net := n }) unmirrored ..
    · exact ⟨_, rfl, unmirrored⟩
  obtain ⟨c, wrote, clear⟩ := dirtied
  refine ⟨n, c, ?_, none, wrote ▸ clear⟩
  unfold State.finishFabric
  rw [dropped, couch, if_neg Bool.false_ne_true]
  dsimp only
  rw [wrote, bare, unit, if_neg (by simp), if_neg Bool.false_ne_true]

variable (serves : Serves s a q e)
include serves

/-- A code that says why the access was not made faults its element. -/
theorem finishFabric_fails {code : BitVec 8} (why : FaultWhy) (link : Word) (zero : code ≠ 0) (two : code ≠ 2)
    (pref : ∀ f, q.op ≠ .pref f) : ∃ n c, s.finishFabric a [] code why link =
      withCmd { s with net := n, contexts := c } (failed q e code why) ∧ n.msgs = [] := by
  obtain ⟨n, c, done, none, -⟩ := finishFabric_delivers one couch bare unit unmirrored [] code why link
  have serves' : Serves { s with net := n, contexts := c } { a with op := a.op.answerOp } q e :=
    ⟨serves.core, serves.running, serves.cmd, serves.pieces, serves.idx⟩
  exact ⟨n, c, done.trans (deliver_fails serves' _ _ zero two pref), none⟩

/-- A write that is acknowledged ends its element. -/
theorem finishFabric_writes (why : FaultWhy) (link : Word) {f : CpF} (copy : q.op = .copy f) (stage : e.stage = .writing) :
    ∃ n c, s.finishFabric a [] 0 why link = withCmd { s with net := n, contexts := c } (completed q e) ∧ n.msgs = [] := by
  obtain ⟨n, c, done, none, -⟩ := finishFabric_delivers one couch bare unit unmirrored [] 0 why link
  have serves' : Serves { s with net := n, contexts := c } { a with op := a.op.answerOp } q e :=
    ⟨serves.core, serves.running, serves.cmd, serves.pieces, serves.idx⟩
  refine ⟨n, c, done.trans ?_, none⟩
  rw [deliver_takes serves', takeData_writing serves' copy stage]
  exact pumpCore_completed (s := { s with net := n, contexts := c })

/-- Data that is read for a copy into the core's scratchpad lies there, and the element is done. -/
theorem finishFabric_reads (data : List Byte) (why : FaultWhy) (link : Word) {f : CpF} (copy : q.op = .copy f)
    (stage : e.stage = .reading) (out : e.out = none) {b : Nat} (dst : e.dst = .spad b)
    (same : Nest.fmtCode q.nest false = Nest.fmtCode q.nest true) (whole : nestWidth q.nest true % 8 = 0) :
    ∃ n c, s.finishFabric a data 0 why link = withCmd (State.store { s with net := n, contexts := c }
      (cellsFrom (spadBase s.core.id + b / 8) (data.take (nestWidth q.nest true / 8)))) (completed q e) ∧ n.msgs = [] ∧
      Unmirrored { s with net := n, contexts := c } := by
  obtain ⟨n, c, done, none, clear⟩ := finishFabric_delivers one couch bare unit unmirrored data 0 why link
  have serves' : Serves { s with net := n, contexts := c } { a with op := a.op.answerOp } q e :=
    ⟨serves.core, serves.running, serves.cmd, serves.pieces, serves.idx⟩
  refine ⟨n, c, done.trans ?_, none, clear⟩
  rw [deliver_takes serves', takeData_reading serves' clear copy stage out dst same whole]
  exact pumpCore_stored (s := { s with net := n, contexts := c }) clear _

end Ends

/-! ### The answers of a type (R343 to R348) -/

section Reply

variable {s : State} {a m : Msg} {p : Packet} {k : KeySlot} {n : Net} (dropped : s.dropMsg m.id = { s with net := n })
  (answered : State.answered { s with net := n } p = some a) (whole : m.psn = false)
  (sealed : bareRefusal p = false) (key : s.recvKey p = some k)
include dropped answered whole sealed key

/-- An acknowledgement that asks for no retry ends an access of one packet. -/
theorem takeReply_ack (type : p.type = 4) (first : a.status = 0) (single : a.replicas ≤ 1) (code : p.aux.toNat < 256) :
    s.takeReply m p = State.finishFabric { s with net := n } a [] (p.aux.setWidth 8) (answerWhy p (p.aux.setWidth 8))
      p.opnd := by
  have retry : ¬ (p.aux = auxCountFull ∨ p.aux = auxLandingFull) := by
    rintro (h | h) <;> rw [h] at code <;> revert code <;> decide
  unfold State.takeReply
  rw [dropped]
  dsimp only
  rw [answered]
  dsimp only
  rw [whole, if_neg Bool.false_ne_true, sealed, if_neg Bool.false_ne_true, show State.recvKey { s with net := n } p = _ from key,
    type]
  show ackOf _ a p = _
  unfold ackOf
  rw [if_neg retry]
  dsimp only
  rw [if_neg (not_not.mpr first), if_neg (not_not.mpr first), if_pos (by omega)]

theorem takeReply_fence (type : p.type = 8) : s.takeReply m p =
    State.finishFabric { s with net := n } a [] (p.aux.setWidth 8) (answerWhy p (p.aux.setWidth 8)) := by
  unfold State.takeReply
  rw [dropped]
  dsimp only
  rw [answered]
  dsimp only
  rw [whole, if_neg Bool.false_ne_true, sealed, if_neg Bool.false_ne_true, show State.recvKey { s with net := n } p = _ from key,
    type]
  rfl

theorem takeReply_read (type : p.type = 3) (ok : p.aux = 0) (sound : p.psn = false) (lines : linesOk k p p.smod = true) :
    s.takeReply m p = State.finishFabric { s with net := n } a ((plainCells k p p.smod).map (·.2)) 0 .home := by
  have data : State.answerData { s with net := n } a k p =
      ({ s with net := n }, (plainCells k p p.smod).map (·.2), 0, .home) := by
    unfold State.answerData
    dsimp only
    rw [ok, sound, lines]
    rfl
  unfold State.takeReply
  rw [dropped]
  dsimp only
  rw [answered]
  dsimp only
  rw [whole, if_neg Bool.false_ne_true, sealed, if_neg Bool.false_ne_true, show State.recvKey { s with net := n } p = _ from key,
    type]
  dsimp only
  rw [data]
  rfl

end Reply

/-! ### A packet at the gateway it leaves by (R307, R341) -/

/-- A packet that no access waits for leaves, and the message that brought it is gone. -/
theorem takeMsg_leaves {s : State} {m : Msg} {p : Packet} (packet : m.packet = some p) (gateway : m.final.isTrepin = true)
    (none : m.pid = none) (whole : m.psn = false) (one : s.net.msgs = [m]) (home : State) : ∃ n,
      s.takeMsg m home = { s.emitBy m.final.trepin p with net := n } ∧ n.msgs = [] := by
  have still : (s.emitBy m.final.trepin p).net = s.net := by
    unfold State.emitBy
    split
    · rfl
    · split <;> rfl
  obtain ⟨n, dropped, gone⟩ := emptied_dropMsg (s := s.emitBy m.final.trepin p) (m := m) (by rw [still, one])
  refine ⟨n, ?_, gone⟩
  unfold State.takeMsg
  rw [packet]
  dsimp only
  rw [gateway, if_pos rfl]
  unfold State.takeOver
  rw [whole, if_neg Bool.false_ne_true, none]
  exact dropped

/-- A packet to another module leaves by its port alone. -/
theorem emitBy_other {s : State} {port : BitVec 4} {p : Packet} (other : p.dmod ≠ s.modid) (up : (s.link port).up = true) :
    (s.emitBy port p).mem = s.mem ∧
      (s.emitBy port p).link port = (packetFlits p).foldl LinkState.sendFlit (s.link port) ∧
      ∀ j, j ≠ port → (s.emitBy port p).link j = s.link j := by
  have out : s.emitBy port p = s.updLink port fun l => (packetFlits p).foldl LinkState.sendFlit l :=
    (if_neg other).trans (if_pos up)
  rw [out]
  exact ⟨rfl, LinkProofs.link_updLink_same .., fun j ne => (LinkProofs.link_updLink ..).trans (if_neg ne)⟩

end Sys2Proof.PacketProofs
end

section
/-! PROOFS. The events of packets, at the gateway, at the home unit and at the unit that asked (R343 to R349). -/

namespace Sys2Proof.PacketProofs

open Sys2Proof Sys2Proof.Machine Sys2Proof.Claim Sys2Proof.ReleaseProofs Sys2Proof.StackProofs
  Sys2Proof.HomeProofs Sys2Proof.MessageProofs Sys2Proof.CheckpointProofs

/-- Settles O49: what a gateway admits travels as it came, and the unit it is for performs it and answers it. -/
theorem packetEvents : Obligations.PacketEvents := by
  unfold Obligations.PacketEvents
  refine ⟨?gate, ?ends⟩
  case gate =>
    intro s p occ waits events logged
    refine ⟨fun reserved e mem type => ⟨_, exec_reserved occ waits reserved mem type, rfl, rfl, logged_addLog .., rfl⟩,
      fun t x k admitted => ?_⟩
    intro sent home requests
    obtain rfl := gate_admits admitted
    refine ⟨fun e mem type asks => ?request, fun type => ?fence, fun type notice init ask => ?barrier,
      fun m answered sealed e mem type answers => ?answer⟩
    case request =>
      obtain ⟨run, kind⟩ := exec_request occ waits admitted mem type asks
      obtain ⟨mem, core, y, last, op, route⟩ := toHome_sent (s := s) (t := s.takeOut p) ⟨_, _, rfl⟩ (s.portFor p) x p
      exact ⟨_, run, mem, core, y, last, op.trans kind, route⟩
    case fence =>
      intro mask reset code
      have resets : ∀ u, u.fab.recv = (fenceReset (s.takeOut p) p).fab.recv → reset u := fun u recv e => by
        rw [recv]
        exact mem_fenceReset e
      refine ⟨fun same ok => ?_, fun other => ?_, fun same bad => ?_⟩
      · have run := (fence_same occ waits admitted type same).trans (congrArg _ (if_neg (not_not.mpr ok)))
        obtain ⟨mem, core, y, last, op, route⟩ := toHome_sent (s := s) (t := fenceReset (s.takeOut p) p) ⟨_, _, rfl⟩
          (s.portFor p) x p
        have kind : homeOp p = .counter := by rw [homeOp, type]; rfl
        obtain ⟨n, sent⟩ := sentBy_toHome (fenceReset (s.takeOut p) p) (s.portFor p) x p
        exact ⟨_, run, ⟨mem, core, y, last, op.trans kind, route⟩, resets _ (congrArg (·.fab.recv) sent)⟩
      · have run := fence_differs occ waits admitted type other
        have answer : AnswersPacket (s.takeOut p) _ p 8 _ := answers_answerFrom (t := (fenceReset (s.takeOut p) p).logFabric
          (portUnit (s.portFor p)) 0x03 p.smod p.addr.toNat) ⟨rfl, rfl, rfl, rfl, rfl⟩ (trepinPort (s.portFor p)) p 0x08
          (if fenceCode x p = 0 then 3 else (fenceCode x p).setWidth 32) 0 []
        obtain ⟨n, sent⟩ := sentBy_answerFrom ((fenceReset (s.takeOut p) p).logFabric (portUnit (s.portFor p)) 0x03 p.smod
          p.addr.toNat) (trepinPort (s.portFor p)) p 0x08 (if fenceCode x p = 0 then 3 else (fenceCode x p).setWidth 32) 0 []
        rw [sent] at run answer
        exact ⟨_, run, rfl, rfl, resets _ rfl, logged_addLog (fenceReset (s.takeOut p) p) .., answer⟩
      · have run := (fence_same occ waits admitted type same).trans (congrArg _ (if_pos bad))
        have answer : AnswersPacket (s.takeOut p) _ p 8 _ := answers_answerFrom (t := fenceReset (s.takeOut p) p)
          ⟨rfl, rfl, rfl, rfl, rfl⟩ (trepinPort (s.portFor p)) p 0x08 ((fenceCode x p).setWidth 32) 0 []
        obtain ⟨n, sent⟩ := sentBy_answerFrom (fenceReset (s.takeOut p) p) (trepinPort (s.portFor p)) p 0x08
          ((fenceCode x p).setWidth 32) 0 []
        rw [sent] at run answer
        exact ⟨_, run, rfl, rfl, resets _ rfl, answer⟩
    case barrier =>
      refine (exec_takes occ waits (f := takeBarrier) rfl type).trans (congrArg Host.Outcome.next ?_)
      unfold takeBarrier
      rw [admitted]
      dsimp only
      rw [notice, init, ask]
      rfl
    case answer => exact ⟨_, exec_answer occ waits admitted answered sealed mem type answers,
        toAsker_sent (s := s) (t := s.takeOut p) ⟨_, _, rfl⟩ (s.portFor p) m p⟩
  case ends =>
    intro s n m p occ id arrived home packet whole sound t
    subst id
    refine ⟨fun x k one unit unmirrored known key => ?home, ?asker, ?leaves⟩
    case home =>
      intro cells refused
      have atEnd : AtEnd s m := ⟨occ, one, arrived, home⟩
      obtain ⟨net, dropped, quiet⟩ := emptied_dropMsg one
      have emptied : t = { s with net := net } := dropped
      have clear : Unmirrored t := emptied ▸ unmirrored
      have none : t.net.msgs = [] := by rw [emptied]; exact quiet
      refine ⟨fun sched kind type => ?write, fun kind type => ?read, fun kind type room => ?atomic,
        fun e mem kind type => ?counter⟩
      case write =>
        have serves : s.packetEnd m p = s.atHome m p fun t p x k => homeWrite sched (t.dropMsg m.id) p x k := by
          unfold State.packetEnd
          rw [type]
          cases sched <;> rfl
        have run : exec .netWrite s = event (s.takeMsg m (s.serveWrite m)) := by
          show execNetWrite s = _
          rw [execNetWrite, atEnd.received_eq kind]
        obtain ⟨a, run⟩ := exec_home packet known key whole unit serves run
        refine ⟨fun bad => ?_, fun ok full => ?_, fun ok room is full => ?_, fun ok room lands => ?_⟩
        · obtain ⟨n, c, done, answer⟩ := homeWrite_code sched sound bad
          rw [done] at run answer
          exact ⟨_, run, by rw [emptied], by rw [emptied], by rw [emptied], answer⟩
        · obtain ⟨n, c, done, answer⟩ := answerPacket_noted (.refl t) p 0x04 auxCountFull 0 []
          rw [homeWrite_countFull sched ok full, done] at run
          rw [done] at answer
          exact ⟨_, run, by rw [emptied], by rw [emptied], by rw [emptied], answer⟩
        · obtain ⟨n, c, done, answer⟩ := answerPacket_noted (.refl t) p 0x04 auxLandingFull 0 []
          rw [is, homeWrite_landingFull ok room full, done] at run
          rw [done] at answer
          exact ⟨_, run, by rw [emptied], by rw [emptied], by rw [emptied], answer⟩
        · obtain ⟨still, same⟩ := written_net (k := k) (p := p) sched clear
          obtain ⟨n, sent, answer⟩ := answerLater_done same (by rw [still, none]) (replies_answerTo p 0x04 0 0)
            t.net.nextMsg []
          rw [homeWrite_done sched ok room lands, sent] at run
          rw [sent] at answer
          have memory := written_mem (k := k) (p := p) sched clear
          refine ⟨_, run, memory.trans (by rw [emptied]; rfl), answer, fun scheduled => ?_⟩
          subst scheduled
          exact land_entry (t.store (writtenCells t k p)) p (writtenCells t k p)
      case read =>
        have serves : s.packetEnd m p = s.atHome m p fun t p x k => homeRead (t.dropMsg m.id) p x k := by
          unfold State.packetEnd
          rw [type]
          rfl
        have run : exec .netReadRequest s = event ((homeRead t p x k).activate (s.places m)) := by
          show execNetReadRequest s = _
          rw [execNetReadRequest, atEnd.received_eq kind]
          refine congrArg event ((takeMsg_asks packet unit (by rw [kind]; rfl) _).trans ?_)
          rw [packetEnd_eq known key whole serves]
        intro b
        refine ⟨fun ok => ?_, fun bad => ?_⟩
        · rw [homeRead_done sound ok] at run
          exact run
        · obtain ⟨n, c, done, answer⟩ := homeRead_code (k := k) sound bad
          obtain ⟨a, active⟩ := activate_frame (s.places m) (homeRead t p x k)
          rw [active, done] at run
          rw [done] at answer
          exact ⟨_, run, by rw [emptied], by rw [emptied], answer⟩
      case atomic =>
        have serves : s.packetEnd m p = s.atHome m p fun t p x k => homeAtomic (t.dropMsg m.id) p x k := by
          unfold State.packetEnd
          rw [type]
          rfl
        have run : exec .unmergeableAtMemoryOperation s = event (s.takeMsg m (s.serveAtomic m)) := by
          show execUnmergeableAtMemoryOperation s = _
          rw [execUnmergeableAtMemoryOperation, atEnd.received_eq kind]
        obtain ⟨a, run⟩ := exec_home packet known key whole unit serves run
        obtain ⟨memory, still, same⟩ := countedAtomic_spec (x := x) (k := k) (p := p) clear
        obtain ⟨n, sent, answer⟩ := answerLater_done same (by rw [still, none])
          (replies_answerTo p 0x06 (codeAux p (t.fabAtomic x k p).code) 0) t.net.nextMsg
          [(p.addr.toNat / 64, BitVec.allOnes 64, padTo 64 ((t.fabAtomic x k p).data.take 64))]
        rw [homeAtomic_done room, sent] at run
        rw [sent, codeAux_sound sound] at answer
        exact ⟨_, run, memory, answer⟩
      case counter =>
        have serves : s.packetEnd m p = s.atHome m p fun t p x k => homeCounter e.2 (t.dropMsg m.id) p x k := by
          simp only [List.mem_cons, List.not_mem_nil, or_false] at mem
          unfold State.packetEnd
          rw [type]
          obtain rfl | rfl := mem <;> rfl
        have run : exec .counterDecrement s = event (s.takeMsg m (s.serveCounter m)) := by
          show execCounterDecrement s = _
          rw [execCounterDecrement, atEnd.received_eq kind]
        obtain ⟨a, run⟩ := exec_home packet known key whole unit serves run
        intro code
        refine ⟨fun bad => ?_, fun ok => ?_⟩
        · obtain ⟨n, c, done, answer⟩ := homeCounter_code (k := k) sound e.2 bad
          rw [done] at run answer
          exact ⟨_, run, by rw [emptied], answer⟩
        · have off := (OffNet.refl clear).decrementAt (t.forwarded p.addr.toNat) (p.addr.setWidth 56) (p.opnd.setWidth 32)
          obtain ⟨n, sent, answer⟩ := answerLater_done off.sameFabric (by rw [off.net, none])
            (replies_answerTo p e.2 0 0) t.net.nextMsg []
          rw [homeCounter_done sound e.2 ok, sent] at run
          rw [sent] at answer
          exact ⟨_, run, rfl, answer⟩
    case asker =>
      intro a q e k two apart away answered couch unit' bare single first home' sealed key parked core running cmd pieces
        idx unmirrored done
      obtain ⟨n, dropped, one⟩ := dropMsg_answer two apart answered arrived
      have answered' := answered_alone answered one
      have serves : Serves { s with net := n } a q e := ⟨core, running, cmd, pieces, idx⟩
      refine ⟨fun type mem kind is => ?acknowledged, fun kind type ok lines asked wf copy stage out b dst same width => ?read⟩
      case acknowledged =>
        have opens : s.packetEnd m p = s.takeReply m p := by
          simp only [List.mem_cons, List.not_mem_nil, or_false] at mem
          unfold State.packetEnd
          rw [is]
          obtain rfl | rfl := mem <;> rfl
        obtain ⟨c, run⟩ := exec_reply (i := .netWriteAcknowledgement) two apart occ arrived home away packet home' kind rfl opens
          rfl
        have finish : p.aux.toNat < 256 → ∃ link, s.takeReply m p = State.finishFabric { s with net := n } a []
            (p.aux.setWidth 8) (answerWhy p (p.aux.setWidth 8)) link := by
          intro code
          simp only [List.mem_cons, List.not_mem_nil, or_false] at mem
          obtain rfl | rfl := mem
          · exact ⟨_, takeReply_ack dropped answered' whole sealed key is first single code⟩
          · exact ⟨_, takeReply_fence dropped answered' whole sealed key is⟩
        refine ⟨fun low high pref => ?_, fun zero write copy stage => ?_⟩
        · have value : (p.aux.setWidth 8).toNat = p.aux.toNat := by
            rw [BitVec.toNat_setWidth, Nat.mod_eq_of_lt high]
          obtain ⟨link, replied⟩ := finish high
          obtain ⟨n', x, failed, none⟩ := finishFabric_fails (s := { s with net := n }) one couch bare unit' unmirrored serves
            (code := p.aux.setWidth 8) (answerWhy p (p.aux.setWidth 8)) link
            (fun h => by rw [h] at value; simp at value; omega) (fun h => by rw [h] at value; simp at value; omega) pref
          rw [replied, failed] at run
          exact ⟨_, run, none, rfl, rfl⟩
        · obtain ⟨f, copy⟩ := copy
          obtain ⟨link, replied⟩ := finish (by rw [zero]; decide)
          have code : p.aux.setWidth 8 = (0 : BitVec 8) := by rw [zero]; rfl
          obtain ⟨n', x, written, none⟩ := finishFabric_writes (s := { s with net := n }) one couch bare unit' unmirrored
            serves (answerWhy p (p.aux.setWidth 8)) link copy stage
          rw [replied, code] at run
          rw [code] at written
          rw [written] at run
          exact ⟨_, run, ⟨none, rfl⟩, rfl⟩
      case read =>
        intro data
        have opens : s.packetEnd m p = s.takeReply m p := by
          unfold State.packetEnd
          rw [type]
          rfl
        obtain ⟨c, run⟩ := exec_reply (i := .netReadResponse) two apart occ arrived home away packet home' kind rfl opens rfl
        obtain ⟨f, copy⟩ := copy
        obtain ⟨n', x, read, none, clear⟩ := finishFabric_reads (s := { s with net := n }) one couch bare unit' unmirrored
          serves ((plainCells k p p.smod).map (·.2)) .home 0 copy stage out dst same width
        rw [takeReply_read dropped answered' whole sealed key type ok sound lines, read] at run
        have frame := store_of_unmirrored clear (cellsFrom (spadBase s.core.id + b / 8) data)
        have bytes := peek_store_run (s := { s with net := n', contexts := x }) wf clear (spadBase s.core.id + b / 8) data
        exact ⟨_, run, ⟨(congrArg (·.net.msgs) frame).trans none, rfl⟩, bytes⟩
    case leaves =>
      intro one gateway noPid kind port
      have atEnd : AtEnd s m := ⟨occ, one, arrived, home⟩
      have run : exec .netWrite s = event (s.takeMsg m (s.serveWrite m)) := by
        show execNetWrite s = _
        rw [execNetWrite, atEnd.received_eq kind]
      obtain ⟨n, left, none⟩ := takeMsg_leaves packet gateway noPid whole one (s.serveWrite m)
      rw [left] at run
      refine ⟨fun here => ?_, fun other up => ?_⟩
      · rw [State.emitBy, if_pos here] at run
        exact ⟨_, run, none, rfl, rfl⟩
      · obtain ⟨mem, sends, others⟩ := emitBy_other other up
        exact ⟨_, run, none, mem, sends, others⟩

end Sys2Proof.PacketProofs
end
